-- ==== Sys2Proof/Word.lean ====
section
/-!
DEFINITION. Word types, bit fields, byte lists and the sparse map that every table of the model is held in.
-/
namespace Sys2Proof

abbrev Byte := BitVec 8
/-- The value of one dictionary object: at most 128 bits (17, R381). -/
abbrev Obj := BitVec 128

/-- Bits [lo + w - 1 : lo] of a value, as a number (00, R8). -/
abbrev bitsOf {n : Nat} (v : BitVec n) (lo w : Nat) : Nat := (v.extractLsb' lo w).toNat

/-- A sparse table by natural key: keys strictly rising, and no entry equal to the default `d`. -/
abbrev SMap (α : Type) := List (Nat × α)

end Sys2Proof
end

