-- ==== Sys2Proof/Syntax.lean ====
section
/-!
DEFINITION. The commands of the block: one constructor of `Instr` for each row of spec/opcode_table.json, and the data its operands are made of.
-/
namespace Sys2Proof

/-- The two parts of the fabric (00, "The two parts"). -/
inductive Part where
  | oe36
  | ox720
deriving DecidableEq, Repr

/-- The two management masters (17): the field bus and PCIe (on an OE36 the accelerator's management path). -/
inductive Master where
  | fieldBus
  | pcie
deriving DecidableEq, Repr

/-- A packet (06, R110): four header words and, for a long packet, a 256-byte payload (a short packet has none). -/
structure Packet where
  w0 : BitVec 64
  w1 : BitVec 64
  w2 : BitVec 64
  w3 : BitVec 64
  payload : List Byte
deriving DecidableEq, Repr

/-- How a request reached a home: over the crew link of a plane, or from the endpoint itself (R43). -/
inductive Via where
  | plane (p : BitVec 4)
  | selfServed
deriving DecidableEq, Repr

/-- How accelerator memory answered a MEM_RD: data, data with poison (R365), or an error (R51). -/
inductive MemStatus where
  | ok
  | poison
  | error
deriving DecidableEq, Repr

/-- What the load/store requests that name an address have in common (R44, R88): the tag the answer will carry (R92), the aperture offset's context and FVA, ORD and CH. -/
structure UReq where
  tag : BitVec 13
  ctx : BitVec 6
  fva : BitVec 52
  size : BitVec 9
  ord : Bool
  ch : BitVec 4
deriving DecidableEq, Repr

/-- A fence in progress: a FENCE descriptor of a queue, or a load/store FENCE request (R73). -/
inductive FenceRef where
  | desc (queue : BitVec 10) (n : BitVec 16)
  | ls (tag : BitVec 13)
deriving DecidableEq, Repr

/-- The structure an uncorrectable SRAM error strikes (R363, with the fields that say which instance). -/
inductive Struck where
  | cellPayload (cell : BitVec 19)
  | cellHeader (cell : BitVec 19)
  | tileMemory (group : BitVec 4) (block : BitVec 32)
  | replayWord (pp : BitVec 7)
  | tlbEntry (ctx : BitVec 6) (granule : BitVec 23)
  | dirEntry (line : BitVec 33)
  | control
deriving DecidableEq, Repr

/-- A Haoth request frame (R390), header fields and body slots already separated: the source MAC address, TID, TARGET and the objects named. -/
structure HaothReq where
  src : BitVec 48
  tid : BitVec 16
  target : BitVec 16
  index : BitVec 16
  sub : BitVec 8
  count : BitVec 8
deriving DecidableEq, Repr

/-- How a write of COMMIT_CMD comes: over a master's window, or in a COMMIT frame of the field bus (R391). -/
inductive CommitVia where
  | window (m : Master)
  | frame (r : HaothReq) (group : BitVec 16) (catchAt : BitVec 48)
deriving DecidableEq, Repr

/-- One constructor for each row of the opcode table: those with operands in the table's order, then those without. -/
inductive Instr where
  -- translation (03)
  | walkReadDone (ctx : BitVec 6) (granule : BitVec 23) (value : BitVec 64) (st : MemStatus) (inj : Bool)
  | invalCmd (m : Master) (v : BitVec 64)
  | faultCons (m : Master) (v : BitVec 16)
  -- UCIe requests of the accelerator (05)
  | ucieRead (r : UReq)
  | ucieWrite (r : UReq) (mask : BitVec 256) (data : List Byte)
  | ucieAtomic (r : UReq) (op typ : BitVec 4) (operand compare : BitVec 64)
  | ucieFence (tag : BitVec 13)
  | ucieRdShared (r : UReq)
  | ucieRdOwn (r : UReq)
  | ucieUpgrade (r : UReq)
  | ucieWriteback (r : UReq) (data : List Byte) (poison : Bool)
  | ucieEvictClean (r : UReq)
  | ucieSnoopReply (home : BitVec 7) (tag : BitVec 14) (dirty : Bool) (data : List Byte) (poison : Bool)
  | dbWrite (q : BitVec 10) (tail : BitVec 16)
  | doorbell (m : Master) (q : BitVec 10) (tail : BitVec 16)
  | ctrRead (tag : BitVec 13) (offset : BitVec 16) (size : BitVec 9)
  | memRdResponse (id : BitVec 32) (data : List Byte) (st : MemStatus) (inj : Bool)
  | memWrAck (id : BitVec 32)
  -- queues and descriptors (05); `list`, `ext`, `header` and `sealedBytes` are what the sender says the memory of the descriptor holds: the engine reads that memory itself (R102, R104, R224) and nothing depends on them
  | descriptorFetch (q : BitVec 10)
  | tileCopy (q : BitVec 10)
  | fill (q : BitVec 10)
  | atomicBatch (q : BitVec 10) (list : List Byte)
  | collectiveLaunch (q : BitVec 10) (ext : List Byte)
  | handoffDescriptor (q : BitVec 10)
  | queueFence (q : BitVec 10)
  | endpointFence (q : BitVec 10)
  | counterOpAdd (q : BitVec 10)
  | counterOpSet (q : BitVec 10)
  | remoteAdd (q : BitVec 10) (tag : BitVec 14)
  | decryptCopy (q : BitVec 10) (header : List Byte)
  | tileBurstIssue (q : BitVec 10) (n : BitVec 16) (tag : BitVec 14)
  | decryptSegment (q : BitVec 10) (n : BitVec 16) (sealedBytes : List Byte)
  | handoffRelease (q : BitVec 10) (n : BitVec 16) (tag : BitVec 14)
  | fenceComplete (f : FenceRef)
  | descriptorComplete (q : BitVec 10) (n : BitVec 16)
  | restart (m : Master) (q : BitVec 10)
  | abort (m : Master) (q : BitVec 10)
  | cqCons (m : Master) (q : BitVec 10) (v : BitVec 16)
  -- requests at the home (04, 06)
  | rd (via : Via) (p : Packet)
  | wr (via : Via) (p : Packet)
  | wrmMask (via : Via) (p : Packet)
  | wrmData (via : Via) (p : Packet)
  | atomic (via : Via) (p : Packet)
  | atomicCas (via : Via) (p : Packet)
  | accWr (via : Via) (p : Packet)
  | ctrAdd (via : Via) (p : Packet)
  | handoff (via : Via) (p : Packet)
  | handoffApply (region : BitVec 11)
  | rdShared (via : Via) (p : Packet)
  | rdOwn (via : Via) (p : Packet)
  | upgrade (via : Via) (p : Packet)
  | writeback (via : Via) (p : Packet)
  | evictClean (via : Via) (p : Packet)
  | snoopAck (via : Via) (p : Packet)
  | snoopData (via : Via) (p : Packet)
  | snoopTimeout (line : BitVec 33) (member : BitVec 3) (inj : Bool)
  -- answers at the issuer (04, 05, 06)
  | rdData (via : Via) (p : Packet)
  | ack (via : Via) (p : Packet)
  | atomicResp (via : Via) (p : Packet)
  | lineData (via : Via) (p : Packet)
  | snoopInv (via : Via) (p : Packet)
  | snoopShare (via : Via) (p : Packet)
  | nack (plane : BitVec 4) (p : Packet)
  | reach (plane : BitVec 4) (p : Packet)
  | channelRepin (dst : BitVec 7) (ch : BitVec 4) (tenant : BitVec 8)
  -- the switch core (06, 07)
  | crewPortIngress (port : BitVec 7) (p : Packet)
  | hallPortIngress (hp : BitVec 4) (p : Packet)
  | packetTransmit (part : Part) (pp : BitVec 7) (net : BitVec 3)
  | spillRefill (inst : BitVec 8)
  | stallLimitExpiry (part : Part) (inst : BitVec 8) (m : Master)
  | fciChange (k : BitVec 3) (high : Bool)
  | shaperSlot (part : Part) (hp : BitVec 4)
  | policerRefill (hp : BitVec 4)
  -- recovery of the sweep array (09)
  | blockRelease (g : BitVec 4) (ctx : BitVec 12) (block : BitVec 32) (bad : Bool) (pos : BitVec 3) (inj : Bool)
  | recomputeDone (g : BitVec 4) (ctx : BitVec 12) (block : BitVec 32) (bad : Bool)
  | fenceMask (mask : BitVec 104)
  -- collectives (10)
  | collChunkSend (ctx : BitVec 12) (plane : BitVec 4) (pre : Bool) (data : List Byte) (poison : Bool)
  | contrib (p : Packet)
  | prepass (p : Packet)
  | chunkLand (g : BitVec 4) (inj : Bool)
  | collTimeout (ctx : BitVec 12)
  | result (plane : BitVec 4) (p : Packet)
  | complete (plane : BitVec 4) (p : Packet)
  | resendReq (plane : BitVec 4) (p : Packet)
  | release (plane : BitVec 4) (p : Packet)
  | mirror (p : Packet)
  -- the stroke engine (11)
  | vNop (g : BitVec 4) (gop : BitVec 24)
  | vAdd (g : BitVec 4) (gop : BitVec 24)
  | vMul (g : BitVec 4) (gop : BitVec 24)
  | vFma (g : BitVec 4) (gop : BitVec 24)
  | vMin (g : BitVec 4) (gop : BitVec 24)
  | vMax (g : BitVec 4) (gop : BitVec 24)
  | vCmp (g : BitVec 4) (gop : BitVec 24)
  | vCvt (g : BitVec 4) (gop : BitVec 24)
  | vScale (g : BitVec 4) (gop : BitVec 24)
  | vClamp (g : BitVec 4) (gop : BitVec 24)
  | vRsqrt (g : BitVec 4) (gop : BitVec 24)
  | vSign (g : BitVec 4) (gop : BitVec 24)
  | vAnd (g : BitVec 4) (gop : BitVec 24)
  | vOr (g : BitVec 4) (gop : BitVec 24)
  | vXor (g : BitVec 4) (gop : BitVec 24)
  | vExpmax (g : BitVec 4) (gop : BitVec 24)
  | vAxcvt (g : BitVec 4) (gop : BitVec 24)
  | vAxadd (g : BitVec 4) (gop : BitVec 24)
  | vAxout (g : BitVec 4) (gop : BitVec 24)
  | vIsum (g : BitVec 4) (gop : BitVec 24)
  | vMma (g : BitVec 4) (gop : BitVec 24)
  | bind (g : BitVec 4) (garg : BitVec 23)
  | seek (g : BitVec 4) (garg : BitVec 23)
  | bhptr (g : BitVec 4) (garg : BitVec 23)
  | ksel (g : BitVec 4) (garg : BitVec 23)
  | lopBegin (larg : BitVec 16)
  | lopJump (larg : BitVec 16)
  | steerEn (sport : BitVec 4) (spos : BitVec 2)
  | annEn (ann : BitVec 2)
  | sen (sid : BitVec 6)
  | bhFetchDone (g : BitVec 4) (uncorrectable : Bool) (inj : Bool)
  -- crew links, the bridge and the link layer of hall ports (12)
  | farEndPresent (part : Part) (pp : BitVec 7) (lanes : BitVec 20)
  | presencePulse (part : Part) (pp : BitVec 7)
  | trainComplete (part : Part) (pp : BitVec 7) (lanes : BitVec 20)
  | lockComplete (part : Part) (pp : BitVec 7) (skewNs : BitVec 16)
  | launchTimeout (part : Part) (pp : BitVec 7)
  | exch (part : Part) (pp : BitVec 7) (frag : BitVec 2) (bytes : List Byte)
  | exchAck (part : Part) (pp : BitVec 7) (received pass : Bool)
  | exchResend (part : Part) (pp : BitVec 7)
  | keyx (part : Part) (pp : BitVec 7) (frag : BitVec 7) (last : Bool) (bytes : List Byte)
  | flitGroup (part : Part) (pp : BitVec 7) (bytes : List Byte) (codewords : List (Option (List (BitVec 5)))) (uncorrectable : Bool) (inj : Bool)
  | ackFlit (part : Part) (pp : BitVec 7) (count : BitVec 16)
  | nak (part : Part) (pp : BitVec 7) (next : BitVec 16)
  | replay (part : Part) (pp : BitVec 7) (first : BitVec 16)
  | credit (part : Part) (pp : BitVec 7) (counts : List (BitVec 16))
  | ackTimer (part : Part) (pp : BitVec 7)
  | creditTimer (part : Part) (pp : BitVec 7)
  | laneMarker (part : Part) (pp : BitVec 7) (lane : BitVec 5) (marker : BitVec 320) (onTime : Bool)
  | laneLossOfLock (part : Part) (pp : BitVec 7) (lane : BitVec 5) (inj : Bool)
  | laneErrorLimit (part : Part) (pp : BitVec 7) (lane : BitVec 5) (symbols : BitVec 32) (inj : Bool)
  | spareSwap (part : Part) (pp : BitVec 7) (logical phys : BitVec 5)
  | spareSwapAck (part : Part) (pp : BitVec 7) (logical phys : BitVec 5) (cw mcount : BitVec 16)
  | spareSwapCodeword (part : Part) (pp : BitVec 7) (receiver : Bool)
  | keepalive (part : Part) (pp : BitVec 7) (inj : Bool)
  | linkDown (part : Part) (pp : BitVec 7) (cause : BitVec 3)
  | featherEntry (part : Part) (pp : BitVec 7)
  | feather (part : Part) (pp : BitVec 7)
  | featherExit (part : Part) (pp : BitVec 7)
  | dock (part : Part) (pp : BitVec 7)
  | dockFlit (part : Part) (pp : BitVec 7) (ackn : Bool)
  | dockTimeout (part : Part) (pp : BitVec 7)
  | dockClear (part : Part) (pp : BitVec 7)
  | ergo (part : Part) (pp : BitVec 7) (mode : BitVec 2)
  | ergoDone (part : Part) (pp : BitVec 7) (bits errors : BitVec 64)
  | relaunch (part : Part) (pp : BitVec 7)
  -- optical hall ports (13)
  | linePowerMeasure (powers : List (BitVec 16)) (inj : Bool)
  | combPresenceChange (present : Bool) (advertised : BitVec 18)
  | combInt (flags : BitVec 64)
  | combPoll (flags : BitVec 64) (ready : Bool)
  | ringAcquisitionDone (kk : BitVec 4) (tx rx : BitVec 18)
  | ringTrack (kk : BitVec 4)
  | ringWatchdog (kk : BitVec 4) (txBad rxBad : BitVec 18) (inj : Bool)
  | wlRestore (ports : BitVec 16)
  | hallRelaunch (kk : BitVec 4)
  | rotaSteer (kk : BitVec 4)
  | steerDrainDone (kk : BitVec 4)
  | selectorMoved (kk : BitVec 4)
  | steerRelockDone (kk : BitVec 4) (far : List Byte)
  | steerRelockTimeout (kk : BitVec 4)
  | noLinkFullLaunch (kk : BitVec 4)
  -- time (14)
  | claim (p : Packet)
  | claimRoundEnd (hall : Bool)
  | syncPulseMissing (part : Part)
  | announce (part : Part) (link : BitVec 7) (p : Packet)
  | hallPing (p : Packet)
  | hallEcho (p : Packet) (sent : BitVec 48)
  | strokeSync (part : Part)
  | refclkLoss (part : Part) (inj : Bool)
  | griwardReplayLanding (ctx : BitVec 12) (input : BitVec 7)
  -- attestation, keys and entropy (15)
  | getDigests (part : Part)
  | getCertificate (part : Part) (slot : BitVec 4) (offset length : BitVec 16)
  | challenge (part : Part) (slot : BitVec 4) (nonce : BitVec 256)
  | getMeasurements (part : Part) (index : BitVec 8) (nonce : BitVec 256) (sign : Bool)
  | keyExchange (part : Part) (requesterTenant : BitVec 8) (pubKeyDigest : BitVec 384) (mutualAuth : Bool) (ecdhe : List Byte)
  | spdmFinish (part : Part) (session : BitVec 16) (verified : Bool)
  | endSession (part : Part) (session : BitVec 16)
  | setWeightKey (session : BitVec 16) (payload : List Byte)
  | eraseWeightKey (session : BitVec 16) (payload : List Byte)
  | spdmResponseReady (part : Part)
  | keyErase (m : Master) (slots : BitVec 256)
  | keyRetire (tenants : BitVec 256)
  | entropyTestFail (part : Part) (test : BitVec 2) (inj : Bool)
  | entropyAutoRestart (part : Part)
  | entropyRestart (part : Part) (m : Master)
  | entropyTestDone (part : Part) (pass : Bool) (test : BitVec 2)
  | entropyWaitExpiry (part : Part)
  | unlockReq (part : Part) (m : Master)
  | unlockGo (part : Part) (m : Master)
  | lock (part : Part) (m : Master)
  -- faults and recovery (16)
  | sramCorrected (part : Part) (unit : BitVec 8) (word : BitVec 32) (inj : Bool)
  | sramUncorrected (part : Part) (unit : BitVec 8) (word : BitVec 32) (at_ : Struck) (inj : Bool)
  | paritySweep (part : Part) (key : BitVec 24) (word : BitVec 2) (mismatch shadow inj : Bool)
  | patrolScrub (correctable uncorrectable inj : Bool)
  | e2eTimeout (tag : BitVec 14) (inj : Bool)
  | quietTagRelease (tag : BitVec 14)
  | fenced (set : Bool)
  | collViaTwin (mask : BitVec 16)
  -- management (17)
  | haothRead (part : Part) (r : HaothReq)
  | haothWrite (part : Part) (r : HaothReq) (slots : List Obj)
  | eventRead (part : Part) (r : HaothReq)
  | mgmtData (part : Part) (link : BitVec 7) (p : Packet)
  | relayTimeout (tid : BitVec 16) (src : BitVec 48)
  | registerWrite (part : Part) (m : Master) (offset : BitVec 28) (width : BitVec 2) (data : BitVec 64)
  | aliasWrite (part : Part) (m : Master) (offset : BitVec 18) (width : BitVec 2) (data : BitVec 64)
  | commitNow (part : Part) (via : CommitVia)
  | commitAt (part : Part) (via : CommitVia)
  | commitAbort (part : Part) (via : CommitVia)
  | commitCheckDone (part : Part)
  | catchGuard (part : Part)
  | catch_ (part : Part)
  | catchAnn (part : Part) (link : BitVec 7) (p : Packet)
  | owner (part : Part) (m : Master) (v : BitVec 2)
  | lockLease (part : Part)
  | evtNext (part : Part) (m : Master)
  -- power, clocks and resets (18)
  | porstN (part : Part) (straps : BitVec 8)
  | wrstN (part : Part)
  | warmReset (part : Part)
  | blockReset (part : Part) (unitKind : BitVec 3) (unit : BitVec 8)
  | resetBallastDone (part : Part)
  | railFault (part : Part) (rail : BitVec 4)
  | tempThrottle (part : Part) (sensor : BitVec 4) (temp : BitVec 16) (inj : Bool)
  | throttleRelease (part : Part) (temps : List (BitVec 16))
  | tempTrip (part : Part) (sensor : BitVec 4) (temp : BitVec 16) (inj : Bool)
  | pllUnlock (part : Part) (which : BitVec 3)
  | fwGo (part : Part) (m : Master)
  | fwCheckDone (part : Part) (pass : Bool) (digest : BitVec 384)
  | bringupDone (part : Part) (fencedTiles : BitVec 104)
  | railGood (part : Part) (rail : BitVec 4)
  | memberCollTimeout (ctx : BitVec 12)
  | resetDone (part : Part)
  | haothBadFrame (part : Part) (mac : BitVec 48)
  | drbgReseed (part : Part) (testFailed : Bool) (out : List Byte)
  -- commands without operands (a compiled inductive type has room for 244 constructors with fields)
  | walkStart
  | invalComplete
  | slotMatch
  | headScan
  | auditPass
  | dispatch
  | patternLatch
  | wait
  | lopEnd
  | lopFinish
  | lopDone
  | ckpt
  | align
  | crab
  | holdDriveStart
  | holdWaterSeenLow
  | heldEnter
  | holdDriveRelease
  | holdWaterSeenHigh
  | heldExit
  | holdLimit
  | tokenYield
  | tokenGive
  | peerFailed
  | tokenReturn
  | combReset
  | checkPeriodAnnounce
  | ssyncOutDrive
  | dedupClearDone
  | standInBegin
  | standInHoldExpiry
  | endStandIn
  | planeReset
  | strokeReset
  | announceEffect
deriving DecidableEq, Repr

end Sys2Proof
end

