-- ==== Sys2Proof/Decode.lean ====
section
/-!
DEFINITION. The commands that words of the opcode table spell: no row of the table gives bits, so there are none.
-/
namespace Sys2Proof

/-- The command whose table row has the bits of `w`: no row of spec/opcode_table.json has bits, so every word is refused. -/
def decodeTableWord (nbits w : Nat) : Option Instr :=
  match nbits, w with
  | _, _ => none

end Sys2Proof
end

