-- ==== Sys2Proof/Config.lean ====
section
/-!
DEFINITION. What an implementation fixes, and the free values: constants with no body, so that nothing can be proved of
a value the spec leaves open.
-/
namespace Sys2Proof.Config

/-- SERIAL of a part: unique per part, no value given (02, R34). -/
opaque serial : Part → BitVec 64

/-- Choice of a victim where the spec says only "pseudo-LRU" (03, TLBs; R83): applied to the free counter, then taken modulo the ways. -/
opaque victim : Nat → Nat

/-- Choice of a live plane for a request whose plane the spec does not fix (reads of copy engines, responses): taken modulo the number of live planes. -/
opaque planeChoice : Nat → Nat

/-- A 64-bit value the spec leaves open, fresh at every counter value. -/
opaque freeWord : Nat → BitVec 64

/-- Random bytes of the DRBG (R358): no value is promised. -/
opaque drbg : Nat → Nat → List Byte

/-- AES-256-GCM (named by R351, R347): key, nonce, additional data, ciphertext, tag; `none` when the tag fails. -/
opaque gcmOpen : (key nonce aad ct tag : List Byte) → Option (List Byte)

/-- ECDSA P-384 verification (R362, R421): public key x ‖ y, message digest, signature r ‖ s. -/
opaque ecdsaVerify : (pub digest sig : List Byte) → Bool

/-- The part's DIK certificate chain and its signatures (R340, R346): not readable values of the spec. -/
opaque certChain : Part → List Byte
opaque dikSign : Part → List Byte → List Byte

/-- How the MAC array reads its operands from registers, which the spec does not lay out (R197, R249): lane k of a matrix element. -/
opaque mmaLane : (operand row col : Nat) → Nat

/-- The maximum P of a block over all the contributors of a collective (R186) at a die that folds its package: the spec brings a member no such value. Taken modulo 256, and never below the package's own. -/
opaque anchorMax : (ctx launch plane block : Nat) → Nat

/-- The key of a link session's direction after its key updates, and its IV (R346, R347): `tx` is the direction of the part that holds them. -/
opaque linkKey : (session : Nat) → (tx : Bool) → (updates : Nat) → List Byte
opaque linkIv : (session : Nat) → (tx : Bool) → List Byte

/-- Does a part accept an SPDM message of a link's key exchange (R346): its form, the chain to the Unzalvo root, the leaf's SERIAL, the signatures, the MACs? -/
opaque spdmAccept : Part → (farSerial : Nat) → (message : List Byte) → Bool

/-- The body of an SPDM message that a part sends in a link's key exchange, by its code. -/
opaque spdmBody : Part → (code fresh : Nat) → List Byte

/-- Has an internal unit of the switch behind a crossbar output reported space for one more packet of a network, while some wait there (R142)? -/
opaque unitRoom : (output net waiting : Nat) → Bool

/-- The VCORE current that the scheduled domain would draw in a repetition of a bundle, and that a part's dynamic domain would draw in a CCLK, in 1/1750 A (18, R410): the spec gives no figure for either. -/
opaque schedLoad : (bundle rep : Nat) → Nat
opaque dynLoad : Part → (fresh : Nat) → Nat

/-- Whether an access of the stroke program to the boathouse meets a refresh (14, R333): the CCLK that it waits and the stack. -/
opaque refresh : Nat → Nat × BitVec 2

end Sys2Proof.Config
end

