-- ==== Sys2Proof/Machine/Bits.lean ====
section
/-!
DEFINITION. Bit-field insertion, little-endian byte lists and the operations of the sparse map (00, R8, R9).
-/
namespace Sys2Proof

/-- `v` with bits [lo + w - 1 : lo] replaced by the low `w` bits of `x`. -/
def setBits {n : Nat} (v : BitVec n) (lo w x : Nat) : BitVec n :=
  (v &&& ~~~ (BitVec.ofNat n (2 ^ w - 1) <<< lo)) ||| (BitVec.ofNat n (x % 2 ^ w) <<< lo)

/-- Bit `i` of a number. -/
def bitAt (x i : Nat) : Bool := x / 2 ^ i % 2 == 1

/-- Bits [lo + w - 1 : lo] of a number. -/
def field (x lo w : Nat) : Nat := x / 2 ^ lo % 2 ^ w

def b2n (b : Bool) : Nat := if b then 1 else 0

namespace SMap
/-- The value at `k`: the listed one, else the default. -/
def get {α : Type} (d : α) : SMap α → Nat → α
  | [], _ => d
  | (j, v) :: m, k => if j = k then v else get d m k

/-- Remove the entry at `k`. -/
def drop {α : Type} (m : SMap α) (k : Nat) : SMap α := m.filter (fun p => p.1 != k)

/-- Insert before the first larger key, replacing an entry at `k`. -/
def insert {α : Type} (m : SMap α) (k : Nat) (v : α) : SMap α :=
  match m with
  | [] => [(k, v)]
  | (j, w) :: r => if k < j then (k, v) :: (j, w) :: r else if j = k then (k, v) :: r else (j, w) :: insert r k v

/-- Write `v` at `k`; writing the default removes the entry, so equal tables are equal lists. -/
def set {α : Type} [DecidableEq α] (d : α) (m : SMap α) (k : Nat) (v : α) : SMap α :=
  if v = d then drop m k else insert m k v

def modify {α : Type} [DecidableEq α] (d : α) (m : SMap α) (k : Nat) (f : α → α) : SMap α := set d m k (f (get d m k))

/-- The canonical form: keys strictly rising and no entry equal to the default. -/
def wf {α : Type} [DecidableEq α] (d : α) : SMap α → Bool
  | [] => true
  | (k, v) :: m => (m.all (fun p => decide (k < p.1))) && decide (v ≠ d) && wf d m
end SMap

/-- `n` little-endian bytes of a number (R9). -/
def leBytes (n x : Nat) : List Byte := (List.range n).map (fun i => BitVec.ofNat 8 (x / 2 ^ (8 * i)))

/-- The number that little-endian bytes spell (R9). -/
def leNat : List Byte → Nat
  | [] => 0
  | b :: r => b.toNat + 256 * leNat r

/-- Bytes lo .. lo + n - 1 of a byte list, zeros beyond its end. -/
def slice (l : List Byte) (lo n : Nat) : List Byte := (List.range n).map (fun i => l.getD (lo + i) 0)

/-- The little-endian number in bytes lo .. lo + n - 1. -/
def leAt (l : List Byte) (lo n : Nat) : Nat := leNat (slice l lo n)

/-- `l` with bytes from `lo` on replaced by `bs`. -/
def patch (l : List Byte) (lo : Nat) (bs : List Byte) : List Byte :=
  (List.range l.length).map (fun i => if lo ≤ i ∧ i < lo + bs.length then bs.getD (i - lo) 0 else l.getD i 0)

/-- Signed value of the low `w` bits of `x`. -/
def toSigned (w x : Nat) : Int := if x % 2 ^ w < 2 ^ (w - 1) then (x % 2 ^ w : Int) else (x % 2 ^ w : Int) - 2 ^ w

/-- The low `w` bits of an integer. -/
def toUnsigned (w : Nat) (x : Int) : Nat := (x % (2 ^ w : Int)).toNat

/-- Replace the first element that satisfies `p`. -/
def replaceFirst {α : Type} (p : α → Bool) (f : α → α) : List α → List α
  | [] => []
  | a :: r => if p a then f a :: r else a :: replaceFirst p f r

/-- Remove the first element that satisfies `p`. -/
def eraseFirst {α : Type} (p : α → Bool) : List α → List α
  | [] => []
  | a :: r => if p a then r else a :: eraseFirst p r

/-- Fields packed from bit 0 in the order listed: (width, value) pairs (R402). -/
def packArg : List (Nat × Nat) → Nat
  | [] => 0
  | (w, x) :: r => x % 2 ^ w + 2 ^ w * packArg r

/-- Ceiling of log2, with 0 for 0 and 1 (R186). -/
def clog2 (n : Nat) : Nat := if n ≤ 1 then 0 else Nat.log2 (n - 1) + 1

end Sys2Proof
end

