-- ==== Sys2Proof/Machine/Objects.lean ====
section
/-!
DEFINITION. The object dictionary as data: every row of every object table of the spec, with its bits, access, applied
kind and default (17, R381 to R384; 20, R440, R441).
-/
namespace Sys2Proof.Machine

/-- Access of a field (R382); `rsv` is a reserved field (R10). -/
inductive Acc where
  | ro
  | rw
  | wo
  | rsv
deriving DecidableEq, Repr

/-- The parts that have a field of an object (R441). -/
inductive Only where
  | both
  | ox
  | oe
deriving DecidableEq, Repr

/-- One row of an object table: name, low bit, width, access, whether it is applied at catch, whether it is an action field that reads 0 (R382). -/
structure Fld where
  name : String
  lo : Nat
  w : Nat
  acc : Acc
  atCatch : Bool
  reads0 : Bool
  only : Only
deriving DecidableEq, Repr

/-- One object or range of like objects: first and last index, the subindex ranges it has in an OX720 and in an OE36, its width (R381), its default, its fields. -/
structure ObjRow where
  i0 : Nat
  i1 : Nat
  ox : List (Nat × Nat)
  oe : List (Nat × Nat)
  width : Nat
  dflt : Nat
  flds : List Fld
deriving DecidableEq, Repr

/-- Objects of index 0x1000, identity. -/
def objRows1a : List ObjRow := [
  ⟨0x1000, 0x1000, [(0, 0)], [(0, 0)], 32, 0x0, [
    ⟨"DEVICE_TYPE", 0, 16, .ro, false, false, .both⟩]⟩,
  ⟨0x1000, 0x1000, [(1, 1)], [(1, 1)], 32, 0xB0, [
    ⟨"SILICON_REV", 0, 16, .ro, false, false, .both⟩]⟩,
  ⟨0x1000, 0x1000, [(2, 2)], [(2, 2)], 32, 0x200, [
    ⟨"PERNYX_MINOR", 0, 8, .ro, false, false, .both⟩,
    ⟨"PERNYX_MAJOR", 8, 8, .ro, false, false, .both⟩]⟩,
  ⟨0x1000, 0x1000, [(3, 3)], [(3, 3)], 64, 0x3FFF, [
    ⟨"CAPABILITIES", 0, 64, .ro, false, false, .both⟩]⟩,
  ⟨0x1000, 0x1000, [(4, 4)], [(4, 4)], 64, 0x0, [
    ⟨"SERIAL", 0, 64, .ro, false, false, .both⟩]⟩,
  ⟨0x1000, 0x1000, [(5, 5)], [(5, 5)], 32, 0x0, [
    ⟨"FABRIC_ID", 0, 13, .ro, false, false, .both⟩,
    ⟨"reserved", 13, 2, .rsv, false, false, .both⟩,
    ⟨"ID_VALID", 15, 1, .ro, false, false, .both⟩]⟩,
  ⟨0x1000, 0x1000, [(6, 6)], [(6, 6)], 32, 0x0, [
    ⟨"STROKE_ISA", 0, 16, .ro, false, false, .both⟩]⟩]

/-- Objects of index 0x2000, management. -/
def objRows2a : List ObjRow := [
  ⟨0x2000, 0x2000, [(0, 0)], [(0, 0)], 32, 0x0, [
    ⟨"COMMIT_CMD", 0, 3, .wo, false, true, .both⟩,
    ⟨"reserved", 3, 29, .rsv, false, true, .both⟩]⟩,
  ⟨0x2000, 0x2000, [(1, 1)], [(1, 1)], 64, 0x0, [
    ⟨"CATCH_AT", 0, 48, .rw, false, false, .both⟩,
    ⟨"COMMIT_GROUP", 48, 16, .rw, false, false, .both⟩]⟩,
  ⟨0x2000, 0x2000, [(2, 2)], [(2, 2)], 64, 0x0, [
    ⟨"COMMIT_STATE", 0, 3, .ro, false, false, .both⟩,
    ⟨"STAGED", 3, 14, .ro, false, false, .both⟩,
    ⟨"FAIL_OBJECT", 17, 24, .ro, false, false, .both⟩,
    ⟨"reserved", 41, 23, .rsv, false, false, .both⟩]⟩,
  ⟨0x2000, 0x2000, [(3, 3)], [(3, 3)], 32, 0x0, [
    ⟨"COMMIT_SEQ", 0, 32, .ro, false, false, .both⟩]⟩,
  ⟨0x2000, 0x2000, [(4, 4)], [(4, 4)], 64, 0x0, [
    ⟨"LAST_CATCH", 0, 48, .ro, false, false, .both⟩,
    ⟨"reserved", 48, 16, .rsv, false, false, .both⟩]⟩,
  ⟨0x2000, 0x2000, [(5, 5)], [(5, 5)], 32, 0x10000, [
    ⟨"CATCH_GUARD", 0, 32, .rw, true, false, .both⟩]⟩,
  ⟨0x2000, 0x2000, [(16, 16)], [(16, 16)], 32, 0xFA0, [
    ⟨"OWNER", 0, 2, .rw, false, false, .both⟩,
    ⟨"LOCK_LEASE", 2, 16, .rw, true, false, .both⟩,
    ⟨"reserved", 18, 14, .rsv, false, false, .both⟩]⟩,
  ⟨0x2000, 0x2000, [(17, 17)], [(17, 17)], 32, 0x0, [
    ⟨"STAGE_VIEW", 0, 1, .rw, false, false, .both⟩,
    ⟨"reserved", 1, 31, .rsv, false, false, .both⟩]⟩,
  ⟨0x2000, 0x2000, [(18, 18)], [(18, 18)], 64, 0x0, [
    ⟨"BUS_ERR_LAST", 0, 28, .ro, false, false, .both⟩,
    ⟨"Master", 28, 1, .ro, false, false, .both⟩,
    ⟨"Width", 29, 3, .ro, false, false, .both⟩,
    ⟨"BUS_ERRORS", 32, 32, .ro, false, false, .both⟩]⟩,
  ⟨0x2000, 0x2000, [(19, 19)], [(19, 19)], 64, 0x0, [
    ⟨"CONFLICTS", 0, 32, .ro, false, false, .both⟩,
    ⟨"BAD_FRAMES", 32, 32, .ro, false, false, .both⟩]⟩,
  ⟨0x2100, 0x2100, [(0, 3)], [(0, 3)], 128, 0x0, [
    ⟨"EVT_WORD", 0, 128, .ro, false, false, .both⟩]⟩,
  ⟨0x2101, 0x2101, [(0, 0)], [(0, 0)], 32, 0x80, [
    ⟨"EVT_VALID", 0, 7, .ro, false, false, .both⟩,
    ⟨"EVT_EMPTY", 7, 1, .ro, false, false, .both⟩,
    ⟨"reserved", 8, 24, .rsv, false, false, .both⟩]⟩,
  ⟨0x2101, 0x2101, [(1, 1)], [(1, 1)], 32, 0x0, [
    ⟨"EVT_NEXT", 0, 1, .wo, false, true, .both⟩]⟩,
  ⟨0x2101, 0x2101, [(2, 2)], [(2, 2)], 32, 0x0, [
    ⟨"EVENTS_LOST", 0, 32, .ro, false, false, .both⟩]⟩]

/-- Objects of index 0x2000, management. -/
def objRows2b : List ObjRow := [
  ⟨0x2102, 0x2102, [], [(0, 0)], 32, 0x0, [
    ⟨"EVT_STALL_LIMIT", 0, 16, .rw, true, false, .both⟩]⟩]

/-- Objects of index 0x3000, links. -/
def objRows3a : List ObjRow := [
  ⟨0x3000, 0x3000, [(0, 71), (88, 88)], [(0, 15)], 64, 0x1, [
    ⟨"ENABLE", 0, 1, .rw, true, false, .both⟩,
    ⟨"FEATHER_EN", 1, 1, .rw, true, false, .both⟩,
    ⟨"DOCK", 2, 1, .rw, true, false, .both⟩,
    ⟨"ERGO", 3, 2, .rw, true, false, .both⟩,
    ⟨"LOOP_ACCEPT", 5, 1, .rw, true, false, .both⟩,
    ⟨"RELAUNCH", 6, 1, .rw, true, true, .both⟩,
    ⟨"reserved", 7, 57, .rsv, false, false, .both⟩]⟩,
  ⟨0x3001, 0x3001, [(0, 71), (88, 88)], [(0, 15)], 64, 0x0, [
    ⟨"STATE", 0, 3, .ro, false, false, .both⟩,
    ⟨"FEATHER_TX", 3, 1, .ro, false, false, .both⟩,
    ⟨"FEATHER_RX", 4, 1, .ro, false, false, .both⟩,
    ⟨"LANES_USABLE", 5, 20, .ro, false, false, .both⟩,
    ⟨"LINK_DOWN_CAUSE", 25, 3, .ro, false, false, .both⟩,
    ⟨"reserved", 28, 36, .rsv, false, false, .both⟩]⟩,
  ⟨0x3002, 0x3002, [(0, 71), (88, 88)], [(0, 15)], 128, 0x0, [
    ⟨"LANE_MAP", 0, 80, .ro, false, false, .both⟩]⟩,
  ⟨0x3004, 0x3004, [(0, 71), (88, 88)], [(0, 15)], 64, 0x800030D4003E8, [
    ⟨"FEATHER_IDLE", 0, 16, .rw, true, false, .both⟩,
    ⟨"LANE_ERR_LIMIT", 16, 32, .rw, true, false, .both⟩,
    ⟨"REPLAY_LIMIT", 48, 8, .rw, true, false, .both⟩,
    ⟨"reserved", 56, 8, .rsv, false, false, .both⟩]⟩,
  ⟨0x3005, 0x3005, [(0, 88)], [(0, 15)], 64, 0x0, [
    ⟨"CW_CORRECTED", 0, 64, .ro, false, false, .both⟩]⟩,
  ⟨0x3006, 0x3006, [(0, 88)], [(0, 15)], 64, 0x0, [
    ⟨"CW_UNCORRECTABLE", 0, 32, .ro, false, false, .both⟩,
    ⟨"REPLAYS", 32, 32, .ro, false, false, .both⟩]⟩,
  ⟨0x3007, 0x3007, [(0, 88)], [(0, 15)], 64, 0x0, [
    ⟨"LAUNCHES", 0, 16, .ro, false, false, .both⟩,
    ⟨"LAUNCH_FAILS", 16, 16, .ro, false, false, .both⟩,
    ⟨"SPARE_SWAPS", 32, 16, .ro, false, false, .both⟩,
    ⟨"reserved", 48, 16, .rsv, false, false, .both⟩]⟩,
  ⟨0x3008, 0x3008, [(0, 88)], [(0, 15)], 64, 0x0, [
    ⟨"FEATHER_EXITS", 0, 64, .ro, false, false, .both⟩]⟩,
  ⟨0x3009, 0x3009, [(0, 71), (88, 88)], [(0, 15)], 64, 0x0, [
    ⟨"ERGO_BITS", 0, 64, .ro, false, false, .both⟩]⟩,
  ⟨0x300A, 0x300A, [(0, 71), (88, 88)], [(0, 15)], 64, 0x0, [
    ⟨"ERGO_ERRORS", 0, 64, .ro, false, false, .both⟩]⟩,
  ⟨0x300B, 0x300B, [(0, 71), (88, 88)], [(0, 15)], 32, 0x0, [
    ⟨"LANE_CORRECTED", 0, 32, .ro, false, false, .both⟩]⟩,
  ⟨0x300C, 0x300C, [(0, 0)], [(0, 0)], 32, 0x0, [
    ⟨"LANE_SELECT for 0x300B", 0, 5, .rw, false, false, .both⟩]⟩,
  ⟨0x3010, 0x3010, [(0, 0)], [], 64, 0x0, [
    ⟨"TOKEN view", 0, 2, .ro, false, false, .both⟩,
    ⟨"PEER_FAILED", 2, 1, .rw, true, false, .both⟩,
    ⟨"TOKEN_RETURN", 3, 1, .rw, true, true, .both⟩,
    ⟨"reserved", 4, 60, .rsv, false, false, .both⟩]⟩]

/-- Objects of index 0x4000, optics. -/
def objRows4a : List ObjRow := [
  ⟨0x4000, 0x4000, [(0, 0)], [], 64, 0x0, [
    ⟨"COMB_HOST", 0, 1, .ro, false, false, .both⟩,
    ⟨"PRESENT", 1, 1, .ro, false, false, .both⟩,
    ⟨"READY", 2, 1, .ro, false, false, .both⟩,
    ⟨"LINES_OK", 3, 18, .ro, false, false, .both⟩,
    ⟨"reserved", 21, 43, .rsv, false, false, .both⟩]⟩,
  ⟨0x4000, 0x4000, [(1, 1)], [], 64, 0x5140001, [
    ⟨"COMB_EN", 0, 1, .rw, true, false, .both⟩,
    ⟨"COMB_RESET", 1, 1, .rw, true, true, .both⟩,
    ⟨"reserved", 2, 14, .rsv, false, false, .both⟩,
    ⟨"LINE_POWER_MIN", 16, 16, .rw, true, false, .both⟩,
    ⟨"reserved", 32, 32, .rsv, false, false, .both⟩]⟩,
  ⟨0x4001, 0x4001, [(0, 17)], [], 32, 0x0, [
    ⟨"LINE_POWER", 0, 16, .ro, false, false, .both⟩]⟩,
  ⟨0x4002, 0x4002, [(0, 0)], [], 64, 0x3222, [
    ⟨"TRACK_INT", 0, 3, .rw, true, false, .both⟩,
    ⟨"REPORT_INT", 3, 3, .rw, true, false, .both⟩,
    ⟨"ROTA_DWELL", 6, 16, .rw, true, false, .both⟩,
    ⟨"WL_RESTORE", 22, 16, .rw, true, true, .both⟩,
    ⟨"reserved", 38, 26, .rsv, false, false, .both⟩]⟩,
  ⟨0x4010, 0x4010, [(0, 15)], [], 64, 0x1, [
    ⟨"PORT_EN", 0, 1, .rw, true, false, .both⟩,
    ⟨"STEER_MODE", 1, 2, .rw, true, false, .both⟩,
    ⟨"FIXED_POS", 3, 2, .rw, true, false, .both⟩,
    ⟨"RELAUNCH", 5, 1, .rw, true, true, .both⟩,
    ⟨"reserved", 6, 58, .rsv, false, false, .both⟩]⟩,
  ⟨0x4011, 0x4011, [(0, 15)], [], 64, 0x0, [
    ⟨"PSTATE", 0, 3, .ro, false, false, .both⟩,
    ⟨"POSITION", 3, 2, .ro, false, false, .both⟩,
    ⟨"LAST_STEER_NS", 5, 16, .ro, false, false, .both⟩,
    ⟨"MAX_STEER_NS", 21, 16, .ro, false, false, .both⟩,
    ⟨"reserved", 37, 27, .rsv, false, false, .both⟩]⟩,
  ⟨0x4012, 0x4012, [(0, 15)], [], 64, 0x0, [
    ⟨"TX_LOCKED", 0, 18, .ro, false, false, .both⟩,
    ⟨"RX_LOCKED", 18, 18, .ro, false, false, .both⟩,
    ⟨"WL_OUT", 36, 18, .ro, false, false, .both⟩,
    ⟨"reserved", 54, 10, .rsv, false, false, .both⟩]⟩,
  ⟨0x4013, 0x4013, [(0, 15)], [], 64, 0x0, [
    ⟨"STEERS", 0, 32, .ro, false, false, .both⟩,
    ⟨"RING_UNLOCKS", 32, 16, .ro, false, false, .both⟩,
    ⟨"IGNORED_STEERS", 48, 16, .ro, false, false, .both⟩]⟩,
  ⟨0x4020, 0x4020, [(0, 63)], [], 64, 0x0, [
    ⟨"PROFILE_VALID", 0, 1, .ro, false, false, .both⟩,
    ⟨"ENCRYPTED", 1, 1, .ro, false, false, .both⟩,
    ⟨"SPARE_LOOP", 2, 1, .ro, false, false, .both⟩,
    ⟨"reserved", 3, 61, .rsv, false, false, .both⟩]⟩,
  ⟨0x4040, 0x4040, [(0, 3)], [], 64, 0x0, [
    ⟨"HALL_ENC_TENANTS", 0, 64, .rw, true, false, .both⟩]⟩]

/-- Objects of index 0x5000, switch core and routing. -/
def objRows5a : List ObjRow := [
  ⟨0x5200, 0x5200, [(0, 0)], [], 64, 0x0, [
    ⟨"PLANE", 0, 4, .rw, true, false, .both⟩,
    ⟨"RACK", 4, 6, .rw, true, false, .both⟩,
    ⟨"reserved", 10, 54, .rsv, false, false, .both⟩]⟩,
  ⟨0x5201, 0x5201, [(0, 0)], [], 64, 0x0, [
    ⟨"SLOT_PRESENT", 0, 64, .rw, true, false, .both⟩]⟩,
  ⟨0x5201, 0x5201, [(1, 1)], [], 32, 0x0, [
    ⟨"SLOT_PRESENT", 0, 8, .rw, true, false, .both⟩]⟩,
  ⟨0x5202, 0x5202, [(0, 0)], [], 64, 0x0, [
    ⟨"RACK_PRESENT", 0, 64, .rw, true, false, .both⟩]⟩,
  ⟨0x5203, 0x5203, [(0, 0)], [], 64, 0x0, [
    ⟨"QUARANTINED", 0, 64, .ro, false, false, .both⟩]⟩,
  ⟨0x5203, 0x5203, [(1, 1)], [], 32, 0x0, [
    ⟨"QUARANTINED", 0, 8, .ro, false, false, .both⟩]⟩,
  ⟨0x5204, 0x5204, [(0, 0)], [], 64, 0x0, [
    ⟨"FIBRE_QUARANTINED", 0, 64, .ro, false, false, .both⟩]⟩,
  ⟨0x5210, 0x5210, [(0, 63)], [], 32, 0x0, [
    ⟨"MODE", 0, 2, .rw, true, false, .both⟩,
    ⟨"VIA_EN", 2, 1, .rw, true, false, .both⟩,
    ⟨"VIA", 3, 6, .rw, true, false, .both⟩,
    ⟨"STEERED", 9, 1, .ro, false, false, .both⟩,
    ⟨"reserved", 10, 6, .rsv, false, false, .both⟩]⟩,
  ⟨0x5220, 0x5228, [(0, 88)], [], 32, 0x0, [
    ⟨"DROPS", 0, 32, .ro, false, false, .both⟩]⟩,
  ⟨0x5229, 0x5229, [(0, 0)], [], 32, 0x0, [
    ⟨"MALFORMED_EVENTS_SUPPRESSED", 0, 32, .ro, false, false, .both⟩]⟩,
  ⟨0x5230, 0x5230, [(0, 4)], [], 64, 0x0, [
    ⟨"CREW_CREDITS", 0, 16, .rw, true, false, .both⟩,
    ⟨"HALL_CREDITS", 16, 16, .rw, true, false, .both⟩,
    ⟨"BRIDGE_CREDITS", 32, 16, .rw, true, false, .both⟩,
    ⟨"reserved", 48, 16, .rsv, false, false, .both⟩]⟩,
  ⟨0x5000, 0x5000, [(0, 0)], [], 64, 0x10, [
    ⟨"STARVE_LIMIT", 0, 8, .rw, true, false, .both⟩,
    ⟨"reserved", 8, 56, .rsv, false, false, .both⟩]⟩,
  ⟨0x5001, 0x5001, [(0, 0)], [], 64, 0x0, [
    ⟨"GRANTS", 0, 64, .ro, false, false, .both⟩]⟩,
  ⟨0x5001, 0x5001, [(1, 1)], [], 64, 0x0, [
    ⟨"RESERVED_USED", 0, 64, .ro, false, false, .both⟩]⟩]

/-- Objects of index 0x5000, switch core and routing. -/
def objRows5b : List ObjRow := [
  ⟨0x5001, 0x5001, [(2, 2)], [], 64, 0x0, [
    ⟨"RESERVED_RELEASED", 0, 64, .ro, false, false, .both⟩]⟩,
  ⟨0x5001, 0x5001, [(3, 3)], [], 64, 0x0, [
    ⟨"COLL_DYNAMIC_CROSSINGS", 0, 64, .ro, false, false, .both⟩]⟩,
  ⟨0x5100, 0x5100, [(0, 0)], [], 32, 0x3E8, [
    ⟨"MAX_AGE", 0, 16, .rw, true, false, .both⟩]⟩,
  ⟨0x5100, 0x5100, [(1, 1)], [], 32, 0x64, [
    ⟨"AUDIT_INTERVAL", 0, 16, .rw, true, false, .both⟩]⟩,
  ⟨0x5100, 0x5100, [(2, 2)], [], 32, 0x54000, [
    ⟨"FREE_CELLS", 0, 19, .ro, false, false, .both⟩]⟩,
  ⟨0x5100, 0x5100, [(3, 3)], [], 32, 0x54000, [
    ⟨"MIN_FREE_CELLS", 0, 19, .ro, false, false, .both⟩]⟩,
  ⟨0x5101, 0x5101, [(0, 4)], [], 32, 0x0, [
    ⟨"AGE_DROPS", 0, 32, .ro, false, false, .both⟩]⟩,
  ⟨0x5102, 0x5102, [(0, 0)], [], 32, 0x0, [
    ⟨"LEAK_RECLAIMED", 0, 32, .ro, false, false, .both⟩]⟩,
  ⟨0x5102, 0x5102, [(1, 1)], [], 32, 0x0, [
    ⟨"CELLS_RETIRED", 0, 32, .ro, false, false, .both⟩]⟩,
  ⟨0x5102, 0x5102, [(2, 2)], [], 32, 0x0, [
    ⟨"AUDIT_PASSES", 0, 32, .ro, false, false, .both⟩]⟩,
  ⟨0x5300, 0x5300, [(0, 88), (96, 176)], [], 64, 0x0, [
    ⟨"FEATURES", 0, 5, .ro, false, false, .both⟩,
    ⟨"ABOVE", 5, 1, .ro, false, false, .both⟩,
    ⟨"reserved", 6, 58, .rsv, false, false, .both⟩]⟩,
  ⟨0x5301, 0x5301, [(0, 88), (96, 176)], [], 64, 0x0, [
    ⟨"HIGH_WM", 0, 32, .rw, true, false, .both⟩,
    ⟨"LOW_WM", 32, 32, .rw, true, false, .both⟩]⟩,
  ⟨0x5302, 0x5302, [(0, 88), (96, 176)], [], 64, 0x0, [
    ⟨"SPILL_BASE", 0, 20, .rw, true, false, .both⟩,
    ⟨"SPILL_SIZE", 20, 20, .rw, true, false, .both⟩,
    ⟨"reserved", 40, 24, .rsv, false, false, .both⟩]⟩,
  ⟨0x5303, 0x5303, [(0, 88), (96, 176)], [], 32, 0x0, [
    ⟨"STALL_LIMIT", 0, 16, .rw, true, false, .both⟩]⟩]

/-- Objects of index 0x5000, switch core and routing. -/
def objRows5c : List ObjRow := [
  ⟨0x5304, 0x5304, [(0, 88), (96, 176)], [], 64, 0x0, [
    ⟨"OCCUPANCY", 0, 32, .ro, false, false, .both⟩,
    ⟨"FULL_WAITS", 32, 32, .ro, false, false, .both⟩]⟩,
  ⟨0x5305, 0x5305, [(0, 88), (96, 176)], [], 32, 0x0, [
    ⟨"FCO_BIT", 0, 3, .rw, true, false, .both⟩,
    ⟨"FCO_EN", 3, 1, .rw, true, false, .both⟩,
    ⟨"FCI_BIT", 4, 3, .rw, true, false, .both⟩,
    ⟨"FCI_EN", 7, 1, .rw, true, false, .both⟩]⟩,
  ⟨0x5400, 0x5400, [(0, 255)], [], 32, 0x400000, [
    ⟨"SHAPE_RATE", 0, 16, .rw, true, false, .both⟩,
    ⟨"SHAPE_BURST", 16, 16, .rw, true, false, .both⟩]⟩,
  ⟨0x5410, 0x5410, [(0, 255)], [], 32, 0x400000, [
    ⟨"POLICE_RATE", 0, 16, .rw, true, false, .both⟩,
    ⟨"POLICE_BURST", 16, 16, .rw, true, false, .both⟩]⟩,
  ⟨0x5420, 0x5420, [(0, 255)], [], 32, 0x0, [
    ⟨"POLICE_DROPS", 0, 32, .ro, false, false, .both⟩]⟩,
  ⟨0x5430, 0x5430, [(0, 0)], [], 32, 0x100800, [
    ⟨"EGRESS_CELLS", 0, 12, .rw, true, false, .both⟩,
    ⟨"TENANT_EGRESS_CELLS", 12, 12, .rw, true, false, .both⟩]⟩]

/-- Objects of index 0x6000, sweep array and stroke engine. -/
def objRows6a : List ObjRow := [
  ⟨0x6080, 0x6080, [(0, 0)], [], 64, 0x0, [
    ⟨"ARRIVAL_REDUCTIONS", 0, 64, .ro, false, false, .both⟩]⟩,
  ⟨0x6080, 0x6080, [(1, 1)], [], 64, 0x0, [
    ⟨"ANCHOR_BREACHES", 0, 64, .ro, false, false, .both⟩]⟩,
  ⟨0x6080, 0x6080, [(2, 2)], [], 64, 0x0, [
    ⟨"NAN_ZEROED", 0, 64, .ro, false, false, .both⟩]⟩,
  ⟨0x6080, 0x6080, [(3, 3)], [], 64, 0x0, [
    ⟨"SATURATIONS", 0, 64, .ro, false, false, .both⟩]⟩,
  ⟨0x6000, 0x6000, [(0, 103)], [], 64, 0x0, [
    ⟨"STATE", 0, 2, .ro, false, false, .both⟩,
    ⟨"LOGICAL", 2, 7, .ro, false, false, .both⟩,
    ⟨"reserved", 9, 55, .rsv, false, false, .both⟩]⟩,
  ⟨0x6001, 0x6001, [(0, 95)], [], 32, 0x0, [
    ⟨"PHYSICAL", 0, 7, .ro, false, false, .both⟩]⟩,
  ⟨0x6002, 0x6002, [(0, 0)], [], 64, 0x0, [
    ⟨"FENCE_MASK", 0, 64, .rw, true, false, .both⟩]⟩,
  ⟨0x6002, 0x6002, [(1, 1)], [], 64, 0x0, [
    ⟨"FENCE_MASK", 0, 40, .rw, true, false, .both⟩]⟩,
  ⟨0x6003, 0x6003, [(0, 0)], [], 32, 0x8FFFF, [
    ⟨"GROUP_LIVE", 0, 16, .ro, false, false, .both⟩,
    ⟨"SPARES_FREE", 16, 4, .ro, false, false, .both⟩]⟩,
  ⟨0x6004, 0x6004, [(0, 0)], [], 64, 0x0, [
    ⟨"RESIDUE_MISMATCHES", 0, 64, .ro, false, false, .both⟩]⟩,
  ⟨0x6004, 0x6004, [(1, 1)], [], 64, 0x0, [
    ⟨"BLOCKS_RECOMPUTED", 0, 64, .ro, false, false, .both⟩]⟩,
  ⟨0x6004, 0x6004, [(2, 2)], [], 32, 0x0, [
    ⟨"RECOMPUTE_FAILURES", 0, 32, .ro, false, false, .both⟩]⟩,
  ⟨0x6004, 0x6004, [(3, 3)], [], 64, 0x0, [
    ⟨"NONFINITE_SKIPS", 0, 64, .ro, false, false, .both⟩]⟩,
  ⟨0x6010, 0x6010, [(0, 0)], [], 64, 0x0, [
    ⟨"OPT_REGION base", 0, 20, .rw, true, false, .both⟩,
    ⟨"OPT_REGION size", 20, 20, .rw, true, false, .both⟩,
    ⟨"reserved", 40, 24, .rsv, false, false, .both⟩]⟩]

/-- Objects of index 0x6000, sweep array and stroke engine. -/
def objRows6b : List ObjRow := [
  ⟨0x6010, 0x6010, [(1, 1)], [], 64, 0x0, [
    ⟨"ROT_REGION base", 0, 20, .rw, true, false, .both⟩,
    ⟨"ROT_REGION size", 20, 20, .rw, true, false, .both⟩,
    ⟨"reserved", 40, 24, .rsv, false, false, .both⟩]⟩,
  ⟨0x6100, 0x6100, [(0, 0)], [], 64, 0x0, [
    ⟨"IMG_BUNDLE_BASE", 0, 16, .rw, true, false, .both⟩,
    ⟨"IMG_BUNDLE_COUNT", 16, 17, .rw, true, false, .both⟩,
    ⟨"reserved", 33, 31, .rsv, false, false, .both⟩]⟩,
  ⟨0x6100, 0x6100, [(1, 1)], [], 64, 0x0, [
    ⟨"IMG_PAT_BASE", 0, 12, .rw, true, false, .both⟩,
    ⟨"IMG_PAT_COUNT", 12, 13, .rw, true, false, .both⟩,
    ⟨"reserved", 25, 39, .rsv, false, false, .both⟩]⟩,
  ⟨0x6100, 0x6100, [(2, 2)], [], 32, 0xFFFF, [
    ⟨"IMG_PLANES", 0, 16, .rw, true, false, .both⟩]⟩,
  ⟨0x6101, 0x6101, [(0, 5)], [], 64, 0x0, [
    ⟨"DIGEST", 0, 64, .ro, false, false, .both⟩]⟩,
  ⟨0x6102, 0x6102, [(0, 0)], [], 32, 0x0, [
    ⟨"ENGINE_STATE", 0, 3, .ro, false, false, .both⟩,
    ⟨"PC", 3, 16, .ro, false, false, .both⟩,
    ⟨"RUNNING_CTX", 19, 12, .ro, false, false, .both⟩,
    ⟨"RETIRING", 31, 1, .ro, false, false, .both⟩]⟩,
  ⟨0x6102, 0x6102, [(1, 1)], [], 32, 0x0, [
    ⟨"LAG", 0, 32, .ro, false, false, .both⟩]⟩,
  ⟨0x6103, 0x6103, [(0, 0)], [], 32, 0x64, [
    ⟨"HOLD_LIMIT", 0, 16, .rw, true, false, .both⟩]⟩,
  ⟨0x6103, 0x6103, [(1, 1)], [], 64, 0x0, [
    ⟨"TWIN_REGION base", 0, 20, .rw, true, false, .both⟩,
    ⟨"TWIN_REGION size", 20, 20, .rw, true, false, .both⟩,
    ⟨"reserved", 40, 24, .rsv, false, false, .both⟩]⟩,
  ⟨0x6104, 0x6104, [(0, 0)], [], 32, 0x0, [
    ⟨"CRABS", 0, 32, .ro, false, false, .both⟩]⟩,
  ⟨0x6104, 0x6104, [(1, 1)], [], 64, 0x0, [
    ⟨"HOLD_CCLK", 0, 64, .ro, false, false, .both⟩]⟩,
  ⟨0x6104, 0x6104, [(2, 2)], [], 64, 0x0, [
    ⟨"STRETCH_CCLK", 0, 64, .ro, false, false, .both⟩]⟩,
  ⟨0x6104, 0x6104, [(3, 3)], [], 64, 0x0, [
    ⟨"DEFERRALS", 0, 64, .ro, false, false, .both⟩]⟩,
  ⟨0x6104, 0x6104, [(4, 4)], [], 64, 0x0, [
    ⟨"CHECKPOINTS_SENT", 0, 64, .ro, false, false, .both⟩]⟩]

/-- Objects of index 0x6000, sweep array and stroke engine. -/
def objRows6c : List ObjRow := [
  ⟨0x6110, 0x6110, [(0, 255)], [], 64, 0x0, [
    ⟨"CTX", 0, 12, .rw, true, false, .both⟩,
    ⟨"V", 12, 1, .rw, true, false, .both⟩,
    ⟨"ENTRY", 13, 16, .rw, true, false, .both⟩,
    ⟨"ABANDON", 29, 16, .rw, true, false, .both⟩,
    ⟨"GROUP0", 45, 4, .rw, true, false, .both⟩,
    ⟨"NGROUPS", 49, 5, .rw, true, false, .both⟩,
    ⟨"MIRROR_OPT", 54, 1, .rw, true, false, .both⟩,
    ⟨"reserved", 55, 9, .rsv, false, false, .both⟩]⟩,
  ⟨0x6111, 0x6111, [(0, 255)], [], 64, 0x0, [
    ⟨"LAND_BASE", 0, 11, .rw, true, false, .both⟩,
    ⟨"LAND_BLOCKS", 11, 12, .rw, true, false, .both⟩,
    ⟨"reserved", 23, 41, .rsv, false, false, .both⟩]⟩,
  ⟨0x6120, 0x6120, [(0, 63)], [], 64, 0x0, [
    ⟨"PRE", 0, 1, .rw, true, false, .both⟩,
    ⟨"HALL", 1, 1, .rw, true, false, .both⟩,
    ⟨"INPUT_LO", 2, 7, .rw, true, false, .both⟩,
    ⟨"INPUT_HI", 9, 7, .rw, true, false, .both⟩,
    ⟨"reserved", 16, 48, .rsv, false, false, .both⟩]⟩,
  ⟨0x6200, 0x627F, [(0, 255)], [], 128, 0x0, [
    ⟨"Pattern bytes", 0, 128, .rw, false, false, .both⟩]⟩,
  ⟨0x6400, 0x67FF, [(0, 255)], [], 128, 0x0, [
    ⟨"Bundle bits", 0, 128, .rw, false, false, .both⟩]⟩]

/-- Objects of index 0x7000, collectives. -/
def objRows7a : List ObjRow := [
  ⟨0x7000, 0x7000, [(0, 0)], [(0, 0)], 32, 0xFFFF, [
    ⟨"COLL_PLANES", 0, 16, .rw, true, false, .both⟩]⟩,
  ⟨0x7000, 0x7000, [(1, 1)], [(1, 1)], 32, 0x10000, [
    ⟨"SMALL_BYTES", 0, 32, .rw, true, false, .both⟩]⟩,
  ⟨0x7000, 0x7000, [(2, 2)], [(2, 2)], 32, 0x100000, [
    ⟨"HALL_DIRECT_BYTES", 0, 32, .rw, true, false, .both⟩]⟩,
  ⟨0x7000, 0x7000, [(3, 3)], [(3, 3)], 64, 0x108, [
    ⟨"NARROW_RACKS", 0, 7, .rw, true, false, .both⟩,
    ⟨"reserved", 7, 1, .rsv, false, false, .both⟩,
    ⟨"NARROW_FMT", 8, 2, .rw, true, false, .both⟩,
    ⟨"reserved", 10, 54, .rsv, false, false, .both⟩]⟩,
  ⟨0x7000, 0x7000, [(4, 4)], [(4, 4)], 32, 0x2710, [
    ⟨"COLL_TIMEOUT", 0, 32, .rw, true, false, .both⟩]⟩,
  ⟨0x7000, 0x7000, [(5, 5)], [], 32, 0x2AB98, [
    ⟨"STRAG_CCLK", 0, 32, .rw, true, false, .both⟩]⟩,
  ⟨0x7010, 0x701F, [(0, 255)], [(0, 255)], 64, 0x0, [
    ⟨"GROUP descriptor", 0, 64, .rw, true, false, .both⟩]⟩,
  ⟨0x7100, 0x710F, [(0, 255)], [(0, 255)], 64, 0x80000000, [
    ⟨"OP", 0, 4, .rw, true, false, .both⟩,
    ⟨"ROP", 4, 3, .rw, true, false, .both⟩,
    ⟨"GROUP", 7, 12, .rw, true, false, .both⟩,
    ⟨"IN_FMT", 19, 4, .rw, true, false, .both⟩,
    ⟨"OUT_FMT", 23, 4, .rw, true, false, .both⟩,
    ⟨"IN_SCALED", 27, 1, .rw, true, false, .both⟩,
    ⟨"OUT_SCALED", 28, 1, .rw, true, false, .both⟩,
    ⟨"MODE", 29, 2, .rw, true, false, .both⟩,
    ⟨"MODE_AUTO", 31, 1, .rw, true, false, .both⟩,
    ⟨"RND", 32, 2, .rw, true, false, .both⟩,
    ⟨"PATH", 34, 2, .rw, true, false, .both⟩,
    ⟨"PKG", 36, 1, .rw, true, false, .both⟩,
    ⟨"RESIDUAL", 37, 1, .rw, true, false, .both⟩,
    ⟨"EN", 38, 1, .rw, true, false, .both⟩,
    ⟨"ROOT", 39, 13, .rw, true, false, .both⟩,
    ⟨"ROT", 52, 4, .rw, true, false, .both⟩,
    ⟨"reserved", 56, 8, .rsv, false, false, .both⟩]⟩,
  ⟨0x7110, 0x711F, [(0, 255)], [(0, 255)], 64, 0x0, [
    ⟨"COUNT", 0, 32, .rw, true, false, .both⟩,
    ⟨"XFORM", 32, 1, .rw, true, false, .both⟩,
    ⟨"RANK", 33, 2, .rw, true, false, .both⟩,
    ⟨"RLOG", 35, 4, .rw, true, false, .both⟩,
    ⟨"TENANT", 40, 8, .rw, true, false, .both⟩,
    ⟨"reserved", 48, 16, .rsv, false, false, .both⟩]⟩,
  ⟨0x7120, 0x712F, [(0, 255)], [(0, 255)], 64, 0x0, [
    ⟨"SEED", 0, 64, .rw, true, false, .both⟩]⟩,
  ⟨0x7130, 0x713F, [(0, 255)], [], 64, 0x0, [
    ⟨"STATE_BASE", 0, 20, .rw, true, false, .both⟩,
    ⟨"STATE_SIZE", 20, 20, .rw, true, false, .both⟩,
    ⟨"RES_OFF", 40, 20, .rw, true, false, .both⟩,
    ⟨"reserved", 60, 4, .rsv, false, false, .both⟩]⟩,
  ⟨0x7140, 0x714F, [(0, 255)], [(0, 255)], 64, 0x0, [
    ⟨"LAUNCH", 0, 32, .ro, false, false, .both⟩,
    ⟨"BUSY", 32, 1, .ro, false, false, .both⟩]⟩,
  ⟨0x7300, 0x7300, [(0, 255)], [(0, 255)], 64, 0x0, [
    ⟨"REP_CTX", 0, 12, .rw, true, false, .both⟩,
    ⟨"REP_MEMBER", 12, 13, .rw, true, false, .both⟩,
    ⟨"REP_BACKUP", 25, 13, .rw, true, false, .both⟩,
    ⟨"REP_EN", 38, 1, .rw, true, false, .both⟩,
    ⟨"reserved", 39, 25, .rsv, false, false, .both⟩]⟩,
  ⟨0x7400, 0x740F, [(0, 255)], [], 64, 0x0, [
    ⟨"LAST_LATE_MEMBER", 0, 13, .ro, false, false, .both⟩,
    ⟨"LAST_LATENESS", 13, 32, .ro, false, false, .both⟩,
    ⟨"LATE_LAUNCHES", 45, 19, .ro, false, false, .both⟩]⟩]

/-- Objects of index 0x7000, collectives. -/
def objRows7b : List ObjRow := [
  ⟨0x7410, 0x741F, [(0, 255)], [], 32, 0x0, [
    ⟨"MAX_LATENESS", 0, 32, .ro, false, false, .both⟩]⟩,
  ⟨0x7420, 0x7420, [(0, 71)], [], 64, 0x0, [
    ⟨"SLOT_LATENESS_SUM", 0, 64, .ro, false, false, .both⟩]⟩,
  ⟨0x7500, 0x7500, [(0, 0)], [(0, 0)], 32, 0x0, [
    ⟨"REPECHAGE_DISCARDS", 0, 32, .ro, false, false, .both⟩]⟩,
  ⟨0x7500, 0x7500, [(1, 1)], [(1, 1)], 32, 0x0, [
    ⟨"COLL_TIMEOUTS", 0, 32, .ro, false, false, .both⟩]⟩,
  ⟨0x7500, 0x7500, [(2, 2)], [(2, 2)], 32, 0x0, [
    ⟨"LSEQ_DROPS", 0, 32, .ro, false, false, .both⟩]⟩]

/-- Objects of index 0x8000, security. -/
def objRows8a : List ObjRow := [
  ⟨0x8000, 0x8000, [(0, 0)], [(0, 0)], 64, 0x2, [
    ⟨"SECURE_READY", 0, 1, .ro, false, false, .both⟩,
    ⟨"ENTROPY_STATE", 1, 2, .ro, false, false, .both⟩,
    ⟨"reserved", 3, 61, .rsv, false, false, .both⟩]⟩,
  ⟨0x8000, 0x8000, [(1, 1)], [(1, 1)], 32, 0x0, [
    ⟨"ENTROPY_RESTART", 0, 1, .wo, false, true, .both⟩]⟩,
  ⟨0x8000, 0x8000, [(2, 2)], [(2, 2)], 32, 0x0, [
    ⟨"RCT_FAILS", 0, 16, .ro, false, false, .both⟩,
    ⟨"RCT_FAILS", 16, 16, .ro, false, false, .both⟩]⟩,
  ⟨0x8000, 0x8000, [(3, 3)], [(3, 3)], 32, 0x0, [
    ⟨"ENTROPY_RELEASES", 0, 32, .ro, false, false, .both⟩]⟩,
  ⟨0x8001, 0x8001, [], [(0, 0)], 32, 0x0, [
    ⟨"ASSIGNED_TENANT", 0, 8, .rw, true, false, .both⟩]⟩,
  ⟨0x8010, 0x8010, [(0, 71)], [], 32, 0x0, [
    ⟨"SLOT_TENANT", 0, 8, .rw, true, false, .both⟩]⟩,
  ⟨0x8011, 0x8011, [(0, 88)], [], 32, 0x0, [
    ⟨"PARTITION_DROPS", 0, 32, .ro, false, false, .both⟩]⟩,
  ⟨0x8012, 0x8012, [(0, 3)], [], 64, 0x0, [
    ⟨"TENANT_PRESENT", 0, 64, .rw, true, false, .both⟩]⟩,
  ⟨0x8020, 0x8020, [(0, 88)], [(0, 15)], 64, 0x0, [
    ⟨"ENC_REQUIRED", 0, 1, .rw, true, false, .both⟩,
    ⟨"ENC_ACTIVE", 1, 1, .ro, false, false, .both⟩,
    ⟨"reserved", 2, 62, .rsv, false, false, .both⟩]⟩,
  ⟨0x8021, 0x8021, [(0, 88)], [(0, 15)], 32, 0x0, [
    ⟨"ENC_AUTH_FAILS", 0, 32, .ro, false, false, .both⟩]⟩,
  ⟨0x8030, 0x8032, [], [(0, 255)], 128, 0x0, [
    ⟨"BROKER_DIGEST", 0, 128, .rw, true, false, .both⟩]⟩,
  ⟨0x8040, 0x8040, [], [(0, 255)], 64, 0x0, [
    ⟨"FULL", 0, 1, .ro, false, false, .both⟩,
    ⟨"TENANT", 1, 8, .ro, false, false, .both⟩,
    ⟨"KEY_ID", 9, 32, .ro, false, false, .both⟩,
    ⟨"reserved", 41, 23, .rsv, false, false, .both⟩]⟩,
  ⟨0x8041, 0x8041, [], [(0, 3)], 64, 0x0, [
    ⟨"KEY_ERASE", 0, 64, .wo, false, true, .both⟩]⟩,
  ⟨0x8050, 0x8050, [(0, 3)], [], 64, 0x0, [
    ⟨"KEY_RETIRE", 0, 64, .rw, true, true, .both⟩]⟩]

/-- Objects of index 0x8000, security. -/
def objRows8b : List ObjRow := [
  ⟨0x8051, 0x8051, [(0, 3)], [], 64, 0x0, [
    ⟨"KEY_READY", 0, 64, .ro, false, false, .both⟩]⟩,
  ⟨0x8100, 0x8100, [(0, 255)], [(0, 255)], 128, 0x0, [
    ⟨"REQ_BUF", 0, 128, .wo, false, false, .both⟩]⟩,
  ⟨0x8101, 0x8101, [(0, 255)], [(0, 255)], 128, 0x0, [
    ⟨"RSP_BUF", 0, 128, .ro, false, false, .both⟩]⟩,
  ⟨0x8102, 0x8102, [(0, 0)], [(0, 0)], 64, 0x0, [
    ⟨"REQ_LEN", 0, 13, .rw, false, false, .both⟩,
    ⟨"GO", 13, 1, .rw, false, false, .both⟩,
    ⟨"RSP_LEN", 14, 13, .ro, false, false, .both⟩,
    ⟨"reserved", 27, 37, .rsv, false, false, .both⟩]⟩,
  ⟨0x8110, 0x8110, [(0, 17)], [(0, 17)], 128, 0x0, [
    ⟨"Measurement index i", 0, 128, .ro, false, false, .both⟩]⟩]

/-- Objects of index 0x9000, faults. -/
def objRows9a : List ObjRow := [
  ⟨0x9000, 0x9000, [(0, 0)], [(0, 0)], 64, 0x0, [
    ⟨"UNLOCKED", 0, 1, .ro, false, false, .both⟩,
    ⟨"NONCE_READY", 1, 1, .ro, false, false, .both⟩,
    ⟨"UNLOCK_REQ", 2, 1, .rw, false, true, .both⟩,
    ⟨"UNLOCK_GO", 3, 1, .rw, false, true, .both⟩,
    ⟨"LOCK", 4, 1, .rw, false, true, .both⟩,
    ⟨"reserved", 5, 59, .rsv, false, false, .both⟩]⟩,
  ⟨0x9000, 0x9000, [(1, 6)], [(1, 6)], 64, 0x0, [
    ⟨"UNLOCK_NONCE", 0, 64, .ro, false, false, .both⟩]⟩,
  ⟨0x9001, 0x9001, [(0, 23)], [(0, 23)], 64, 0x0, [
    ⟨"UNLOCK_DATA", 0, 64, .rw, false, false, .both⟩]⟩,
  ⟨0x9002, 0x9002, [(0, 5)], [(0, 5)], 64, 0x0, [
    ⟨"DEBUG_AUTH_DIGEST", 0, 64, .rw, true, false, .both⟩]⟩,
  ⟨0x9010, 0x9010, [(0, 0)], [(0, 0)], 64, 0x400, [
    ⟨"INJ_POINT", 0, 8, .rw, true, false, .both⟩,
    ⟨"INJ_MODE", 8, 2, .rw, true, false, .both⟩,
    ⟨"INJ_N", 10, 16, .rw, true, false, .both⟩,
    ⟨"reserved", 26, 38, .rsv, false, false, .both⟩]⟩,
  ⟨0x9010, 0x9010, [(1, 1)], [(1, 1)], 64, 0x0, [
    ⟨"INJ_ARG", 0, 64, .rw, true, false, .both⟩]⟩,
  ⟨0x9010, 0x9010, [(2, 2)], [(2, 2)], 32, 0x0, [
    ⟨"INJECTIONS", 0, 32, .ro, false, false, .both⟩]⟩,
  ⟨0x9020, 0x9020, [(0, 0)], [], 32, 0x18, [
    ⟨"SCRUB_PERIOD", 0, 8, .rw, true, false, .both⟩]⟩,
  ⟨0x9020, 0x9020, [(1, 1)], [], 32, 0x0, [
    ⟨"SCRUB_POS", 0, 30, .ro, false, false, .both⟩]⟩,
  ⟨0x9020, 0x9020, [(2, 2)], [], 32, 0x0, [
    ⟨"SCRUB_PASSES", 0, 32, .ro, false, false, .both⟩]⟩,
  ⟨0x9021, 0x9021, [(0, 0)], [], 64, 0x0, [
    ⟨"HBM_CE", 0, 64, .ro, false, false, .both⟩]⟩,
  ⟨0x9021, 0x9021, [(1, 1)], [], 32, 0x0, [
    ⟨"HBM_UE", 0, 32, .ro, false, false, .both⟩]⟩,
  ⟨0x9021, 0x9021, [(2, 2)], [(2, 2)], 64, 0x0, [
    ⟨"SRAM_CE", 0, 64, .ro, false, false, .both⟩]⟩,
  ⟨0x9021, 0x9021, [(3, 3)], [(3, 3)], 32, 0x0, [
    ⟨"SRAM_UE", 0, 32, .ro, false, false, .both⟩]⟩]

/-- Objects of index 0x9000, faults. -/
def objRows9b : List ObjRow := [
  ⟨0x9021, 0x9021, [(4, 4)], [(4, 4)], 32, 0x0, [
    ⟨"POISON_CONSUMED", 0, 32, .ro, false, false, .both⟩]⟩,
  ⟨0x9022, 0x9022, [(0, 0)], [], 64, 0x0, [
    ⟨"LAST_DEFERRED", 0, 30, .ro, false, false, .both⟩,
    ⟨"LAST_DEFERRED_TENANT", 30, 8, .ro, false, false, .both⟩]⟩,
  ⟨0x9023, 0x9023, [(0, 0)], [(0, 0)], 32, 0x0, [
    ⟨"PARITY_STOPPED", 0, 16, .ro, false, false, .both⟩]⟩,
  ⟨0x9030, 0x9030, [], [(0, 0)], 64, 0x54600030064, [
    ⟨"E2E_TIMEOUT", 0, 16, .rw, true, false, .both⟩,
    ⟨"RETRY_MAX", 16, 3, .rw, true, false, .both⟩,
    ⟨"reserved", 19, 13, .rsv, false, false, .both⟩,
    ⟨"DEDUP_LIFE", 32, 16, .rw, true, false, .both⟩,
    ⟨"reserved", 48, 16, .rsv, false, false, .both⟩]⟩,
  ⟨0x9030, 0x9030, [], [(1, 1)], 64, 0x0, [
    ⟨"DEDUP_EN", 0, 1, .rw, true, false, .both⟩,
    ⟨"reserved", 1, 24, .rsv, false, false, .both⟩,
    ⟨"DEDUP_BASE", 25, 27, .rw, true, false, .both⟩,
    ⟨"reserved", 52, 12, .rsv, false, false, .both⟩]⟩,
  ⟨0x9031, 0x9031, [], [(0, 0)], 64, 0x0, [
    ⟨"RETRIES", 0, 64, .ro, false, false, .both⟩]⟩,
  ⟨0x9031, 0x9031, [(1, 1)], [(1, 1)], 32, 0x0, [
    ⟨"TIMEOUTS", 0, 32, .ro, false, false, .both⟩]⟩,
  ⟨0x9031, 0x9031, [(2, 2)], [(2, 2)], 64, 0x0, [
    ⟨"DUPLICATES", 0, 64, .ro, false, false, .both⟩]⟩,
  ⟨0x9031, 0x9031, [(3, 3)], [(3, 3)], 32, 0x0, [
    ⟨"QUIET_TAGS", 0, 15, .ro, false, false, .both⟩]⟩,
  ⟨0x9031, 0x9031, [], [(4, 4)], 32, 0x0, [
    ⟨"DEDUP_REFUSED", 0, 32, .ro, false, false, .both⟩]⟩,
  ⟨0x9040, 0x9040, [], [(0, 0)], 64, 0x0, [
    ⟨"COLL_VIA_TWIN", 0, 16, .rw, true, false, .both⟩,
    ⟨"COLL_PAUSE", 16, 1, .rw, true, false, .both⟩,
    ⟨"reserved", 17, 47, .rsv, false, false, .both⟩]⟩,
  ⟨0x9041, 0x9041, [(0, 0)], [], 64, 0xA0, [
    ⟨"STAND_IN", 0, 1, .ro, false, false, .both⟩,
    ⟨"FENCED", 1, 1, .rw, true, false, .both⟩,
    ⟨"END_STAND_IN", 2, 1, .rw, true, true, .both⟩,
    ⟨"TAKEOVER_WAIT", 3, 16, .rw, true, false, .both⟩,
    ⟨"reserved", 19, 45, .rsv, false, false, .both⟩]⟩,
  ⟨0x9042, 0x9042, [(0, 255)], [], 64, 0x0, [
    ⟨"CTX", 0, 12, .rw, true, false, .both⟩,
    ⟨"V", 12, 1, .rw, true, false, .both⟩,
    ⟨"ENTRY", 13, 16, .rw, true, false, .both⟩,
    ⟨"GROUP0", 29, 4, .rw, true, false, .both⟩,
    ⟨"NGROUPS", 33, 5, .rw, true, false, .both⟩,
    ⟨"LAND_BASE", 38, 11, .rw, true, false, .both⟩,
    ⟨"LAND_BLOCKS", 49, 12, .rw, true, false, .both⟩,
    ⟨"reserved", 61, 3, .rsv, false, false, .both⟩]⟩,
  ⟨0x9050, 0x9050, [(0, 3)], [(0, 3)], 64, 0x0, [
    ⟨"ROW_CCLK", 0, 64, .ro, false, false, .both⟩]⟩]

/-- Objects of index 0xA000, power. -/
def objRowsAa : List ObjRow := [
  ⟨0xA000, 0xA000, [(0, 0)], [(0, 0)], 64, 0x0, [
    ⟨"VCORE_EST", 0, 16, .ro, false, false, .both⟩,
    ⟨"VCORE_PEAK", 16, 16, .ro, false, false, .both⟩,
    ⟨"reserved", 32, 32, .rsv, false, false, .both⟩]⟩,
  ⟨0xA000, 0xA000, [(1, 1)], [(1, 1)], 64, 0x10000, [
    ⟨"CURRENT_CAP", 0, 16, .rw, true, false, .both⟩,
    ⟨"BALLAST_EN", 16, 1, .rw, true, false, .ox⟩,
    ⟨"reserved", 17, 47, .rsv, false, false, .both⟩]⟩,
  ⟨0xA000, 0xA000, [(2, 2)], [(2, 2)], 64, 0x0, [
    ⟨"SLEW_DEFERRALS", 0, 64, .ro, false, false, .both⟩]⟩,
  ⟨0xA000, 0xA000, [(3, 3)], [(3, 3)], 64, 0x0, [
    ⟨"THROTTLE_CCLK", 0, 64, .ro, false, false, .both⟩]⟩,
  ⟨0xA001, 0xA001, [(0, 0)], [(0, 0)], 32, 0x0, [
    ⟨"RAIL_GOOD", 0, 10, .ro, false, false, .both⟩,
    ⟨"THROTTLING", 10, 1, .ro, false, false, .both⟩,
    ⟨"reserved", 11, 21, .rsv, false, false, .both⟩]⟩,
  ⟨0xA002, 0xA002, [(0, 15)], [(0, 15)], 32, 0x0, [
    ⟨"TEMP", 0, 16, .ro, false, false, .both⟩]⟩,
  ⟨0xA002, 0xA002, [(16, 16)], [(16, 16)], 64, 0x47E041A, [
    ⟨"THROTTLE_C", 0, 16, .rw, true, false, .both⟩,
    ⟨"TRIP_C", 16, 16, .rw, true, false, .both⟩,
    ⟨"THROTTLE_CAP", 32, 16, .rw, true, false, .both⟩,
    ⟨"reserved", 48, 16, .rsv, false, false, .both⟩]⟩,
  ⟨0xA003, 0xA003, [(0, 0)], [(0, 0)], 32, 0x0, [
    ⟨"CCLK_LOCK", 0, 1, .ro, false, false, .both⟩,
    ⟨"MGMT_LOCK", 1, 1, .ro, false, false, .both⟩,
    ⟨"PCIE_LOCK", 2, 1, .ro, false, false, .both⟩,
    ⟨"HBM_LOCK", 3, 4, .ro, false, false, .ox⟩,
    ⟨"reserved", 7, 25, .rsv, false, false, .both⟩]⟩,
  ⟨0xA004, 0xA004, [(0, 0)], [(0, 0)], 32, 0x0, [
    ⟨"WARM_RESET", 0, 1, .rw, true, true, .both⟩,
    ⟨"PLANE_RESET", 1, 1, .rw, true, true, .ox⟩,
    ⟨"STROKE_RESET", 2, 1, .rw, true, true, .ox⟩,
    ⟨"BLOCK_RESET", 3, 1, .rw, true, true, .both⟩,
    ⟨"UNIT_KIND", 4, 3, .rw, true, false, .both⟩,
    ⟨"UNIT", 7, 8, .rw, true, false, .both⟩,
    ⟨"reserved", 15, 17, .rsv, false, false, .both⟩]⟩,
  ⟨0xA004, 0xA004, [(1, 1)], [(1, 1)], 32, 0x0, [
    ⟨"LAST_RESET", 0, 3, .ro, false, false, .both⟩,
    ⟨"reserved", 3, 13, .rsv, false, false, .both⟩,
    ⟨"RESET_COUNT", 16, 16, .ro, false, false, .both⟩]⟩,
  ⟨0xA005, 0xA005, [(0, 0)], [(0, 0)], 64, 0x0, [
    ⟨"FW_STATE", 0, 2, .ro, false, false, .both⟩,
    ⟨"FW_GO", 2, 1, .rw, false, true, .both⟩,
    ⟨"reserved", 3, 29, .rsv, false, false, .both⟩,
    ⟨"FW_LEN", 32, 24, .rw, false, false, .both⟩,
    ⟨"reserved", 56, 8, .rsv, false, false, .both⟩]⟩]

/-- Objects of index 0xB000, endpoint. -/
def objRowsBa : List ObjRow := [
  ⟨0xB100, 0xB100, [], [(0, 63)], 32, 0x0, [
    ⟨"EN", 0, 1, .rw, true, false, .both⟩,
    ⟨"reserved", 1, 7, .rsv, false, false, .both⟩,
    ⟨"TENANT", 8, 8, .rw, true, false, .both⟩]⟩,
  ⟨0xB101, 0xB101, [], [(0, 63)], 64, 0x0, [
    ⟨"reserved", 0, 20, .rsv, false, false, .both⟩,
    ⟨"L1_BASE", 20, 32, .rw, true, false, .both⟩,
    ⟨"reserved", 52, 12, .rsv, false, false, .both⟩]⟩,
  ⟨0xB102, 0xB102, [], [(0, 0)], 64, 0x0, [
    ⟨"INVAL_CMD", 0, 64, .wo, false, false, .both⟩]⟩,
  ⟨0xB102, 0xB102, [], [(1, 1)], 32, 0x0, [
    ⟨"INVAL_ISSUED", 0, 16, .ro, false, false, .both⟩]⟩,
  ⟨0xB102, 0xB102, [], [(2, 2)], 32, 0x0, [
    ⟨"INVAL_DONE", 0, 16, .ro, false, false, .both⟩]⟩,
  ⟨0xB102, 0xB102, [], [(3, 3)], 32, 0x0, [
    ⟨"INVAL_DROPPED", 0, 32, .ro, false, false, .both⟩]⟩,
  ⟨0xB103, 0xB103, [], [(0, 0)], 64, 0x0, [
    ⟨"reserved", 0, 12, .rsv, false, false, .both⟩,
    ⟨"FAULT_RING_BASE", 12, 40, .rw, true, false, .both⟩,
    ⟨"reserved", 52, 12, .rsv, false, false, .both⟩]⟩,
  ⟨0xB103, 0xB103, [], [(1, 1)], 32, 0x0, [
    ⟨"FAULT_PROD", 0, 16, .ro, false, false, .both⟩]⟩,
  ⟨0xB103, 0xB103, [], [(2, 2)], 32, 0x0, [
    ⟨"FAULT_CONS", 0, 16, .rw, false, false, .both⟩]⟩,
  ⟨0xB103, 0xB103, [], [(3, 3)], 32, 0x0, [
    ⟨"FAULT_DROPPED", 0, 32, .ro, false, false, .both⟩]⟩,
  ⟨0xB104, 0xB104, [], [(0, 0)], 64, 0x0, [
    ⟨"reserved", 0, 29, .rsv, false, false, .both⟩,
    ⟨"HOME_BASE", 29, 23, .rw, true, false, .both⟩,
    ⟨"reserved", 52, 12, .rsv, false, false, .both⟩]⟩,
  ⟨0xB104, 0xB104, [], [(1, 1)], 32, 0x0, [
    ⟨"HOME_GRANULES", 0, 12, .rw, true, false, .both⟩]⟩,
  ⟨0xB105, 0xB105, [], [(0, 0)], 64, 0x0, [
    ⟨"TLB_HITS", 0, 64, .ro, false, false, .both⟩]⟩,
  ⟨0xB105, 0xB105, [], [(1, 1)], 64, 0x0, [
    ⟨"TLB_MISSES", 0, 64, .ro, false, false, .both⟩]⟩]

/-- Objects of index 0xB000, endpoint. -/
def objRowsBb : List ObjRow := [
  ⟨0xB105, 0xB105, [], [(2, 2)], 64, 0x0, [
    ⟨"WALKS", 0, 64, .ro, false, false, .both⟩]⟩,
  ⟨0xB105, 0xB105, [], [(3, 3)], 64, 0x0, [
    ⟨"WALKS_MERGED", 0, 64, .ro, false, false, .both⟩]⟩,
  ⟨0xB110, 0xB117, [], [(0, 255)], 32, 0x0, [
    ⟨"reserved", 0, 5, .rsv, false, false, .both⟩,
    ⟨"PENDING", 5, 1, .ro, false, false, .both⟩,
    ⟨"CREW", 6, 1, .rw, true, false, .both⟩,
    ⟨"MODE", 7, 2, .rw, true, false, .both⟩,
    ⟨"OWNER", 9, 7, .rw, true, false, .both⟩,
    ⟨"TENANT", 16, 8, .rw, true, false, .both⟩,
    ⟨"EPOCH", 24, 8, .ro, false, false, .both⟩]⟩,
  ⟨0xB118, 0xB118, [], [(0, 255)], 32, 0x0, [
    ⟨"VIOLATIONS", 0, 32, .ro, false, false, .both⟩]⟩,
  ⟨0xB119, 0xB119, [], [(0, 0)], 64, 0x0, [
    ⟨"LAST_REGION", 0, 11, .ro, false, false, .both⟩,
    ⟨"LAST_SOURCE", 11, 13, .ro, false, false, .both⟩,
    ⟨"reserved", 24, 8, .rsv, false, false, .both⟩,
    ⟨"LAST_ACCESS", 32, 4, .ro, false, false, .both⟩,
    ⟨"LAST_CAUSE", 36, 4, .ro, false, false, .both⟩,
    ⟨"LAST_TENANT", 40, 8, .ro, false, false, .both⟩,
    ⟨"reserved", 48, 16, .rsv, false, false, .both⟩]⟩,
  ⟨0xB119, 0xB119, [], [(1, 1)], 32, 0x0, [
    ⟨"VIOLATION_EVENTS_SUPPRESSED", 0, 32, .ro, false, false, .both⟩]⟩,
  ⟨0xB119, 0xB119, [], [(2, 2)], 32, 0x0, [
    ⟨"REORDER_DISCARDS", 0, 32, .ro, false, false, .both⟩]⟩,
  ⟨0xB11A, 0xB11A, [], [(0, 0)], 32, 0x0, [
    ⟨"DIR_LINES", 0, 21, .ro, false, false, .both⟩]⟩,
  ⟨0xB11A, 0xB11A, [], [(1, 1)], 64, 0x0, [
    ⟨"DIR_RECALLS", 0, 64, .ro, false, false, .both⟩]⟩,
  ⟨0xB11A, 0xB11A, [], [(2, 2)], 32, 0x0, [
    ⟨"SNOOP_TIMEOUTS", 0, 32, .ro, false, false, .both⟩]⟩,
  ⟨0xB000, 0xB003, [], [(0, 255)], 64, 0x0, [
    ⟨"EN", 0, 1, .rw, true, false, .both⟩,
    ⟨"reserved", 1, 7, .rsv, false, false, .both⟩,
    ⟨"RING_ORDER", 8, 4, .rw, true, false, .both⟩,
    ⟨"RING_BASE", 12, 40, .rw, true, false, .both⟩,
    ⟨"ENGINE", 52, 4, .rw, true, false, .both⟩,
    ⟨"TENANT", 56, 8, .rw, true, false, .both⟩]⟩,
  ⟨0xB004, 0xB007, [], [(0, 255)], 64, 0x0, [
    ⟨"reserved", 0, 8, .rsv, false, false, .both⟩,
    ⟨"CQ_ORDER", 8, 4, .rw, true, false, .both⟩,
    ⟨"CQ_BASE", 12, 40, .rw, true, false, .both⟩,
    ⟨"reserved", 52, 12, .rsv, false, false, .both⟩]⟩,
  ⟨0xB008, 0xB00B, [], [(0, 255)], 64, 0x0, [
    ⟨"HEAD", 0, 16, .ro, false, false, .both⟩,
    ⟨"TAIL", 16, 16, .ro, false, false, .both⟩,
    ⟨"STATE", 32, 2, .ro, false, false, .both⟩,
    ⟨"reserved", 34, 14, .rsv, false, false, .both⟩,
    ⟨"CQ_PROD", 48, 16, .ro, false, false, .both⟩]⟩,
  ⟨0xB00C, 0xB00F, [], [(0, 255)], 32, 0x0, [
    ⟨"CMD", 0, 2, .wo, false, false, .both⟩]⟩]

/-- Objects of index 0xB000, endpoint. -/
def objRowsBc : List ObjRow := [
  ⟨0xB010, 0xB013, [], [(0, 255)], 32, 0x0, [
    ⟨"CQ_CONS", 0, 16, .rw, false, false, .both⟩]⟩,
  ⟨0xB014, 0xB017, [], [(0, 255)], 32, 0x0, [
    ⟨"DOORBELL", 0, 16, .wo, false, false, .both⟩]⟩,
  ⟨0xB020, 0xB03F, [], [(0, 255)], 64, 0x0, [
    ⟨"VALUE", 0, 32, .rw, false, false, .both⟩,
    ⟨"STATUS", 32, 8, .rw, false, false, .both⟩,
    ⟨"TENANT", 40, 8, .rw, true, false, .both⟩,
    ⟨"reserved", 48, 16, .rsv, false, false, .both⟩]⟩,
  ⟨0xB040, 0xB040, [], [(0, 15)], 64, 0x0, [
    ⟨"BYTES_MOVED", 0, 64, .ro, false, false, .both⟩]⟩,
  ⟨0xB041, 0xB041, [], [(0, 15)], 32, 0x0, [
    ⟨"BURSTS_IN_FLIGHT", 0, 10, .ro, false, false, .both⟩]⟩,
  ⟨0xB042, 0xB042, [], [(0, 0)], 32, 0x0, [
    ⟨"LS_OUTSTANDING", 0, 14, .ro, false, false, .both⟩]⟩,
  ⟨0xB042, 0xB042, [], [(1, 1)], 32, 0x0, [
    ⟨"DOORBELL_REJECTS", 0, 32, .ro, false, false, .both⟩]⟩,
  ⟨0xB042, 0xB042, [], [(2, 2)], 32, 0x0, [
    ⟨"MARKS_HELD", 0, 9, .ro, false, false, .both⟩]⟩,
  ⟨0xB042, 0xB042, [], [(3, 3)], 32, 0x0, [
    ⟨"RESENDS", 0, 32, .ro, false, false, .both⟩]⟩,
  ⟨0xB200, 0xB200, [], [(0, 3)], 64, 0x0, [
    ⟨"INDIR", 0, 64, .ro, false, false, .both⟩]⟩,
  ⟨0xB201, 0xB201, [], [(0, 0)], 32, 0x0, [
    ⟨"LIVE_MASK", 0, 16, .ro, false, false, .both⟩]⟩,
  ⟨0xB202, 0xB202, [], [(0, 71)], 32, 0x0, [
    ⟨"EXCLUDE", 0, 16, .ro, false, false, .both⟩]⟩,
  ⟨0xB203, 0xB203, [], [(0, 0)], 32, 0x0, [
    ⟨"NACKS", 0, 32, .ro, false, false, .both⟩]⟩,
  ⟨0xB203, 0xB203, [], [(1, 1)], 32, 0x0, [
    ⟨"EPOCH_BUMPS", 0, 32, .ro, false, false, .both⟩]⟩]

/-- Objects of index 0xB000, endpoint. -/
def objRowsBd : List ObjRow := [
  ⟨0xB300, 0xB300, [], [(0, 255)], 64, 0x400000, [
    ⟨"INJ_RATE", 0, 16, .rw, true, false, .both⟩,
    ⟨"INJ_BURST", 16, 16, .rw, true, false, .both⟩,
    ⟨"reserved", 32, 32, .rsv, false, false, .both⟩]⟩,
  ⟨0xB400, 0xB400, [], [(0, 0)], 64, 0x0, [
    ⟨"ARRIVAL_REDUCTIONS", 0, 64, .ro, false, false, .both⟩]⟩,
  ⟨0xB400, 0xB400, [], [(1, 1)], 64, 0x0, [
    ⟨"ANCHOR_BREACHES", 0, 64, .ro, false, false, .both⟩]⟩,
  ⟨0xB400, 0xB400, [], [(2, 2)], 64, 0x0, [
    ⟨"NAN_ZEROED", 0, 64, .ro, false, false, .both⟩]⟩,
  ⟨0xB400, 0xB400, [], [(3, 3)], 64, 0x0, [
    ⟨"SATURATIONS", 0, 64, .ro, false, false, .both⟩]⟩]

/-- Objects of index 0xC000, time. -/
def objRowsCa : List ObjRow := [
  ⟨0xC000, 0xC000, [(0, 0)], [(0, 0)], 64, 0x0, [
    ⟨"STROKE_COUNT", 0, 48, .ro, false, false, .both⟩,
    ⟨"reserved", 48, 16, .rsv, false, false, .both⟩]⟩,
  ⟨0xC000, 0xC000, [(1, 1)], [], 64, 0x180, [
    ⟨"PRIORITY", 0, 8, .rw, true, false, .both⟩,
    ⟨"MASTER_ELIGIBLE", 8, 1, .rw, true, false, .both⟩,
    ⟨"reserved", 9, 55, .rsv, false, false, .both⟩]⟩,
  ⟨0xC000, 0xC000, [(2, 2)], [(2, 2)], 64, 0x0, [
    ⟨"SYNCED", 0, 1, .ro, false, false, .both⟩,
    ⟨"MASTER", 1, 1, .ro, false, false, .both⟩,
    ⟨"HALL_SYNCED", 2, 1, .ro, false, false, .both⟩,
    ⟨"MASTER_ID", 3, 10, .ro, false, false, .both⟩,
    ⟨"reserved", 13, 51, .rsv, false, false, .both⟩]⟩,
  ⟨0xC000, 0xC000, [(3, 3)], [], 32, 0x0, [
    ⟨"HALL_OFFSET", 0, 32, .ro, false, false, .both⟩]⟩,
  ⟨0xC010, 0xC010, [(0, 2)], [], 64, 0x0, [
    ⟨"Counters of R334", 0, 64, .ro, false, false, .both⟩]⟩,
  ⟨0xC010, 0xC010, [(3, 3)], [(3, 3)], 64, 0x0, [
    ⟨"ND_TOTAL", 0, 64, .ro, false, false, .both⟩]⟩,
  ⟨0xC020, 0xC020, [(0, 0)], [], 64, 0x8, [
    ⟨"GW_MODE", 0, 2, .rw, true, false, .both⟩,
    ⟨"DIGEST_EN", 2, 1, .rw, true, false, .both⟩,
    ⟨"WRAP", 3, 1, .rw, true, false, .both⟩,
    ⟨"reserved", 4, 60, .rsv, false, false, .both⟩]⟩,
  ⟨0xC020, 0xC020, [(1, 1)], [], 64, 0x0, [
    ⟨"GW_REGION base", 0, 20, .rw, true, false, .both⟩,
    ⟨"GW_REGION size", 20, 20, .rw, true, false, .both⟩,
    ⟨"reserved", 40, 24, .rsv, false, false, .both⟩]⟩,
  ⟨0xC020, 0xC020, [(2, 2)], [], 64, 0x0, [
    ⟨"GW_RECORDS", 0, 48, .ro, false, false, .both⟩]⟩,
  ⟨0xC020, 0xC020, [(3, 3)], [], 32, 0x0, [
    ⟨"GW_DROPS", 0, 32, .ro, false, false, .both⟩]⟩,
  ⟨0xC020, 0xC020, [(4, 4)], [], 32, 0x0, [
    ⟨"DIVERGENCES", 0, 32, .ro, false, false, .both⟩]⟩,
  ⟨0xC020, 0xC020, [(5, 5)], [], 64, 0x0, [
    ⟨"FIRST_DIVERGENCE", 0, 48, .ro, false, false, .both⟩]⟩]

/-- Every object that a B0 part implements (R440). -/
def objRows : List ObjRow :=
  objRows1a ++ objRows2a ++ objRows2b ++ objRows3a ++ objRows4a ++ objRows5a ++ objRows5b ++ objRows5c ++ objRows6a ++ objRows6b ++ objRows6c ++ objRows7a ++ objRows7b ++ objRows8a ++ objRows8b ++ objRows9a ++ objRows9b ++ objRowsAa ++ objRowsBa ++ objRowsBb ++ objRowsBc ++ objRowsBd ++ objRowsCa

/-- The rows of an index range 0xk000 (R381). -/
def rowsOf : Nat → List ObjRow
  | 0x1 => objRows1a
  | 0x2 => objRows2a ++ objRows2b
  | 0x3 => objRows3a
  | 0x4 => objRows4a
  | 0x5 => objRows5a ++ objRows5b ++ objRows5c
  | 0x6 => objRows6a ++ objRows6b ++ objRows6c
  | 0x7 => objRows7a ++ objRows7b
  | 0x8 => objRows8a ++ objRows8b
  | 0x9 => objRows9a ++ objRows9b
  | 0xA => objRowsAa
  | 0xB => objRowsBa ++ objRowsBb ++ objRowsBc ++ objRowsBd
  | 0xC => objRowsCa
  | _ => []

/-- The subindex ranges of a row in a part. -/
def ObjRow.subs (r : ObjRow) : Part → List (Nat × Nat)
  | .ox720 => r.ox
  | .oe36 => r.oe

/-- The row that gives object `key` = index × 256 + subindex in a part; `none` where the part does not implement it (R440). -/
def findRow (p : Part) (key : Nat) : Option ObjRow :=
  (rowsOf (key / 2 ^ 20)).find? (fun r => decide (r.i0 ≤ key / 256) && decide (key / 256 ≤ r.i1)
    && (r.subs p).any (fun s => decide (s.1 ≤ key % 256) && decide (key % 256 ≤ s.2)))

/-- A field that belongs to the other part is reserved in this one (R441). -/
def Fld.accIn (f : Fld) (p : Part) : Acc :=
  match f.only, p with
  | .ox, .oe36 => .rsv
  | .oe, .ox720 => .rsv
  | _, _ => f.acc

/-- The bits of an object that satisfy a condition on their field. -/
def ObjRow.maskOf (r : ObjRow) (c : Fld → Bool) : Obj :=
  r.flds.foldl (fun m f => if c f then setBits m f.lo f.w (2 ^ f.w - 1) else m) 0

/-- Bits of fields applied at catch. -/
def ObjRow.catchMask (r : ObjRow) (p : Part) : Obj :=
  r.maskOf (fun f => f.atCatch && (f.accIn p == .rw || f.accIn p == .wo))

/-- Bits of writable fields applied at once. -/
def ObjRow.immMask (r : ObjRow) (p : Part) : Obj :=
  r.maskOf (fun f => !f.atCatch && (f.accIn p == .rw || f.accIn p == .wo))

/-- Bits that no writable field holds: reserved bits within the width. Bits within an object's width that no row of its table lists (0x7110 [39], 0x5303 [31:16], 0xB100 [31:16]) are taken as reserved: the spec names them nowhere (DESIGN CHOICE, log). -/
def ObjRow.reservedMask (r : ObjRow) (p : Part) : Obj :=
  BitVec.ofNat 128 (2 ^ r.width - 1) &&& ~~~ (r.maskOf (fun f => f.accIn p != .rsv))

/-- Bits that read as zero: write-only fields and action fields (R382). -/
def ObjRow.hiddenMask (r : ObjRow) (p : Part) : Obj :=
  r.maskOf (fun f => f.accIn p == .wo || f.reads0)

/-- Does the object hold a field applied at catch? -/
def ObjRow.staged (r : ObjRow) (p : Part) : Bool :=
  r.flds.any (fun f => f.atCatch && (f.accIn p == .rw || f.accIn p == .wo))

/-- Are all fields of the object RO (or reserved RO) in the part (R382)? -/
def ObjRow.allRo (r : ObjRow) (p : Part) : Bool :=
  r.flds.all (fun f => f.accIn p == .ro || f.acc == .ro || f.accIn p == .rsv)

/-- Default watermarks of a queue instance (07, 0x5301): HIGH_WM and LOW_WM. -/
def wmDefault (ii : Nat) : Nat × Nat :=
  if ii < 0x60 then (0, 0) else if ii < 0xA0 then (192, 128) else if ii < 0xB0 then (768, 512) else (96, 64)

/-- Features of a queue instance by kind (07, R159): bit 0 SPILL, 1 WMARK, 2 PACK, 3 STALL, 4 MARK. -/
def instFeatures (ii : Nat) : Nat :=
  if ii < 0x60 then 16 else if ii < 0xA0 then 3 else if ii < 0xB0 then 27 else 15

/-- Receive credits by network (06, R116). -/
def crewCreditDefault (p : Part) (net : Nat) : Nat :=
  match net with
  | 0 => 576
  | 1 => match p with
    | .ox720 => 576
    | .oe36 => 1152
  | 2 => 1152
  | 4 => 36
  | _ => 0
def hallCreditDefault (net : Nat) : Nat := if net = 3 then 2304 else if net = 4 then 36 else 0
def bridgeCreditDefault (net : Nat) : Nat := if net = 2 then 1152 else if net = 4 then 36 else 0

/-- The identity lane map: logical lane i on physical lane i (12, 0x3002). -/
def laneMapDefault (w : Nat) : Nat := (List.range w).foldl (fun a i => a + i * 2 ^ (5 * i)) 0

/-- Number of logical lanes of link `pp` (12, R273; 13, R304). -/
def laneCount (p : Part) (pp : Nat) : Nat :=
  match p with
  | .oe36 => 4
  | .ox720 => if pp < 0x48 then 4 else 16

/-- Number of physical lanes of link `pp`, spares included (12, R273; 13, R303). -/
def physLanes (p : Part) (pp : Nat) : Nat :=
  match p with
  | .oe36 => 5
  | .ox720 => if pp < 0x48 then 5 else if pp < 0x58 then 18 else 20

/-- The default of an object (R383): the table's value, and the values that depend on the part, on the subindex or on a strap. -/
def objDefault (p : Part) (serial straps : Nat) (key : Nat) : Obj :=
  let idx := key / 256
  let sub := key % 256
  let v := match findRow p key with
    | some r => r.dflt
    | none => 0
  BitVec.ofNat 128 <|
    if key = 0x100000 then (match p with
      | .ox720 => 0x0720
      | .oe36 => 0x0036)
    else if key = 0x100004 then serial
    else if key = 0x100006 then (match p with
      | .ox720 => 1
      | .oe36 => 0)
    else if 0xB110 ≤ idx ∧ idx ≤ 0xB117 then straps % 128 * 2 ^ 9
    else if idx = 0x5230 then crewCreditDefault .ox720 sub + hallCreditDefault sub * 2 ^ 16 + bridgeCreditDefault sub * 2 ^ 32
    else if idx = 0xB200 then 0xFEDCBA9876543210
    else if idx = 0x5300 then instFeatures sub
    else if idx = 0x5301 then (wmDefault sub).1 + (wmDefault sub).2 * 2 ^ 32
    else if idx = 0x6000 then (if sub < 96 then sub * 4 else 1 + 0x7F * 4)
    else if idx = 0x6001 then sub
    else if idx = 0x3002 then laneMapDefault (laneCount p sub)
    else if key = 0x400000 then v + straps / 16 % 2
    else if key = 0x801200 then 1
    else if key = 0xA00001 then (match p with
      | .ox720 => 1100 + 2 ^ 16
      | .oe36 => 150)
    else if key = 0xA00210 then v + (match p with
      | .ox720 => 700
      | .oe36 => 90) * 2 ^ 32
    else v

end Sys2Proof.Machine
end

