-- ==== Sys2Proof/Machine/State.lean ====
section
/-!
DEFINITION. The state of the block: one OE36 and one OX720, the queue of waiting commands and the free-value counter; State.reset.
-/
namespace Sys2Proof.Machine

/-- The faults of the block. No command stops it: every error of the spec is answered by a next state. -/
inductive Fault where
  /-- Raised by no command; safe. The type names the outcome that the interface offers. -/
  | unreached
deriving DecidableEq, Repr

/-- The refusals. -/
inductive Refusal where
  /-- Raised by a dispatch arm whose command has no meaning yet; safe. -/
  | notModelled (mnemonic : String)
deriving DecidableEq, Repr

/-- What leaves a part, oldest first in `Common.out`. -/
inductive Out where
  | packet (pp : Nat) (p : Packet)
  | ctrl (pp : Nat) (flit : List Byte)
  | flits (pp : Nat) (l : List (List Byte))
  | linkSignal (pp : Nat) (what : String) (v : Nat)
  | ucieResponse (tag : Nat) (status : Nat) (data : List Byte)
  | ucieGrant (tag : Nat) (status : Nat) (grant : Nat) (data : List Byte)
  | ucieSnoop (share : Bool) (home : Nat) (tag : Nat) (fpa : Nat)
  | memRd (id apa len : Nat)
  | memWr (id apa : Nat) (mask : BitVec 256) (data : List Byte) (poison : Bool)
  | pin (name : String) (level : Nat)
  | haoth (dst : Nat) (op : Nat) (tid : Nat) (status : Nat) (count : Nat) (valid : Nat) (body : List Byte)
  | completerAbort (offset : Nat)
  | msix (vector : Nat)
deriving DecidableEq, Repr

/-- The encryption session of one link (R346, R347): group sequences and key updates of the two directions. -/
structure Session where
  id : Nat
  txSeq : Nat
  rxSeq : Nat
  txUpdates : Nat
  rxUpdates : Nat
deriving DecidableEq, Repr

/-- The parts of a link's state that no object shows (12). Of each network: `adv`, `used` and `freed` are the credits the far end advertised, those consumed and the far end's count of those freed; `taken` the credits of packets received, `myFreed` those freed and `reported` the count last sent; `stale` those of packets from before the last EXCHANGE, whose return is not reported. `quar`: quarantined since a discovery check failed and until one passes (R137); `waits`: it waits in EXCHANGE without the far end's or its own PASS; `judgeDue`: its record is complete, and is checked after the catch of this CCLK. `replaying`: the NEXT being replayed and its stroke count; `nakHeld`: a NAK that waits while an FCI pin holds the replay buffer's reads (R165). Swaps under way (R293): of the receiver `swapRx` (logical lane, spare, codeword and MCOUNT once answered), of the transmitter `swapTx` (logical lane, spare, codeword, MCOUNT); `swapNak`: the NAK after a swap is owed; `swapAsk`: lanes that ask for the last spare in this CCLK (logical and physical lane, whether it is lost; R300). `symErrors`: corrected symbols of each physical lane in the millisecond since `symSince`. `recAt`: when the record last went out; `pulseAt`: when presence was last pulsed. `ends`: of each RESULT and MIRROR packet in the replay buffer, the count of flits at its end, the launch key (8,192 and the context for a MIRROR) and its chunk (of a MIRROR, MKIND and the offset). STATE, FEATHER bits, LANES_USABLE and LINK_DOWN_CAUSE live in 0x3001, the receive lane map in 0x3002. -/
structure Link where
  since : Nat := 0
  frags : List (Nat × List Byte) := []
  farRec : Option (List Byte) := none
  fullRec : Option (List Byte) := none
  sentReceived : Bool := false
  myPass : Option Bool := none
  farPass : Option Bool := none
  quar : Bool := false
  waits : Bool := false
  judgeDue : Bool := false
  shortExchange : Bool := false
  keyMsg : List Byte := []
  keyStage : Nat := 0
  session : Option Session := none
  txCount : Nat := 0
  relCount : Nat := 0
  dlvCount : Nat := 0
  replayBuf : List (List Byte) := []
  ends : List (Nat × Nat × Nat) := []
  replaying : Option (Nat × Nat) := none
  nakHeld : Option Nat := none
  waitReplay : Option Nat := none
  nakRun : Nat := 0
  ackOwed : Bool := false
  lastAck : Nat := 0
  partial_ : List (List Byte) := []
  adv : List Nat := [0, 0, 0, 0, 0]
  used : List Nat := [0, 0, 0, 0, 0]
  freed : List Nat := [0, 0, 0, 0, 0]
  myFreed : List Nat := [0, 0, 0, 0, 0]
  reported : List Nat := [0, 0, 0, 0, 0]
  taken : List Nat := [0, 0, 0, 0, 0]
  stale : List Nat := [0, 0, 0, 0, 0]
  standby : List Nat := []
  outLanes : List Nat := []
  txMap : List Nat := []
  swapRx : List (Nat × Nat × Option (Nat × Nat)) := []
  swapTx : List (Nat × Nat × Nat × Nat) := []
  swapNak : Bool := false
  farCause : Nat := 7
  docking : Bool := false
  idleSince : Nat := 0
  lastRx : Nat := 0
  mcount : Nat := 0
  symErrors : SMap Nat := []
  symSince : Nat := 0
  swapAsk : List (Nat × Nat × Bool) := []
  recAt : Nat := 0
  pulseAt : Option Nat := none
deriving DecidableEq, Repr

/-- One key of the event rate limits: the code, the unit, the stroke count of the last record and the events suppressed since. -/
structure Rate where
  code : Nat
  unit : Nat
  last : Nat
  suppressed : Nat
deriving DecidableEq, Repr

/-- A master's event holding register (R403): up to four records, VALID bytes, EMPTY. -/
structure Holding where
  recs : List (BitVec 128) := []
  valid : Nat := 0
  empty : Bool := true
deriving DecidableEq, Repr

/-- Where a Haoth response goes: the requester's address, its TID, and at an OE36 the crew link over which the request was relayed (R392). -/
structure ReplyTo where
  src : Nat
  tid : Nat
  via : Option Nat
deriving DecidableEq, Repr

/-- A take from the event log that waits (R163, R164): its master, the stroke count at which STALL_LIMIT expires, and for an EVENT_READ its route, the words asked for and those taken. -/
structure Taker where
  m : Master
  until_ : Nat
  read : Option (ReplyTo × Nat × List (List (BitVec 128)))
deriving DecidableEq, Repr

/-- A management session of the SPDM responder (R354). -/
structure Spdm where
  id : Nat
  tenant : Nat
  pubDigest : BitVec 384
  mutualAuth : Bool
  finished : Bool
deriving DecidableEq, Repr

/-- Who waits for entropy (R358): 0 SPDM (`arg`: where in the response the random bytes go), 1 link `arg`, 2 boathouse keys (of tenant `arg`, 256: of all), 3 unlock nonce. -/
structure Waiter where
  consumer : Nat
  arg : Nat
  since : Nat
deriving DecidableEq, Repr

/-- A reset (R417 to R419): 0 warm, 1 plane, 2 stroke engine, 3 block, 4 held until PORST_N; its cause as LAST_RESET codes it; for a block reset the unit. -/
structure PendingReset where
  kind : Nat
  cause : Nat
  unitKind : Nat
  unit : Nat
deriving DecidableEq, Repr

/-- What both parts have. Of the event log of an OX720 (R161): the first `evtHead` records stand in its head buffer, the next `evtMid` in the boathouse, the others in the tail buffer; `evtRp` words have been read. `evtReads`: reads of the holding register that wait, each with its first object, its COUNT and its status. Of time (14): `announced` is VALUE, HSYNC, HALL and the sender of the ANNOUNCE that precedes the next pulse, `schedCur`, `dynCur`: the estimated VCORE current of the scheduled and of the dynamic domain in 1/1750 A, `vcorePeak` the highest sum in A (R410). `started` that a pulse has set the count since the last reset that cleared it. -/
structure Common where
  kind : Part
  straps : Nat
  regs : SMap Obj := []
  stroke : Nat := 0
  running : Bool := true
  -- commit and catch (17)
  armedAt : Option Nat := none
  scheduled : Bool := false
  commitMaster : Nat := 0
  ownerWrite : Nat := 0
  shadowErr : List Nat := []
  parityErr : List (Nat × Nat) := []
  -- event log (17)
  evtLog : List (BitVec 128) := []
  evtPending : List (Nat × BitVec 128) := []
  evtLost : Nat := 0
  evtAbove : Bool := false
  evtHead : Nat := 0
  evtMid : Nat := 0
  evtRp : Nat := 0
  notifyAt : Option Nat := none
  holdF : Holding := {}
  holdP : Holding := {}
  takers : List Taker := []
  evtReads : List (ReplyTo × Nat × Nat × Nat) := []
  fci : Nat := 0
  rates : List Rate := []
  -- Haoth (17)
  kept : List (Nat × Nat × Out) := []
  -- links (12)
  links : SMap Link := []
  txq : List (Nat × Packet) := []
  rx : List (Nat × Packet) := []
  -- security (15)
  sessions : List Spdm := []
  nextSession : Nat := 1
  spdmBusy : Option (List Byte) := none
  failedAt : Nat := 0
  autoRestarted : Bool := false
  waiters : List Waiter := []
  -- faults (16)
  injDone : Bool := false
  injSeen : Nat := 0
  -- time (14)
  announced : Option (Nat × Bool × Bool × Nat) := none
  started : Bool := false
  masterKnown : Bool := false
  lastPulse : Nat := 0
  -- power and reset (18)
  booted : Bool := false
  fwDigest : BitVec 384 := 0
  inReset : Bool := false
  failed : Bool := false
  voptBad : Bool := false
  schedCur : Nat := 0
  dynCur : Nat := 0
  vcorePeak : Nat := 0
  resetPending : Option PendingReset := none
  resetRunning : Option PendingReset := none
  ctlDue : List (Nat × Nat × Nat) := []
  out : List Out := []
deriving DecidableEq, Repr

/-- An entry of the TLB or of a micro-TLB (03): context, page size, page number (FVA[51:35] or FVA[51:29]) and the leaf. -/
structure TlbEnt where
  ctx : Nat
  big : Bool
  page : Nat
  leaf : BitVec 64
deriving DecidableEq, Repr

/-- Who waits for a translation: a load/store request by its tag, or granule `i` of the translation list of an issued descriptor. -/
inductive Client where
  | ls (tag : Nat)
  | desc (q n i : Nat)
deriving DecidableEq, Repr

/-- The outcome of a translation (R48 to R50): the leaf and its page size, or a cause with level and entry (R60). -/
inductive Xlat where
  | ok (leaf : BitVec 64) (big : Bool)
  | fail (cause level : Nat) (pte : BitVec 64)
deriving DecidableEq, Repr

/-- A miss in the miss queue or being walked (R53). -/
structure Miss where
  ctx : Nat
  granule : Nat
  clients : List Client
  walking : Bool
  level : Nat
  l1 : BitVec 64
  stale : Bool
deriving DecidableEq, Repr

/-- A pending invalidation (R55): its command and what condition 3 waits for, by tag of a transaction and by queue and count of a descriptor. -/
structure Inval where
  cmd : BitVec 64
  tags : List Nat
  descs : List (Nat × Nat)
deriving DecidableEq, Repr

inductive LsKind where
  | read
  | write
  | atomic
  | fence
  | rdShared
  | rdOwn
  | upgrade
  | writeback
  | evict
deriving DecidableEq, Repr

/-- Whose transaction a tag carries. -/
inductive Owner where
  | ls
  | tileRead (q n pos len : Nat)
  | tileWrite (q n len : Nat)
  | batch (q n i : Nat)
  | batchResult (q n : Nat)
  | counter (q n : Nat)
  | handoff (q n : Nat)
deriving DecidableEq, Repr

/-- A transaction: one tag's request and its response (16). -/
structure Txn where
  tag : Nat
  dst : Nat
  pkts : List Packet
  ord : Bool
  ch : Nat
  tenant : Nat
  tries : Nat
  plane : Option Nat
  sentAt : Nat
  owner : Owner
  ctx : Nat
  fva : Nat
deriving DecidableEq, Repr

/-- A load/store request that has not been answered (R91), in arrival order. `waitWalk`: it missed while the miss queue was full (R53). `answer`: data held for UCIe order, with the completed transaction `held` (R369). -/
structure LsReq where
  kind : LsKind
  tag : Nat
  ctx : Nat
  fva : Nat
  size : Nat
  ord : Bool
  ch : Nat
  mask : BitVec 256
  data : List Byte
  op : Nat
  typ : Nat
  operand : BitVec 64
  compare : BitVec 64
  poison : Bool
  xl : Option Xlat
  waitWalk : Bool
  sent : Bool
  answer : Option (Nat × List Byte)
  held : Option Txn
deriving DecidableEq, Repr

/-- An ordered channel of the issuer (R120 to R123). `plane = none`: no plane was live; `stopped`: it waits to re-pin. -/
structure Chan where
  dst : Nat
  ch : Nat
  tenant : Nat
  epoch : Nat
  seq : Nat
  plane : Option Nat
  stopped : Bool
deriving DecidableEq, Repr

/-- A fetched descriptor: its count, its eight words, `none` while the fetch read is out, and whether the checks of R97 at the head of its queue have passed. -/
structure FDesc where
  n : Nat
  words : Option (List (BitVec 64))
  checked : Bool := false
deriving DecidableEq, Repr

/-- The parts of a command queue that no object shows (R93 to R97): descriptors fetched and not issued, counts that RESTART passes over, records waiting for space, the fence that holds issue back, the TAIL of an ABORT in progress and the next count that it fetches, EN set again while DRAINING. -/
structure Queue where
  fetched : List FDesc := []
  passOver : List Nat := []
  records : List (BitVec 128) := []
  fence : Option Nat := none
  abortTo : Option Nat := none
  abortAt : Nat := 0
  enAgain : Bool := false
deriving DecidableEq, Repr

/-- A source piece of a tile that has come back: its linear position, data, and whether it came without data (R101) or poisoned (R365). -/
structure Piece where
  pos : Nat
  len : Nat
  data : List Byte
  lost : Bool
  poison : Bool
deriving DecidableEq, Repr

/-- The values of a collective context and its group that a launch runs under (R221, R222): objects 0x7100, 0x7110, 0x7120, 0x7130 and the group descriptor. -/
structure Cfg where
  a : BitVec 64
  b : BitVec 64
  seed : BitVec 64
  area : BitVec 64
  grp : BitVec 64
deriving DecidableEq, Repr

/-- An issued descriptor that has not completed. `grans`: the granules to translate in order, each with its side, lowest address, access code of R60 and rights; `xl`: their outcomes. `stage`: of a descriptor that reads a record before its last checks (the list of R102, the blob header of R351, the extension record of R223), 1 while it reads it and 2 once it is checked; `srcPos`: the bytes of its source asked for so far. `waitsFor`, `waitsXl`, `waitsRuns`: what a handoff or an ENDPOINT fence waits for, by tag of a transaction, tag of a load/store request not sent yet, queue and count. Of a launch: `cfg` and `no`, its context and launch number at issue (R222), and `order`, its place among the launches issued. -/
structure Run where
  q : Nat
  n : Nat
  engine : Nat
  tenant : Nat
  words : List (BitVec 64)
  grans : List (Bool × Nat × Nat × Nat) := []
  xl : List (Option Xlat) := []
  started : Bool := false
  rdPos : Nat := 0
  wrPos : Nat := 0
  burst : Nat := 0
  pieces : List Piece := []
  list : List Byte := []
  olds : List (BitVec 64) := []
  stage : Nat := 0
  srcPos : Nat := 0
  header : List Byte := []
  keyOk : Bool := false
  keyBytes : List Byte := []
  keyId : Nat := 0
  keyAt : Nat := 0
  poisoned : Bool := false
  segment : Nat := 0
  digestInput : List Byte := []
  outstanding : Nat := 0
  status : List Nat := []
  detail : Nat := 0
  retries : Nat := 0
  finished : Bool := false
  waitsFor : List Nat := []
  waitsXl : List Nat := []
  waitsRuns : List (Nat × Nat) := []
  bufs : List Nat := []
  cfg : Option Cfg := none
  no : Nat := 0
  order : Nat := 0
deriving DecidableEq, Repr

/-- The phase of an access at the home (R105): waiting its turn in block order, reading the block, writing it. -/
inductive Phase where
  | queued
  | snooping
  | reading (id : Nat)
  | writing (id : Nat) (old : BitVec 64) (poison : Bool)
deriving DecidableEq, Repr

/-- An access at the home, in block order (R62): its arrival number and stroke count, where it came from, the mask half of a masked write. A chunk of a RESULT and a COMPLETE wait here too (R75). -/
structure HomeOp where
  seq : Nat
  at_ : Nat
  via : Via
  p : Packet
  mask : Option (List Byte)
  phase : Phase
deriving DecidableEq, Repr

/-- A channel at the home (R68, R123): source endpoint ID, channel, tenant, current epoch, next expected SEQ. -/
structure HChan where
  src : Nat
  ch : Nat
  tenant : Nat
  epoch : Nat
  expect : Nat
deriving DecidableEq, Repr

/-- A directory entry (R82): state 1 S, 2 E, 3 M; presence vector. -/
structure DirEnt where
  line : Nat
  st : Nat
  vec : Nat
deriving DecidableEq, Repr

/-- A snoop without its reply (R82 to R84): its tag, line and member, the access it serves (none: a recovery), whether it invalidates, when it was sent and how often it was resent. -/
structure Snoop where
  tag : Nat
  line : Nat
  member : Nat
  op : Option Nat
  inv : Bool
  sentAt : Nat
  tries : Nat
deriving DecidableEq, Repr

/-- A launch at a member's OE36 (R222 to R226, R239): its descriptor, its context, the planes of its path, its place among the launches of its group, the chunks sent to each plane, the chunk whose data is being read (`want`), the chunks to send again (plane, PREPASS, index), the bytes P sent per plane, the COMPLETEs (plane, status, DETAIL) and RELEASEs. -/
structure MLaunch where
  ctx : Nat
  q : Nat
  n : Nat
  lseq : Nat
  backup : Bool
  slot : Nat
  index : Nat
  cfg : Cfg
  planes : List Nat
  collPlanes : List Nat
  mode : Nat
  latency : Bool
  rctr : Nat
  rcEn : Bool
  issuedAt : Nat
  dstFpa : Nat
  dstScale : Nat
  lead : Bool
  weight : Bool
  sentPre : SMap Nat
  sentData : SMap Nat
  todo : List (Nat × Bool × Nat)
  want : Option (Nat × Bool × Nat) := none
  pre : SMap (List Nat) := []
  completed : List (Nat × Nat × Nat)
  released : List Nat
  order : Nat
deriving DecidableEq, Repr

/-- A tenant's calendar-shaper state (R167): credit in 1/256 byte, slot of the last refill, the wheel slot it waits for. -/
structure Shaper where
  credit : Int
  last : Nat
  due : Option Nat
  active : Bool
deriving DecidableEq, Repr

/-- What the OE36 alone has. -/
structure Oe where
  tlb : List TlbEnt := []
  micro : List (Nat × TlbEnt) := []
  misses : List Miss := []
  invals : List Inval := []
  ls : List LsReq := []
  txns : List Txn := []
  used : SMap Nat := []
  quiet : List (Nat × Nat) := []
  chans : List Chan := []
  nacks : List (Nat × Nat × Nat) := []
  mid : List (Nat × Packet) := []
  rotation : Nat := 0
  queues : SMap Queue := []
  runs : List Run := []
  rr : SMap Nat := []
  selfq : List Packet := []
  -- the home
  nextMem : Nat := 0
  arrivals : Nat := 0
  memRds : List (Nat × Option (Nat × Nat)) := []
  hops : List HomeOp := []
  masks : List Packet := []
  hchans : List HChan := []
  reorder : List HomeOp := []
  dedup : SMap (BitVec 128) := []
  clearing : Bool := false
  intake : List HomeOp := []
  dir : List DirEnt := []
  snoopTag : Nat := 0
  snoops : List Snoop := []
  wbs : List (Nat × Option Nat × Nat) := []
  lastVia : Nat × Nat := (0, 0)
  late : List HomeOp := []
  -- collectives
  launches : List MLaunch := []
  launchOrder : Nat := 0
  -- keys
  weightKeys : SMap (List Byte) := []
  weightMeas : BitVec 384 := 0
  -- injection shaper
  shapers : SMap Shaper := []
  rackTaken : Option Nat := none
deriving DecidableEq, Repr

/-- A packet cell in use (R151, R155): the packet, its arrival stroke count, its reference count and the state bits SEEN and SUSPECT (ALLOC is being listed). `input` is the crossbar input it arrived on, `entry` the one at which its packet entered the switch, which after a wait in a spill queue is another; `pool`: it is charged to the shared pool, not to a reserve (R152); of a multicast result, `copies` names for each output the packet as its recipient gets it (R150, R233). -/
structure Cell where
  pkt : Packet
  arrived : Nat
  refs : Nat
  input : Nat
  entry : Nat := 0
  pool : Bool := true
  copies : List (Nat × Packet) := []
  seen : Bool := false
  suspect : Bool := false
deriving DecidableEq, Repr

/-- A virtual output queue (R142, R143): cells with the stroke count of their linking, oldest first, and the count of grants that passed it over. -/
structure Voq where
  cells : List (Nat × Nat) := []
  passed : Nat := 0
deriving DecidableEq, Repr

/-- A packet in a queue instance: the position of its first word, its words, its arrival stroke count, the crossbar input at which it entered the switch. -/
structure QItem where
  pos : Nat
  words : Nat
  pkt : Packet
  arrived : Nat
  input : Nat := 0
deriving DecidableEq, Repr

/-- A transfer in the crossbar (R144, R145): a cell granted from an input to an output that has not been handed on. -/
structure Flight where
  input : Nat
  output : Nat
  cell : Nat
deriving DecidableEq, Repr

/-- Credits withheld by an instance above its high watermark (R153, R160): the instance, the link, the network, how many. -/
structure Withheld where
  inst : Nat
  pp : Nat
  net : Nat
  n : Nat
deriving DecidableEq, Repr

/-- A queue instance (R160 to R162): the four positions, the packets from FP on, the words below `headEnd` stand in the head buffer and the words from `tailStart` on in the tail buffer. -/
structure QInst where
  wp : Nat := 0
  rp : Nat := 0
  mp : Nat := 0
  fp : Nat := 0
  items : List QItem := []
  headEnd : Nat := 0
  tailStart : Nat := 0
deriving DecidableEq, Repr

/-- A group vector register (R194, R249): 384 lanes of 64 bits (`[]`: all zero); what the lanes hold, by `form`: 0 FP32, 1 FP64, 2 a 64-bit integer, 3 AX64, 4 P form, 5 elements of a narrower float format or a block-scaled one, as FP64 bits; `code`: the format of forms 2 and 5; the sticky flags of each lane (R188: bit 0 POS_INF, 1 NEG_INF, 2 NAN; `[]`: none); the poisoned blocks among its 12; `scales`: the scale byte of each block that the conversion which wrote it chose (256, or `[]`: none); `fromHall`: partials read from the landing slots of racks. -/
structure VReg where
  lanes : List (BitVec 64) := []
  form : Nat := 0
  code : Nat := 1
  flags : List Nat := []
  poison : List Nat := []
  scales : List Nat := []
  fromHall : Bool := false
deriving DecidableEq, Repr

/-- A result of a GOP that is not readable yet (R250), and the lanes that acted. Register 32 is the mask M. -/
structure PendWrite where
  at_ : Nat
  reg : Nat
  v : VReg
  act : List Bool
deriving DecidableEq, Repr

/-- An entry of a context: its ENTRY and ABANDON bundles, its tile groups and its landing ring (0x6110, 0x6111); a stand-in entry (0x9042) has no ABANDON bundle of its own. -/
structure Entry where
  ctx : Nat
  entry : Nat
  abandon : Nat
  group0 : Nat
  ngroups : Nat
  mirror : Bool
  landBase : Nat
  landBlocks : Nat
deriving DecidableEq, Repr

/-- A landed block in the landing ring (R251): the chunk that fed it (input, block of the stream, staging words at `pos`), its bytes, a block's scale byte last, in the lane form `code` (a format code, 16 AX64, 17 a 64-bit integer; for PRE its bytes P), and whether an LND read freed the slot. `ctx` is a launch key: the context, plus 4,096 for a context of the twin; `half`: the second half of a hall block has not landed. -/
structure LandBlk where
  g : Nat
  ctx : Nat
  input : Nat
  hall : Bool
  pre : Bool
  weight : Bool
  block : Nat
  pos : Nat
  code : Nat
  data : List Byte
  poison : Bool
  freed : Bool
  half : Bool := false
deriving DecidableEq, Repr

/-- A result block written to XB (R201, R250): entered at `at_`, released when its checks passed, then waiting for the rest of its chunk (R252). `dest`: none for the members, else the racks of a hall step with LANES and PHASE; `member`: the one member that a SCAN's block is for. -/
structure ResBlk where
  g : Nat
  ctx : Nat
  block : Nat
  at_ : Nat
  dest : Option (List Nat × Nat × Nat)
  data : List Byte
  scale : List Byte
  poison : Bool
  released : Bool
  member : Option Nat := none
deriving DecidableEq, Repr

/-- A boathouse write of a group that waits for its block's checks (R201) or for the mirror (R267). One without data stands for an access that was not made (R207): its block completes with poison. -/
structure StateWrite where
  g : Nat
  ctx : Nat
  block : Nat
  addr : Nat
  data : List Byte
  poison : Bool
deriving DecidableEq, Repr

/-- A MIRROR packet that the bridge has not acknowledged (R265, R267): its context, `none` for a checkpoint or the offset of a STATE packet, and the group and block whose result waits for it. -/
structure MirrorOut where
  ctx : Nat
  offset : Option Nat
  g : Nat
  block : Nat
deriving DecidableEq, Repr

/-- What a tile group holds (R194, R249 to R253). `work`: the blocks that an operation without a cursor of its own acts on (R249): those last read (input, HALL, first block), none for those at the send cursor; `member`: the input of the rack that the read cursor last named; `computing`: a block has been begun whose result is not written yet (R194); `replayTo`: where the reading of the staging instance stood when it was rewound (R202); `badMem`: blocks being computed whose memory an SRAM error has struck (R363). -/
structure Group where
  bound : Option Nat := none
  rdInput : Nat := 0
  rdHall : Bool := false
  rdPre : Bool := false
  rdBlock : Nat := 0
  sendBlock : Nat := 0
  sendHall : Bool := false
  bhPtr : Nat := 0
  bhReady : Bool := false
  ksel : Nat := 0
  regs : SMap VReg := []
  mask : List Bool := []
  pend : List PendWrite := []
  busyUntil : Nat := 0
  work : Option (Nat × Bool × Nat) := none
  member : Nat := 0
  computing : Bool := false
  replayTo : Nat := 0
  badMem : List (Nat × Nat) := []
deriving DecidableEq, Repr

/-- A block being recomputed (R202, R203): the physical tile that does it, whether it is borrowed, the recomputations that failed, the stroke count at which it took its tile. -/
structure Recomp where
  g : Nat
  ctx : Nat
  block : Nat
  logical : Nat
  failedTile : Nat
  tile : Nat
  borrowed : Bool
  fails : Nat
  at_ : Nat := 0
deriving DecidableEq, Repr

/-- A member that has joined a launch at the switch (R233): its member index, its rack slot, whether it is the backup, RBASE, RCTR and RC_EN, and what it has been sent (BYTES, the worst status, COMPLETE). -/
structure Joined where
  member : Nat
  slot : Nat
  backup : Bool
  rbase : Nat
  rctr : Nat
  rcEn : Bool
  bytes : Nat := 0
  status : List Nat := []
  completed : Bool := false
deriving DecidableEq, Repr

/-- A result chunk held for an endpoint of a repechage slot that has not joined (R237): the launch key, the member index, whether it is for the backup, its bytes, the packet without the endpoint's place. -/
structure HeldRes where
  key : Nat
  member : Nat
  backup : Bool
  bytes : Nat
  pkt : Packet
deriving DecidableEq, Repr

/-- An endpoint of a repechage slot whose chunks a launch that has ended did not use (R236, R237): the launch key, its LSEQ, the endpoint; whether it has joined, whether the results held for it are gone, whether it has had RELEASE. -/
structure LateSlot where
  key : Nat
  seq : Nat
  member : Nat
  backup : Bool
  joined : Bool
  gone : Bool := false
  told : Bool := false
deriving DecidableEq, Repr

/-- A launch at the switch (R221, R233 to R241, R256). `firstAt` and `heldCclk`: the stroke count and HOLD_CCLK when its first chunk came; `image`: the number of the image it runs under; `stale`: a catch has changed its context since (R222); `seen`, `preDone`, `dataDone`: which endpoints (member, backup) have sent a chunk, their last PREPASS chunk, their last CONTRIB chunk; `lastAt`: when member or backup (plus 8,192) sent the latter; `winners`: decided repechage slots, with the stroke count; `released`: losers that have had RELEASE; `landed`: chunks that have landed, by input, PRE and number. `ended`: DONE has ended it, and its last results are on their way; `sentChunks`: result chunks that have left; `unacked`: the chunk of each RESULT packet that its crew port has not acknowledged. `twin` marks a launch served for the lost twin (R373). -/
structure SLaunch where
  ctx : Nat
  launch : Nat
  twin : Bool
  firstAt : Nat
  heldCclk : Nat := 0
  readyAt : Option Nat := none
  cfg : Cfg
  entry : Entry
  image : Nat := 0
  stale : Bool := false
  joined : List Joined := []
  lastAt : List (Nat × Nat) := []
  preDone : List (Nat × Bool) := []
  dataDone : List (Nat × Bool) := []
  seen : List (Nat × Bool) := []
  winners : List (Nat × Bool × Nat) := []
  released : List (Nat × Bool) := []
  landed : List (Nat × Bool × Nat) := []
  maxLate : Option Nat := none
  optrec : List Byte := []
  dispatched : Bool := false
  finishing : Bool := false
  finished : Bool := false
  poisoned : Bool := false
  hallStep : Nat := 63
  hallSent : SMap Nat := []
  skips : List Nat := []
  lo : Nat := 0
  hi : Nat := 0
  resume : Nat := 0
  sentChunks : List Nat := []
  unacked : List Nat := []
  ended : Bool := false
deriving DecidableEq, Repr

/-- A loaded image (R268 to R270) that retires: its ranges and its arrival map. -/
structure Image where
  bundleBase : Nat
  bundleCount : Nat
  patBase : Nat
  patCount : Nat
  arv : List (Bool × Bool × Nat × Nat)
deriving DecidableEq, Repr

/-- The stroke engine (R246, R255 to R258). `state` is the code of R246; the nominal count of the presented bundle is base + executed + held; `loops` is innermost first: the bundle after BEGIN and the counter. `acted`: the fields of the first repetition have acted; `half`: the first CCLK of this repetition is over (R205); `gdone`: the groups whose operation of this repetition has acted; `lastAct`: the stroke count at which the bundle last acted; `abandoned`: it runs the ABANDON bundle of a launch that has ended; `before`: the state to which HELD returns. `image`: the number of the image that the running launch runs under. -/
structure Engine where
  state : Nat := 0
  pc : Nat := 0
  ctx : Nat := 0
  rep : Nat := 0
  passed : Bool := false
  loops : List (Nat × Nat) := []
  base : Nat := 0
  executed : Nat := 0
  held : Nat := 0
  dispatchAt : Option Nat := none
  image : Nat := 0
  running : Bool := false
  finished : Bool := false
  acted : Bool := false
  half : Bool := false
  gdone : List Nat := []
  lastAct : Option Nat := none
  abandoned : Bool := false
  before : Nat := 0
deriving DecidableEq, Repr

/-- Holding water (R260 to R262, R373): the crab being answered, whether this switch drives the line for a crab, since when for a stand-in and from which stroke count, whether that drive is to end; the stroke counts at which the line was seen low and high; `limited`: HOLD_LIMIT has been reached. -/
structure Hold where
  crabAt : Option Nat := none
  crabbed : Bool := false
  drive : Bool := false
  standDrive : Option Nat := none
  standFrom : Option Nat := none
  standEnd : Bool := false
  seenLow : Option Nat := none
  seenHigh : Option Nat := none
  lineLow : Bool := false
  limited : Bool := false
  heldAt : Option Nat := none
deriving DecidableEq, Repr

/-- A fibre profile (R312): the far end's capability record, the receive lane map, the session. Its valid bit is 0x4020. -/
structure Profile where
  farRec : List Byte := []
  map : List Nat := []
  session : Option Session := none
deriving DecidableEq, Repr

/-- A steer order (R313, R317): the position, whether a bundle ordered it, its stroke count. -/
structure Steer where
  pos : Nat
  program : Bool
  at_ : Nat
deriving DecidableEq, Repr

/-- The parts of a hall port that no object shows (13). `phase` 0 none, 1 drain, 2 switch, 3 relock; `survey`: the position being tried; `fast`: a fast relock runs outside a steer; `full`: a full launch runs in NO_LINK; `rotaE`: the e of R316 last steered to; `badRead`: rings (transmit, number) whose last watchdog reading was bad; `ctlPending`: a catch has changed the port's control during a steer; `watchAt`, `trackAt`: when the watchdog last read and the heaters last moved. -/
structure HPort where
  steer : Option Steer := none
  phase : Nat := 0
  next : List Steer := []
  survey : Option Nat := none
  profiles : SMap Profile := []
  fast : Bool := false
  full : Bool := false
  noLinkSince : Nat := 0
  badRead : List (Bool × Nat) := []
  rotaE : Option Nat := none
  ctlPending : Bool := false
  watchAt : Option Nat := none
  trackAt : Option Nat := none
deriving DecidableEq, Repr

/-- The claim for start master of the rack or of the hall (R327). -/
structure Claiming where
  active : Bool := false
  round : Nat := 0
  since : Nat := 0
  deferred : Bool := false
deriving DecidableEq, Repr

/-- A chunk held back by Griward replay (R337) or by an injected delay (point 0x50): its group, the stroke count at which it lands, its place in staging, its packet and when it reached the switch. -/
structure GwHold where
  g : Nat
  at_ : Nat
  pos : Nat
  pkt : Packet
  arrived : Nat
deriving DecidableEq, Repr

/-- What the OX720 alone has. `deferDynamic` and `deferScheduled`: what the slew limiter defers in this CCLK (R410). `auditAt`: when the last audit pass began (R155); `fullWaiting`: the instances whose writer waits (R160); `policeAt`: one more than the 64-CCLK slot of each hall port's last policer refill (R171); `fibreRec`: the far record of a fibre that a survey left quarantined (R137). `ann`: the value on LOAD_ANN; `annPend`: the announcements that are not in effect yet, each with its value, the stroke count from which it is driven and the scheduled current then; `annEffect`, `annBase`: value and current of the one in effect (R411). `imageOn`: an image is active, `imageNo` its number; `retiring`: the retiring images with their numbers. -/
structure Ox where
  -- cells and crossbar (07)
  cells : SMap (Option Cell) := []
  fresh : Nat := 0
  freed : List Nat := []
  retired : List Nat := []
  voqs : SMap Voq := []
  deferDynamic : Bool := false
  gptr : SMap Nat := []
  aptr : SMap Nat := []
  pattern : Nat := 0
  egress : SMap (List Nat) := []
  egressLast : SMap Nat := []
  flight : List Flight := []
  withheld : List Withheld := []
  auditAt : Nat := 0
  fullWaiting : List Nat := []
  policeAt : SMap Nat := []
  unitQ : List (Nat × List (Nat × Packet)) := []
  insts : SMap QInst := []
  shapers : SMap Shaper := []
  policers : SMap (Option Nat) := []
  -- boathouse (07, 15, 16)
  bh : List Host.Cell := []
  bhPoison : List Nat := []
  bhOwner : SMap (Nat × Nat) := []
  keyGen : SMap Nat := []
  keyless : List Nat := []
  -- tiles (09)
  strikes : SMap (List Nat) := []
  partners : List (Nat × Nat) := []
  rotTable : List Byte := []
  rotPoison : List Nat := []
  sweepFailed : Bool := false
  fencing : List Nat := []
  groups : SMap Group := []
  recomps : List Recomp := []
  landed : List LandBlk := []
  results : List ResBlk := []
  stateWrites : List StateWrite := []
  -- stroke engine (11)
  eng : Engine := {}
  deferScheduled : Bool := false
  hold : Hold := {}
  sc : SMap Nat := []
  scPend : List Nat := []
  arv : SMap Nat := []
  arvPend : List Nat := []
  ready : List Nat := []
  hallHeld : List Nat := []
  imageOn : Bool := false
  imageNo : Nat := 0
  retiring : List (Nat × Image) := []
  ann : Nat := 0
  annPend : List (Nat × Nat × Nat) := []
  annEffect : Nat := 0
  annBase : Nat := 0
  ckptWait : Bool := false
  mirrorsOut : List MirrorOut := []
  ckptSeq : Nat := 0
  -- collectives (10)
  launches : List SLaunch := []
  heldResults : List HeldRes := []
  timedOut : List (Nat × Nat) := []
  lateSlots : List LateSlot := []
  answered : List (Nat × Nat × Nat) := []
  twinSeen : Bool := false
  bridgeDownAt : Option Nat := none
  twinLaunch : SMap Nat := []
  standResumed : List Nat := []
  standAt : Option Nat := none
  -- hall ports and comb (13)
  hports : SMap HPort := []
  fibreRec : SMap (List Byte) := []
  combSuitable : Bool := false
  combFlags : Nat := 0
  combRst : Nat := 0
  -- time (14)
  claiming : Claiming := {}
  claimDue : Bool := false
  hallClaiming : Claiming := {}
  pulseDue : Option Nat := none
  ssyncLow : Nat := 0
  pinged : Option (Nat × Nat) := none
  hallMaster : Bool := false
  hallAlign : Option Int := none
  -- Griward (14)
  gwWp : Nat := 0
  gwOffset : Int := 0
  gwHeld : List GwHold := []
  gwSeen : SMap Nat := []
deriving DecidableEq, Repr

/-- What the units of the block hold: what both parts have (of the endpoint `ep` and of the switch `sw`), what each alone has, and the free-value counter (the model's own). -/
structure Block where
  ep : Common
  sw : Common
  oe : Oe
  ox : Ox
  free : Nat
deriving DecidableEq, Repr

/-- What the cox core of a part alone reads and writes (17): the staged objects with their shadows (R394); the announcements of CATCH_ANN received and relayed (R398); STAGE_VIEW of each master; of each relayed request its TID, source, operation and when it was sent, and by link or endpoint and requester the bytes of a relayed frame so far (R392); stroke count, master, object, mask and value of the last object written (R400). -/
structure Mgmt where
  shadow : SMap Obj := []
  annSeen : List (Nat × Nat) := []
  annRelayed : List (Nat × Nat) := []
  stageViewF : Bool := false
  stageViewP : Bool := false
  relays : List (Nat × Nat × Nat × Nat) := []
  relayRx : List (Nat × Nat × List Byte) := []
  lastWrite : Option (Nat × Nat × Nat × Nat × Nat) := none
deriving DecidableEq, Repr

/-- The state: the units, the cox cores of the endpoint and of the switch, and the commands waiting. -/
structure State where
  blk : Block
  mgEp : Mgmt
  mgSw : Mgmt
  pending : List Instr
deriving DecidableEq, Repr

/-- The default of an applied object in a part: the table's, by strap, SERIAL or kind (R383). -/
def Common.dflt (c : Common) (key : Nat) : Obj := objDefault c.kind (Config.serial c.kind).toNat c.straps key

/-- A part right after power-on: every object at its default, nothing queued. The straps are those of slot T0.P0.D0 and of plane 0 with COMB_HOST high. -/
def Common.atReset (p : Part) : Common :=
  { kind := p, straps := match p with
      | .oe36 => 0
      | .ox720 => 16 }

/-- The units right after reset. -/
def Block.reset : Block := { ep := Common.atReset .oe36, sw := Common.atReset .ox720, oe := {}, ox := {}, free := 0 }

/-- The block right after reset. -/
def State.reset : State := { blk := Block.reset, mgEp := {}, mgSw := {}, pending := [] }

end Sys2Proof.Machine
end

