-- ==== Sys2Proof/Machine/Operands.lean ====
section
/-!
DEFINITION. Operand forms: the fields of packet headers (06, R110 to R114, R233), their builders, and the descriptor and record fields shared by the engines.
-/
namespace Sys2Proof.Machine

/-! ### Word 0 (R111) -/
def pNet (p : Packet) : Nat := bitsOf p.w0 0 3
def pLong (p : Packet) : Bool := bitsOf p.w0 3 1 == 1
def pOpc (p : Packet) : Nat := bitsOf p.w0 4 6
def pSrcSw (p : Packet) : Bool := bitsOf p.w0 23 1 == 1
def pDstSw (p : Packet) : Bool := bitsOf p.w0 37 1 == 1
/-- SRC and DST: an endpoint ID of 13 bits, or a switch ID of 10 above which the field is reserved. -/
def pSrc (p : Packet) : Nat := bitsOf p.w0 10 (if pSrcSw p then 10 else 13)
def pDst (p : Packet) : Nat := bitsOf p.w0 24 (if pDstSw p then 10 else 13)
def pTenant (p : Packet) : Nat := bitsOf p.w0 38 8
def pOrd (p : Packet) : Bool := bitsOf p.w0 46 1 == 1
def pCh (p : Packet) : Nat := bitsOf p.w0 47 4
def pEpoch (p : Packet) : Nat := bitsOf p.w0 51 4
def pPoison (p : Packet) : Bool := bitsOf p.w0 55 1 == 1
def pStatus (p : Packet) : Nat := bitsOf p.w0 56 8

/-! ### REQ and RSP words (R112) -/
def pTag (p : Packet) : Nat := bitsOf p.w1 0 14
def pSeq (p : Packet) : Nat := bitsOf p.w1 14 16
def pOwn (p : Packet) : Nat := bitsOf p.w1 30 2
def pGrant (p : Packet) : Nat := bitsOf p.w1 30 2
def pCc (p : Packet) : Bool := bitsOf p.w1 32 1 == 1
def pAop (p : Packet) : Nat := bitsOf p.w1 33 4
def pAtype (p : Packet) : Nat := bitsOf p.w1 37 3
def pBytes (p : Packet) : Nat := bitsOf p.w1 40 8 + 1
def pArrCtr (p : Packet) : Nat := bitsOf p.w1 48 13
def pArrEn (p : Packet) : Bool := bitsOf p.w1 61 1 == 1
def pRetry (p : Packet) : Bool := bitsOf p.w1 62 1 == 1
def pFpa (p : Packet) : Nat := bitsOf p.w2 0 47

/-! ### COLL words (R113, R233) -/
def cCtx (p : Packet) : Nat := bitsOf p.w1 0 12
def cMember (p : Packet) : Nat := bitsOf p.w1 12 7
def cStage (p : Packet) : Nat := bitsOf p.w1 19 3
def cBackup (p : Packet) : Bool := bitsOf p.w1 22 1 == 1
def cLast (p : Packet) : Bool := bitsOf p.w1 23 1 == 1
def cChunk (p : Packet) : Nat := bitsOf p.w1 24 32
/-- MKIND and the offset of a MIRROR packet (R266). -/
def mirrorArg (p : Packet) : Nat := bitsOf p.w3 14 32
def cFmt (p : Packet) : Nat := bitsOf p.w1 56 4
def cArrCtr (p : Packet) : Nat := bitsOf p.w3 0 13
def cArrEn (p : Packet) : Bool := bitsOf p.w3 13 1 == 1
def cRbase (p : Packet) : Nat := bitsOf p.w3 14 40
def cLseq (p : Packet) : Nat := bitsOf p.w3 54 4
def cWeight (p : Packet) : Bool := bitsOf p.w3 58 1 == 1
def cOptrec (p : Packet) : Bool := bitsOf p.w3 59 1 == 1
def cJoin (p : Packet) : Bool := bitsOf p.w3 60 1 == 1
def cBytes (p : Packet) : Nat := bitsOf p.w3 14 32
def cDetail (p : Packet) : Nat := bitsOf p.w3 46 8
def cFirst (p : Packet) : Nat := bitsOf p.w3 14 32
def cNchunk (p : Packet) : Nat := bitsOf p.w3 46 16
def cPre (p : Packet) : Bool := bitsOf p.w3 62 1 == 1

/-! ### HALL words (R114) -/
def hHlen (p : Packet) : Nat := bitsOf p.w1 0 6
def hPlen (p : Packet) : Nat := bitsOf p.w1 6 9
def hMsgId (p : Packet) : Nat := bitsOf p.w1 15 16
def hFwd (p : Packet) : Bool := bitsOf p.w1 31 1 == 1

/-- Bytes of the packet as a whole: 32 or 288 (R110). -/
def pFrame (p : Packet) : Nat := if pLong p then 288 else 32

/-- Credits the packet takes: 1 or 9 (R116). -/
def pCredits (p : Packet) : Nat := if pLong p then 9 else 1

/-! ### Builders -/

/-- The fields of header word 0. -/
structure Hdr where
  net : Nat := 0
  long : Bool := false
  opc : Nat := 0
  src : Nat := 0
  srcSw : Bool := false
  dst : Nat := 0
  dstSw : Bool := false
  tenant : Nat := 0
  ord : Bool := false
  ch : Nat := 0
  epoch : Nat := 0
  poison : Bool := false
  nb : Nat := 0
deriving DecidableEq, Repr

/-- Header word 0 of its fields (R111). -/
def Hdr.word (h : Hdr) : BitVec 64 :=
  BitVec.ofNat 64 (packArg [(3, h.net), (1, b2n h.long), (6, h.opc), (13, h.src), (1, b2n h.srcSw), (13, h.dst), (1, b2n h.dstSw),
    (8, h.tenant), (1, b2n h.ord), (4, h.ch), (4, h.epoch), (1, b2n h.poison), (8, h.nb)])

/-- A packet of a header, its three further words and its payload; a long packet's payload is 256 bytes. -/
def Hdr.packet (h : Hdr) (w1 w2 w3 : Nat) (payload : List Byte) : Packet :=
  { w0 := h.word, w1 := BitVec.ofNat 64 w1, w2 := BitVec.ofNat 64 w2, w3 := BitVec.ofNat 64 w3,
    payload := if h.long then slice payload 0 256 else [] }

/-- Word 1 of a REQ packet (R112). -/
def reqWord (tag seq own : Nat) (cc : Bool) (aop atype bytes arrCtr : Nat) (arrEn retry : Bool) : Nat :=
  packArg [(14, tag), (16, seq), (2, own), (1, b2n cc), (4, aop), (3, atype), (8, bytes - 1), (13, arrCtr), (1, b2n arrEn), (1, b2n retry)]

/-- Word 1 of a RSP packet (R112). -/
def rspWord (tag seq grant bytes : Nat) : Nat := packArg [(14, tag), (16, seq), (2, grant), (8, 0), (8, bytes - 1)]

/-- Word 1 of a COLL packet (R113). -/
def collWord (ctx member stage : Nat) (backup last : Bool) (chunk fmt : Nat) : Nat :=
  packArg [(12, ctx), (7, member), (3, stage), (1, b2n backup), (1, b2n last), (32, chunk), (4, fmt)]

/-- The same packet with RETRY set (R366). -/
def setRetry (p : Packet) : Packet := { p with w1 := setBits p.w1 62 1 1 }

/-- The same packet with POISON (R365). -/
def setPoison (p : Packet) (b : Bool) : Packet := { p with w0 := setBits p.w0 55 1 (b2n b) }

/-- The network and class of each opcode (R115). -/
def opcClass : Nat → Option (Nat × Bool)
  | 0x01 => some (0, false) | 0x02 => some (0, true) | 0x03 => some (0, true) | 0x04 => some (0, true) | 0x05 => some (0, false)
  | 0x06 => some (0, true) | 0x07 => some (0, true) | 0x08 => some (0, false) | 0x09 => some (0, false) | 0x0A => some (0, false)
  | 0x0B => some (0, false) | 0x0C => some (0, false) | 0x0D => some (0, true) | 0x0E => some (0, false)
  | 0x10 => some (1, true) | 0x11 => some (1, false) | 0x12 => some (1, false) | 0x13 => some (1, true) | 0x14 => some (1, false)
  | 0x15 => some (1, false) | 0x16 => some (1, false) | 0x17 => some (1, true) | 0x18 => some (1, false)
  | 0x20 => some (2, true) | 0x21 => some (2, true) | 0x22 => some (2, true) | 0x23 => some (2, false) | 0x24 => some (2, false)
  | 0x25 => some (2, false) | 0x26 => some (2, true)
  | 0x30 => some (3, true) | 0x31 => some (3, false)
  | 0x38 => some (4, false) | 0x39 => some (4, false) | 0x3A => some (4, false) | 0x3B => some (4, true)
  | _ => none

/-- Format codes that R174 reserves. -/
def fmtReserved (code : Nat) : Bool := decide (13 ≤ code)

/-- Checks 1 and 2 of R132 for a link that carries the networks `nets`: does the packet fail with CLASS? -/
def classBad (p : Packet) (nets : List Nat) : Bool :=
  (match opcClass (pOpc p) with
   | none => true
   | some (net, long) => net != pNet p || long != pLong p)
  || (pOpc p == 0x07 && fmtReserved (pAop p))
  || (pNet p == 2 && fmtReserved (cFmt p))
  || !nets.contains (pNet p)

/-- The flits of a packet: 32-byte slices in ascending byte order (R274). -/
def pBytesList (p : Packet) : List Byte :=
  leBytes 8 p.w0.toNat ++ leBytes 8 p.w1.toNat ++ leBytes 8 p.w2.toNat ++ leBytes 8 p.w3.toNat ++ p.payload

def pFlits (p : Packet) : List (List Byte) :=
  let b := pBytesList p
  (List.range (if pLong p then 9 else 1)).map (fun i => slice b (32 * i) 32)

/-- The packet that consecutive flits spell. -/
def flitsPacket (fl : List (List Byte)) : Packet :=
  let b := fl.flatten
  { w0 := BitVec.ofNat 64 (leAt b 0 8), w1 := BitVec.ofNat 64 (leAt b 8 8), w2 := BitVec.ofNat 64 (leAt b 16 8),
    w3 := BitVec.ofNat 64 (leAt b 24 8), payload := b.drop 32 }

/-- A control flit (R283): CTYPE and the bytes from byte 1 on. -/
def ctrlFlit (ctype : Nat) (rest : List Byte) : List Byte := slice (BitVec.ofNat 8 (7 + 8 * ctype) :: rest) 0 32

end Sys2Proof.Machine
end

