-- ==== Sys2Proof/Machine/Ops.lean ====
section
/-!
DEFINITION. The named operations over the state that every command is made of: the two parts, applied objects and their fields, saturating counters, the stroke count, the event log, the outbox and the boathouse.
-/
namespace Sys2Proof.Machine

/-! ### The two parts -/

/-- What both parts have, of part `p`. -/
def Block.common (s : Block) : Part → Common
  | .oe36 => s.ep
  | .ox720 => s.sw

/-- Replace it. -/
def Block.setCommon (s : Block) (p : Part) (c : Common) : Block :=
  match p with
  | .oe36 => { s with ep := c }
  | .ox720 => { s with sw := c }

def Block.modCommon (s : Block) (p : Part) (f : Common → Common) : Block := s.setCommon p (f (s.common p))

def Block.modEp (s : Block) (f : Common → Common) : Block := { s with ep := f s.ep }
def Block.modSw (s : Block) (f : Common → Common) : Block := { s with sw := f s.sw }
def Block.modOe (s : Block) (f : Oe → Oe) : Block := { s with oe := f s.oe }
def Block.modOx (s : Block) (f : Ox → Ox) : Block := { s with ox := f s.ox }

/-- Apply `f` when the condition holds. -/
def Block.when (s : Block) (c : Bool) (f : Block → Block) : Block := if c then f s else s

/-- Take a fresh index for the free values. -/
def Block.tick (s : Block) : Block := { s with free := s.free + 1 }

/-! ### The cox cores, and how a command acts -/

/-- What the cox core of part `p` holds. -/
def State.mg (s : State) : Part → Mgmt
  | .oe36 => s.mgEp
  | .ox720 => s.mgSw

def State.setMg (s : State) (p : Part) (m : Mgmt) : State :=
  match p with
  | .oe36 => { s with mgEp := m }
  | .ox720 => { s with mgSw := m }

def State.modMg (s : State) (p : Part) (f : Mgmt → Mgmt) : State := s.setMg p (f (s.mg p))

/-- An operation of the units. -/
def State.on (s : State) (f : Block → Block) : State := { s with blk := f s.blk }

/-- The common part of `p`, as an operation over the state. -/
def State.common (s : State) (p : Part) : Common := s.blk.common p
def State.modCommon (s : State) (p : Part) (f : Common → Common) : State := s.on (fun b => b.modCommon p f)

/-- A command that concerns the units alone: the cox cores and the queue stay. -/
def State.act (s : State) (f : Block → Block) : Host.Outcome State Fault Refusal := .next (s.on f)

/-- One that may also reset part `p`, with what its cox core holds. -/
def State.actReset (s : State) (p : Part) (resets : Bool) (f : Block → Block) : Host.Outcome State Fault Refusal :=
  .next (if resets then (s.on f).setMg p {} else s.on f)

/-! ### Objects (17) -/

/-- The applied value of object `key`. -/
def Common.reg (c : Common) (key : Nat) : Obj := SMap.get (c.dflt key) c.regs key

/-- Write the applied value of object `key`. -/
def Common.setReg (c : Common) (key : Nat) (v : Obj) : Common := { c with regs := SMap.set (c.dflt key) c.regs key v }

/-- Field [lo + w - 1 : lo] of the applied value of an object. -/
def Common.fld (c : Common) (key lo w : Nat) : Nat := bitsOf (c.reg key) lo w

/-- Write a field of the applied value of an object. -/
def Common.setFld (c : Common) (key lo w x : Nat) : Common := c.setReg key (setBits (c.reg key) lo w x)

/-- A one-bit field. -/
def Common.bit (c : Common) (key lo : Nat) : Bool := c.fld key lo 1 == 1

def Common.setBit (c : Common) (key lo : Nat) (b : Bool) : Common := c.setFld key lo 1 (b2n b)

/-- The sum of a counter of `w` bits and an addend, saturating at the counter's maximum (17, "All counters saturate"). -/
def satAdd (w x n : Nat) : Nat := min (x + n) (2 ^ w - 1)

/-- Add `n` to a counter field, saturating. -/
def Common.count (c : Common) (key lo w n : Nat) : Common := c.setFld key lo w (satAdd w (c.fld key lo w) n)

/-- An object's key from its index and subindex. -/
abbrev ob (index sub : Nat) : Nat := index * 256 + sub

/-! ### Time (14) -/

/-- CCLK per 1 ms, per 1 µs (00, R5: 1.75 GHz). -/
def cclkMs : Nat := 1750000
def cclkUs : Nat := 1750

/-- CCLK since stroke count `t`, modulo 2^48. -/
def Common.since (c : Common) (t : Nat) : Nat := (c.stroke + 2 ^ 48 - t % 2 ^ 48) % 2 ^ 48

/-! ### The outbox -/

def Common.emit (c : Common) (o : Out) : Common := { c with out := c.out ++ [o] }

/-! ### The event log (17, R402 to R404) -/

inductive Sev where
  | info
  | corrected
  | deferred
  | uncorrected
  | fatal
deriving DecidableEq, Repr

/-- The severity code (00, R13). -/
def Sev.code : Sev → Nat
  | .info => 0
  | .corrected => 1
  | .deferred => 2
  | .uncorrected => 3
  | .fatal => 4

/-- An event record (R402). -/
def evtRecord (stroke code : Nat) (sev : Sev) (unit arg : Nat) : BitVec 128 :=
  BitVec.ofNat 128 (stroke % 2 ^ 40 + code % 2 ^ 16 * 2 ^ 40 + sev.code * 2 ^ 56 + unit % 2 ^ 8 * 2 ^ 64 + arg % 2 ^ 56 * 2 ^ 72)

/-- Words of 64 bytes that records of 16 bytes occupy when packed (R163). -/
def packedWords (n : Nat) : Nat := (n + 3) / 4

/-- Capacity of the event log in words (R403; on an OX720 instance 0xB0, R160). -/
def Common.evtCapacity (c : Common) : Nat :=
  match c.kind with
  | .oe36 => 256
  | .ox720 => 128 + c.fld (ob 0x5302 0xB0) 20 20 * 16384

/-- The watermarks of the event log. -/
def Common.evtHigh (c : Common) : Nat :=
  match c.kind with
  | .oe36 => 192
  | .ox720 => c.fld (ob 0x5301 0xB0) 0 32
def Common.evtLow (c : Common) : Nat :=
  match c.kind with
  | .oe36 => 128
  | .ox720 => c.fld (ob 0x5301 0xB0) 32 32

/-- Insert a record after the records of the log, before those of the same CCLK with a greater UNIT (R403). -/
def evtInsert (log : List (BitVec 128)) (r : BitVec 128) : List (BitVec 128) :=
  let later := fun (x : BitVec 128) => bitsOf x 0 40 == bitsOf r 0 40 && decide (bitsOf r 64 8 < bitsOf x 64 8)
  let tail := (log.reverse.takeWhile later).reverse
  log.take (log.length - tail.length) ++ (r :: tail)

/-- The level of FCO pin `k` (R165). -/
def Common.fcoLevel (c : Common) (k : Nat) : Bool :=
  (c.regs.filter (fun r => r.1 / 256 == 0x5305)).any (fun r =>
    bitsOf r.2 3 1 == 1 && bitsOf r.2 0 3 == k && c.bit (ob 0x5300 (r.1 % 256)) 5)

/-- Drive the FCO pins whose level has changed since `old`. -/
def Common.fcoDrive (c old : Common) : Common :=
  (List.range 8).foldl (fun c' k =>
    if c.fcoLevel k == old.fcoLevel k then c' else c'.emit (.pin ("FCO" ++ toString k) (b2n (c.fcoLevel k)))) c

/-- Set or clear ABOVE of the log; on an OX720 it is the flag of instance 0xB0. -/
def Common.setAbove (c : Common) (b : Bool) : Common :=
  let c1 : Common := { c with evtAbove := b }
  match c.kind with
  | .oe36 => c1
  | .ox720 => (c1.setBit (ob 0x5300 0xB0) 5 b).fcoDrive c

/-- ABOVE has set: MSI-X vector 0, and EVENT_NOTIFY at most once per 1 ms (R391, R403). -/
def Common.notify (c : Common) (n : Nat) : Common :=
  let due := match c.notifyAt with
    | some t => decide (cclkMs ≤ c.since t)
    | none => true
  let c1 := c.emit (.msix 0)
  if due then ({ c1 with notifyAt := some c.stroke } : Common).emit (.haoth 0 5 0 0 0 0 (leBytes 4 n)) else c1

/-- Evaluate ABOVE of the log. -/
def Common.evtFlag (c : Common) : Common :=
  let n := packedWords c.evtLog.length
  if c.evtAbove then (if n ≤ c.evtLow then c.setAbove false else c)
  else if c.evtHigh ≤ n ∧ 0 < n then (c.setAbove true).notify n
  else c

/-- Is there room in the log for one more record? -/
def Common.evtRoom (c : Common) : Bool := decide (packedWords (c.evtLog.length + 1) ≤ c.evtCapacity)

/-- Of an OX720: while nothing stands in the boathouse, records go straight from the tail buffer to the head buffer of 64 words (R161). -/
def Common.evtSettle (c : Common) : Common :=
  if c.kind == .ox720 && c.evtMid == 0 then { c with evtHead := min c.evtLog.length 256 } else c

/-- The log is empty again. -/
def Common.evtClear (c : Common) : Common := { c with evtLog := [], evtHead := 0, evtMid := 0, evtRp := 0 }

/-- Records that a read can take now: at an OX720 those in the head buffer. -/
def Common.evtReady (c : Common) : Nat :=
  match c.kind with
  | .oe36 => c.evtLog.length
  | .ox720 => c.evtHead

/-- Does a read wait for the refill: the head buffer is empty while the middle is not (R161)? -/
def Common.evtWaits (c : Common) : Bool := c.kind == .ox720 && c.evtHead == 0 && c.evtMid != 0

/-- Write a record into the log. -/
def Common.place (c : Common) (r : BitVec 128) : Common := ({ c with evtLog := evtInsert c.evtLog r } : Common).evtSettle.evtFlag

/-- Hold a record in the pending buffer of its source, of 32 records. One that finds it full is lost and counted; where the first was lost, an EVENTS_LOST record will enter (R404). -/
def Common.holdBack (c : Common) (r : BitVec 128) : Common :=
  let src := bitsOf r 40 16
  if (c.evtPending.filter (fun p => p.1 == src)).length < 32 then { c with evtPending := c.evtPending ++ [(src, r)] }
  else
    let c1 := ({ c with evtLost := c.evtLost + 1 } : Common).count (ob 0x2101 2) 0 32 1
    if c.evtPending.any (fun p => p.1 == 0xB006) then c1 else { c1 with evtPending := c1.evtPending ++ [(0xB006, 0)] }

/-- Space has returned: what was held back enters, the EVENTS_LOST record in its place. -/
def Common.drain (c : Common) : Nat → Common
  | 0 => c
  | n + 1 =>
    match c.evtPending with
    | [] => c
    | (src, r) :: rest =>
      if !c.evtRoom then c
      else
        let c1 : Common := { c with evtPending := rest }
        (if src = 0xB006 then ({ c1 with evtLost := 0 } : Common).place (evtRecord c.stroke 0xB006 .uncorrected 0xFF c.evtLost) else c1.place r).drain n

/-! ### Responses of the field bus (17, R390 to R393) -/

/-- A Haoth response as a frame: the header of 12 bytes and the body. -/
def haothFrame (op tid target status count valid : Nat) (body : List Byte) : List Byte :=
  leBytes 1 1 ++ leBytes 1 (op + 128) ++ leBytes 2 tid ++ leBytes 2 target ++ leBytes 2 body.length ++ leBytes 1 status ++ leBytes 1 count
    ++ leBytes 1 valid ++ leBytes 1 0 ++ body

/-- A frame in MGMT_DATA packets of 256 bytes. Word 1 carries the requester's address, the number of the piece and LAST (DESIGN CHOICE: the spec lays out none of it). -/
def mgmtPackets (h : Hdr) (mac : Nat) (frame : List Byte) : List Packet :=
  let n := max 1 ((frame.length + 255) / 256)
  (List.range n).map (fun i => ({ h with net := 4, long := true, opc := 0x3B } : Hdr).packet (packArg [(48, mac), (8, i), (1, b2n (i + 1 == n))]) 0 0
    (slice frame (256 * i) 256))

/-- Keep a response among the last 16 of its source (R393). -/
def keepReply (kept : List (Nat × Nat × Out)) (r : ReplyTo) (o : Out) : List (Nat × Nat × Out) :=
  let mine := kept.filter (fun e => e.1 == r.src && e.2.1 != r.tid)
  let old := if 16 ≤ mine.length then (mine.head?.map (fun e => e.2.1)) else none
  kept.filter (fun e => !(e.1 == r.src && (e.2.1 == r.tid || some e.2.1 == old))) ++ [(r.src, r.tid, o)]

/-- Send a kept or new response: on the field bus, or back over the crew link of a relayed request. -/
def Common.sendReply (c : Common) (via : Option Nat) (o : Out) : Common :=
  match via, o with
  | some link, .haoth dst op tid status count valid body =>
    let id := c.fld (ob 0x1000 5) 0 13
    let ps := mgmtPackets { src := id, dst := id / 128 * 16 + link, dstSw := true } dst (haothFrame op tid (id + 8192) status count valid body)
    { c with txq := c.txq ++ ps.map (fun p => (link, p)) }
  | _, o => c.emit o

/-- Answer a request. -/
def Common.reply (c : Common) (r : ReplyTo) (op status count valid : Nat) (body : List Byte) : Common :=
  let o : Out := .haoth r.src op r.tid status count valid body
  ({ c with kept := keepReply c.kept r o } : Common).sendReply r.via o

/-! ### Takes from the event log (17, R403; 07, R163, R164) -/

/-- STALL_LIMIT of the log. -/
def Common.evtLimit (c : Common) : Nat :=
  match c.kind with
  | .oe36 => c.fld (ob 0x2102 0) 0 16
  | .ox720 => c.fld (ob 0x5303 0xB0) 0 16

/-- Does an FCI pin hold the log's reads at EMPTY (R165)? -/
def Common.evtHeld (c : Common) : Bool :=
  c.kind == .ox720 && c.bit (ob 0x5305 0xB0) 7 && bitAt c.fci (c.fld (ob 0x5305 0xB0) 4 3)

/-- Objects 0x2100 and 0x2101 as a master reads them. -/
def Common.evtObject (c : Common) (h : Holding) (key : Nat) : Nat :=
  if key / 256 = 0x2100 then (h.recs.getD (key % 256) 0).toNat
  else if key % 256 = 0 then h.valid + 128 * b2n h.empty
  else if key % 256 = 1 then 0
  else c.fld (ob 0x2101 2) 0 32

/-- A word of the log as 64 bytes. -/
def wordBytes (w : List (BitVec 128)) : List Byte := slice ((w.map (fun r => leBytes 16 r.toNat)).flatten) 0 64

/-- The field bus's take has ended: its reads of the holding register that waited are answered. -/
def Common.answerReads (c : Common) : Common :=
  c.evtReads.foldl (fun c e =>
    c.reply e.1 1 e.2.2.2 e.2.2.1 0 ((List.range e.2.2.1).map (fun i => leBytes 16 (c.evtObject c.holdF (e.2.1 + i)))).flatten) { c with evtReads := [] }

/-- The first take of a master ends with the records that are unread, four at most; none is EMPTY. An EVENT_READ goes on until it has its words or finds the log empty. -/
def Common.give (c : Common) (m : Master) : Common :=
  match c.takers.find? (fun t => t.m == m) with
  | none => c
  | some t =>
    let recs := if c.evtHeld then [] else c.evtLog.take (min 4 c.evtReady)
    let c1 : Common := ({ c with evtLog := c.evtLog.drop recs.length, evtHead := c.evtHead - recs.length, evtRp := c.evtRp + (recs.length + 3) / 4,
                                 takers := eraseFirst (fun t => t.m == m) c.takers } : Common).evtSettle.evtFlag
    let c2 := c1.drain (c1.evtPending.length)
    match t.read, m with
    | none, .pcie => { c2 with holdP := { recs := recs, valid := 16 * recs.length, empty := recs.isEmpty } }
    | none, .fieldBus => { c2 with holdF := { recs := recs, valid := 16 * recs.length, empty := recs.isEmpty } }.answerReads
    | some (r, n, ws), _ =>
      let all := if recs.isEmpty then ws else ws ++ [recs]
      if recs.isEmpty || decide (n ≤ all.length) then
        c2.reply r 4 0 all.length (16 * (all.getLast?.getD []).length) (all.map wordBytes).flatten
      else { c2 with takers := { t with until_ := c.stroke + c.evtLimit, read := some (r, n, all) } :: c2.takers }

/-- Serve the takes that need not wait: a whole word is there, STALL_LIMIT is 0, or the reads are held at EMPTY. While a refill is awaited only the last ends one. -/
def Common.pumpTakes (c : Common) : Nat → Common
  | 0 => c
  | n + 1 =>
    match c.takers with
    | [] => c
    | t :: _ => if c.evtHeld || decide (4 ≤ c.evtReady) || (c.evtLimit == 0 && !c.evtWaits) then (c.give t.m).pumpTakes n else c

def Common.pumpLog (c : Common) : Common := c.pumpTakes (32 * c.takers.length)

/-- Does an event with a limit of one record per 1 ms for each value of `key` go out now: the number suppressed since the last one; the part after it (R402). -/
def Common.limit (c : Common) (code key : Nat) : Option Nat × Common :=
  match c.rates.find? (fun r => r.code == code && r.unit == key) with
  | some r =>
    if c.since r.last < cclkMs then
      (none, { c with rates := replaceFirst (fun r => r.code == code && r.unit == key) (fun r => { r with suppressed := r.suppressed + 1 }) c.rates })
    else
      (some r.suppressed, { c with rates := replaceFirst (fun r => r.code == code && r.unit == key) (fun r => { r with last := c.stroke, suppressed := 0 }) c.rates })
  | none => (some 0, { c with rates := c.rates ++ [Rate.mk code key c.stroke 0] })

/-- Enter a record: into the log while it has room and nothing waits before it, else it waits; on an OX720 the wait counts in FULL_WAITS of instance 0xB0 and QUEUE_FULL is logged behind it (R160, R404). -/
def Common.enter (c : Common) (r : BitVec 128) : Common :=
  if c.evtPending.isEmpty && c.evtRoom then (c.place r).pumpLog
  else
    let c1 := c.holdBack r
    match c.kind with
    | .oe36 => c1
    | .ox720 =>
      match (c1.count (ob 0x5304 0xB0) 32 32 1).limit 0x3004 0xB0 with
      | (some k, c2) => c2.holdBack (evtRecord c.stroke 0x3004 .info 0xB0 (0xB0 + min k 255 * 2 ^ 48))
      | (none, c2) => c2

/-- Log an event. -/
def Common.log (c : Common) (code : Nat) (sev : Sev) (unit arg : Nat) : Common :=
  c.enter (evtRecord c.stroke code sev unit (arg % 2 ^ 56))

/-- Log an event that its chapter limits to one per 1 ms for each value of `key`; the record carries the number suppressed since the last one in [55:48] of ARG (R402). -/
def Common.logLimited (c : Common) (code : Nat) (sev : Sev) (unit key arg : Nat) : Common :=
  match c.limit code key with
  | (some k, c1) => c1.log code sev unit (arg % 2 ^ 48 + min k 255 * 2 ^ 48)
  | (none, c1) => c1

/-! ### Fault injection (16, R361, R362) -/

/-- Does the part's injection now apply at `point`? Mode 1 injects once, mode 2 at every INJ_N-th occasion, mode 3 always. -/
def Common.injects (c : Common) (point : Nat) : Bool :=
  c.fld (ob 0x9010 0) 0 8 == point &&
    (match c.fld (ob 0x9010 0) 8 2 with
     | 1 => !c.injDone
     | 2 => (c.injSeen + 1) % max 1 (c.fld (ob 0x9010 0) 10 16) == 0
     | 3 => true
     | _ => false)

/-- An occasion at `point` comes by: count it (mode 2), and when the injection applies count INJECTIONS and log INJECTED before the detector's own event. -/
def Common.injected (c : Common) (point : Nat) : Common :=
  let c1 : Common := { c with injSeen := c.injSeen + 1 }
  if c.injects point then
    ({ c1 with injDone := true }.count (ob 0x9010 2) 0 32 1).logLimited 0x900D .info 0xFF 0 (packArg [(8, point), (32, c.fld (ob 0x9010 1) 0 32)])
  else c1

/-- An occasion at `point` that the command carries no operand for: does the injection apply to it, and the part after it. -/
def Common.occasion (c : Common) (point : Nat) : Bool × Common :=
  if c.fld (ob 0x9010 0) 0 8 == point && c.fld (ob 0x9010 0) 8 2 != 0 then (c.injects point, c.injected point) else (false, c)

/-- An occasion that the injection passes over, at the place that INJ_ARG names (`here`): it is counted, and nothing else happens (R362). -/
def Common.passed (c : Common) (point : Nat) (here : Bool) : Common := if here && !c.injects point then (c.occasion point).2 else c

/-- A detector's command with its `inj` operand: a real fault always acts, an injected one only where the injection applies and the low `w` bits of INJ_ARG name the place `v` (R361). -/
def Common.detects (c : Common) (point w v : Nat) (inj : Bool) : Bool := !inj || (c.injects point && c.fld (ob 0x9010 1) 0 w == v)

/-- What a part counts of an injected fault that `detects` turns away. -/
def Common.undetected (c : Common) (point w v : Nat) (inj : Bool) : Common := c.passed point (inj && c.fld (ob 0x9010 1) 0 w == v)

/-! ### Entropy (15, R358) -/

def enOk : Nat := 0
def enStartup : Nat := 1
def enFailed : Nat := 2
def enRestart : Nat := 3

/-- ENTROPY_STATE. -/
def Common.entropy (c : Common) : Nat := c.fld (ob 0x8000 0) 1 2

/-- A consumer asks for output of the DRBG and waits for its reseed. -/
def Common.wantEntropy (c : Common) (consumer arg : Nat) : Common := { c with waiters := c.waiters ++ [⟨consumer, arg, c.stroke⟩] }

/-! ### VCORE (18, R410) -/

/-- The cap of VCORE_EST in force: CURRENT_CAP, or THROTTLE_CAP while THROTTLING (18, R410, R414). -/
def Common.currentCap (c : Common) : Nat := if c.bit (ob 0xA001 0) 10 then c.fld (ob 0xA002 0x10) 32 16 else c.fld (ob 0xA000 1) 0 16

/-- VCORE_EST in A. -/
def Common.vcoreEst (c : Common) : Nat := (c.schedCur + c.dynCur) / 1750

/-! ### Reset and boot (18) -/

/-- Does the part answer commands of its units: firmware runs, no reset is held and no control state is lost (R363)? -/
def Common.up (c : Common) : Bool := c.booted && !c.inReset && !c.failed

/-! ### Identity and place (01, 02) -/

/-- The part's plane number (OX720) or rack slot (OE36), as strapped. -/
def Common.plane (c : Common) : Nat := c.straps % 16
def Common.slotStrap (c : Common) : Nat := c.straps % 128

/-! ### The boathouse (07, R157) -/

/-- The boathouse's bytes: a byte not listed reads 0. -/
abbrev Memory := List Host.Cell

def Memory.read (m : Memory) (a : Nat) : Byte := SMap.get (0 : Byte) m a
def Memory.write (m : Memory) (a : Nat) (b : Byte) : Memory := SMap.set (0 : Byte) m a b
def Memory.wf (m : Memory) : Bool := SMap.wf (0 : Byte) m

/-- `n` bytes from address `a`, lowest first. -/
def Memory.readN (m : Memory) (a n : Nat) : List Byte := (List.range n).map (fun i => m.read (a + i))

/-- Write bytes from address `a` on. -/
def Memory.writeN (m : Memory) (a : Nat) : List Byte → Memory
  | [] => m
  | b :: r => Memory.writeN (m.write a b) (a + 1) r

/-- Insert a number into a strictly rising list. -/
def insertNat (l : List Nat) (x : Nat) : List Nat :=
  match l with
  | [] => [x]
  | y :: r => if x < y then x :: y :: r else if x = y then y :: r else y :: insertNat r x

/-- Write bytes into the boathouse with or without poison (R365): a poisoned write poisons the blocks it touches; a write of a whole 256-byte block without poison clears the block's poison; a partial one leaves it. -/
def Ox.bhWrite (x : Ox) (a : Nat) (bs : List Byte) (poison : Bool) (owner gen : Nat) : Ox :=
  let first := a / 256
  let n := (a + bs.length + 255) / 256 - first
  let blocks := (List.range n).map (fun i => first + i)
  let whole := blocks.filter (fun b => a ≤ b * 256 && decide (b * 256 + 256 ≤ a + bs.length))
  let p := if poison then blocks.foldl insertNat x.bhPoison else x.bhPoison.filter (fun b => !whole.contains b)
  { x with bh := Memory.writeN x.bh a bs, bhPoison := p,
           bhOwner := blocks.foldl (fun m b => SMap.set ((256 : Nat), (0 : Nat)) m b (owner, gen)) x.bhOwner }

/-- Read bytes from the boathouse, and whether any block read is poisoned or of a stale key generation (R350, R365). A block that nothing has written is of no tenant (256) and of no key. -/
def Ox.bhRead (x : Ox) (a n : Nat) : List Byte × Bool :=
  let first := a / 256
  let k := (a + n + 255) / 256 - first
  (Memory.readN x.bh a n,
   ((List.range k).map (fun i => first + i)).any (fun b => x.bhPoison.contains b ||
     (let o := SMap.get ((256 : Nat), (0 : Nat)) x.bhOwner b
      o.2 != SMap.get (0 : Nat) x.keyGen o.1 || x.keyless.contains o.1)))

end Sys2Proof.Machine
end

