-- ==== Sys2Proof/Machine/Float.lean ====
section
/-!
DEFINITION. Number formats and conversion (08, R174 to R182): exact values, decoding, one rounding into any format, block scaling, the stochastic-rounding generator.
-/
namespace Sys2Proof.Machine

/-- An exact value (R179): sign, mantissa and binary exponent of a finite value (a zero has mantissa 0), an infinity, or NaN. -/
inductive Val where
  | fin (neg : Bool) (m : Nat) (e : Int)
  | inf (neg : Bool)
  | nan
deriving DecidableEq, Repr

def Val.zero : Val := .fin false 0 0

/-- A float format: width, exponent and mantissa bits, bias, code of the largest finite magnitude, whether it has infinity, its canonical NaN. -/
structure Fmt where
  w : Nat
  eb : Nat
  mb : Nat
  bias : Nat
  maxCode : Nat
  hasInf : Bool
  nan : Option Nat
deriving DecidableEq, Repr

/-- The float formats by code (R174, R179). -/
def floatFmt : Nat → Option Fmt
  | 0 => some ⟨64, 11, 52, 1023, 0x7FEFFFFFFFFFFFFF, true, some 0x7FF8000000000000⟩
  | 1 => some ⟨32, 8, 23, 127, 0x7F7FFFFF, true, some 0x7FC00000⟩
  | 2 => some ⟨16, 8, 7, 127, 0x7F7F, true, some 0x7FC0⟩
  | 3 => some ⟨16, 5, 10, 15, 0x7BFF, true, some 0x7E00⟩
  | 4 => some ⟨8, 4, 3, 7, 0x7E, false, some 0x7F⟩
  | 5 => some ⟨8, 5, 2, 15, 0x7B, true, some 0x7E⟩
  | 6 => some ⟨6, 3, 2, 3, 0x1F, false, none⟩
  | 7 => some ⟨6, 2, 3, 1, 0x1F, false, none⟩
  | 8 => some ⟨4, 2, 1, 1, 0x7, false, none⟩
  | _ => none

/-- Width of an integer format (R174). -/
def intWidth : Nat → Option Nat
  | 9 => some 8 | 10 => some 16 | 11 => some 32 | _ => none

/-- Element width of a format code. -/
def fmtWidth (code : Nat) : Nat :=
  match floatFmt code with
  | some f => f.w
  | none => (intWidth code).getD 16

def isFloatFmt (code : Nat) : Bool := (floatFmt code).isSome
def isIntFmt (code : Nat) : Bool := (intWidth code).isSome

/-- Codes that block scaling applies to (R177). -/
def scalable (code : Nat) : Bool := decide (4 ≤ code) && decide (code ≤ 9)

/-- Decode a float element. -/
def decodeFloat (f : Fmt) (x : Nat) : Val :=
  let neg := x / 2 ^ (f.w - 1) % 2 == 1
  let e := x / 2 ^ f.mb % 2 ^ f.eb
  let m := x % 2 ^ f.mb
  let mag := x % 2 ^ (f.w - 1)
  if f.maxCode < mag then (if f.hasInf && mag == f.maxCode + 1 then .inf neg else .nan)
  else if e = 0 then .fin neg m (1 - (f.bias : Int) - (f.mb : Int))
  else .fin neg (m + 2 ^ f.mb) ((e : Int) - (f.bias : Int) - (f.mb : Int))

def ofInt (x : Int) (e : Int) : Val := .fin (decide (x < 0)) x.natAbs e

/-- Decode an unscaled element of any format but BX16 (R174). -/
def decodeElem (code x : Nat) : Val :=
  match floatFmt code with
  | some f => decodeFloat f x
  | none =>
    match intWidth code with
    | some w => ofInt (toSigned w x) 0
    | none => .nan

/-- Multiply by a power of two. -/
def Val.scale (v : Val) (k : Int) : Val :=
  match v with
  | .fin n m e => .fin n m (e + k)
  | x => x

/-- Decode an element of a block-scaled transfer (R177) or a BX16 block (R175) with its scale byte. -/
def decodeScaled (code s x : Nat) : Val :=
  if s = 255 then .nan
  else if code = 12 then ofInt (toSigned 16 x) ((s : Int) - 141)
  else if code = 9 then ofInt (toSigned 8 x) ((s : Int) - 127 - 6)
  else (decodeElem code x).scale ((s : Int) - 127)

/-- floor(log2 of the magnitude) of a finite non-zero value. -/
def Val.log2 (v : Val) : Option Int :=
  match v with
  | .fin _ m e => if m = 0 then none else some ((Nat.log2 m : Int) + e)
  | _ => none

/-! ### One rounding (R180) -/

/-- Rounding modes: 0 RNE, 1 RTZ, 2 SR. -/
abbrev rne : Nat := 0

/-- m · 2^e in units of 2^q, rounded: mode, and the 16 bits of the generator. -/
def roundUnits (m : Nat) (e q : Int) (mode r : Nat) : Nat :=
  if q ≤ e then m * 2 ^ (e - q).toNat
  else
    let d := (q - e).toNat
    let lo := m / 2 ^ d
    let rem := m % 2 ^ d
    if rem = 0 then lo
    else if mode = 1 then lo
    else if mode = 2 then (if 65536 ≤ rem * 65536 / 2 ^ d + r then lo + 1 else lo)
    else if 2 ^ d < 2 * rem || (2 * rem == 2 ^ d && lo % 2 == 1) then lo + 1 else lo

/-- What one conversion yields: the element's bits, and whether it counts in SATURATIONS or NAN_ZEROED. -/
structure Enc where
  bits : Nat
  sat : Bool := false
  nanZero : Bool := false
deriving DecidableEq, Repr

/-- Magnitude code of a non-zero finite value in a float format, with no upper limit. -/
def magCode (f : Fmt) (m : Nat) (e : Int) (mode r : Nat) : Nat :=
  let qmin : Int := 1 - (f.bias : Int) - (f.mb : Int)
  let q := max qmin ((Nat.log2 m : Int) + e - (f.mb : Int))
  (q - qmin).toNat * 2 ^ f.mb + roundUnits m e q mode r

/-- Does the magnitude exceed the largest finite value of the format? -/
def aboveMax (f : Fmt) (m : Nat) (e : Int) : Bool :=
  decide (f.maxCode < magCode f m e 1 0) || (magCode f m e 1 0 == f.maxCode && magCode f m e 1 0 != magCode f m e 2 65535)

/-- Encode into a float format (R179). `scaled`: the element of a block-scaled transfer, which saturates. -/
def encodeFloat (f : Fmt) (scaled : Bool) (v : Val) (mode r : Nat) : Enc :=
  let sgn := fun (n : Bool) => if n then 2 ^ (f.w - 1) else 0
  match v with
  | .nan => match f.nan with
    | some c => ⟨c, false, false⟩
    | none => ⟨0, false, true⟩
  | .inf n => if f.hasInf && !scaled then ⟨sgn n + f.maxCode + 1, false, false⟩ else ⟨sgn n + f.maxCode, true, false⟩
  | .fin n m e =>
    if m = 0 then ⟨if scaled then 0 else sgn n, false, false⟩
    else
      let mode := if mode = 2 && aboveMax f m e then 0 else mode
      let c := magCode f m e mode r
      if c ≤ f.maxCode then ⟨sgn n + c, false, false⟩
      else if f.hasInf && !scaled && mode != 1 then ⟨sgn n + f.maxCode + 1, true, false⟩
      else ⟨sgn n + f.maxCode, true, false⟩

/-- Does the magnitude m · 2^e exceed k units of 2^q by what a rounding can see? -/
def aboveUnits (k : Nat) (m : Nat) (e q : Int) : Bool :=
  decide (k < roundUnits m e q 1 0) || (roundUnits m e q 1 0 == k && roundUnits m e q 2 65535 != k)

/-- Encode into a two's-complement integer of `w` bits in units of 2^q, between lo and hi (R179); above the largest value SR rounds as RNE (R180). -/
def encodeInt (w : Nat) (q lo hi : Int) (v : Val) (mode r : Nat) : Enc :=
  match v with
  | .nan => ⟨0, false, true⟩
  | .inf n => ⟨toUnsigned w (if n then lo else hi), true, false⟩
  | .fin n m e =>
    let k : Int := roundUnits m e q (if mode = 2 && aboveUnits hi.toNat m e q then 0 else mode) r
    let x := if n then -k else k
    if x < lo then ⟨toUnsigned w lo, true, false⟩
    else if hi < x then ⟨toUnsigned w hi, true, false⟩
    else ⟨toUnsigned w x, false, false⟩

/-- Convert a value into an unscaled format (R179). -/
def encodeElem (code : Nat) (v : Val) (mode r : Nat) : Enc :=
  match floatFmt code with
  | some f => encodeFloat f false v mode r
  | none =>
    match intWidth code with
    | some w => encodeInt w 0 (-(2 ^ (w - 1) : Int)) (2 ^ (w - 1) - 1) v mode r
    | none => ⟨0, false, false⟩

/-! ### Blocks (R178) -/

/-- EMAX of a block-scaled format. -/
def emaxOf : Nat → Int
  | 4 => 8 | 5 => 15 | 6 => 4 | 7 => 2 | 8 => 2 | _ => 0

/-- The largest of a list of exponents. -/
def maxLog (vs : List Val) : Option Int :=
  vs.foldl (fun (a : Option Int) (v : Val) => match a, v.log2 with
    | some x, some y => some (max x y)
    | some x, none => some x
    | none, y => y) none

def Val.special : Val → Bool
  | .fin _ _ _ => false
  | _ => true

def clampI (lo hi x : Int) : Int := max lo (min hi x)

/-- The shared exponent byte of a block in a block-scaled format or BX16 (code 12): steps 1 to 3. -/
def blockScale (code : Nat) (vs : List Val) : Nat :=
  if vs.any Val.special then 255
  else
    match maxLog vs with
    | none => 0
    | some e => (clampI 0 254 (if code = 12 then e + 127 else e - emaxOf code + 127)).toNat

/-- The elements of a block under a shared exponent byte: step 4. `r i` gives the generator's bits for element `i`. -/
def scaledElems (code s : Nat) (vs : List Val) (mode : Nat) (r : Nat → Nat) : List Enc :=
  if s = 255 then vs.map (fun _ => ⟨0, false, false⟩)
  else
    (List.range vs.length).map (fun i =>
      let v := vs.getD i Val.zero
      if code = 12 then encodeInt 16 ((s : Int) - 141) (-32768) 32767 v mode (r i)
      else if code = 9 then encodeInt 8 ((s : Int) - 127 - 6) (-127) 127 v mode (r i)
      else match floatFmt code with
        | some f => encodeFloat f true (v.scale (127 - (s : Int))) mode (r i)
        | none => ⟨0, false, false⟩)

/-- Encode a block into a block-scaled format or BX16: the scale byte and the elements. -/
def encodeBlock (code : Nat) (vs : List Val) (mode : Nat) (r : Nat → Nat) : Nat × List Enc :=
  (blockScale code vs, scaledElems code (blockScale code vs) vs mode r)

/-! ### Exact arithmetic -/

/-- A finite value as an integer multiple of 2^q, for q not above its exponent. -/
def Val.units (v : Val) (q : Int) : Int :=
  match v with
  | .fin n m e => let k : Int := m * 2 ^ (e - q).toNat; if n then -k else k
  | _ => 0

def Val.exp : Val → Int
  | .fin _ _ e => e
  | _ => 0

def Val.isZero : Val → Bool
  | .fin _ m _ => m == 0
  | _ => false

/-- The exact sum (R184: IEEE 754 for zeros, infinities and NaN). -/
def addVal (a b : Val) : Val :=
  match a, b with
  | .nan, _ => .nan
  | _, .nan => .nan
  | .inf x, .inf y => if x == y then .inf x else .nan
  | .inf x, _ => .inf x
  | _, .inf y => .inf y
  | .fin x m e, .fin y k g =>
    if m = 0 ∧ k = 0 then .fin (x && y) 0 0
    else
      let q := min e g
      ofInt ((Val.fin x m e).units q + (Val.fin y k g).units q) q

/-- The exact product. -/
def mulVal (a b : Val) : Val :=
  let sg := fun (v : Val) => match v with
    | .fin n _ _ => n
    | .inf n => n
    | .nan => false
  match a, b with
  | .nan, _ => .nan
  | _, .nan => .nan
  | .fin x m e, .fin y k g => .fin (x != y) (m * k) (e + g)
  | a, b => if a.isZero || b.isZero then .nan else .inf (sg a != sg b)

def negVal : Val → Val
  | .fin n m e => .fin (!n) m e
  | .inf n => .inf (!n)
  | .nan => .nan

/-- Compare exact values with +0 above −0 (R183): less than. NaN is handled by the caller. -/
def ltVal (a b : Val) : Bool :=
  match a, b with
  | .inf true, .inf true => false
  | .inf true, _ => true
  | _, .inf true => false
  | .inf false, _ => false
  | _, .inf false => true
  | .fin x m e, .fin y k g =>
    if m = 0 ∧ k = 0 then x && !y
    else let q := min e g; decide ((Val.fin x m e).units q < (Val.fin y k g).units q)
  | _, _ => false

/-- MAX and MIN of R183: NaN if either is NaN. -/
def maxVal (a b : Val) : Val := if a = .nan ∨ b = .nan then .nan else if ltVal a b then b else a
def minVal (a b : Val) : Val := if a = .nan ∨ b = .nan then .nan else if ltVal b a then b else a

/-- The sum of two float elements of one format, rounded once with RNE (R191, R184). -/
def addElem (code x y : Nat) : Nat := (encodeElem code (addVal (decodeElem code x) (decodeElem code y)) rne 0).bits

/-! ### The stochastic-rounding generator (R182) -/

def srMix (x : Nat) : Nat :=
  let x := Nat.xor x (x / 2 ^ 33)
  let x := x * 0xD2B74407B1CE6E93 % 2 ^ 64
  let x := Nat.xor x (x / 2 ^ 29)
  let x := x * 0xCA5A826395121157 % 2 ^ 64
  Nat.xor x (x / 2 ^ 32)

def srBits (seed launch stream index : Nat) : Nat :=
  srMix (Nat.xor (Nat.xor (srMix (Nat.xor seed launch)) (stream % 256 * 2 ^ 40)) (index % 2 ^ 40)) / 2 ^ 48

/-! ### Element arrays (R176) -/

/-- Element `j` of a little-endian packed array. -/
def elemAt (code : Nat) (bs : List Byte) (j : Nat) : Nat :=
  let w := fmtWidth code
  if w % 8 = 0 then leAt bs (j * (w / 8)) (w / 8)
  else leAt bs (j * w / 8) 3 / 2 ^ (j * w % 8) % 2 ^ w

/-- The little-endian bytes of a list of elements of `w` bits; the number of bits is a multiple of 8. -/
def packElems (w : Nat) (xs : List Nat) : List Byte :=
  if w % 8 = 0 then (xs.map (fun x => leBytes (w / 8) (x % 2 ^ w))).flatten
  else
    let v := xs.foldr (fun x a => x % 2 ^ w + 2 ^ w * a) 0
    leBytes (xs.length * w / 8) v

end Sys2Proof.Machine
end

