-- ==== Sys2Proof/Machine/Flags.lean ====
section
/-!
DEFINITION. Flag and status computations: the completion status that applies first (00, R15, R16) and the residue checks of the tiles (09, R200).
-/
namespace Sys2Proof.Machine

def stOk : Nat := 0
def stPoison : Nat := 1
def stTimeout : Nat := 2
def stFault : Nat := 3
def stDescriptor : Nat := 4
def stAborted : Nat := 5
def stRetried : Nat := 6

/-- The order of R16. -/
def statusOrder : List Nat := [4, 3, 5, 2, 1, 6]

/-- The status that a completion carries when several apply: the first of R16, OK when none does. -/
def firstStatus (l : List Nat) : Nat := (statusOrder.find? (fun s => l.contains s)).getD 0

/-- Does a status mean success (R15)? -/
def success (st : Nat) : Bool := st == stOk || st == stRetried

/-- The residue of a word (R200). -/
def residue (x : Nat) : Nat := x % 31

/-- The check of a `w`-bit adder (R200): carry-out, and 2^w modulo 31. -/
def addCheck (w a b sum : Nat) : Bool :=
  let c := (a % 2 ^ w + b % 2 ^ w) / 2 ^ w
  decide ((residue a + residue b + 31 * 31 - residue (2 ^ w) * c) % 31 = residue sum)

/-- The check of a multiplier (R200). -/
def mulCheck (a b prod : Nat) : Bool := decide ((residue a * residue b) % 31 = residue prod)

end Sys2Proof.Machine
end

