-- ==== Sys2Proof/Machine/Issue.lean ====
section
/-!
DEFINITION. The issuing side of an OE36: its place, live planes, the indirection table, ordered channels, tags, and the sending and ending of transactions (06, R119 to R125; 16, R366 to R370).
-/
namespace Sys2Proof.Machine

/-! ### Place (01, 02) -/

/-- The OE36's endpoint ID as FABRIC_ID holds it. -/
def Block.epId (s : Block) : Nat := s.ep.fld (ob 0x1000 5) 0 13
/-- Its rack slot (R20), from the straps. -/
def Block.epSlot (s : Block) : Nat := s.ep.straps % 128
/-- Its rack. -/
def Block.epRack (s : Block) : Nat := s.epId / 128
/-- The endpoint ID of a slot of its rack. -/
def Block.slotId (s : Block) (slot : Nat) : Nat := s.epRack * 128 + slot % 128
/-- The switch ID of the OX720 (R21), from RACK and PLANE (0x5200). -/
def Block.swId (s : Block) : Nat := s.sw.fld (ob 0x5200 0) 0 10
def Block.swRack (s : Block) : Nat := s.swId / 16
def Block.swPlane (s : Block) : Nat := s.swId % 16
/-- The twin's switch ID (01, R23). -/
def Block.twinId (s : Block) : Nat := Nat.xor s.swId 1

/-! ### Live planes (R119 to R122) -/

/-- Is link `pp` of a part ACTIVE? -/
def Common.active (c : Common) (pp : Nat) : Bool := c.fld (ob 0x3001 pp) 0 3 == 4

/-- LIVE_MASK: the planes whose crew link is ACTIVE. -/
def Common.liveMask (c : Common) : Nat := (List.range 16).foldl (fun m k => if c.active k then m + 2 ^ k else m) 0

/-- EXCLUDE of a slot. -/
def Common.exclude (c : Common) (d : Nat) : Nat := c.fld (ob 0xB202 d) 0 16

/-- The planes of a mask, ascending. -/
def planesOf (mask : Nat) : List Nat := (List.range 16).filter (fun k => bitAt mask k)

/-- The planes live for destination `d` (R119). -/
def Common.liveFor (c : Common) (d : Nat) : List Nat :=
  (planesOf c.liveMask).filter (fun k => !bitAt (c.exclude d) k)

/-- Entry `i` of the indirection table for a live mask (R121). -/
def indirEntry (mask i : Nat) : Nat :=
  if bitAt mask (i % 16) then i % 16
  else
    let live := planesOf mask
    if live.isEmpty then i % 16
    else
      let j := ((List.range i).filter (fun k => !bitAt mask (k % 16))).length
      live.getD (j % live.length) 0

/-- The hash of an ordered channel (R120). -/
def channelHash (src dst ch tenant : Nat) : Nat :=
  let x := Nat.xor (Nat.xor src (dst * 8)) (Nat.xor (ch * 128) (tenant * 512))
  Nat.xor (Nat.xor (x % 64) (x / 64 % 64)) (x / 4096)

/-- The first element of a list of planes at or cyclically above `p`. -/
def firstAtOrAbove (planes : List Nat) (p : Nat) : Option Nat :=
  match planes.find? (fun k => decide (p ≤ k)) with
  | some k => some k
  | none => planes.head?

/-- The pinned plane of a channel to slot `d` (R122); none when no plane is live for it. Number 31 stands for RSP channel 15, which hashes as 15. -/
def Block.pinnedPlane (s : Block) (d ch tenant : Nat) : Option Nat :=
  let e := indirEntry s.ep.liveMask (channelHash s.epId (s.slotId d) (ch % 16) tenant % 64)
  firstAtOrAbove (s.ep.liveFor d) e

/-- Is a block of objects stopped by a parity error (R363, R389)? -/
def Common.parityStopped (c : Common) (k : Nat) : Bool := c.bit (ob 0x9023 0) k

/-! ### Ordered channels (R123) -/

/-- The channel of a destination, CH and tenant; a channel not used yet has EPOCH 0 and SEQ 0 on its pinned plane, and issues nothing while it has none (R119). -/
def Block.chanOf (s : Block) (d ch tenant : Nat) : Chan :=
  match s.oe.chans.find? (fun c => c.dst == d && c.ch == ch && c.tenant == tenant) with
  | some c => c
  | none => ⟨d, ch, tenant, 0, 0, s.pinnedPlane d ch tenant, d != s.epSlot && ch != 31 && (s.pinnedPlane d ch tenant).isNone⟩

def Block.setChan (s : Block) (c : Chan) : Block :=
  let same := fun (x : Chan) => x.dst == c.dst && x.ch == c.ch && x.tenant == c.tenant
  s.modOe (fun o => { o with chans := if o.chans.any same then replaceFirst same (fun _ => c) o.chans else o.chans ++ [c] })

/-- After a change of live planes (R123): a channel whose pinned plane changed stops issuing; one left with no live plane moves its epoch on at once. -/
def Block.repinScan (s : Block) : Block :=
  s.oe.chans.foldl (fun s c =>
    let pin := s.pinnedPlane c.dst c.ch c.tenant
    if c.dst == s.epSlot || c.ch == 31 then s
    else if pin = none then
      (if c.plane = none ∧ c.stopped then s
       else (s.setChan { c with stopped := true, plane := none, epoch := (c.epoch + 1) % 16, seq := 0 }).modEp (fun c => c.count (ob 0xB203 1) 0 32 1))
    else if c.stopped || pin == c.plane then s
    else s.setChan { c with stopped := true }) s

/-- Requests issued on a channel that have not completed. -/
def Block.chanBusy (s : Block) (c : Chan) : Bool :=
  s.oe.txns.any (fun t => t.ord && t.dst == c.dst && t.ch == c.ch && t.tenant == c.tenant)

/-! ### Sending -/

/-- Queue a packet for a link's transmitter. -/
def Common.queueTx (c : Common) (pp : Nat) (p : Packet) : Common := { c with txq := c.txq ++ [(pp, p)] }

/-- What a request needs to be sent. -/
structure ReqSpec where
  opc : Nat
  long : Bool
  tag : Nat
  fpa : Nat
  tenant : Nat
  ord : Bool := false
  ch : Nat := 0
  own : Nat := 0
  cc : Bool := false
  aop : Nat := 0
  atype : Nat := 0
  bytes : Nat := 1
  arrCtr : Nat := 0
  arrEn : Bool := false
  w3 : Nat := 0
  poison : Bool := false
  payload : List Byte := []
  noFpa : Bool := false
deriving DecidableEq, Repr

/-- The request packet of a specification with an identity (R111, R112, R367). -/
def Block.reqPacket (s : Block) (r : ReqSpec) (dst epoch seq : Nat) : Packet :=
  ({ net := 0, long := r.long, opc := r.opc, src := s.epId, dst := s.slotId dst, tenant := r.tenant, ord := r.ord,
     ch := r.ch, epoch := epoch, poison := r.poison } : Hdr).packet
    (reqWord r.tag seq r.own r.cc r.aop r.atype r.bytes r.arrCtr r.arrEn false) (if r.noFpa then 0 else r.fpa) r.w3 r.payload

/-- Is a tag free (R92, R367): no transaction carries it and it is not withheld? -/
def Block.tagFree (s : Block) (tag : Nat) : Bool :=
  !(s.oe.txns.any (fun t => t.tag == tag)) && !(s.oe.quiet.any (fun q => q.1 == tag))

/-- May an ordered request to slot `d` be sent now? Not while its channel is stopped for a re-pin. -/
def Block.chanOpen (s : Block) (d ch tenant : Nat) : Bool := !(s.chanOf d ch tenant).stopped

/-- Send the packets of one transaction on a plane, or to the own home (R43), or nowhere when no plane is live (R119). -/
def Block.transmit (s : Block) (dst : Nat) (plane : Option Nat) (pkts : List Packet) : Block :=
  if dst == s.epSlot then s.modOe (fun o => { o with selfq := o.selfq ++ pkts })
  else match plane with
    | some p => s.modEp (fun c => pkts.foldl (fun c k => c.queueTx p k) c)
    | none => s

/-- Issue a transaction: its packets share one identity. `plane` is asked for sprayed requests only. A masked write's specifications are two (R112). -/
def Block.issueReq (s : Block) (rs : List ReqSpec) (plane : Option Nat) (owner : Owner) (ctx fva : Nat) : Block :=
  match rs with
  | [] => s
  | r :: _ =>
    let dst := r.fpa / 2 ^ 40
    if r.ord then
      let c := s.chanOf dst r.ch r.tenant
      let pkts := rs.map (fun r => s.reqPacket r dst c.epoch c.seq)
      let s1 := (s.setChan { c with seq := (c.seq + 1) % 2 ^ 16 }).transmit dst c.plane pkts
      s1.modOe (fun o => { o with txns := o.txns ++ [⟨r.tag, dst, pkts, true, r.ch, r.tenant, 0, c.plane, s.ep.stroke, owner, ctx, fva⟩] })
    else
      let g := (SMap.get 15 s.oe.used r.tag + 1) % 16
      let pkts := rs.map (fun r => s.reqPacket r dst g 0)
      let s1 := s.transmit dst plane pkts
      s1.modOe (fun o => { o with used := SMap.set 15 o.used r.tag g,
                                  txns := o.txns ++ [⟨r.tag, dst, pkts, false, r.ch, r.tenant, 0, plane, s.ep.stroke, owner, ctx, fva⟩] })

/-- The plane of a relaxed load/store request, and the rotation pointer after it (R119). -/
def Block.relaxedPlane (s : Block) (d : Nat) : Option Nat × Nat :=
  match firstAtOrAbove (s.ep.liveFor d) s.oe.rotation with
  | some p => (some p, (p + 1) % 16)
  | none => (none, s.oe.rotation)

/-- A plane among those live for `d` where the spec fixes none: a free choice. -/
def Block.anyPlane (s : Block) (d : Nat) : Option Nat :=
  let l := s.ep.liveFor d
  if l.isEmpty then none else l[(Config.planeChoice s.free) % l.length]?

/-! ### Attempts and their ends (R366, R367) -/

def Common.retryMax (c : Common) : Nat := c.fld (ob 0x9030 0) 16 3
def Common.e2eTimeout (c : Common) : Nat := c.fld (ob 0x9030 0) 0 16 * cclkUs
def Common.dedupLife (c : Common) : Nat := c.fld (ob 0x9030 0) 32 16 * cclkUs

/-- Send the next attempt of a transaction with RETRY = 1, on the plane chosen at this moment: of a relaxed load/store request by the rotation pointer, of any other sprayed request any plane live for its destination (R119). -/
def Block.resend (s : Block) (t : Txn) : Block :=
  let plane := if t.ord then s.pinnedPlane t.dst t.ch t.tenant else if t.owner = .ls then (s.relaxedPlane t.dst).1 else s.anyPlane t.dst
  let pkts := t.pkts.map setRetry
  let s1 := (s.transmit t.dst plane pkts).modEp (fun c => c.count (ob 0x9031 0) 0 64 1)
  let s2 := if t.ord then s1 else if t.owner = .ls then s1.modOe (fun o => { o with rotation := (s.relaxedPlane t.dst).2 }) else s1.tick
  let upd := fun (x : Txn) => { x with pkts := pkts, tries := x.tries + 1, plane := plane, sentAt := s.ep.stroke }
  s2.modOe (fun o => { o with txns := replaceFirst (fun x => x.tag == t.tag) upd o.txns })

/-- Take a transaction out; its tag is withheld when it had more than one attempt or ended in TIMEOUT (R367). -/
def Block.dropTxn (s : Block) (t : Txn) (timeout : Bool) : Block :=
  s.modOe (fun o => { o with
    txns := eraseFirst (fun x => x.tag == t.tag) o.txns,
    runs := o.runs.map (fun r => { r with waitsFor := r.waitsFor.filter (fun x => x != t.tag) }),
    quiet := if timeout || decide (0 < t.tries) then o.quiet ++ [(t.tag, s.ep.stroke)] else o.quiet })

/-- The status with which a transaction completes: RETRIED_OK after any retry (R366). -/
def txnStatus (t : Txn) (st : Nat) : List Nat := if 0 < t.tries then [st, stRetried] else [st]

/-! ### Events of a link at the endpoint are in Link.lean. -/

end Sys2Proof.Machine
end

