-- ==== Sys2Proof/Machine/LinkOps.lean ====
section
/-!
DEFINITION. A link as its two users see it: its state, the credits of each network, control flits, and the sending of one packet into the replay buffer (06, R116; 12, R274, R282 to R286, R295).
-/
namespace Sys2Proof.Machine

def Common.link (c : Common) (pp : Nat) : Link := SMap.get {} c.links pp
def Common.modLink (c : Common) (pp : Nat) (f : Link → Link) : Common := { c with links := SMap.modify {} c.links pp f }

/-- Is `pp` a hall port, or the bridge, of the part? -/
def hallLink (p : Part) (pp : Nat) : Bool := p == .ox720 && decide (0x48 ≤ pp) && decide (pp < 0x58)
def bridgeLink (p : Part) (pp : Nat) : Bool := p == .ox720 && pp == 0x58

/-- The state codes of 0x3001 (R287, R296, R297). A hall port keeps its link's state under the same number, where no object shows it. -/
abbrev lsDetect : Nat := 0
abbrev lsTrain : Nat := 1
abbrev lsLock : Nat := 2
abbrev lsExchange : Nat := 3
abbrev lsActive : Nat := 4
abbrev lsDock : Nat := 5
abbrev lsErgo : Nat := 6

def Common.lstate (c : Common) (pp : Nat) : Nat := c.fld (ob 0x3001 pp) 0 3
def Common.setLstate (c : Common) (pp v : Nat) : Common := (c.setFld (ob 0x3001 pp) 0 3 v).modLink pp (fun l => { l with since := c.stroke })

/-- The networks that a link carries (R116). -/
def linkNets (p : Part) (pp : Nat) : List Nat :=
  if hallLink p pp then [3, 4] else if bridgeLink p pp then [2, 4] else [0, 1, 2, 4]

/-- The receive credits that the part advertises for a network of a link (R116, 0x5230). -/
def Common.creditsFor (c : Common) (pp net : Nat) : Nat :=
  match c.kind with
  | .oe36 => crewCreditDefault .oe36 net
  | .ox720 => c.fld (ob 0x5230 net) (if pp < 0x48 then 0 else if pp < 0x58 then 16 else 32) 16

/-- Credits held for a network: advertised, plus freed, minus consumed, modulo 2^16 (R286). -/
def Link.held (l : Link) (net : Nat) : Nat := (l.adv.getD net 0 + l.freed.getD net 0 + (2 ^ 16 - l.used.getD net 0 % 2 ^ 16)) % 2 ^ 16

/-- Add to one of five cumulative counts, modulo 2^16. -/
def bump (l : List Nat) (net n : Nat) : List Nat := l.set net ((l.getD net 0 + n) % 2 ^ 16)

/-- Leave FEATHER on demand: a marker with WAKE, and the exit is counted (R295). -/
def Common.wake (c : Common) (pp : Nat) : Common :=
  if c.bit (ob 0x3001 pp) 3 then ((c.setBit (ob 0x3001 pp) 3 false).count (ob 0x3008 pp) 0 64 1).emit (.linkSignal pp "WAKE" (c.link pp).mcount)
  else c

/-- Send a control flit (R283). Demand to send ends FEATHER. -/
def Common.ctrl (c : Common) (pp : Nat) (flit : List Byte) : Common :=
  ((c.wake pp).modLink pp (fun l => { l with idleSince := c.stroke })).emit (.ctrl pp flit)

def ctAck : Nat := 1
def ctNak : Nat := 2
def ctReplay : Nat := 3
def ctCredit : Nat := 4
def ctExch : Nat := 5
def ctExchAck : Nat := 6
def ctSwap : Nat := 7
def ctSwapAck : Nat := 8
def ctFeather : Nat := 9
def ctDock : Nat := 10
def ctToken : Nat := 11
def ctLinkDown : Nat := 12
def ctKeyx : Nat := 13

/-- A control flit whose fields are 16-bit numbers from byte 2 on (ACK, NAK, REPLAY, CREDIT). -/
def wordFlit (ctype : Nat) (ws : List Nat) : List Byte := ctrlFlit ctype (0 :: (ws.map (leBytes 2)).flatten)

/-- Send CREDIT with the cumulative counts of freed credits (R286). -/
def Common.sendCredit (c : Common) (pp : Nat) : Common :=
  (c.ctrl pp (wordFlit ctCredit (c.link pp).myFreed)).modLink pp (fun l => { l with reported := l.myFreed })

/-- Credits freed and not reported yet, over the five networks. -/
def Link.unreported (l : Link) : Nat :=
  ((List.range 5).map (fun n => (l.myFreed.getD n 0 + 2 ^ 16 - l.reported.getD n 0) % 2 ^ 16)).foldl (fun a x => a + x) 0

/-- A receiver frees credits of a network; 36 unreported ones are reported at once (R286). -/
def Common.freeCredits (c : Common) (pp net n : Nat) : Common :=
  let old := min n ((c.link pp).stale.getD net 0)
  let c1 := c.modLink pp (fun l => { l with stale := l.stale.set net (l.stale.getD net 0 - old), myFreed := bump l.myFreed net (n - old) })
  if c.lstate pp == lsActive && decide (36 ≤ (c1.link pp).unreported) then c1.sendCredit pp else c1

/-- Credits that packets already queued for the transmitter of a link will take. -/
def Common.queuedCredits (c : Common) (pp net : Nat) : Nat :=
  ((c.txq.filter (fun x => x.1 == pp && pNet x.2 == net)).map (fun x => pCredits x.2)).foldl (fun a x => a + x) 0

/-- May a link take one more packet: it is ACTIVE and holds credits for it beyond those queued before and those of the packets `ahead` (R116, R142)? -/
def Common.linkTakes (c : Common) (pp : Nat) (ahead : List Packet) (p : Packet) : Bool :=
  c.lstate pp == lsActive && decide (c.queuedCredits pp (pNet p) + ((ahead.filter (fun q => pNet q == pNet p)).map pCredits).foldl (fun a x => a + x) 0 + pCredits p
    ≤ (c.link pp).held (pNet p))

/-- May the transmitter send a packet now: ACTIVE, credits for the whole packet, room for its flits among 2,048 unacknowledged ones (R116, R284)? -/
def Common.maySend (c : Common) (pp : Nat) (p : Packet) : Bool :=
  c.lstate pp == lsActive && decide (pCredits p ≤ (c.link pp).held (pNet p)) && decide ((c.link pp).replayBuf.length + pCredits p ≤ 2048)

/-- The group positions that `n` flits take: eight to a group, seven where slot 7 carries the tag (R282, R347). -/
def groupsOf (sess : Bool) (n : Nat) : Nat := if sess then (n + 6) / 7 else (n + 7) / 8

/-- A session after `n` further groups in the transmit direction (R347): the key is replaced at each multiple of 2^32. -/
def Session.sent (x : Session) (n : Nat) : Session :=
  { x with txSeq := x.txSeq + n, txUpdates := (x.txSeq + n) / 2 ^ 32 }
def Session.received (x : Session) (n : Nat) : Session :=
  { x with rxSeq := x.rxSeq + n, rxUpdates := (x.rxSeq + n) / 2 ^ 32 }

/-- Send one packet: its flits enter the replay buffer, its credits are consumed, it leaves (R274, R284, R286). -/
def Common.sendPacket (c : Common) (pp : Nat) (p : Packet) : Common :=
  let c1 := (c.wake pp).modLink pp (fun l => { l with
    used := bump l.used (pNet p) (pCredits p),
    txCount := (l.txCount + pCredits p) % 2 ^ 16,
    replayBuf := l.replayBuf ++ pFlits p,
    ends := if c.kind == .ox720 && (pOpc p == 0x22 || pOpc p == 0x26) then
      l.ends ++ [((l.txCount + pCredits p) % 2 ^ 16, if pOpc p == 0x26 then 8192 + cCtx p else cCtx p + 4096 * b2n (pSrc p != c.fld (ob 0x5200 0) 0 10), if pOpc p == 0x26 then mirrorArg p else cChunk p)]
      else l.ends,
    session := l.session.map (fun x => x.sent (groupsOf true (pCredits p))),
    idleSince := c.stroke })
  c1.emit (.packet pp p)

/-- Take a packet out of what a link delivered. One that came with the command itself takes its credits with it. -/
def Common.rxDrop (c : Common) (pp : Nat) (p : Packet) : Common :=
  if c.rx.contains (pp, p) then { c with rx := eraseFirst (fun x => x == (pp, p)) c.rx }
  else if pNet p < 5 ∧ pp < 128 then c.modLink pp (fun l => { l with taken := bump l.taken (pNet p) (pCredits p) })
  else c

/-- Take an arriving packet in where it is consumed at once: its credits are free again (R133, R286). -/
def Common.takeRx (c : Common) (pp : Nat) (p : Packet) : Common := (c.rxDrop pp p).freeCredits pp (pNet p) (pCredits p)

/-- An endpoint refuses a packet that fails checks 1 and 2 of R132: its credits go back, and the event is logged (R133). -/
def Common.refuseHere (c : Common) (pp : Nat) (p : Packet) : Common :=
  let c1 := c.rxDrop pp p
  let c2 := if pNet p < 5 then c1.freeCredits pp (pNet p) (pCredits p) else c1
  c2.logLimited 0x3040 .uncorrected pp pp (packArg [(7, pp), (4, 0)])

/-! ### The bridge token (R299) -/

abbrev tkNone : Nat := 0
abbrev tkBow : Nat := 1
abbrev tkStern : Nat := 2

def Common.token (c : Common) : Nat := c.fld (ob 0x3010 0) 0 2
/-- Is the switch the bow of its pair (01, R23)? -/
def Common.isBow (c : Common) : Bool := c.fld (ob 0x5200 0) 0 4 % 2 == 0
/-- Does the view name the switch itself? -/
def Common.namesSelf (c : Common) : Bool := c.token == (if c.isBow then tkBow else tkStern)

/-- The view changes; each move is logged with its cause. -/
def Common.setToken (c : Common) (v cause : Nat) : Common :=
  if c.token == v then c else (c.setFld (ob 0x3010 0) 0 2 v).log 0x1008 .info 0xFF (packArg [(2, v), (2, cause)])

/-- The bow gives up the token: it sends TOKEN YIELD where its bridge is ACTIVE, and takes STERN. -/
def Common.yieldToken (c : Common) : Common :=
  if !c.isBow || c.kind == .oe36 then c
  else (if c.lstate 0x58 == lsActive then c.ctrl 0x58 (ctrlFlit ctToken [1]) else c).setToken tkStern 0

end Sys2Proof.Machine
end

