-- ==== Sys2Proof/Machine/Coll.lean ====
section
/-!
DEFINITION. Collective contexts and groups (10, R216 to R231): fields, members, path and mode, pieces, segments, streams and chunks.
-/
namespace Sys2Proof.Machine

/-! ### Context fields (10, "Objects") -/

def Cfg.op (c : Cfg) : Nat := bitsOf c.a 0 4
def Cfg.rop (c : Cfg) : Nat := bitsOf c.a 4 3
def Cfg.gid (c : Cfg) : Nat := bitsOf c.a 7 12
def Cfg.inFmt (c : Cfg) : Nat := bitsOf c.a 19 4
def Cfg.outFmt (c : Cfg) : Nat := bitsOf c.a 23 4
def Cfg.inScaled (c : Cfg) : Bool := bitsOf c.a 27 1 == 1
def Cfg.outScaled (c : Cfg) : Bool := bitsOf c.a 28 1 == 1
def Cfg.modeField (c : Cfg) : Nat := bitsOf c.a 29 2
def Cfg.modeAuto (c : Cfg) : Bool := bitsOf c.a 31 1 == 1
def Cfg.rnd (c : Cfg) : Nat := bitsOf c.a 32 2
def Cfg.path (c : Cfg) : Nat := bitsOf c.a 34 2
def Cfg.pkg (c : Cfg) : Bool := bitsOf c.a 36 1 == 1
def Cfg.residual (c : Cfg) : Bool := bitsOf c.a 37 1 == 1
def Cfg.en (c : Cfg) : Bool := bitsOf c.a 38 1 == 1
def Cfg.root (c : Cfg) : Nat := bitsOf c.a 39 13
def Cfg.rot (c : Cfg) : Nat := bitsOf c.a 52 4
def Cfg.count (c : Cfg) : Nat := bitsOf c.b 0 32
def Cfg.xform (c : Cfg) : Bool := bitsOf c.b 32 1 == 1
def Cfg.rank (c : Cfg) : Nat := 8 * 2 ^ bitsOf c.b 33 2
def Cfg.rlog (c : Cfg) : Nat := bitsOf c.b 35 4
def Cfg.tenant (c : Cfg) : Nat := bitsOf c.b 40 8
def Cfg.areaBase (c : Cfg) : Nat := bitsOf c.area 0 20
def Cfg.areaSize (c : Cfg) : Nat := bitsOf c.area 20 20
def Cfg.resOff (c : Cfg) : Nat := bitsOf c.area 40 20

/-- Key of a context's object. -/
def cxKey (base ctx : Nat) : Nat := ob (base + ctx / 256) (ctx % 256)
def grpKey (g : Nat) : Nat := ob (0x7010 + g / 256) (g % 256)

/-- The values of a context and its group as applied. -/
def Common.cfg (c : Common) (ctx : Nat) : Cfg :=
  let w := fun base => BitVec.ofNat 64 (c.fld (cxKey base ctx) 0 64)
  { a := w 0x7100, b := w 0x7110, seed := w 0x7120, area := w 0x7130,
    grp := BitVec.ofNat 64 (c.fld (grpKey (bitsOf (w 0x7100) 7 12)) 0 64) }

def Common.launchNo (c : Common) (ctx : Nat) : Nat := c.fld (cxKey 0x7140 ctx) 0 32
def Common.setLaunchNo (c : Common) (ctx v : Nat) : Common := c.setFld (cxKey 0x7140 ctx) 0 32 v
def Common.setBusy (c : Common) (ctx : Nat) (b : Bool) : Common := c.setBit (cxKey 0x7140 ctx) 32 b

/-- Operation codes (R216). -/
abbrev opAllReduce : Nat := 0
abbrev opReduceScatter : Nat := 1
abbrev opAllGather : Nat := 2
abbrev opBroadcast : Nat := 3
abbrev opReduce : Nat := 4
abbrev opAllToAll : Nat := 5
abbrev opAllToAllV : Nat := 6
abbrev opBarrier : Nat := 7
abbrev opScan : Nat := 8
abbrev opUpdateGather : Nat := 9
abbrev opDequantGather : Nat := 10
abbrev opRotateReduce : Nat := 11

/-- Operations that reduce. -/
def Cfg.reduces (c : Cfg) : Bool := c.op == 0 || c.op == 1 || c.op == 4 || c.op == 8 || c.op == 9 || c.op == 11

/-! ### Groups (R219) -/

def grpValid (g : BitVec 64) : Bool := bitsOf g 63 1 == 1
def grpHExt (g : BitVec 64) : Nat := bitsOf g 6 6 + 1
def grpTExt (g : BitVec 64) : Nat := bitsOf g 22 4 + 1
def grpPExt (g : BitVec 64) : Nat := bitsOf g 32 2 + 1
def grpDExt (g : BitVec 64) : Nat := bitsOf g 37 1 + 1
def grpRack (g : BitVec 64) (a : Nat) : Nat := bitsOf g 0 6 + a * bitsOf g 12 6
/-- Members per rack, and in all. -/
def grpPerRack (g : BitVec 64) : Nat := grpTExt g * grpPExt g * grpDExt g
def grpN (g : BitVec 64) : Nat := grpHExt g * grpPerRack g

/-- Slot of the member with index `r` within its rack. -/
def grpSlot (g : BitVec 64) (r : Nat) : Nat :=
  let d := r % grpDExt g
  let c := r / grpDExt g % grpPExt g
  let b := r / grpDExt g / grpPExt g
  (bitsOf g 18 4 + b * bitsOf g 26 4) * 8 + (bitsOf g 30 2 + c * bitsOf g 34 2) * 2 + (bitsOf g 36 1 + d)

/-- Endpoint ID of member `i`. -/
def grpMember (g : BitVec 64) (i : Nat) : Nat := grpRack g (i / grpPerRack g) * 128 + grpSlot g (i % grpPerRack g)

/-- Rack index of a rack number in a group. -/
def grpRackIndex (g : BitVec 64) (rack : Nat) : Option Nat := (List.range (grpHExt g)).find? (fun a => grpRack g a == rack)

/-- Member index of an endpoint ID. -/
def grpIndexOf (g : BitVec 64) (id : Nat) : Option Nat :=
  match grpRackIndex g (id / 128) with
  | none => none
  | some a => ((List.range (grpPerRack g)).find? (fun r => grpSlot g r == id % 128)).map (fun r => a * grpPerRack g + r)

/-! ### Formats on the wire (R226) -/

/-- Width of an element of a format code (R174). -/
def codeWidth : Nat → Nat
  | 0 => 64 | 1 => 32 | 2 => 16 | 3 => 16 | 4 => 8 | 5 => 8 | 6 => 6 | 7 => 6 | 8 => 4 | 9 => 8 | 10 => 16 | 11 => 32 | _ => 16

/-- Does a transfer carry a scale byte per block (R177, R175)? -/
def hasScale (code : Nat) (scaled : Bool) : Bool := scaled || code == 12

/-- B and K of a lane form (R226). -/
def chunkBlocks (w : Nat) (scale : Bool) : Nat := 2048 / (32 * w + 8 * b2n scale)
def chunksPerSeg (w : Nat) (scale : Bool) : Nat := (16 + chunkBlocks w scale - 1) / chunkBlocks w scale

/-- Bytes of an array of `n` elements with its scale bytes. -/
def arrayBytes (code : Nat) (scaled : Bool) (n : Nat) : Nat :=
  (n * codeWidth code + 7) / 8 + (if hasScale code scaled then (n + 31) / 32 else 0)

/-! ### Contributions and results (R216) -/

/-- Elements that a contributing member contributes. -/
def Cfg.contribElems (c : Cfg) : Nat :=
  if c.op = 1 ∨ c.op = 5 ∨ c.op = 6 then grpN c.grp * c.count else if c.op = 7 then 0 else c.count

/-- Elements that member `k` contributes. -/
def Cfg.contribOf (c : Cfg) (k : Nat) : Nat := if c.op = 3 ∧ k ≠ c.root then 0 else c.contribElems

/-- Elements of member `k`'s result. -/
def Cfg.resultOf (c : Cfg) (k : Nat) : Nat :=
  if c.op = 2 ∨ c.op = 5 ∨ c.op = 6 ∨ c.op = 10 then grpN c.grp * c.count
  else if c.op = 7 then 0
  else if c.op = 4 then (if k = c.root then c.count else 0)
  else if c.op = 11 ∧ c.xform then c.rank * (c.count / 2 ^ c.rlog)
  else c.count

/-- The pieces that member `k` contributes to, ascending. -/
def Cfg.pieces (c : Cfg) (k : Nat) : List Nat :=
  let n := grpN c.grp
  if c.contribOf k = 0 then []
  else if c.op = 1 then List.range n
  else if c.op = 2 ∨ c.op = 10 then [k]
  else if c.op = 5 ∨ c.op = 6 then (List.range n).map (fun i => k * n + i)
  else [0]

/-- The whole set of result pieces: their number. -/
def Cfg.pieceCount (c : Cfg) : Nat :=
  let n := grpN c.grp
  if c.op = 1 ∨ c.op = 2 ∨ c.op = 10 then n else if c.op = 5 ∨ c.op = 6 then n * n else if c.op = 7 then 0 else 1

/-- Elements of one result piece. -/
def Cfg.resPieceLen (c : Cfg) : Nat := if c.op = 11 ∧ c.xform then c.rank * (c.count / 2 ^ c.rlog) else c.count

/-- The members that receive a piece (R216). -/
def Cfg.recipients (c : Cfg) (piece : Nat) : List Nat :=
  let n := grpN c.grp
  if c.op = 1 then [piece]
  else if c.op = 4 then [c.root]
  else if c.op = 5 ∨ c.op = 6 then [piece % n]
  else List.range n

/-- Element offset of a piece within the result of a member that receives it. -/
def Cfg.resOffset (c : Cfg) (piece : Nat) : Nat :=
  let n := grpN c.grp
  if c.op = 2 ∨ c.op = 10 then piece * c.count
  else if c.op = 5 ∨ c.op = 6 then piece / n * c.count
  else 0

/-! ### Path and mode (R227, R228) -/

/-- Does the context take the latency-optimal path? -/
def Cfg.latency (c : Cfg) (small : Nat) : Bool :=
  c.path == 1 || (c.path == 0 && decide (arrayBytes c.inFmt c.inScaled c.contribElems < small))

/-- The arithmetic mode: 0 FIXED-ORDER, 1 ANCHORED, 2 ARRIVAL. -/
def Cfg.modeOf (c : Cfg) (latency : Bool) : Nat :=
  if !c.modeAuto then c.modeField
  else if c.rop = 0 ∧ c.inFmt ≠ 0 ∧ ¬latency then 1 else 0

/-- Does a launch make a pre-pass: a SUM on float or BX16 data in ANCHORED mode (R183, R228), on the bandwidth-optimal path (R227)? -/
def Cfg.prepass (c : Cfg) (latency : Bool) (mode : Nat) : Bool := !latency && c.reduces && c.rop == 0 && mode == 1 && (decide (c.inFmt ≤ 8) || c.inFmt == 12)

/-- The formats, operator and mode break R177, R183, R217 or R218. -/
def Cfg.shapeBad (c : Cfg) (mode : Nat) : Bool :=
  let isFloat := decide (c.inFmt ≤ 8) || c.inFmt == 12
  let isInt := decide (9 ≤ c.inFmt) && decide (c.inFmt ≤ 11)
  let scalable := fun k => decide (4 ≤ k) && decide (k ≤ 9)
  (c.inScaled && !scalable c.inFmt) || (c.outScaled && !scalable c.outFmt)
  || (c.rop != 0 && !(c.op == 0 || c.op == 1 || c.op == 4 || c.op == 8))
  || ((c.op == 9 || c.op == 11) && !isFloat)
  || (c.reduces && (c.rop == 0 || c.rop == 3) && decide (mode = 3))
  || (c.reduces && c.rop == 3 && (decide (8 < c.inFmt) || mode == 1))
  || (c.inFmt == 0 && (mode == 1 || mode == 2))
  || (c.reduces && decide (4 ≤ c.rop) && (c.inFmt != c.outFmt || !isInt))
  || (c.op == 10 && (!hasScale c.inFmt c.inScaled || c.outScaled || decide (8 < c.outFmt)))
  || (c.op == 11 && c.xform && (decide (c.rlog < 3) || decide (9 < c.rlog) || c.count % 2 ^ c.rlog != 0))

/-- The plane of the latency-optimal path. -/
def latencyPlane (gid : Nat) (planes : List Nat) : Nat :=
  let p := Nat.xor (Nat.xor gid (gid / 16)) (gid / 256) % 16
  (match planes.find? (fun k => decide (p ≤ k)) with
   | some k => k
   | none => planes.headD p)

def Common.collPlanes (c : Common) : List Nat := (List.range 16).filter (fun k => bitAt (c.fld (ob 0x7000 0) 0 16) k)
def Common.smallBytes (c : Common) : Nat := c.fld (ob 0x7000 1) 0 32
def Common.collTimeout (c : Common) : Nat := c.fld (ob 0x7000 4) 0 32 * cclkUs

/-! ### Streams (R225, R226) -/

/-- Segments of a piece of `len` elements. -/
def segsOf (len : Nat) : Nat := (len + 511) / 512

/-- The segments of piece `i` (S in all) that live plane number `r` of `l` takes: how many, and the first. -/
def segShare (s i r l : Nat) : Nat × Nat :=
  let off := (r + l - i % max 1 l) % max 1 l
  (if off < s then (s - 1 - off) / max 1 l + 1 else 0, off)

/-- The stream of a list of pieces of `len` elements on one plane: total segments. With `single`, one plane takes all. -/
def streamSegs (pieces : List Nat) (len r l : Nat) : Nat :=
  pieces.foldl (fun a i => a + (segShare (segsOf len) i r l).1) 0

/-- The piece and segment at position `k` of the stream. -/
def streamAt (len r l : Nat) : List Nat → Nat → Option (Nat × Nat)
  | [], _ => none
  | i :: rest, k =>
    let sh := segShare (segsOf len) i r l
    if k < sh.1 then some (i, sh.2 + k * max 1 l) else streamAt len r l rest (k - sh.1)

/-- The CHUNK numbers of a stream: those of its segments' chunks that carry an element of their piece (the worked example of 11 sends one chunk for 64 elements). -/
def chunkNumbers (w : Nat) (scale : Bool) (pieces : List Nat) (len r l : Nat) : List Nat :=
  let k := chunksPerSeg w scale
  let b := chunkBlocks w scale
  (List.range (streamSegs pieces len r l * k)).filter (fun c =>
    match streamAt len r l pieces (c / k) with
    | some (_, m) => decide (512 * m + 32 * (b * (c % k)) < len)
    | none => false)

/-- Block `b` of a stream, blocks numbered sixteen to a segment (R226): its piece and the offset of its first element in the piece; none beyond the end of the stream or of the piece. -/
def blockAt (pieces : List Nat) (len r l b : Nat) : Option (Nat × Nat) :=
  match streamAt len r l pieces (b / 16) with
  | some (i, m) => if 512 * m + 32 * (b % 16) < len then some (i, 512 * m + 32 * (b % 16)) else none
  | none => none

/-- Live plane number of a plane, and the number of planes, for a path (one plane on the latency-optimal path). -/
def planeNo (latency : Bool) (planes : List Nat) (p : Nat) : Nat × Nat :=
  if latency then (0, 1) else ((planes.findIdx? (fun k => k == p)).getD 0, planes.length)

/-- A reserved field or kernel of an optimizer record (R208). -/
def optBad (rec : List Byte) : Bool :=
  let w := leAt rec 0 4
  decide (2 < w % 16) || decide (2 ^ 6 ≤ w) || (bitAt w 4 && w % 16 != 0) || leAt rec 28 36 != 0

/-! ### Stages (R229, R230) -/

/-- Is the package stage run: PKG, bandwidth-optimal path, both dies in the group, a reducing operation? -/
def Cfg.pkgStage (c : Cfg) (latency : Bool) : Bool := c.pkg && !latency && grpDExt c.grp == 2 && c.reduces

/-- Are an operation's partials sums or products; every other one's, and what does not reduce, cross in the input format (R230)? -/
def Cfg.sums (c : Cfg) : Bool := c.reduces && (c.rop == 0 || c.rop == 3)

/-- The lane form of a partial (R230): width, format code on the wire. -/
def Cfg.partialWidth (c : Cfg) (mode : Nat) : Nat :=
  if c.sums then
    (if decide (9 ≤ c.inFmt) && decide (c.inFmt ≤ 11) then 64 else if mode = 1 then 64 else if c.inFmt = 0 then 64 else 32)
  else codeWidth c.inFmt

/-- The form of a partial between stages: a format code, 16 AX64, 17 a 64-bit integer. -/
def Cfg.partialCode (c : Cfg) (mode : Nat) : Nat :=
  if c.sums then
    (if 9 ≤ c.inFmt ∧ c.inFmt ≤ 11 then 17 else if mode = 1 then 16 else if c.inFmt = 0 then 0 else 1)
  else c.inFmt

/-- Does a partial carry scale bytes: it travels in a block-scaled input format (R230)? -/
def Cfg.partialScaled (c : Cfg) : Bool := !c.sums && hasScale c.inFmt c.inScaled

/-- Width and scaling of the chunks that a member sends. -/
def Cfg.sendForm (c : Cfg) (latency : Bool) (mode : Nat) : Nat × Bool :=
  if c.pkgStage latency then (c.partialWidth mode, c.partialScaled) else (codeWidth c.inFmt, hasScale c.inFmt c.inScaled)

/-! ### Streams of a member (R225, R226, R233) -/

/-- CHUNK numbers of the weight input (R208, R209) that the rack lead sends a plane: its share of the parameter vector in OUT_FMT. -/
def MLaunch.weightList (l : MLaunch) (plane : Nat) : List Nat :=
  if l.lead && l.weight then
    let p := planeNo l.latency l.collPlanes plane
    chunkNumbers (codeWidth l.cfg.outFmt) (hasScale l.cfg.outFmt l.cfg.outScaled) [0] l.cfg.count p.1 p.2
  else []
def MLaunch.weightChunks (l : MLaunch) (plane : Nat) : Nat := (l.weightList plane).length

/-- Does this die send the share of a plane: it leads, or there is no package stage (R229)? -/
def MLaunch.sends (l : MLaunch) (plane : Nat) : Bool := !(l.cfg.pkgStage l.latency) || l.slot % 2 == plane % 2

/-- Segments of the member's stream to a plane. -/
def MLaunch.segs (l : MLaunch) (plane : Nat) : Nat :=
  let p := planeNo l.latency l.collPlanes plane
  if l.sends plane then streamSegs (l.cfg.pieces l.index) l.cfg.count p.1 p.2 else 0

/-- CHUNK numbers of the CONTRIB stream proper, and how many; chunks of the PREPASS stream. -/
def MLaunch.dataList (l : MLaunch) (plane : Nat) : List Nat :=
  let f := l.cfg.sendForm l.latency l.mode
  let p := planeNo l.latency l.collPlanes plane
  if l.sends plane then chunkNumbers f.1 f.2 (l.cfg.pieces l.index) l.cfg.count p.1 p.2 else []
def MLaunch.dataChunks (l : MLaunch) (plane : Nat) : Nat := (l.dataList plane).length
def MLaunch.preChunks (l : MLaunch) (plane : Nat) : Nat := if l.cfg.prepass l.latency l.mode then (l.segs plane * 16 + 255) / 256 else 0

/-- Chunks that go before the stream: the optimizer record, then the weight input. -/
def MLaunch.leadChunks (l : MLaunch) (plane : Nat) : Nat := if l.lead then 1 + l.weightChunks plane else 0

/-- How many CONTRIB chunks a plane gets in all: a JOIN when there is nothing else. -/
def MLaunch.allChunks (l : MLaunch) (plane : Nat) : Nat := l.leadChunks plane + max 1 (l.dataChunks plane)

/-- What chunk `i` of a stream to a plane is: 0 PREPASS, 1 the optimizer record, 2 weight input, 3 a JOIN, 4 a chunk of the member's share. -/
def MLaunch.chunkIs (l : MLaunch) (plane : Nat) (pre : Bool) (i : Nat) : Nat :=
  if pre then 0
  else if l.lead && i == 0 then 1
  else if i < l.leadChunks plane then 2
  else if l.dataChunks plane = 0 then 3
  else 4

/-- Its CHUNK number. -/
def MLaunch.chunkNo (l : MLaunch) (plane : Nat) (pre : Bool) (i : Nat) : Nat :=
  match l.chunkIs plane pre i with
  | 0 => i
  | 2 => (l.weightList plane).getD (i - 1) 0
  | 4 => (l.dataList plane).getD (i - l.leadChunks plane) 0
  | _ => 0

/-- The blocks that CHUNK `c` of a lane form carries, numbered sixteen to a segment (R226). -/
def blocksOfChunk (w : Nat) (scale : Bool) (c : Nat) : List Nat :=
  let k := chunksPerSeg w scale
  let b0 := chunkBlocks w scale * (c % k)
  (List.range (min 16 (b0 + chunkBlocks w scale) - b0)).map (fun i => 16 * (c / k) + b0 + i)

/-- The blocks of chunk `i`: of each its piece and the offset of its first element; none beyond the end. -/
def MLaunch.chunkParts (l : MLaunch) (plane : Nat) (pre : Bool) (i : Nat) : List (Option (Nat × Nat)) :=
  let p := planeNo l.latency l.collPlanes plane
  let f := l.cfg.sendForm l.latency l.mode
  let own := fun (b : Nat) => blockAt (l.cfg.pieces l.index) l.cfg.count p.1 p.2 b
  match l.chunkIs plane pre i with
  | 0 => (List.range 256).map (fun k => own (256 * i + k))
  | 2 => (blocksOfChunk (codeWidth l.cfg.outFmt) (hasScale l.cfg.outFmt l.cfg.outScaled) (l.chunkNo plane pre i)).map (fun b => blockAt [0] l.cfg.count p.1 p.2 b)
  | 4 => (blocksOfChunk f.1 f.2 (l.chunkNo plane pre i)).map own
  | _ => []

/-! ### The buffers of a contribution (R216, R223) -/

/-- Place of a piece among those of a member's contribution. -/
def Cfg.pieceSlot (c : Cfg) (piece : Nat) : Nat := if c.op = 1 then piece else if c.op = 5 ∨ c.op = 6 then piece % max 1 (grpN c.grp) else 0

/-- Number of an element in the contribution array; number of a block's scale byte, which stand piece by piece. -/
def Cfg.elemNo (c : Cfg) (piece off : Nat) : Nat := c.pieceSlot piece * c.count + off
def Cfg.scaleNo (c : Cfg) (piece off : Nat) : Nat := c.pieceSlot piece * ((c.count + 31) / 32) + off / 32

/-- The bytes that `n` elements of `w` bits from element `e` on occupy: the first, and how many. -/
def elemSpan (w e n : Nat) : Nat × Nat := (e * w / 8, ((e + n) * w + 7) / 8 - e * w / 8)

/-- What is read to build chunk `i`: buffer, offset and length, in order. -/
def MLaunch.needs (l : MLaunch) (plane : Nat) (pre : Bool) (i : Nat) : List (Nat × Nat × Nat) :=
  let c := l.cfg
  let weight := l.chunkIs plane pre i == 2
  let of_ := fun (x : Nat × Nat) =>
    let e := if weight then x.2 else c.elemNo x.1 x.2
    let s := elemSpan (codeWidth (if weight then c.outFmt else c.inFmt)) e (min 32 (c.count - x.2))
    (if weight then 5 else 1, s.1, s.2) :: (if !weight && hasScale c.inFmt c.inScaled then [(3, c.scaleNo x.1 x.2, 1)] else [])
  let own := ((l.chunkParts plane pre i).filterMap id).flatMap of_
  if c.op = opAllToAllV && !own.isEmpty then (6, 0, 4 * grpN c.grp) :: own else own

/-- The read at position `k` of a list of ranges: buffer, offset, bytes left in the range. -/
def needAt : List (Nat × Nat × Nat) → Nat → Option (Nat × Nat × Nat)
  | [], _ => none
  | (b, off, len) :: rest, k => if k < len then some (b, off + k, len - k) else needAt rest (k - len)

def needBytes (l : List (Nat × Nat × Nat)) : Nat := l.foldl (fun a x => a + x.2.2) 0

end Sys2Proof.Machine
end

