-- ==== Sys2Proof/Machine/Window.lean ====
section
/-!
DEFINITION. What every management write passes: which objects are served, CTRL_LOCK, and the bus errors (17, R386, R387, R401; 18, R420).
-/
namespace Sys2Proof.Machine

/-- The code of a master in OWNER. -/
def masterCode : Master → Nat
  | .fieldBus => 1
  | .pcie => 2

/-- FW_STATE. -/
def Common.fwState (c : Common) : Nat := c.fld (ob 0xA005 0) 0 2

/-- Is an index served? Before the firmware runs only the ranges 0x1000 and 0xA000 are (R420); in reset none is. -/
def Common.serves (c : Common) (key : Nat) : Bool :=
  !c.inReset && (c.fwState == 2 || key / 2 ^ 20 == 0x1 || key / 2 ^ 20 == 0xA)

/-- Objects that CTRL_LOCK never locks: CTRL_LOCK itself, the mailbox and EVT_NEXT (R401). -/
def neverLocked (key : Nat) : Bool :=
  key == ob 0x2000 0x10 || (decide (0x8100 ≤ key / 256) && decide (key / 256 ≤ 0x8102)) || key == ob 0x2101 1

def Common.owner (c : Common) : Nat := c.fld (ob 0x2000 0x10) 0 2

/-- Does CTRL_LOCK refuse a write of an object by a master? -/
def Common.locked (c : Common) (m : Master) (key : Nat) : Bool :=
  c.owner != 0 && c.owner != masterCode m && !neverLocked key

/-- Record a bus error (R387): BUS_ERR_LAST, BUS_ERRORS, BUS_ERROR. Width code 4 stands for a whole-object Haoth access. -/
def Common.recordError (c : Common) (m : Master) (offset width : Nat) : Common :=
  let mb := masterCode m - 1
  ((c.setFld (ob 0x2000 0x12) 0 32 (packArg [(28, offset), (1, mb), (3, width)])).count (ob 0x2000 0x12) 32 32 1).logLimited
    0xB001 .uncorrected 0xFF 0 (packArg [(28, offset), (3, width), (1, mb)])

/-- A refused access of PCIe: recorded, and reported as Completer Abort. -/
def Common.busError (c : Common) (m : Master) (offset width : Nat) : Common :=
  match m with
  | .pcie => (c.recordError m offset width).emit (.completerAbort offset)
  | .fieldBus => c.recordError m offset 4

/-- The BAR0 offset of an object's slot (R385). -/
def slotOffset (key : Nat) : Nat := key / 256 * 2 ^ 12 + key % 256 * 16

/-- A write by the owner renews its lease (R401). -/
def Common.renew (c : Common) (m : Master) : Common := if c.owner == masterCode m then { c with ownerWrite := c.stroke } else c

/-- A management write of an object with a row of its own: refused while the object is not served or is locked, else its effect on the renewed part. -/
def Block.mgmtWrite (s : Block) (p : Part) (m : Master) (key : Nat) (f : Block → Block) : Block :=
  let c := s.common p
  if c.inReset then s
  else if c.serves key && !c.locked m key then f (s.modCommon p (fun c => c.renew m))
  else s.modCommon p (fun c => c.busError m (slotOffset key) 2)

/-! ### The commit (R395, R398) -/

abbrev csOpen : Nat := 0
abbrev csChecking : Nat := 1
abbrev csArmed : Nat := 2
abbrev csFailed : Nat := 3
abbrev csAbandoned : Nat := 4

def Common.commitState (c : Common) : Nat := c.fld (ob 0x2000 2) 0 3
/-- Is a catch due in this CCLK that has not been made? -/
def Common.catchDue (c : Common) : Bool := c.commitState == csArmed && c.armedAt == some c.stroke
def Common.setCommitState (c : Common) (v : Nat) : Common := c.setFld (ob 0x2000 2) 0 3 v
def Common.failObject (c : Common) : Nat := c.fld (ob 0x2000 2) 17 24
def Common.catchAt (c : Common) : Nat := c.fld (ob 0x2000 1) 0 48
def Common.commitGroup (c : Common) : Nat := c.fld (ob 0x2000 1) 48 16
def Common.catchGuard (c : Common) : Nat := c.fld (ob 0x2000 5) 0 32

/-- A scheduled commit is abandoned: cause 0 CATCH_ANN, 1 the count loaded past it. -/
def Common.abandon (c : Common) (cause : Nat) : Common :=
  (({ c with armedAt := none, scheduled := false } : Common).setCommitState csAbandoned).log 0xB005 .uncorrected 0xFF (packArg [(48, c.catchAt), (16, c.commitGroup), (1, cause)])

/-- Is a commit under way: CHECKING or ARMED, with staging closed? -/
def Common.commitOpen (c : Common) : Bool := c.commitState == csChecking || c.commitState == csArmed

/-- The first multiple of 64 that is `t` or later. -/
def next64 (t : Nat) : Nat := (t + 63) / 64 * 64

/-- The count has been loaded: a scheduled commit whose CATCH_AT it has passed is abandoned, an armed unscheduled one catches at a later multiple of 64. -/
def Common.loadedPast (c : Common) : Common :=
  if c.scheduled then (if c.commitOpen && decide (c.catchAt < c.stroke) then c.abandon 1 else c)
  else if c.armedAt.isSome then { c with armedAt := some (next64 (c.stroke + 16)) }
  else c

end Sys2Proof.Machine
end

