-- ==== Sys2Proof/Machine/Translate.lean ====
section
/-!
DEFINITION. Translation (03): page-table entries, the TLB and micro-TLBs, the miss queue and the walkers, invalidation, fault records; the commands WALK_START, INVAL_CMD, INVAL_COMPLETE and FAULT_CONS.
-/
namespace Sys2Proof.Machine

/-! ### Entries (R48, R49) -/

def pteV (v : BitVec 64) : Bool := bitsOf v 0 1 == 1
def pteL (v : BitVec 64) : Bool := bitsOf v 1 1 == 1
def pteRights (v : BitVec 64) : Nat := bitsOf v 2 3
def pteCc (v : BitVec 64) : Bool := bitsOf v 5 1 == 1
def pteOwn (v : BitVec 64) : Nat := bitsOf v 6 2
def pteTenant (v : BitVec 64) : Nat := bitsOf v 8 8

/-- Is a valid leaf invalid for translation (R49)? `big`: a 32 GiB leaf, whose bits [34:29] are reserved. -/
def leafInvalid (v : BitVec 64) (big : Bool) : Bool :=
  bitsOf v 47 9 != 0 || bitsOf v 16 13 != 0 || (big && bitsOf v 29 6 != 0)
    || pteOwn v == 3 || decide (71 < bitsOf v 40 7)
    || (bitAt (pteRights v) 1 && pteOwn v == 1)
    || (bitAt (pteRights v) 2 && !(bitAt (pteRights v) 0 && bitAt (pteRights v) 1))
    || (pteCc v && pteOwn v != 2)

/-- Is a valid pointer entry invalid: a reserved field is non-zero? -/
def pointerInvalid (v : BitVec 64) : Bool := bitsOf v 52 12 != 0 || bitsOf v 2 7 != 0

/-- The FPA of an FVA through a leaf (R48). -/
def leafFpa (leaf : BitVec 64) (big : Bool) (fva : Nat) : Nat :=
  if big then bitsOf leaf 35 12 * 2 ^ 35 + fva % 2 ^ 35 else bitsOf leaf 29 18 * 2 ^ 29 + fva % 2 ^ 29

/-- Fault causes (R60). -/
def causeNotMapped : Nat := 0
def causeInvalid : Nat := 1
def causePermission : Nat := 2
def causeTenant : Nat := 3
def causeWalk : Nat := 4
def causeDisabled : Nat := 5

/-- Rights of the accesses (R50): bit 0 R, 1 W, 2 A; the access codes of R60 are 0 read, 1 write, 2 atomic, 3 accumulating write, 4 fill. -/
def accessRights : Nat → Nat
  | 0 => 1
  | 1 => 2
  | 2 => 7
  | 3 => 7
  | _ => 2

def Common.ctxEn (c : Common) (ctx : Nat) : Bool := c.bit (ob 0xB100 ctx) 0
def Common.ctxTenant (c : Common) (ctx : Nat) : Nat := c.fld (ob 0xB100 ctx) 8 8
def Common.ctxBase (c : Common) (ctx : Nat) : Nat := c.fld (ob 0xB101 ctx) 20 32 * 2 ^ 20

/-- The outcome for one access of a leaf that was reached (R50): the rights needed, then the tenant. -/
def checkLeaf (rights tenant level : Nat) (leaf : BitVec 64) (big : Bool) : Xlat :=
  if pteRights leaf &&& rights != rights then .fail causePermission level leaf
  else if tenant != 0 && pteTenant leaf != tenant then .fail causeTenant level leaf
  else .ok leaf big

/-! ### TLB and micro-TLBs -/

def TlbEnt.covers (e : TlbEnt) (ctx fva : Nat) : Bool :=
  e.ctx == ctx && e.page == (if e.big then fva / 2 ^ 35 else fva / 2 ^ 29)

/-- The set of an entry: FVA[42:35] or FVA[36:29]. -/
def TlbEnt.set (e : TlbEnt) : Nat := e.page % 256

/-- Does an invalidation's scope hold an entry (R55)? -/
def invalCovers (cmd : BitVec 64) (e : TlbEnt) : Bool :=
  let ctx := bitsOf cmd 2 6
  let g := bitsOf cmd 8 23
  let n := bitsOf cmd 31 10
  match bitsOf cmd 0 2 with
  | 0 => true
  | 1 => e.ctx == ctx
  | 2 => e.ctx == ctx && (if e.big then decide (g < e.page * 64 + 64) && decide (e.page * 64 ≤ g + n)
                          else decide (g ≤ e.page) && decide (e.page ≤ g + n))
  | _ => false

/-- Does the scope hold a walk of a context and granule? -/
def invalCoversMiss (cmd : BitVec 64) (m : Miss) : Bool :=
  invalCovers cmd ⟨m.ctx, false, m.granule, 0⟩ || invalCovers cmd ⟨m.ctx, true, m.granule / 64, 0⟩

/-- Put an entry into a micro-TLB (unit 0 to 15: copy engines, 16 entries; 16: load/store path, 32), replacing a victim when it is full. -/
def Block.microInstall (s : Block) (unit : Nat) (e : TlbEnt) : Block :=
  if s.oe.micro.any (fun p => p.1 == unit && p.2 == e) then s
  else
    let mine := s.oe.micro.filter (fun p => p.1 == unit)
    let cap := if unit == 16 then 32 else 16
    let keep := if mine.length < cap then s.oe.micro
      else match mine[(Config.victim s.free) % mine.length]? with
        | some v => eraseFirst (fun p => p == v) s.oe.micro
        | none => s.oe.micro
    (s.modOe (fun o => { o with micro := keep ++ [(unit, e)] })).tick

/-- Install a leaf in the TLB (8 ways per set); an entry that leaves the TLB leaves every micro-TLB. -/
def Block.tlbInstall (s : Block) (e : TlbEnt) : Block :=
  if s.oe.tlb.any (fun x => x == e) then s
  else
    let set := s.oe.tlb.filter (fun x => x.set == e.set)
    let s1 := if set.length < 8 then s
      else match set[(Config.victim s.free) % set.length]? with
        | some v => (s.modOe (fun o => { o with tlb := eraseFirst (fun x => x == v) o.tlb, micro := o.micro.filter (fun p => p.2 != v) })).tick
        | none => s
    s1.modOe (fun o => { o with tlb := o.tlb ++ [e] })

/-- What a translation finds: an outcome at once, or a wait for a walk, or a stall on a full miss queue (R53). -/
inductive Find where
  | done (x : Xlat)
  | waiting
  | full
deriving DecidableEq, Repr

/-- Translate an FVA in a context for one client (R46, R50, R53): look up the unit's micro-TLB and the TLB, else join an earlier miss of the same context and granule, else enter the miss queue of 64. A fault found on a hit made no walk of its own: its record gets the level and the entry that the cached walk ended with (DEDUCED, log). -/
def Block.translate (s : Block) (unit ctx fva rights : Nat) (cl : Client) : Block × Find :=
  if !s.ep.ctxEn ctx then (s, .done (.fail causeDisabled 0 0))
  else
    match (s.oe.micro.find? (fun p => p.1 == unit && p.2.covers ctx fva)).map (fun p => p.2) with
    | some e => (s.modEp (fun c => c.count (ob 0xB105 0) 0 64 1), .done (checkLeaf rights (s.ep.ctxTenant ctx) (if e.big then 1 else 2) e.leaf e.big))
    | none =>
      match s.oe.tlb.find? (fun e => e.covers ctx fva) with
      | some e => ((s.modEp (fun c => c.count (ob 0xB105 0) 0 64 1)).microInstall unit e, .done (checkLeaf rights (s.ep.ctxTenant ctx) (if e.big then 1 else 2) e.leaf e.big))
      | none =>
        let g := fva / 2 ^ 29 % 2 ^ 23
        let same := fun (m : Miss) => m.ctx == ctx && m.granule == g
        if s.oe.misses.any same then
          ((s.modOe (fun o => { o with misses := replaceFirst same (fun m => { m with clients := m.clients ++ [cl] }) o.misses })).modEp
            (fun c => (c.count (ob 0xB105 1) 0 64 1).count (ob 0xB105 3) 0 64 1), .waiting)
        else if (s.oe.misses.filter (fun m => !m.walking)).length < 64 then
          ((s.modOe (fun o => { o with misses := o.misses ++ [⟨ctx, g, [cl], false, 1, 0, false⟩] })).modEp (fun c => c.count (ob 0xB105 1) 0 64 1), .waiting)
        else (s, .full)

/-! ### Accelerator memory (05, R91) -/

/-- Ask accelerator memory for bytes; the request's id. -/
def Block.memRead (s : Block) (apa len : Nat) : Block × Nat :=
  ((s.modEp (fun c => c.emit (.memRd s.oe.nextMem apa len))).modOe (fun o => { o with nextMem := o.nextMem + 1 }), s.oe.nextMem)

/-- The byte mask of `n` bytes from offset `lo` of a block. -/
def byteMask (lo n : Nat) : BitVec 256 := BitVec.ofNat 256 ((2 ^ n - 1) * 2 ^ lo)

/-- Write bytes of one 256-byte block of accelerator memory; the request's id. -/
def Block.memWrite (s : Block) (apa : Nat) (mask : BitVec 256) (data : List Byte) (poison : Bool) : Block × Nat :=
  ((s.modEp (fun c => c.emit (.memWr s.oe.nextMem apa mask data poison))).modOe (fun o => { o with nextMem := o.nextMem + 1 }), s.oe.nextMem)

/-- A posted write of a small record. -/
def Block.memPost (s : Block) (apa : Nat) (data : List Byte) : Block :=
  (s.memWrite (apa / 256 * 256) (byteMask (apa % 256) data.length) (slice ((List.replicate (apa % 256) 0) ++ data) 0 256) false).1

/-! ### Fault records (R60, R61) -/

/-- What a fault record tells beside the stroke count. -/
structure FaultRec where
  side : Bool
  ctx : Nat
  fva : Nat
  tag : Nat
  queue : Nat
  engine : Nat
  origin : Bool
  access : Nat
  level : Nat
  cause : Nat
  pte : BitVec 64
deriving DecidableEq, Repr

def FaultRec.words (f : FaultRec) (tenant seq stroke : Nat) : List Byte :=
  leBytes 8 (packArg [(52, f.fva), (6, f.ctx), (1, b2n f.side)]) ++
  leBytes 8 (packArg [(4, f.cause), (2, f.level), (4, f.access), (1, b2n f.origin), (4, f.engine), (1, 0), (10, f.queue), (14, f.tag), (8, tenant)]) ++
  leBytes 8 f.pte.toNat ++ leBytes 8 (packArg [(48, stroke), (16, seq)])

/-- Write one fault record, or discard it when the ring is full; log the events of R61. No cause is carried by FAULT_RING_FULL, which says that records are lost and not why (DESIGN CHOICE, log). -/
def Block.faultRecord (s : Block) (f : FaultRec) : Block :=
  let prod := s.ep.fld (ob 0xB103 1) 0 16
  let cons := s.ep.fld (ob 0xB103 2) 0 16
  if (prod + 2 ^ 16 - cons) % 2 ^ 16 = 128 then
    s.modEp (fun c => ((c.count (ob 0xB103 3) 0 32 1).log 0x7001 .uncorrected 0xFF (packArg [(6, f.ctx), (4, f.cause)])).log
      0x7002 .uncorrected 0xFF (packArg [(6, f.ctx)]))
  else
    let base := s.ep.fld (ob 0xB103 0) 12 40 * 2 ^ 12
    (s.memPost (base + 32 * (prod % 128)) (f.words (s.ep.ctxTenant f.ctx) prod s.ep.stroke)).modEp
      (fun c => (c.setFld (ob 0xB103 1) 0 16 ((prod + 1) % 2 ^ 16)).log 0x7001 .uncorrected 0xFF
        (packArg [(6, f.ctx), (4, f.cause), (16, prod)]))

/-! ### Commands -/

/-- WALK_START (R48, R53): a free walker takes the oldest miss. -/
def execWalkStart (s : State) : Host.Outcome State Fault Refusal :=
  s.act fun s =>
    if (s.oe.misses.filter (fun m => m.walking)).length < 16 then
      match s.oe.misses.find? (fun m => !m.walking) with
      | some m =>
        let r := s.memRead (s.ep.ctxBase m.ctx + 8 * (m.granule / 64)) 8
        ((r.1.modOe (fun o => { o with misses := replaceFirst (fun x => x == m) (fun x => { x with walking := true, level := 1, stale := false }) o.misses })).modEp
          (fun c => c.count (ob 0xB105 2) 0 64 1))
      | none => s
    else s

/-- What a walk read leads to (R48, R49, R51): the second read, or the walk's outcome without the checks of R50. -/
inductive WalkStep where
  | second (apa : Nat)
  | done (x : Xlat)
deriving DecidableEq, Repr

def walkStep (level granule : Nat) (v : BitVec 64) (st : MemStatus) : WalkStep :=
  if st != .ok then .done (.fail causeWalk level 0)
  else if !pteV v then .done (.fail causeNotMapped level v)
  else if pteL v then
    (if leafInvalid v (level == 1) then .done (.fail causeInvalid level v) else .done (.ok v (level == 1)))
  else if level == 2 then .done (.fail causeInvalid level v)
  else if pointerInvalid v then .done (.fail causeInvalid level v)
  else .second (bitsOf v 9 43 * 2 ^ 9 + 8 * (granule % 64))

/-- Drop the TLB and micro-TLB entries that satisfy `p`. -/
def Block.tlbDrop (s : Block) (p : TlbEnt → Bool) : Block :=
  s.modOe (fun o => { o with tlb := o.tlb.filter (fun e => !p e), micro := o.micro.filter (fun e => !p e.2) })

/-- Does the scope hold the page of an address of a context? -/
def invalCoversAt (cmd : BitVec 64) (ctx fva : Nat) : Bool :=
  invalCovers cmd ⟨ctx, false, fva / 2 ^ 29, 0⟩ || invalCovers cmd ⟨ctx, true, fva / 2 ^ 35, 0⟩

/-- The load/store requests and descriptors that a scope's entries translated (R55, condition 3): a request counts until it is answered, sent or not. An entry that has left the TLB for want of room counts like one that the command drops (DEDUCED, log). -/
def Block.invalTags (s : Block) (cmd : BitVec 64) : List Nat :=
  (s.oe.ls.filter (fun r => (match r.xl with
    | some (.ok _ _) => true
    | _ => false) && invalCoversAt cmd r.ctx r.fva)).map (fun r => r.tag)

def Block.invalDescs (s : Block) (cmd : BitVec 64) : List (Nat × Nat) :=
  (s.oe.runs.filter (fun r => (r.grans.zip r.xl).any (fun g =>
      g.2.isSome && invalCoversAt cmd (bitsOf (r.words.getD 0 0) 6 6) g.1.2.1))).map
    (fun r => (r.q, r.n))

/-- INVAL_CMD (R55, R56): accepted and numbered, or discarded. -/
def Block.invalidate (s : Block) (v : BitVec 64) : Block :=
  if bitsOf v 0 2 = 3 ∨ bitsOf v 41 23 ≠ 0 ∨ 16 ≤ s.oe.invals.length then
    s.modEp (fun c => (c.count (ob 0xB102 3) 0 32 1).log 0x7003 .uncorrected 0xFF (packArg [(6, bitsOf v 2 6)]))
  else
    let i : Inval := ⟨v, s.invalTags v, s.invalDescs v⟩
    let s1 := s.tlbDrop (invalCovers v)
    (s1.modOe (fun o => { o with invals := o.invals ++ [i],
                                 misses := o.misses.map (fun m => if m.walking && invalCoversMiss v m then { m with stale := true } else m) })).modEp
      (fun c => c.setFld (ob 0xB102 1) 0 16 (c.fld (ob 0xB102 1) 0 16 + 1))

/-- Does the oldest invalidation hold its three conditions (R55)? -/
def Block.invalReady (s : Block) (i : Inval) : Bool :=
  !(s.oe.tlb.any (fun e => invalCovers i.cmd e && s.oe.misses.any (fun m => m.stale && m.ctx == e.ctx)))
  && !(s.oe.misses.any (fun m => m.stale && invalCoversMiss i.cmd m))
  && i.tags.isEmpty
  && i.descs.all (fun d => !(s.oe.runs.any (fun r => r.q == d.1 && r.n == d.2)))

/-- INVAL_COMPLETE (R55): invalidations complete in sequence order. -/
def execInvalComplete (s : State) : Host.Outcome State Fault Refusal :=
  s.act fun s =>
    match s.oe.invals with
    | [] => s
    | i :: r =>
      if s.invalReady i then
        ((s.modOe (fun o => { o with invals := r })).modEp (fun c => c.setFld (ob 0xB102 2) 0 16 (c.fld (ob 0xB102 2) 0 16 + 1)))
      else s

/-- Software advances FAULT_CONS (R60); a value that would leave more than 128 records is ignored. -/
def Block.setFaultCons (s : Block) (v : Nat) : Block :=
  let prod := s.ep.fld (ob 0xB103 1) 0 16
  if (prod + 2 ^ 16 - v % 2 ^ 16) % 2 ^ 16 ≤ 128 then s.modEp (fun c => c.setFld (ob 0xB103 2) 0 16 v) else s

/-- INVAL_CMD: a management write of 0xB102.00. -/
def execInvalCmd (m : Master) (v : BitVec 64) (s : State) : Host.Outcome State Fault Refusal :=
  s.act fun s =>
    (s.mgmtWrite .oe36 m (ob 0xB102 0) (fun s => s.invalidate v))

/-- FAULT_CONS: a management write of 0xB103.02. -/
def execFaultCons (m : Master) (v : BitVec 16) (s : State) : Host.Outcome State Fault Refusal :=
  s.act fun s =>
    (s.mgmtWrite .oe36 m (ob 0xB103 2) (fun s => s.setFaultCons v.toNat))

end Sys2Proof.Machine
end

