-- ==== Sys2Proof/Machine/LoadStore.lean ====
section
/-!
DEFINITION. The load/store path of the OE36 (05, R88 to R91): requests of the accelerator, their translation and sending in order, their answers.
-/
namespace Sys2Proof.Machine

/-! ### Checks (R89, R102) -/

/-- The element size of an atomic TYPE (R102): 4 for U32, S32 and FP32, 8 for U64 and S64, 2 for BF16; 0 when reserved. -/
def atomSize : Nat → Nat
  | 0 => 4 | 1 => 8 | 2 => 4 | 3 => 8 | 4 => 4 | 5 => 2 | _ => 0

/-- Do operation and type form a pair that R102 allows? -/
def atomPair (op typ : Nat) : Bool :=
  decide (op ≤ 8) && decide (typ ≤ 5) && (if op == 8 then decide (4 ≤ typ) else decide (typ < 4))

/-- Request types in the order of the table of R88. -/
def lsType : LsKind → Nat
  | .read => 0 | .write => 1 | .atomic => 2 | .fence => 3 | .rdShared => 4 | .rdOwn => 5 | .upgrade => 6 | .writeback => 7 | .evict => 8

/-- Size and alignment of a request's row (R88). -/
def lsMalformed (k : LsKind) (fva size op typ : Nat) : Bool :=
  match k with
  | .read | .write => decide (size = 0) || decide (256 < size) || decide (256 < fva % 256 + size)
  | .atomic => !(atomPair op typ) || size != atomSize typ || fva % atomSize typ != 0
  | .rdShared | .rdOwn | .upgrade | .writeback | .evict => size != 128 || fva % 128 != 0
  | .fence => false

/-- Rights a request needs (R88, R50). -/
def lsRights : LsKind → Nat
  | .read => 1
  | .write => 2
  | .atomic => 7
  | .rdShared => 1
  | .rdOwn => 3
  | .upgrade => 3
  | .writeback => 2
  | .evict => 0
  | .fence => 0

/-- The access code of a fault record (R60): coherent requests count as reads, or as writes where they need W. -/
def lsAccess : LsKind → Nat
  | .read => 0 | .rdShared => 0 | .evict => 0 | .fence => 0 | .atomic => 2 | _ => 1

def Common.answer (c : Common) (tag status : Nat) (data : List Byte) : Common := c.emit (.ucieResponse tag status data)

/-- A malformed request: DESCRIPTOR_ERROR, nothing sent, logged (R89). -/
def Block.lsReject (s : Block) (kind tag : Nat) : Block :=
  s.modEp (fun c => (c.answer tag stDescriptor []).log 0x7023 .uncorrected 0xFF (packArg [(4, kind), (13, tag)]))

/-! ### Sending -/

/-- The contiguous run of set bits of a byte mask: its first bit and length, when the set bits form one run. -/
def maskRun (m : BitVec 256) : Option (Nat × Nat) :=
  let bits := (List.range 256).filter (fun i => m.getLsbD i)
  match bits with
  | [] => none
  | f :: _ => if bits.length = bits.getLastD f - f + 1 then some (f, bits.length) else none

/-- A block image with the bytes outside a range zero (R110). -/
def onlyBytes (lo n : Nat) (data : List Byte) : List Byte := List.replicate lo 0 ++ slice (data.drop lo) 0 n

/-- The request packets of a translated load/store request (R110, R112, R115). -/
def lsSpecs (r : LsReq) (leaf : BitVec 64) (big : Bool) : List ReqSpec :=
  let fpa := leafFpa leaf big r.fva
  let base : ReqSpec := { opc := 1, long := false, tag := r.tag, fpa := fpa, tenant := pteTenant leaf, ord := r.ord, ch := r.ch,
                          own := pteOwn leaf, cc := pteCc leaf, bytes := r.size }
  match r.kind with
  | .read => [base]
  | .write =>
    match maskRun r.mask with
    | some (f, n) => [{ base with opc := 2, long := true, fpa := fpa / 256 * 256 + f, bytes := n, payload := onlyBytes f n r.data }]
    | none => [{ base with opc := 3, long := true, payload := leBytes 32 r.mask.toNat }, { base with opc := 4, long := true, payload := onlyBytes (fpa % 256) r.size r.data }]
  | .atomic =>
    if r.op = 7 then [{ base with opc := 6, long := true, aop := r.op, atype := r.typ, w3 := r.operand.toNat, payload := leBytes 8 r.compare.toNat }]
    else [{ base with opc := 5, aop := r.op, atype := r.typ, w3 := r.operand.toNat }]
  | .rdShared => [{ base with opc := 10 }]
  | .rdOwn => [{ base with opc := 11 }]
  | .upgrade => [{ base with opc := 12 }]
  | .writeback => [{ base with opc := 13, long := true, payload := slice r.data 0 128, poison := r.poison }]
  | .evict => [{ base with opc := 14 }]
  | .fence => []

def LsReq.dst (r : LsReq) : Option Nat :=
  match r.xl with
  | some (.ok leaf big) => some (leafFpa leaf big r.fva / 2 ^ 40)
  | _ => none

def LsReq.tenant (r : LsReq) : Nat :=
  match r.xl with
  | some (.ok leaf _) => pteTenant leaf
  | _ => 0

/-- Requests that arrived before the one with a tag. -/
def lsBefore (l : List LsReq) (tag : Nat) : List LsReq := l.takeWhile (fun r => r.tag != tag)

/-- May the request be sent now (R54, R67, R73)? -/
def Block.lsMaySend (s : Block) (r : LsReq) : Bool :=
  let before := lsBefore s.oe.ls r.tag
  !(before.any (fun b => b.kind == .fence))
  && (if r.ord then
        !(before.any (fun b => b.ord && b.ch == r.ch && b.xl.isNone && b.kind != .fence))
        && !(before.any (fun b => b.ord && b.ch == r.ch && !b.sent && b.dst == r.dst && b.tenant == r.tenant))
        && (match r.dst with
            | some d => d == s.epSlot || s.chanOpen d r.ch r.tenant
            | none => false)
      else true)

def updLs (tag : Nat) (f : LsReq → LsReq) (l : List LsReq) : List LsReq := replaceFirst (fun r => r.tag == tag) f l

/-- A request has been answered: it leaves the path, and nothing waits for it any more. -/
def Block.dropLs (s : Block) (tag : Nat) : Block :=
  s.modOe (fun o => { o with
    ls := eraseFirst (fun r => r.tag == tag) o.ls,
    runs := o.runs.map (fun r => { r with waitsXl := r.waitsXl.filter (fun x => x != tag) }),
    invals := o.invals.map (fun i => { i with tags := i.tags.filter (fun x => x != tag) }) })

/-- A request leaves for its home: a handoff that waited for its translation waits for its transaction (R78). -/
def Block.lsSent (s : Block) (tag : Nat) : Block :=
  s.modOe (fun o => { o with
    ls := updLs tag (fun r => { r with sent := true }) o.ls,
    runs := o.runs.map (fun r => if r.waitsXl.contains tag then { r with waitsFor := r.waitsFor ++ [tag] } else r) })


/-- Answer a translation failure over UCIe, with its fault record (R59, R60, R89). -/
def Block.lsFail (s : Block) (r : LsReq) (cause level : Nat) (pte : BitVec 64) : Block :=
  let s1 := s.faultRecord ⟨false, r.ctx, r.fva, r.tag, 0, 0, false, lsAccess r.kind, level, cause, pte⟩
  (if r.kind == .evict then s1 else s1.modEp (fun c => c.answer r.tag stFault [])).dropLs r.tag

/-- Send one request of the load/store path, if it may be sent. -/
def Block.lsSend (s : Block) (tag : Nat) : Block :=
  match s.oe.ls.find? (fun r => r.tag == tag) with
  | none => s
  | some r =>
    match r.xl with
    | none => s
    | some (.fail cause level pte) => s.lsFail r cause level pte
    | some (.ok leaf big) =>
      if r.sent then s
      else if !(pteCc leaf) && (r.kind == .rdShared || r.kind == .rdOwn || r.kind == .upgrade || r.kind == .writeback) then
        (s.lsReject (lsType r.kind) r.tag).dropLs r.tag
      else if !s.lsMaySend r then s
      else
        let d := leafFpa leaf big r.fva / 2 ^ 40
        let rp := s.relaxedPlane d
        let specs := lsSpecs r leaf big
        if r.kind == .evict then
          ((match specs.head? with
            | some sp =>
              if r.ord then
                let c := s.chanOf d r.ch r.tenant
                (s.setChan { c with seq := (c.seq + 1) % 2 ^ 16 }).transmit d c.plane [s.reqPacket sp d c.epoch c.seq]
              else (s.transmit d rp.1 [s.reqPacket sp d 0 0]).modOe (fun o => { o with rotation := if d == s.epSlot then o.rotation else rp.2 })
            | none => s)).dropLs r.tag
        else
          let s1 := s.issueReq specs (if r.ord then none else rp.1) .ls r.ctx r.fva
          let s2 := if r.ord || d == s.epSlot then s1 else s1.modOe (fun o => { o with rotation := rp.2 })
          s2.lsSent tag

/-- Translate the requests that stalled on a full miss queue, in arrival order. -/
def Block.lsTranslate (s : Block) (tag : Nat) : Block :=
  match s.oe.ls.find? (fun r => r.tag == tag) with
  | none => s
  | some r =>
    if r.xl.isSome || !r.waitWalk || r.kind == .fence then s
    else
      let f := s.translate 16 r.ctx r.fva (lsRights r.kind) (.ls tag)
      match f.2 with
      | .done x => f.1.modOe (fun o => { o with ls := updLs tag (fun r => { r with xl := some x, waitWalk := false }) o.ls })
      | .waiting => f.1.modOe (fun o => { o with ls := updLs tag (fun r => { r with waitWalk := false }) o.ls })
      | .full => f.1

/-- Let every waiting request go on that can. -/
def Block.lsPump (s : Block) : Block :=
  let s1 := (s.oe.ls.map (fun r => r.tag)).foldl (fun s t => s.lsTranslate t) s
  (s1.oe.ls.map (fun r => r.tag)).foldl (fun s t => s.lsSend t) s1

/-! ### Answers (R91, R369) -/

/-- Return over UCIe the ordered READ data that no earlier READ of its channel holds back. -/
def Block.lsReturn (s : Block) : Block :=
  (s.oe.ls.filter (fun r => r.answer.isSome)).foldl (fun s r =>
    if (lsBefore s.oe.ls r.tag).any (fun b => b.kind == .read && b.ord && b.ch == r.ch && b.dst == r.dst && b.tenant == r.tenant && b.answer.isNone)
    then s
    else match r.answer with
      | some (st, d) => (s.modEp (fun c => c.answer r.tag st d)).dropLs r.tag
      | none => s) s

/-- A response of a load/store transaction: an ordered READ waits for its turn, everything else is answered at once. -/
def Block.lsRespond (s : Block) (t : Txn) (st : List Nat) (data : List Byte) : Block :=
  match s.oe.ls.find? (fun r => r.tag == t.tag) with
  | none => s
  | some r =>
    let status := firstStatus st
    if r.kind == .read && r.ord then
      (s.modOe (fun o => { o with ls := updLs t.tag (fun r => { r with answer := some (status, data), held := some t }) o.ls })).lsReturn
    else (s.modEp (fun c => c.answer r.tag status data)).dropLs r.tag

/-! ### Commands of the accelerator -/

/-- Take a request in: refused while the tag is in use or 8,192 are outstanding (credits are withheld, R91). -/
def Block.lsAccept (s : Block) (r : LsReq) : Block :=
  if s.ep.inReset || decide (8192 ≤ s.oe.ls.length) || !s.tagFree r.tag || s.oe.ls.any (fun x => x.tag == r.tag) then s
  else if lsMalformed r.kind r.fva r.size r.op r.typ then
    (if r.kind == .evict then s.modEp (fun c => c.log 0x7023 .uncorrected 0xFF (packArg [(4, 8), (13, r.tag)])) else s.lsReject (lsType r.kind) r.tag)
  else (s.modOe (fun o => { o with ls := o.ls ++ [r] })).lsPump

/-- A request record from its operands. -/
def lsOf (k : LsKind) (r : UReq) : LsReq :=
  { kind := k, tag := r.tag.toNat, ctx := r.ctx.toNat, fva := r.fva.toNat, size := r.size.toNat, ord := r.ord, ch := r.ch.toNat,
    mask := 0, data := [], op := 0, typ := 0, operand := 0, compare := 0, poison := false, xl := none, waitWalk := true, sent := false,
    answer := none, held := none }

/-- UCIE_READ (R88, R89). -/
def execUcieRead (r : UReq) (s : State) : Host.Outcome State Fault Refusal :=
  s.act fun s => (s.lsAccept (lsOf .read r))

/-- UCIE_WRITE: the bytes enabled are those of the mask within the request's range. -/
def execUcieWrite (r : UReq) (mask : BitVec 256) (data : List Byte) (s : State) : Host.Outcome State Fault Refusal :=
  s.act fun s =>
    (s.lsAccept { lsOf .write r with mask := mask &&& byteMask (r.fva.toNat % 256) r.size.toNat, data := data })

/-- UCIE_ATOMIC. -/
def execUcieAtomic (r : UReq) (op typ : BitVec 4) (operand compare : BitVec 64) (s : State) : Host.Outcome State Fault Refusal :=
  s.act fun s =>
    (s.lsAccept { lsOf .atomic r with op := op.toNat, typ := typ.toNat, operand := operand, compare := compare })

/-- UCIE_FENCE: a load/store fence (R73). -/
def execUcieFence (tag : BitVec 13) (s : State) : Host.Outcome State Fault Refusal :=
  s.act fun s =>
    (s.lsAccept { lsOf .fence ⟨tag, 0, 0, 0, false, 0⟩ with waitWalk := false })

def execUcieRdShared (r : UReq) (s : State) : Host.Outcome State Fault Refusal :=
  s.act fun s => (s.lsAccept (lsOf .rdShared r))
def execUcieRdOwn (r : UReq) (s : State) : Host.Outcome State Fault Refusal :=
  s.act fun s => (s.lsAccept (lsOf .rdOwn r))
def execUcieUpgrade (r : UReq) (s : State) : Host.Outcome State Fault Refusal :=
  s.act fun s => (s.lsAccept (lsOf .upgrade r))
def execUcieWriteback (r : UReq) (data : List Byte) (poison : Bool) (s : State) : Host.Outcome State Fault Refusal :=
  s.act fun s =>
    (s.lsAccept { lsOf .writeback r with data := data, poison := poison })
def execUcieEvictClean (r : UReq) (s : State) : Host.Outcome State Fault Refusal :=
  s.act fun s => (s.lsAccept (lsOf .evict r))

/-- UCIE_SNOOP_REPLY (R82, R90): SNOOP_ACK or SNOOP_DATA to the crew home, on RSP. -/
def execUcieSnoopReply (home : BitVec 7) (tag : BitVec 14) (dirty : Bool) (data : List Byte) (poison : Bool) (s : State) : Host.Outcome State Fault Refusal :=
  s.act fun s =>
    let h : Hdr := { net := 1, long := dirty, opc := if dirty then 0x17 else 0x16, src := s.epId, dst := s.slotId home.toNat, poison := dirty && poison }
    let p := h.packet (rspWord tag.toNat 0 0 128) 0 0 (slice data 0 128)
    (if s.ep.inReset then s else (s.transmit home.toNat (s.anyPlane home.toNat) [p]).tick)

/-- Key of arrival counter `c`. -/
def ctrKey (c : Nat) : Nat := ob (0xB020 + c / 256) (c % 256)

/-- CTR_READ (R88, R89): an aligned 8-byte read of a counter. -/
def execCtrRead (tag : BitVec 13) (offset : BitVec 16) (size : BitVec 9) (s : State) : Host.Outcome State Fault Refusal :=
  s.act fun s =>
    (if s.ep.inReset then s
      else if size = 8 ∧ offset.toNat % 8 = 0 then
        s.modEp (fun c => c.answer tag.toNat stOk (leBytes 8 (c.fld (ctrKey (offset.toNat / 8)) 0 40)))
      else s.lsReject 10 tag.toNat)

end Sys2Proof.Machine
end

