-- ==== Sys2Proof/Machine/Counters.lean ====
section
/-!
DEFINITION. Violations and arrival counters at a home (04, R85, R86; 05, R106).
-/
namespace Sys2Proof.Machine

/-- Violation causes (R85). -/
def vioTenant : Nat := 0
def vioNotOwner : Nat := 1
def vioReadOnly : Nat := 2
def vioMode : Nat := 3
def vioCrew : Nat := 4
def vioWindow : Nat := 5
def vioMalformed : Nat := 6

/-- Count and record a violation; at most one event per tenant per 1 ms, the rest counted as suppressed (R86). -/
def Common.violation (c : Common) (tenant cause access source region where_ whereBits : Nat) : Common :=
  let c1 := (c.count (ob 0xB118 tenant) 0 32 1).setReg (ob 0xB119 0)
    (BitVec.ofNat 128 (packArg [(11, region), (13, source), (8, 0), (4, access), (4, cause), (8, tenant)]))
  let quiet := match c.rates.find? (fun r => r.code == 0x7010 && r.unit == tenant) with
    | some r => decide (c.since r.last < cclkMs)
    | none => false
  if quiet then c1.count (ob 0xB119 1) 0 32 1
  else
    let c2 : Common := { c1 with rates := (c1.rates.filter (fun r => !(r.code == 0x7010 && r.unit == tenant))) ++ [Rate.mk 0x7010 tenant c1.stroke 0] }
    c2.log 0x7010 .uncorrected 0xFF (packArg [(13, source), (4, cause), (whereBits, where_)])

/-- The STATUS of a counter after a completion or burst with status `st`: the first of R16; a value from 0x07 on ranks below OK (R106). -/
def counterStatus (old st : Nat) : Nat := if 7 ≤ old then st else firstStatus [old, st]

/-- An update of a counter by a burst, a completion or a COMPLETE: VALUE gains `n`, STATUS moves under R16; another tenant's counter is a silent violation (R106). -/
def Block.ctrSignal (s : Block) (ctr tenant source n st : Nat) : Block :=
  let k := ctrKey ctr
  if s.ep.fld k 40 8 = tenant then
    s.modEp (fun c => (c.setFld k 0 32 ((c.fld k 0 32 + n) % 2 ^ 32)).setFld k 32 8 (counterStatus (c.fld k 32 8) st))
  else s.modEp (fun c => c.violation tenant vioTenant 6 source 0 ctr 13)

/-- A REMOTE_ADD or COUNTER_OP ADD: VALUE gains `n`, STATUS stays (R103, R106). -/
def Block.ctrAdd (s : Block) (ctr tenant source n : Nat) : Block :=
  let k := ctrKey ctr
  if s.ep.fld k 40 8 = tenant then s.modEp (fun c => c.setFld k 0 32 ((c.fld k 0 32 + n) % 2 ^ 32))
  else s.modEp (fun c => c.violation tenant vioTenant 6 source 0 ctr 13)

/-- COUNTER_OP SET: VALUE, and STATUS OK (R103). -/
def Block.ctrSet (s : Block) (ctr v : Nat) : Block :=
  s.modEp (fun c => (c.setFld (ctrKey ctr) 0 32 v).setFld (ctrKey ctr) 32 8 0)

end Sys2Proof.Machine
end

