-- ==== Sys2Proof/Machine/Queue.lean ====
section
/-!
DEFINITION. Command queues and the engines (05, R92 to R107): doorbells, fetch, head checks, issue, fences, counter operations, completion, halt, restart and abort.
-/
namespace Sys2Proof.Machine

/-! ### Queue objects -/

/-- Key of the object of queue `q` at an index base. -/
def qk (base q : Nat) : Nat := ob (base + q / 256) (q % 256)

def Common.qEn (c : Common) (q : Nat) : Bool := c.bit (qk 0xB000 q) 0
def Common.qSize (c : Common) (q : Nat) : Nat := 2 ^ (c.fld (qk 0xB000 q) 8 4 + 4)
def Common.qBase (c : Common) (q : Nat) : Nat := c.fld (qk 0xB000 q) 12 40 * 2 ^ 12
def Common.qEngine (c : Common) (q : Nat) : Nat := c.fld (qk 0xB000 q) 52 4
def Common.qTenant (c : Common) (q : Nat) : Nat := c.fld (qk 0xB000 q) 56 8
def Common.qHead (c : Common) (q : Nat) : Nat := c.fld (qk 0xB008 q) 0 16
def Common.qTail (c : Common) (q : Nat) : Nat := c.fld (qk 0xB008 q) 16 16
def Common.qState (c : Common) (q : Nat) : Nat := c.fld (qk 0xB008 q) 32 2
def Common.cqProd (c : Common) (q : Nat) : Nat := c.fld (qk 0xB008 q) 48 16
def Common.cqCons (c : Common) (q : Nat) : Nat := c.fld (qk 0xB010 q) 0 16
def Common.cqSize (c : Common) (q : Nat) : Nat := 2 ^ (c.fld (qk 0xB004 q) 8 4 + 4)
def Common.cqBase (c : Common) (q : Nat) : Nat := c.fld (qk 0xB004 q) 12 40 * 2 ^ 12

def qDisabled : Nat := 0
def qRunning : Nat := 1
def qHalted : Nat := 2
def qDraining : Nat := 3

def Common.setHead (c : Common) (q v : Nat) : Common := c.setFld (qk 0xB008 q) 0 16 v
def Common.setTail (c : Common) (q v : Nat) : Common := c.setFld (qk 0xB008 q) 16 16 v
def Common.setQState (c : Common) (q v : Nat) : Common := c.setFld (qk 0xB008 q) 32 2 v

def Block.queue (s : Block) (q : Nat) : Queue := SMap.get {} s.oe.queues q
def Block.modQueue (s : Block) (q : Nat) (f : Queue → Queue) : Block := s.modOe (fun o => { o with queues := SMap.modify {} o.queues q f })

/-- Distance from count `a` to count `b` modulo 2^16. -/
def cntDiff (b a : Nat) : Nat := (b + 2 ^ 16 - a % 2 ^ 16) % 2 ^ 16
/-- Does count `a` stand before count `b` in ring order? -/
def cntBefore (a b : Nat) : Bool := decide (0 < cntDiff b a) && decide (cntDiff b a < 2 ^ 15)

/-! ### Doorbells (R93) -/

/-- Apply a doorbell: accepted when the announced descriptors fit the ring. -/
def Block.ring (s : Block) (q tail : Nat) : Block :=
  let c := s.ep
  let d := cntDiff tail (c.qTail q)
  if cntDiff (c.qTail q) (c.qHead q) + d ≤ c.qSize q then s.modEp (fun c => c.setTail q tail)
  else s.modEp (fun c => (c.count (ob 0xB042 1) 0 32 1).log 0x7021 .uncorrected 0xFF (packArg [(10, q), (16, tail)]))

def execDbWrite (q : BitVec 10) (tail : BitVec 16) (s : State) : Host.Outcome State Fault Refusal :=
  s.act fun s =>
    (if s.ep.inReset then s else s.ring q.toNat tail.toNat)

def execDoorbell (m : Master) (q : BitVec 10) (tail : BitVec 16) (s : State) : Host.Outcome State Fault Refusal :=
  s.act fun s =>
    (s.mgmtWrite .oe36 m (qk 0xB014 q.toNat) (fun s => s.ring q.toNat tail.toNat))

/-! ### Descriptors (R98 to R104) -/

/-- Word `i` of a descriptor. -/
def dw (ws : List (BitVec 64)) (i : Nat) : BitVec 64 := ws.getD i 0
def dKind (ws : List (BitVec 64)) : Nat := bitsOf (dw ws 0) 0 6
def dCtx (ws : List (BitVec 64)) : Nat := bitsOf (dw ws 0) 6 6
def dCrec (ws : List (BitVec 64)) : Bool := bitsOf (dw ws 0) 12 1 == 1
def dSigEn (ws : List (BitVec 64)) : Bool := bitsOf (dw ws 0) 13 1 == 1
def dSigCtr (ws : List (BitVec 64)) : Nat := bitsOf (dw ws 0) 14 13
def dWen (ws : List (BitVec 64)) (k : Nat) : Bool := bitsOf (dw ws 3) (52 + k) 1 == 1
def dWaitId (ws : List (BitVec 64)) (k : Nat) : Nat := bitsOf (dw ws 3) (13 * k) 13
def dWaitVal (ws : List (BitVec 64)) (k : Nat) : Nat := bitsOf (dw ws (1 + k / 2)) (32 * (k % 2)) 32
def dArrEn (ws : List (BitVec 64)) : Bool := bitsOf (dw ws 0) 47 1 == 1
def dArrCtr (ws : List (BitVec 64)) : Nat := bitsOf (dw ws 0) 48 13
def dAcc (ws : List (BitVec 64)) : Bool := bitsOf (dw ws 3) 56 1 == 1
def dAccFmt (ws : List (BitVec 64)) : Nat := bitsOf (dw ws 3) 57 4

/-- The reserved bit ranges of each kind: (word, low bit, width) (R98 to R104, R223). -/
def reservedRanges : Nat → List (Nat × Nat × Nat)
  | 1 => [(0, 61, 3), (3, 61, 3), (4, 63, 1), (5, 63, 1)]
  | 2 => [(0, 61, 3), (3, 56, 8), (5, 63, 1), (6, 11, 53)]
  | 3 => [(0, 48, 16), (3, 56, 8), (4, 52, 12), (5, 52, 12), (6, 0, 64), (7, 0, 64)]
  | 4 => [(0, 58, 6), (3, 56, 8), (4, 52, 12), (5, 52, 12), (6, 14, 50), (7, 52, 12)]
  | 5 => [(0, 27, 37), (3, 56, 8), (4, 52, 12), (5, 9, 55), (6, 0, 64), (7, 0, 64)]
  | 6 => [(0, 29, 35), (3, 56, 8), (4, 0, 64), (5, 0, 64), (6, 0, 64), (7, 0, 64)]
  | 7 => [(0, 34, 30), (3, 56, 8), (4, 45, 19), (5, 7, 57), (6, 0, 64), (7, 0, 64)]
  | 8 => [(0, 27, 20), (0, 61, 3), (3, 56, 8), (4, 52, 12), (5, 52, 12), (6, 40, 24), (7, 0, 64)]
  | _ => []

/-- A reserved field is non-zero, or a field holds a reserved encoding that no rule gives another detail (R10, R99). ACC_FMT is checked while ACC = 0 too (DESIGN CHOICE, log). -/
def reservedBad (ws : List (BitVec 64)) : Bool :=
  (reservedRanges (dKind ws)).any (fun r => bitsOf (dw ws r.1) r.2.1 r.2.2 != 0)
  || (match dKind ws with
      | 1 => !dAcc ws && fmtReserved (dAccFmt ws)
      | 3 => decide (8 < bitsOf (dw ws 0) 35 4) || decide (5 < bitsOf (dw ws 0) 39 3)
      | 6 => decide (1 < bitsOf (dw ws 0) 27 2)
      | 7 => bitsOf (dw ws 0) 27 2 == 3
      | _ => false)

/-- The local counters a descriptor waits on or signals (R97). -/
def localCounters (ws : List (BitVec 64)) : List Nat :=
  ((List.range 4).filter (dWen ws)).map (dWaitId ws) ++ (if dSigEn ws then [dSigCtr ws] else [])
    ++ (if dKind ws == 7 && decide (bitsOf (dw ws 0) 27 2 < 2) then [bitsOf (dw ws 4) 32 13] else [])

/-- The head checks of R97: the DETAIL of the lowest that fails. -/
def Block.headCheck (s : Block) (q : Nat) (ws : List (BitVec 64)) : Option Nat :=
  let t := s.ep.qTenant q
  if reservedBad ws then some 1
  else if dKind ws = 0 ∨ 8 < dKind ws then some 2
  else if t ≠ 0 ∧ s.ep.ctxTenant (dCtx ws) ≠ t then some 3
  else if (localCounters ws).any (fun k => s.ep.fld (ctrKey k) 40 8 != t) then some 4
  else none

/-- Wait k holds (R99). -/
def Block.waitsHold (s : Block) (ws : List (BitVec 64)) : Bool :=
  (List.range 4).all (fun k => !dWen ws k ||
    decide ((s.ep.fld (ctrKey (dWaitId ws k)) 0 32 + 2 ^ 32 - dWaitVal ws k) % 2 ^ 32 < 2 ^ 31))

/-! ### Completion (R70, R96, R97, R107) -/

/-- The completion record without its PHASE. -/
def recordOf (q n kind status detail retries stroke : Nat) : BitVec 128 :=
  BitVec.ofNat 128 (packArg [(16, n), (10, q), (6, kind), (8, status), (8, detail), (16, 0), (40, stroke), (8, min retries 255)])

/-- Write the records that wait, while the completion ring has room (R107). -/
def Block.writeRecords (s : Block) (q : Nat) : Block :=
  (s.queue q).records.foldl (fun s r =>
    let prod := s.ep.cqProd q
    let size := s.ep.cqSize q
    if cntDiff prod (s.ep.cqCons q) = size then s
    else
      let phase := prod / size % 2
      ((s.memPost (s.ep.cqBase q + 16 * (prod % size)) (leBytes 16 (r.toNat + phase * 2 ^ 127))).modEp
        (fun c => c.setFld (qk 0xB008 q) 48 16 (prod + 1))).modQueue q (fun x => { x with records := x.records.drop 1 })) s

/-- Enter a record; one that finds the ring full waits, and CQ_FULL is logged. -/
def Block.postRecord (s : Block) (q : Nat) (r : BitVec 128) : Block :=
  let full := !(s.queue q).records.isEmpty || cntDiff (s.ep.cqProd q) (s.ep.cqCons q) == s.ep.cqSize q
  let s1 := s.modQueue q (fun x => { x with records := x.records ++ [r] })
  if full then s1.modEp (fun c => c.log 0x7022 .info 0xFF (packArg [(10, q)])) else s1.writeRecords q

/-- Statuses that halt a queue. -/
def halting (status detail : Nat) : Bool := status == stDescriptor || status == stFault || (status == stAborted && detail == 3)

/-- The fetch reads of a queue that are out feed nothing any more. -/
def Block.forgetFetches (s : Block) (q : Nat) : Block :=
  s.modOe (fun o => { o with memRds := o.memRds.map (fun m => match m.2 with
    | some k => if k.1 == q then (m.1, none) else m
    | none => m) })

/-- The count of the oldest descriptor of a queue that has not been issued. -/
def Block.oldestUnissued (s : Block) (q : Nat) : Nat :=
  match (s.queue q).fetched with
  | d :: _ => d.n
  | [] => s.ep.qHead q

/-- Leave DRAINING once no issued descriptor remains (R97). A record that still waits for ring space stays, and is written when CQ_CONS makes room: the spec does not say what becomes of it (DESIGN CHOICE, log). -/
def Block.drainEnd (s : Block) (q : Nat) : Block :=
  if s.ep.qState q = qDraining ∧ !(s.oe.runs.any (fun r => r.q == q)) then
    let again := (s.queue q).enAgain
    let s1 := s.modQueue q (fun x => { x with fetched := [], passOver := [], fence := none, abortTo := none, enAgain := false })
    if again then s1.modEp (fun c => (c.setReg (qk 0xB008 q) (BitVec.ofNat 128 (qRunning * 2 ^ 32))).setFld (qk 0xB010 q) 0 16 0)
    else s1.modEp (fun c => c.setQState q qDisabled)
  else s

/-- Halt the queue of a descriptor that completes with a halting status, and move HEAD back (R96). -/
def Block.haltAt (s : Block) (q n status detail : Nat) : Block :=
  let st := s.ep.qState q
  if st = qRunning ∨ st = qHalted then
    let back := st == qRunning || cntBefore n (s.ep.qHead q)
    let s1 := s.modEp (fun c => (c.setQState q qHalted).log 0x7020 .uncorrected 0xFF (packArg [(10, q), (16, n), (8, status), (8, detail)]))
    let s2 := if back then s1.modEp (fun c => c.setHead q n) else s1
    if (s2.queue q).abortTo.isSome then s2 else (s2.modQueue q (fun x => { x with fetched := [] })).forgetFetches q
  else s

/-- The part first completing a descriptor with POISON logs it (R365). -/
def Common.poisonConsumed (c : Common) (addr tenant : Nat) : Common :=
  (c.count (ob 0x9021 4) 0 32 1).logLimited 0x9006 .uncorrected 0xFF 0 (packArg [(39, addr / 256), (8, tenant)])

/-- A launch of this descriptor is over at the member: BUSY clears; a package stage folded in ARRIVAL mode counts (R185, R229). -/
def Block.launchOver (s : Block) (q n : Nat) : Block :=
  match s.oe.launches.find? (fun l => l.q == q && l.n == n) with
  | none => s
  | some l =>
    let arrival := l.cfg.pkgStage l.latency && l.mode == 2 && (l.cfg.rop == 0 || l.cfg.rop == 3) && (decide (l.cfg.inFmt ≤ 8) || l.cfg.inFmt == 12)
    (s.modOe (fun o => { o with launches := o.launches.filter (fun x => !(x.q == q && x.n == n)) })).modEp (fun c =>
      (c.setBusy l.ctx false).count (ob 0xB400 0) 0 64 (b2n arrival))

/-- Complete a descriptor: its signals, its record, and the halt of its queue where the status halts. -/
def Block.completeDesc (s : Block) (q n : Nat) (ws : List (BitVec 64)) (status detail retries : Nat) : Block :=
  let freed := fun (r : Run) => { r with waitsRuns := r.waitsRuns.filter (fun k => k != (q, n)) }
  let s0 := (s.launchOver q n).modOe (fun o => { o with runs := (eraseFirst (fun r => r.q == q && r.n == n) o.runs).map freed })
  let s1 := if dSigEn ws then s0.ctrSignal (dSigCtr ws) (s.ep.qTenant q) s.epId 1 status else s0
  let s2 := if status = stPoison then s1.modEp (fun c => c.poisonConsumed (bitsOf (dw ws 5) 0 52) (s.ep.qTenant q)) else s1
  let s3 := if dCrec ws || !success status then s2.postRecord q (recordOf q n (dKind ws) status detail retries (s.ep.stroke % 2 ^ 40)) else s2
  let s4 := if halting status detail then s3.haltAt q n status detail
    else s3.modQueue q (fun x => { x with passOver := (n :: x.passOver).filter (fun m =>
           s3.oe.runs.any (fun r => r.q == q && cntBefore r.n m) || !cntBefore m (s3.oldestUnissued q)) })
  s4.drainEnd q

/-- Complete with DESCRIPTOR_ERROR at once. -/
def Block.descError (s : Block) (q n : Nat) (ws : List (BitVec 64)) (detail : Nat) : Block :=
  (s.modQueue q (fun x => { x with fetched := x.fetched.filter (fun d => d.n != n) })).completeDesc q n ws stDescriptor detail 0

/-- Complete the fetched descriptors of an ABORT in progress, and end it at its TAIL (R96). -/
def Block.abortPump (s : Block) (q : Nat) : Block :=
  match (s.queue q).abortTo with
  | none => s
  | some t =>
    let s1 := (s.queue q).fetched.foldl (fun s d =>
      match d.words with
      | none => s
      | some ws =>
        let s1 := s.modQueue q (fun x => { x with fetched := x.fetched.filter (fun e => e.n != d.n) })
        if (s.queue q).passOver.contains d.n || s.oe.runs.any (fun r => r.q == q && r.n == d.n) then s1
        else
          let s2 := if dSigEn ws then s1.ctrSignal (dSigCtr ws) (s.ep.qTenant q) s.epId 1 stAborted else s1
          s2.postRecord q (recordOf q d.n (dKind ws) stAborted 1 0 (s.ep.stroke % 2 ^ 40))) s
    if (s1.queue q).fetched.isEmpty && (s1.queue q).abortAt == t then
      s1.modQueue q (fun x => { x with abortTo := none, passOver := x.passOver.filter (fun m => s1.oe.runs.any (fun r => r.q == q && cntBefore r.n m)) })
    else s1

/-- Make the head checks on the oldest unissued descriptor; one that fails completes at once (R97), one that RESTART passes over is dropped. -/
def Block.headPump (s : Block) (q : Nat) : Nat → Block
  | 0 => s
  | k + 1 =>
    if (s.queue q).abortTo.isSome || s.ep.qState q != qRunning then s
    else match (s.queue q).fetched with
    | d :: _ =>
      match d.words with
      | none => s
      | some ws =>
        if (s.queue q).passOver.contains d.n || s.oe.runs.any (fun r => r.q == q && r.n == d.n) then
          (s.modQueue q (fun x => { x with fetched := x.fetched.filter (fun e => e.n != d.n) })).headPump q k
        else if d.checked then s
        else match s.headCheck q ws with
          | some detail => (s.descError q d.n ws detail).headPump q k
          | none => s.modQueue q (fun x => { x with fetched := replaceFirst (fun e => e.n == d.n) (fun e => { e with checked := true }) x.fetched })
    | [] => s

/-! ### Fetch (R94) -/

/-- The count of the next slot to fetch, in ring order: that after HEAD and the slots beyond it whose fetch is out or has come back early; of an ABORT, the next that it completes. -/
def Block.nextFetch (s : Block) (q : Nat) : Nat :=
  if (s.queue q).abortTo.isSome then (s.queue q).abortAt
  else (s.ep.qHead q + ((s.queue q).fetched.filter (fun d => !cntBefore d.n (s.ep.qHead q))).length) % 2 ^ 16

/-- DESCRIPTOR_FETCH: fetch the next announced slot while fewer than 8 are held. -/
def execDescriptorFetch (q : BitVec 10) (s : State) : Host.Outcome State Fault Refusal :=
  s.act fun s =>
    let q := q.toNat
    let n := s.nextFetch q
    let limit := match (s.queue q).abortTo with
      | some t => t
      | none => s.ep.qTail q
    let open_ := (s.ep.qState q == qRunning && s.ep.qEn q) || (s.queue q).abortTo.isSome
    (if open_ && decide ((s.queue q).fetched.length < 8) && n != limit && !s.ep.inReset then
        let r := s.memRead (s.ep.qBase q + 64 * (n % s.ep.qSize q)) 64
        (r.1.modQueue q (fun x => { x with fetched := x.fetched ++ [{ n := n, words := none }], abortAt := (n + 1) % 2 ^ 16 })).modOe (fun o => { o with memRds := o.memRds ++ [(r.2, some (q, n))] })
      else s)

/-- The fetch read of descriptor `n` returned: hold its words, advance HEAD over the descriptors that stand fetched, make the head checks. An ABORT has moved HEAD already. -/
def Block.fetched (s : Block) (q n : Nat) (data : List Byte) : Block :=
  let ws := (List.range 8).map (fun i => BitVec.ofNat 64 (leAt data (8 * i) 8))
  let s1 := s.modQueue q (fun x => { x with fetched := replaceFirst (fun d => d.n == n && d.words.isNone) (fun d => { d with words := some ws }) x.fetched })
  let ready := (s1.queue q).fetched.filter (fun d => d.words.isSome && !cntBefore d.n (s1.ep.qHead q))
  let run := ((List.range 9).takeWhile (fun i => i < ready.length && ready.any (fun d => d.n == (s1.ep.qHead q + i) % 2 ^ 16))).length
  if (s.queue q).abortTo.isSome then s1.abortPump q else (s1.modEp (fun c => c.setHead q (c.qHead q + run))).headPump q 9

/-! ### Issue (R95) -/

/-- A launch of a context is under way at the endpoint: issued and not completed (R222). -/
def Block.ctxBusy (s : Block) (ctx : Nat) : Bool := s.oe.runs.any (fun r => dKind r.words == 4 && bitsOf (dw r.words 0) 27 12 == ctx)

/-- Marks held (R108): launches with a RELEASE outstanding, and launches not begun yet. -/
def Block.marksHeld (s : Block) : Nat :=
  (s.oe.launches.filter (fun l => !(l.planes.all (fun p => l.released.contains p)))).length
  + (s.oe.runs.filter (fun r => dKind r.words == 4 && !r.started)).length

/-- Does a descriptor whose waits hold wait at issue all the same: a launch for its context (R222), a mark (R108) or the end of COLL_PAUSE (R374), a REMOTE_ADD for its channel's re-pin (R123)? It holds back its own queue alone (R95). -/
def Block.waitsAtIssue (s : Block) (ws : List (BitVec 64)) : Bool :=
  (dKind ws == 4 && (s.ep.bit (ob 0x9040 0) 16 || s.ctxBusy (bitsOf (dw ws 0) 27 12) || decide (256 ≤ s.marksHeld)))
  || (dKind ws == 7 && bitsOf (dw ws 0) 27 2 == 2 && bitsOf (dw ws 0) 29 1 == 1 && decide (bitsOf (dw ws 5) 0 7 ≤ 71) && bitsOf (dw ws 5) 0 7 != s.epSlot
      && !s.chanOpen (bitsOf (dw ws 5) 0 7) (bitsOf (dw ws 0) 30 4) (s.ep.ctxTenant (dCtx ws)))

/-- The oldest unissued descriptor of a queue, when nothing holds it back. -/
def Block.issuable (s : Block) (q : Nat) : Option (Nat × List (BitVec 64)) :=
  let x := s.queue q
  if s.ep.qState q != qRunning || x.abortTo.isSome || x.fence.isSome || !x.records.isEmpty || s.ep.parityStopped 0xB || s.ep.inReset then none
  else match x.fetched with
    | d :: _ => match d.words with
      | some ws => if d.checked && s.waitsHold ws && !s.waitsAtIssue ws then some (d.n, ws) else none
      | none => none
    | [] => none

/-- The queue an engine serves next, round-robin from the one it served last (R95). -/
def Block.nextQueue (s : Block) (e : Nat) : Option Nat :=
  let last := SMap.get 1024 s.oe.rr e
  let ok := (s.oe.queues.map (fun x => x.1)).filter (fun q => s.ep.qEngine q == e && (s.issuable q).isSome)
  match ok.find? (fun q => decide (last < q)) with
  | some q => some q
  | none => ok.head?

/-- Issue the oldest descriptor of `q` when it is of one of `kinds` (with `pick`) and its engine's turn has come to the queue. -/
def Block.issue (s : Block) (q : Nat) (pick : List (BitVec 64) → Bool) (f : Block → Nat → List (BitVec 64) → Block) : Block :=
  match s.issuable q with
  | none => s
  | some (n, ws) =>
    if pick ws && s.nextQueue (s.ep.qEngine q) == some q then
      f s n ws
    else s

/-- Take an issued descriptor off its queue and note the engine's turn. -/
def Block.taken (s : Block) (q n : Nat) : Block :=
  (s.modQueue q (fun x => { x with fetched := x.fetched.filter (fun d => d.n != n) })).modOe
    (fun o => { o with rr := SMap.set 1024 o.rr (s.ep.qEngine q) q })

/-- The run record of an issued descriptor. -/
def Block.runOf (s : Block) (q n : Nat) (ws : List (BitVec 64)) : Run :=
  { q := q, n := n, engine := s.ep.qEngine q, tenant := s.ep.qTenant q, words := ws }

def Block.addRun (s : Block) (r : Run) : Block := s.modOe (fun o => { o with runs := o.runs ++ [r] })
def Block.modRun (s : Block) (q n : Nat) (f : Run → Run) : Block :=
  s.modOe (fun o => { o with runs := replaceFirst (fun r => r.q == q && r.n == n) f o.runs })
def Block.run? (s : Block) (q n : Nat) : Option Run := s.oe.runs.find? (fun r => r.q == q && r.n == n)

/-- An issue that fails a check made at issue: DESCRIPTOR_ERROR, nothing translated. -/
def Block.issueError (s : Block) (q n : Nat) (ws : List (BitVec 64)) (detail : Nat) : Block := ((s.taken q n).descError q n ws detail).headPump q 9

/-! ### Translation of a descriptor's granules (R57, R58) -/

/-- Does a translation land in the endpoint's own window? -/
def Block.isLocal (s : Block) (fva : Nat) : Option Xlat → Bool
  | some (.ok leaf big) => leafFpa leaf big fva / 2 ^ 40 == s.epSlot
  | _ => false

/-- The FPA offset of the start of buffer `b` of a launch: 0 when it has none. -/
def Run.bufFpa (r : Run) (b : Nat) : Nat :=
  match (r.bufs.zip (r.grans.zip r.xl)).find? (fun x => x.1 == b) with
  | some (_, g, some (.ok leaf big)) => leafFpa leaf big g.2.1 % 2 ^ 40
  | _ => 0

/-- Do the granules of buffer `b` translate to consecutive FPAs? -/
def Run.bufFlat (r : Run) (b : Nat) : Bool :=
  let d := (r.bufs.zip (r.grans.zip r.xl)).filterMap (fun x => match x with
    | (k, g, some (.ok leaf big)) => if k = b then some ((leafFpa leaf big g.2.1 : Int) - (g.2.1 : Int)) else none
    | _ => none)
  d.all (fun x => some x == d.head?)

/-- A launch whose buffers are translated begins at its member, or ends with DESCRIPTOR_ERROR (R224). -/
def Block.startLaunch (s : Block) (r : Run) : Block :=
  let ws := r.words
  let ctx := bitsOf (dw ws 0) 27 12
  let backup := bitsOf (dw ws 0) 39 1 == 1
  let cfg := r.cfg.getD (s.ep.cfg ctx)
  let loc := (r.bufs.zip (r.grans.zip r.xl)).all (fun x => !(decide (1 ≤ x.1) && decide (x.1 ≤ 4)) || s.isLocal x.2.1.2.1 x.2.2)
  if !(r.bufFlat 2) then (s.completeDesc r.q r.n ws stDescriptor 6 0).headPump r.q 9
  else if !loc then (s.completeDesc r.q r.n ws stDescriptor 9 0).headPump r.q 9
  else
    let latency := cfg.latency s.ep.smallBytes
    let planes := s.ep.collPlanes
    let index := if backup then bitsOf (dw ws 0) 40 13 else (grpIndexOf cfg.grp s.epId).getD 0
    let no := r.no
    let l : MLaunch := { ctx := ctx, q := r.q, n := r.n, lseq := if backup then bitsOf (dw ws 0) 53 4 else no % 16, backup := backup, slot := s.epSlot, index := index,
                         cfg := cfg, planes := if latency then [latencyPlane cfg.gid planes] else planes, collPlanes := planes,
                         mode := cfg.modeOf latency, latency := latency, rctr := bitsOf (dw ws 6) 0 13, rcEn := bitsOf (dw ws 6) 13 1 == 1,
                         issuedAt := s.ep.stroke, dstFpa := r.bufFpa 2, dstScale := r.bufFpa 4,
                         lead := cfg.op == opUpdateGather && index % grpPerRack cfg.grp == 0, weight := r.bufs.contains 5,
                         sentPre := [], sentData := [], todo := [], completed := [], released := [], order := r.order }
    ((s.modOe (fun o => { o with launches := o.launches ++ [l] })).modEp
      (fun c => (if backup || c.cfg ctx != cfg || c.launchNo ctx != no then c else c.setLaunchNo ctx (no + 1)).setBusy ctx true)).modRun r.q r.n (fun x => { x with started := true })

/-- Does a descriptor read a record of its source before its last checks: a list, an extension record, a blob header? -/
def readsRecord (ws : List (BitVec 64)) : Bool := dKind ws == 3 || dKind ws == 8 || (dKind ws == 4 && bitsOf (dw ws 0) 57 1 == 1)

/-- A run whose translations are done starts, after the checks that need them (R104, R224), or reads its record. -/
def Block.startRun (s : Block) (r : Run) : Block :=
  if readsRecord r.words && r.stage == 0 then s.modRun r.q r.n (fun r => { r with stage := 1 })
  else match dKind r.words with
  | 4 => s.startLaunch r
  | 8 =>
    if (r.grans.zip r.xl).any (fun g => g.1.1 && !(s.isLocal g.1.2.1 g.2)) then (s.completeDesc r.q r.n r.words stDescriptor 9 0).headPump r.q 9
    else if !r.keyOk then (s.completeDesc r.q r.n r.words stDescriptor 0x0B 0).headPump r.q 9
    else s.modRun r.q r.n (fun r => { r with started := true })
  | _ => s.modRun r.q r.n (fun r => { r with started := true })

/-- A run whose translations all succeeded starts; a failure completes it with TRANSLATION_FAULT and one fault record. A DECRYPT_COPY without its key completes with DESCRIPTOR_ERROR, the first under R16. -/
def Block.runTranslate (s : Block) (q n : Nat) : Nat → Block
  | 0 => s
  | k + 1 =>
    match s.run? q n with
    | none => s
    | some r =>
      if r.started || r.stage == 1 then s
      else
        let i := r.xl.length
        match r.xl.getLast? with
        | some none => s
        | some (some (.fail cause level pte)) =>
          if dKind r.words == 8 && r.stage == 2 && !r.keyOk then (s.completeDesc q n r.words stDescriptor 0x0B 0).headPump q 9
          else
          let g := r.grans.getD (i - 1) (false, 0, 0, 0)
          let s1 := s.faultRecord ⟨g.1, dCtx r.words, g.2.1, 0, q, r.engine, true, g.2.2.1, level, cause, pte⟩
          (s1.completeDesc q n r.words stFault cause 0).headPump q 9
        | _ =>
          match r.grans[i]? with
          | none => s.startRun r
          | some g =>
            let f := s.translate r.engine (dCtx r.words) g.2.1 g.2.2.2 (.desc q n i)
            match f.2 with
            | .done x => (f.1.modRun q n (fun r => { r with xl := r.xl ++ [some x] })).runTranslate q n k
            | .waiting => f.1.modRun q n (fun r => { r with xl := r.xl ++ [none] })
            | .full => f.1

/-- The translated FPA of an address of one side. -/
def Run.fpa (r : Run) (side : Bool) (fva : Nat) : Option Nat :=
  let hit := (r.grans.zip r.xl).find? (fun g => g.1.1 == side && g.1.2.1 / 2 ^ 29 == fva / 2 ^ 29)
  match hit with
  | some (_, some (.ok leaf big)) => some (leafFpa leaf big fva)
  | _ => none

def Run.leaf (r : Run) (side : Bool) (fva : Nat) : BitVec 64 :=
  match (r.grans.zip r.xl).find? (fun g => g.1.1 == side && g.1.2.1 / 2 ^ 29 == fva / 2 ^ 29) with
  | some (_, some (.ok leaf _)) => leaf
  | _ => 0

/-- A walk's outcome for granule `i` of a run. -/
def Block.deliverDesc (s : Block) (q n i : Nat) (x : Xlat) : Block :=
  let s1 := s.modRun q n (fun r => { r with xl := r.xl.take i ++ [some (match x with
      | .ok leaf big => checkLeaf (r.grans.getD i (false, 0, 0, 0)).2.2.2 (s.ep.ctxTenant (dCtx r.words)) (if big then 1 else 2) leaf big
      | e => e)] })
  s1.runTranslate q n 40

/-- Let the runs that stalled on a full miss queue go on. -/
def Block.runsPump (s : Block) : Block :=
  (s.oe.runs.map (fun r => (r.q, r.n))).foldl (fun s k => s.runTranslate k.1 k.2 40) s

/-! ### Tiles (R57, R100, R101) -/

/-- One side of a tile: base and strides. -/
structure Side where
  base : Int
  s1 : Int
  s2 : Int
deriving DecidableEq, Repr

/-- LEN, N1, N2 of a TILE_COPY or FILL. -/
def tileDims (ws : List (BitVec 64)) : Nat × Nat × Nat :=
  let len := bitsOf (dw ws 0) 27 20 + 1
  if dKind ws = 1 then (len, bitsOf (dw ws 4) 52 11 + 1, bitsOf (dw ws 5) 52 11 + 1)
  else (len, bitsOf (dw ws 5) 52 11 + 1, bitsOf (dw ws 6) 0 11 + 1)

def tileSide (ws : List (BitVec 64)) (dst : Bool) : Side :=
  let b := if dst then bitsOf (dw ws 5) 0 52 else bitsOf (dw ws 4) 0 52
  let w := if dst then dw ws 7 else dw ws 6
  ⟨b, toSigned 32 (bitsOf w 0 32), toSigned 32 (bitsOf w 32 32)⟩

/-- Address of linear position `pos` of a tile (R101: i2, i1, then i0). -/
def Side.addr (sd : Side) (dims : Nat × Nat × Nat) (pos : Nat) : Int :=
  let run := pos / dims.1
  sd.base + (pos % dims.1 : Nat) + (run % dims.2.1 : Nat) * sd.s1 + (run / dims.2.1 : Nat) * sd.s2

/-- Lowest and highest byte address of a side, exactly (R57). -/
def Side.range (sd : Side) (dims : Nat × Nat × Nat) : Int × Int :=
  let e1 := sd.s1 * ((dims.2.1 - 1 : Nat) : Int)
  let e2 := sd.s2 * ((dims.2.2 - 1 : Nat) : Int)
  (sd.base + min 0 e1 + min 0 e2, sd.base + max 0 e1 + max 0 e2 + ((dims.1 - 1 : Nat) : Int))

/-- Does a side break a limit of R57? -/
def footprintBad (r : Int × Int) : Bool :=
  decide (r.1 < 0) || decide (2 ^ 52 ≤ r.2) || decide (8 ≤ r.2 / 2 ^ 29 - r.1 / 2 ^ 29)

/-- The granules of a side in ascending order, each with the lowest address within the footprint. -/
def sideGranules (side : Bool) (access : Nat) (r : Int × Int) : List (Bool × Nat × Nat × Nat) :=
  let g0 := (r.1 / 2 ^ 29).toNat
  let g1 := (r.2 / 2 ^ 29).toNat
  (List.range (g1 + 1 - g0)).map (fun i => (side, max r.1.toNat ((g0 + i) * 2 ^ 29), access, accessRights access))

/-- Element size of an accumulating write's format (R100); 0 when not allowed. -/
def accSize : Nat → Nat
  | 1 => 4 | 2 => 2 | 3 => 2 | 11 => 4 | _ => 0

/-- The shape rule of an accumulating tile (R100). -/
def accShapeBad (ws : List (BitVec 64)) : Bool :=
  dAcc ws && (
    let z := accSize (dAccFmt ws)
    let d := tileSide ws true
    z == 0 || d.base % z != 0 || (tileDims ws).1 % z != 0 || d.s1 % z != 0 || d.s2 % z != 0)

/-- TILE_COPY (R57, R58, R95, R100). -/
def execTileCopy (q : BitVec 10) (s : State) : Host.Outcome State Fault Refusal :=
  s.act fun s =>
    let q := q.toNat
    (s.issue q (fun ws => dKind ws == 1) (fun s n ws =>
      let rs := (tileSide ws false).range (tileDims ws)
      let rd := (tileSide ws true).range (tileDims ws)
      if footprintBad rs || footprintBad rd then s.issueError q n ws 5
      else if accShapeBad ws then s.issueError q n ws 6
      else
        let r : Run := { s.runOf q n ws with grans := sideGranules false 0 rs ++ sideGranules true (if dAcc ws then 3 else 1) rd }
        (((s.taken q n).addRun r).runTranslate q n 40).headPump q 9))

/-- FILL (R100). -/
def execFill (q : BitVec 10) (s : State) : Host.Outcome State Fault Refusal :=
  s.act fun s =>
    let q := q.toNat
    (s.issue q (fun ws => dKind ws == 2) (fun s n ws =>
      let rd := (tileSide ws true).range (tileDims ws)
      if footprintBad rd then s.issueError q n ws 5
      else (((s.taken q n).addRun { s.runOf q n ws with grans := sideGranules true 4 rd }).runTranslate q n 40).headPump q 9))

/-- Put a number into an ascending list. -/
def insertAsc (l : List Nat) (x : Nat) : List Nat := l.takeWhile (fun y => decide (y < x)) ++ x :: l.dropWhile (fun y => decide (y < x))

/-- Address range of the list of an ATOMIC_BATCH, and of its result area. -/
def batchList (ws : List (BitVec 64)) : Int × Int :=
  let a : Int := bitsOf (dw ws 4) 0 52
  (a, a + ((32 * (bitsOf (dw ws 0) 27 8 + 1) - 1 : Nat) : Int))
def batchArea (ws : List (BitVec 64)) : Int × Int :=
  let a : Int := bitsOf (dw ws 5) 0 52
  (a, a + ((8 * (bitsOf (dw ws 0) 27 8 + 1) - 1 : Nat) : Int))

/-- ATOMIC_BATCH (R102): the list is translated, to be read. -/
def execAtomicBatch (q : BitVec 10) (_ : List Byte) (s : State) : Host.Outcome State Fault Refusal :=
  s.act fun s =>
    let q := q.toNat
    (s.issue q (fun ws => dKind ws == 3) (fun s n ws =>
      if footprintBad (batchList ws) || (bitsOf (dw ws 0) 42 1 == 1 && footprintBad (batchArea ws)) then s.issueError q n ws 5
      else (((s.taken q n).addRun { s.runOf q n ws with grans := sideGranules false 0 (batchList ws) }).runTranslate q n 80).headPump q 9))

/-- HANDOFF (R78, R103): the descriptor's region is translated; it waits to be released. -/
def execHandoffDescriptor (q : BitVec 10) (s : State) : Host.Outcome State Fault Refusal :=
  s.act fun s =>
    let q := q.toNat
    (s.issue q (fun ws => dKind ws == 5) (fun s n ws =>
      if decide (71 < bitsOf (dw ws 5) 0 7) || bitsOf (dw ws 5) 7 2 == 3 then s.issueError q n ws 8
      else
        let gs := [(false, bitsOf (dw ws 4) 0 52, 0, accessRights 0)]
        let r : Run := { s.runOf q n ws with grans := gs, waitsFor := s.oe.txns.map (fun t => t.tag), waitsXl := s.oe.ls.map (fun r => r.tag) }
        (((s.taken q n).addRun r).runTranslate q n 40).headPump q 9))

/-- A FENCE descriptor is issued: later descriptors of the queue wait (R73). -/
def Block.issueFence (s : Block) (q : Nat) (scope : Nat) : Block :=
  s.issue q (fun ws => dKind ws == 6 && bitsOf (dw ws 0) 27 2 == scope) (fun s n ws =>
    let ts := if scope = 1 then s.oe.txns.map (fun t => t.tag) else []
    let ls := if scope = 1 then s.oe.ls.map (fun r => r.tag) else []
    let rs := if scope = 1 then s.oe.runs.map (fun r => (r.q, r.n)) else []
    let r : Run := { s.runOf q n ws with waitsFor := ts, waitsXl := ls, waitsRuns := rs }
    (((s.taken q n).addRun r).modQueue q (fun x => { x with fence := some n })).headPump q 9)

def execQueueFence (q : BitVec 10) (s : State) : Host.Outcome State Fault Refusal :=
  s.act fun s => (s.issueFence q.toNat 0)
def execEndpointFence (q : BitVec 10) (s : State) : Host.Outcome State Fault Refusal :=
  s.act fun s => (s.issueFence q.toNat 1)

/-- COUNTER_OP of a local counter is issued and acts (R103). -/
def Block.issueCounter (s : Block) (q cop : Nat) (act : Block → List (BitVec 64) → Block) : Block :=
  s.issue q (fun ws => dKind ws == 7 && bitsOf (dw ws 0) 27 2 == cop) (fun s n ws =>
    (act ((s.taken q n).addRun { s.runOf q n ws with started := true, finished := true }) ws).headPump q 9)

def execCounterOpAdd (q : BitVec 10) (s : State) : Host.Outcome State Fault Refusal :=
  s.act fun s =>
    (s.issueCounter q.toNat 0 (fun s ws =>
      s.ctrAdd (bitsOf (dw ws 4) 32 13) (s.ep.qTenant q.toNat) s.epId (bitsOf (dw ws 4) 0 32)))

def execCounterOpSet (q : BitVec 10) (s : State) : Host.Outcome State Fault Refusal :=
  s.act fun s =>
    (s.issueCounter q.toNat 1 (fun s ws => s.ctrSet (bitsOf (dw ws 4) 32 13) (bitsOf (dw ws 4) 0 32)))

/-- The tags of engine `e` (R92). -/
def engineTag (e tag : Nat) : Bool := decide (0x2000 + 512 * e ≤ tag) && decide (tag < 0x2000 + 512 * e + 512)

/-- COUNTER_OP REMOTE_ADD (R103): a CTR_ADD to the home at TARGET_SLOT under the tenant of CTX. -/
def execRemoteAdd (q : BitVec 10) (tag : BitVec 14) (s : State) : Host.Outcome State Fault Refusal :=
  s.act fun s =>
    let q := q.toNat
    (s.issue q (fun ws => dKind ws == 7 && bitsOf (dw ws 0) 27 2 == 2) (fun s n ws =>
      let slot := bitsOf (dw ws 5) 0 7
      let ord := bitsOf (dw ws 0) 29 1 == 1
      let ch := bitsOf (dw ws 0) 30 4
      let tenant := s.ep.ctxTenant (dCtx ws)
      if 71 < slot then s.issueError q n ws 8
      else if !engineTag (s.ep.qEngine q) tag.toNat || !s.tagFree tag.toNat then s
      else
        let spec : ReqSpec := { opc := 8, long := false, tag := tag.toNat, fpa := slot * 2 ^ 40, noFpa := true, tenant := tenant, ord := ord, ch := ch,
                                arrCtr := bitsOf (dw ws 4) 32 13, w3 := bitsOf (dw ws 4) 0 32 }
        ((((s.taken q n).addRun { s.runOf q n ws with started := true, outstanding := 1 }).issueReq [spec] (s.anyPlane slot) (.counter q n) (dCtx ws) 0).tick).headPump q 9))

/-! ### Bursts (R101) -/

/-- The pieces that cover positions from `pos` on, as bytes: for each of `n` positions its byte when present, whether lost, whether poisoned. -/
def Run.source (r : Run) (pos : Nat) : Option (Byte × Bool × Bool) :=
  match r.pieces.find? (fun p => decide (p.pos ≤ pos) && decide (pos < p.pos + p.len)) with
  | some p => some (p.data.getD (pos - p.pos) 0, p.lost, p.poison)
  | none => none

/-- Bytes that a FILL writes: byte i0 of an inner run takes byte i0 mod 8 of PATTERN (R100). -/
def fillByte (ws : List (BitVec 64)) (len pos : Nat) : Byte := (leBytes 8 (dw ws 4).toNat).getD (pos % len % 8) 0

/-- Send the next write burst of a tile, when its bytes are there. Bytes whose source read was lost are skipped: a burst ends where written and lost bytes meet. -/
def Block.tileWrite (s : Block) (r : Run) (tag : Nat) : Block :=
  let dims := tileDims r.words
  let total := dims.1 * dims.2.1 * dims.2.2
  let pos := r.wrPos
  if total ≤ pos then s
  else
    let a := ((tileSide r.words true).addr dims pos).toNat
    let full := min (dims.1 - pos % dims.1) (256 - a % 256)
    let src := fun i => if dKind r.words = 2 then some (fillByte r.words dims.1 (pos + i), false, false) else r.source (pos + i)
    let avail := (List.range full).map src
    if avail.any (fun x => x.isNone) then s
    else
      let lost := match avail.head? with
        | some (some x) => x.2.1
        | _ => false
      let n := (avail.takeWhile (fun x => match x with
        | some y => y.2.1 == lost
        | none => false)).length
      let next := fun (r : Run) => { r with wrPos := pos + n, burst := if n = full then r.burst + 1 else r.burst,
                                            pieces := r.pieces.filter (fun p => decide (pos + n < p.pos + p.len)) }
      if lost then s.modRun r.q r.n next
      else match r.fpa true a with
        | none => s
        | some fpa =>
          let leaf := r.leaf true a
          let d := fpa / 2 ^ 40
          let live := s.ep.liveFor d
          let j := (r.q + r.n) % max 1 live.length + r.burst
          let plane := live[j % max 1 live.length]?
          let bytes := (avail.take n).map (fun x => match x with
            | some y => y.1
            | none => 0)
          let poison := (avail.take n).any (fun x => match x with
            | some y => y.2.2
            | none => false)
          let acc := dKind r.words == 1 && dAcc r.words
          let spec : ReqSpec := { opc := if acc then 7 else 2, long := true, tag := tag, fpa := fpa, tenant := pteTenant leaf, own := pteOwn leaf, cc := pteCc leaf,
                                  aop := if acc then dAccFmt r.words else 0, bytes := n, arrCtr := dArrCtr r.words, arrEn := dArrEn r.words, poison := poison,
                                  payload := List.replicate (fpa % 256) 0 ++ bytes }
          (s.issueReq [spec] plane (.tileWrite r.q r.n n) (dCtx r.words) a).modRun r.q r.n (fun r => { next r with outstanding := r.outstanding + 1 })

/-- Send a source read of a run: `n` bytes at `a`, which stand at position `pos` of what it reads. -/
def Block.engineRead (s : Block) (r : Run) (tag a pos n : Nat) (next : Run → Run) : Block :=
  match r.fpa false a with
  | none => s
  | some fpa =>
    let leaf := r.leaf false a
    let spec : ReqSpec := { opc := 1, long := false, tag := tag, fpa := fpa, tenant := pteTenant leaf, own := pteOwn leaf, cc := pteCc leaf, bytes := n }
    ((s.issueReq [spec] (s.anyPlane (fpa / 2 ^ 40)) (.tileRead r.q r.n pos n) (dCtx r.words) a).tick).modRun r.q r.n
      (fun r => { next r with outstanding := r.outstanding + 1 })

/-- Send the next source read of a tile: a piece within one source block. -/
def Block.tileRead (s : Block) (r : Run) (tag : Nat) : Block :=
  let dims := tileDims r.words
  let total := dims.1 * dims.2.1 * dims.2.2
  let pos := r.rdPos
  if total ≤ pos || dKind r.words != 1 then s
  else
    let a := ((tileSide r.words false).addr dims pos).toNat
    let n := min (dims.1 - pos % dims.1) (256 - a % 256)
    s.engineRead r tag a pos n (fun r => { r with rdPos := pos + n })

/-- Base and length of what a run reads through `srcPos`: the record before its checks, then a sealed blob. -/
def Run.recordAt (r : Run) : Nat × Nat :=
  match dKind r.words with
  | 3 => (bitsOf (dw r.words 4) 0 52, 32 * (bitsOf (dw r.words 0) 27 8 + 1))
  | 4 => (bitsOf (dw r.words 7) 0 52, 128)
  | _ => (bitsOf (dw r.words 4) 0 52, if r.stage = 1 then 64 else bitsOf (dw r.words 6) 0 32)

/-- Send the next read of a record or a blob, a piece within one source block. -/
def Block.recordRead (s : Block) (r : Run) (tag : Nat) : Block :=
  let a := r.recordAt.1 + r.srcPos
  let n := min (r.recordAt.2 - r.srcPos) (256 - a % 256)
  if r.recordAt.2 ≤ r.srcPos then s else s.engineRead r tag a r.srcPos n (fun r => { r with srcPos := r.srcPos + n })

/-- Send the next write burst of a run whose destination is one range: the first bytes of `list`. -/
def Block.listWrite (s : Block) (r : Run) (tag : Nat) (bytes : List Byte) (a : Nat) (arr : Bool) (next : Nat → Run → Run) : Block :=
  let n := min bytes.length (256 - a % 256)
  match r.fpa true a with
  | none => s
  | some fpa =>
    let leaf := r.leaf true a
    let spec : ReqSpec := { opc := 2, long := true, tag := tag, fpa := fpa, tenant := pteTenant leaf, own := pteOwn leaf, cc := pteCc leaf, bytes := n,
                            arrCtr := if arr then dArrCtr r.words else 0, arrEn := arr && dArrEn r.words, poison := r.poisoned,
                            payload := List.replicate (fpa % 256) 0 ++ bytes.take n }
    ((s.issueReq [spec] (s.anyPlane (fpa / 2 ^ 40)) (.tileWrite r.q r.n n) (dCtx r.words) a).tick).modRun r.q r.n
      (fun r => { next n r with outstanding := r.outstanding + 1 })

/-- DECRYPT_COPY: the next write burst of verified plaintext at the endpoint's own home, else the next read of the blob (R104). -/
def Block.plainNext (s : Block) (r : Run) (tag : Nat) : Block :=
  if r.list.isEmpty then s.recordRead r tag
  else s.listWrite r tag r.list (bitsOf (dw r.words 5) 0 52 + r.wrPos) true (fun n r => { r with wrPos := r.wrPos + n, list := r.list.drop n })

/-! ### Reading a contribution (R226), writing the counts received (R239) -/

/-- The launch of a COLLECTIVE_LAUNCH descriptor. -/
def Block.launchOf (s : Block) (r : Run) : Option MLaunch := s.oe.launches.find? (fun l => l.q == r.q && l.n == r.n)

/-- First byte of buffer `b` of a launch. -/
def Run.bufBase (r : Run) (b : Nat) : Nat := ((r.bufs.zip r.grans).find? (fun x => x.1 == b)).elim 0 (fun x => x.2.2.1)

/-- Have COMPLETE and RELEASE come from every switch of a launch's path? -/
def MLaunch.answered (l : MLaunch) : Bool := l.planes.all (fun p => l.completed.any (fun c => c.1 == p) && l.released.contains p)

/-- RCOUNTS (R216): what a member sent itself is its own SCOUNTS; the counts of the others come in no packet of the spec, and are free values up to COUNT. -/
def Block.rcounts (s : Block) (r : Run) (l : MLaunch) : List (BitVec 64) :=
  (List.range (grpN l.cfg.grp)).map (fun j =>
    if j = l.index then BitVec.ofNat 64 (leAt r.header (4 * j) 4) else BitVec.ofNat 64 ((Config.freeWord (s.free + j)).toNat % (l.cfg.count + 1)))

/-- The next read of the chunk being built, or once the whole result has come the next write of RCOUNTS. -/
def Block.launchNext (s : Block) (r : Run) (tag : Nat) : Block :=
  match s.launchOf r with
  | none => s
  | some l =>
    match l.want with
    | some (plane, pre, i) =>
      (match needAt (l.needs plane pre i) r.srcPos with
       | none => s
       | some (b, off, left) =>
         let a := r.bufBase b + off
         let n := min left (256 - a % 256)
         s.engineRead r tag a (b * 2 ^ 40 + off) n (fun r => { r with srcPos := r.srcPos + n }))
    | none =>
      if l.cfg.op = opAllToAllV ∧ l.answered ∧ r.wrPos < 4 * grpN l.cfg.grp then
        let counts := if r.olds.isEmpty then s.rcounts r l else r.olds
        let s0 : Block := if r.olds.isEmpty then { s with free := s.free + grpN l.cfg.grp } else s
        s0.listWrite r tag (((counts.map (fun c => leBytes 4 c.toNat)).flatten).drop r.wrPos) (r.bufBase 7 + r.wrPos) false
          (fun n r => { r with wrPos := r.wrPos + n, olds := counts })
      else s
/-- Send the next atomic of a batch, in list order, or after them all the write of the old values of one block (R102). -/
def Block.batchNext (s : Block) (r : Run) (tag : Nat) : Block :=
  let ws := r.words
  let cnt := bitsOf (dw ws 0) 27 8 + 1
  let op := bitsOf (dw ws 0) 35 4
  let typ := bitsOf (dw ws 0) 39 3
  let resEn := bitsOf (dw ws 0) 42 1 == 1
  let ord := bitsOf (dw ws 0) 43 1 == 1
  let ch := bitsOf (dw ws 0) 44 4
  if r.rdPos < cnt then
    let i := r.rdPos
    let a := leAt r.list (32 * i) 8 % 2 ^ 52
    match r.fpa true a with
    | none => s
    | some fpa =>
      let leaf := r.leaf true a
      let d := fpa / 2 ^ 40
      if ord && d != s.epSlot && !s.chanOpen d ch (pteTenant leaf) then s
      else
        let base : ReqSpec := { opc := 5, long := false, tag := tag, fpa := fpa, tenant := pteTenant leaf, ord := ord, ch := ch, own := pteOwn leaf, cc := pteCc leaf,
                                aop := op, atype := typ, bytes := atomSize typ, w3 := leAt r.list (32 * i + 8) 8 }
        let spec := if op = 7 then { base with opc := 6, long := true, payload := leBytes 8 (leAt r.list (32 * i + 16) 8) } else base
        ((s.issueReq [spec] (s.anyPlane d) (.batch r.q r.n i) (dCtx ws) a).tick).modRun r.q r.n
          (fun r => { r with rdPos := i + 1, outstanding := r.outstanding + 1, olds := if r.olds.isEmpty then List.replicate cnt 0 else r.olds })
  else if resEn && decide (r.wrPos < 8 * cnt) && decide (r.outstanding = 0) then
    let a := bitsOf (dw ws 5) 0 52 + r.wrPos
    let n := min (8 * cnt - r.wrPos) (256 - a % 256)
    match r.fpa true a with
    | none => s
    | some fpa =>
      let leaf := r.leaf true a
      let bytes := slice ((r.olds.map (fun o => leBytes 8 o.toNat)).flatten) r.wrPos n
      let spec : ReqSpec := { opc := 2, long := true, tag := tag, fpa := fpa, tenant := pteTenant leaf, own := pteOwn leaf, cc := pteCc leaf, bytes := n,
                              payload := List.replicate (fpa % 256) 0 ++ bytes }
      ((s.issueReq [spec] (s.anyPlane (fpa / 2 ^ 40)) (.batchResult r.q r.n) (dCtx ws) a).tick).modRun r.q r.n
        (fun r => { r with wrPos := r.wrPos + n, outstanding := r.outstanding + 1 })
  else s

/-- TILE_BURST_ISSUE (R101): the next write burst whose bytes are there, else the next source read; of the other kinds, their next access under one of the engine's tags. -/
def execTileBurstIssue (q : BitVec 10) (n : BitVec 16) (tag : BitVec 14) (s : State) : Host.Outcome State Fault Refusal :=
  s.act fun s =>
    (match s.run? q.toNat n.toNat with
      | none => s
      | some r =>
        if !engineTag r.engine tag.toNat || !s.tagFree tag.toNat then s
        else if r.stage = 1 then s.recordRead r tag.toNat
        else if !r.started then s
        else match dKind r.words with
          | 3 => s.batchNext r tag.toNat
          | 4 => s.launchNext r tag.toNat
          | 8 => s.plainNext r tag.toNat
          | 1 =>
            let w := s.tileWrite r tag.toNat
            if w = s then s.tileRead r tag.toNat else w
          | 2 => s.tileWrite r tag.toNat
          | _ => s)

/-! ### The end of a run's accesses (R70) -/

/-- Have all of a run's accesses ended? -/
def Run.done (r : Run) : Bool :=
  if dKind r.words = 8 then r.finished && r.list.isEmpty && decide (r.outstanding = 0)
  else r.finished || (r.started && decide (r.outstanding = 0) &&
    (match dKind r.words with
     | 1 => decide ((tileDims r.words).1 * (tileDims r.words).2.1 * (tileDims r.words).2.2 ≤ r.wrPos)
     | 2 => decide ((tileDims r.words).1 * (tileDims r.words).2.1 * (tileDims r.words).2.2 ≤ r.wrPos)
     | 3 => decide (bitsOf (dw r.words 0) 27 8 + 1 ≤ r.rdPos) && (bitsOf (dw r.words 0) 42 1 == 0 || decide (8 * (bitsOf (dw r.words 0) 27 8 + 1) ≤ r.wrPos))
     | 5 => decide (r.rdPos = 1)
     | 7 => true
     | _ => false))

/-- Are all the accesses of an issued descriptor applied, as an ENDPOINT fence asks (R73)? Of a launch those are its reads and the writes of RCOUNTS: results are written by its switches. -/
def Block.accessesOver (s : Block) (r : Run) : Bool :=
  if dKind r.words = 6 then true
  else if dKind r.words = 4 then (match s.launchOf r with
    | some l => r.started && l.answered && decide (r.outstanding = 0) && (l.cfg.op != opAllToAllV || decide (4 * grpN l.cfg.grp ≤ r.wrPos))
    | none => false)
  else r.done

/-! ### Handoff release (R78) -/

/-- The FPA that a transaction addresses. -/
def Txn.fpa (t : Txn) : Nat := match t.pkts.head? with
  | some p => pFpa p
  | none => 0

/-- Does anything the endpoint issued before a handoff still stand before it? -/
def Block.handoffHeld (s : Block) (r : Run) (fpa : Nat) : Bool :=
  let region := fpa / 2 ^ 29
  s.oe.txns.any (fun t => r.waitsFor.contains t.tag && t.fpa / 2 ^ 29 == region)
  || s.oe.ls.any (fun l => r.waitsXl.contains l.tag && !l.sent && (match l.xl with
      | none => l.kind != .fence
      | some (.ok leaf big) => leafFpa leaf big l.fva / 2 ^ 29 == region
      | some (.fail _ _ _) => false))
  || (s.oe.runs.takeWhile (fun x => !(x.q == r.q && x.n == r.n))).any (fun x => !x.done && dKind x.words != 6 && dKind x.words != 7 &&
      (!x.started || (x.grans.zip x.xl).any (fun g => match g.2 with
        | some (.ok leaf big) => leafFpa leaf big g.1.2.1 / 2 ^ 29 == region
        | _ => false)))

/-- HANDOFF_RELEASE: the handoff leaves its issuer. -/
def execHandoffRelease (q : BitVec 10) (n : BitVec 16) (tag : BitVec 14) (s : State) : Host.Outcome State Fault Refusal :=
  s.act fun s =>
    (match s.run? q.toNat n.toNat with
      | none => s
      | some r =>
        let a := bitsOf (dw r.words 4) 0 52
        match r.fpa false a with
        | none => s
        | some fpa =>
          if !r.started || dKind r.words != 5 || decide (0 < r.rdPos) || !engineTag r.engine tag.toNat || !s.tagFree tag.toNat || s.handoffHeld r fpa then s
          else
            let leaf := r.leaf false a
            let spec : ReqSpec := { opc := 9, long := false, tag := tag.toNat, fpa := fpa, tenant := pteTenant leaf, own := pteOwn leaf, cc := pteCc leaf,
                                    w3 := bitsOf (dw r.words 5) 0 9 }
            ((s.issueReq [spec] (s.anyPlane (fpa / 2 ^ 40)) (.handoff r.q r.n) (dCtx r.words) a).tick).modRun r.q r.n
              (fun r => { r with rdPos := 1, outstanding := 1 }))

/-! ### Fence completion (R73) -/

/-- Does a fence's condition hold? -/
def Block.fenceHolds (s : Block) : FenceRef → Bool
  | .desc q n =>
    match s.run? q.toNat n.toNat with
    | some r =>
      dKind r.words == 6 && !r.finished
      && !(s.oe.runs.any (fun x => x.q == r.q && cntBefore x.n r.n))
      && r.waitsFor.isEmpty && !(s.oe.ls.any (fun l => r.waitsXl.contains l.tag && l.kind != .fence && l.answer.isNone))
      && r.waitsRuns.all (fun k => match s.run? k.1 k.2 with
        | some x => s.accessesOver x
        | none => true)
    | none => false
  | .ls tag => match s.oe.ls.head? with
    | some r => r.kind == .fence && r.tag == tag.toNat
    | none => false

/-- FENCE_COMPLETE. -/
def execFenceComplete (f : FenceRef) (s : State) : Host.Outcome State Fault Refusal :=
  s.act fun s =>
    (if s.fenceHolds f then
        match f with
        | .desc q n => ((s.modRun q.toNat n.toNat (fun r => { r with started := true, finished := true })).modQueue q.toNat (fun x => { x with fence := none })).headPump q.toNat 9
        | .ls tag => ((s.modEp (fun c => c.answer tag.toNat stOk [])).dropLs tag.toNat).lsPump
      else s)

/-! ### Completion of a descriptor (R70) -/

/-- Does a launch complete: COMPLETE and RELEASE from every switch of its path, and every earlier launch of its group issued by this endpoint completed (R75, R239)? -/
def Block.launchDone (s : Block) (l : MLaunch) : Bool :=
  l.answered
  && !(s.oe.runs.any (fun x => dKind x.words == 4 && decide (x.order < l.order) && (match x.cfg with
      | some c => c.gid == l.cfg.gid
      | none => false)))
  && !(s.oe.hops.any (fun h => pOpc h.p == 0x22 && cCtx h.p == l.ctx))

/-- Have all of a run's accesses ended, a launch's completion included? -/
def Block.runDone (s : Block) (r : Run) : Bool :=
  if dKind r.words = 4 then (match s.launchOf r with
    | some l => r.started && s.launchDone l && decide (r.outstanding = 0) && (l.cfg.op != opAllToAllV || decide (4 * grpN l.cfg.grp ≤ r.wrPos))
    | none => false)
  else r.done


/-- The DETAIL of a completion (R107, R368). -/
def Run.detailFor (r : Run) (st : Nat) : Nat := if st = stAborted ∨ st = stDescriptor ∨ st = stFault then r.detail else 0

/-- Status and DETAIL of a launch: the first under R16 over its COMPLETEs, with the DETAIL that came with it, and over its own accesses (R239). -/
def MLaunch.result (l : MLaunch) (r : Run) : Nat × Nat :=
  let st := firstStatus (l.completed.map (fun c => c.2.1) ++ r.status)
  (st, ((l.completed.find? (fun c => c.2.1 == st)).map (fun c => c.2.2)).getD (r.detailFor st))

/-- DESCRIPTOR_COMPLETE. -/
def execDescriptorComplete (q : BitVec 10) (n : BitVec 16) (s : State) : Host.Outcome State Fault Refusal :=
  s.act fun s =>
    (match s.run? q.toNat n.toNat with
      | none => s
      | some r =>
        if s.runDone r then
          let e := match s.launchOf r with
            | some l => l.result r
            | none => (firstStatus r.status, r.detailFor (firstStatus r.status))
          (s.completeDesc r.q r.n r.words e.1 e.2 r.retries).headPump r.q 9
        else s)

/-! ### Management of a queue (R96, R107) -/

/-- RESTART: a halted queue runs again from HEAD. -/
def Block.restart (s : Block) (q : Nat) : Block := if s.ep.qState q = qHalted then s.modEp (fun c => c.setQState q qRunning) else s

/-- ABORT: HEAD becomes TAIL and the queue runs; the descriptors that stood pending complete with ABORTED, those not yet fetched as they are fetched (R96). -/
def Block.abortQueue (s : Block) (q : Nat) : Block :=
  let st := s.ep.qState q
  let t := s.ep.qTail q
  if st = qHalted ∨ st = qRunning then
    ((s.modQueue q (fun x => { x with abortTo := some t, abortAt := s.nextFetch q })).modEp (fun c => (c.setHead q t).setQState q qRunning)).abortPump q
  else s

/-- CQ_CONS: space frees for waiting records. -/
def Block.takeCqCons (s : Block) (q v : Nat) : Block := (s.modEp (fun c => c.setFld (qk 0xB010 q) 0 16 v)).writeRecords q

def execRestart (m : Master) (q : BitVec 10) (s : State) : Host.Outcome State Fault Refusal :=
  s.act fun s =>
    (s.mgmtWrite .oe36 m (qk 0xB00C q.toNat) (fun s => s.restart q.toNat))

def execAbort (m : Master) (q : BitVec 10) (s : State) : Host.Outcome State Fault Refusal :=
  s.act fun s =>
    (s.mgmtWrite .oe36 m (qk 0xB00C q.toNat) (fun s => s.abortQueue q.toNat))

def execCqCons (m : Master) (q : BitVec 10) (v : BitVec 16) (s : State) : Host.Outcome State Fault Refusal :=
  s.act fun s =>
    (s.mgmtWrite .oe36 m (qk 0xB010 q.toNat) (fun s => s.takeCqCons q.toNat v.toNat))

/-! ### A catch that changes EN (R97) -/

/-- A catch sets EN: a DISABLED queue runs from 0; one that drains does so when draining ends. -/
def Block.queueOn (s : Block) (q : Nat) : Block :=
  if s.ep.qState q = qDraining then s.modQueue q (fun x => { x with enAgain := true })
  else if s.ep.qState q = qDisabled then s.modEp (fun c => (c.setReg (qk 0xB008 q) (BitVec.ofNat 128 (qRunning * 2 ^ 32))).setFld (qk 0xB010 q) 0 16 0)
  else s

/-- A catch clears EN: unissued descriptors are discarded without records, the issued ones drain. -/
def Block.queueOff (s : Block) (q : Nat) : Block :=
  if s.ep.qState q = qDraining then s.modQueue q (fun x => { x with enAgain := false })
  else if s.ep.qState q = qDisabled then s
  else
    ((s.modQueue q (fun x => { x with fetched := [], passOver := [], fence := none, abortTo := none, enAgain := false })).modEp
      (fun c => c.setQState q qDraining)).drainEnd q

/-! ### The end of a walk (R48 to R53, R58) -/

/-- Hand a walk's outcome to a client. -/
def Block.deliver (s : Block) (x : Xlat) : Client → Block
  | .ls tag =>
    let f := fun (r : LsReq) => { r with xl := some (match x with
      | .ok leaf big => checkLeaf (lsRights r.kind) (s.ep.ctxTenant r.ctx) (if big then 1 else 2) leaf big
      | e => e) }
    s.modOe (fun o => { o with ls := updLs tag f o.ls })
  | .desc q n i => s.deliverDesc q n i x

/-- WALK_READ_DONE. A walk made stale by an invalidation or by a catch is abandoned, and its accesses are translated afresh. -/
def execWalkReadDone (ctx : BitVec 6) (granule : BitVec 23) (value : BitVec 64) (st : MemStatus) (inj : Bool) (s : State) :
    Host.Outcome State Fault Refusal :=
  s.act fun s =>
    match s.oe.misses.find? (fun m => m.ctx == ctx.toNat && m.granule == granule.toNat && m.walking) with
    | none => s
    | some m =>
      if !s.ep.detects 0x72 8 m.ctx inj then s.modEp (fun c => c.undetected 0x72 8 m.ctx inj)
      else
        let s0 := if inj then s.modEp (fun c => c.injected 0x72) else s
        let st := if inj then .error else st
        if m.stale then
          (if s0.ep.ctxEn m.ctx then
              s0.modOe (fun o => { o with misses := replaceFirst (fun x => x == m) (fun x => { x with walking := false, stale := false, level := 1 }) o.misses })
            else
              let s1 := s0.modOe (fun o => { o with misses := eraseFirst (fun x => x == m) o.misses })
              (m.clients.foldl (fun s c => s.deliver (.fail causeDisabled 0 0) c) s1).lsPump)
        else match walkStep m.level m.granule value st with
          | .second apa =>
            let r := s0.memRead apa 8
            (r.1.modOe (fun o => { o with misses := replaceFirst (fun x => x == m) (fun x => { x with level := 2, l1 := value }) o.misses }))
          | .done x =>
            let s1 := s0.modOe (fun o => { o with misses := eraseFirst (fun x => x == m) o.misses })
            let s2 := match x with
              | .ok leaf big =>
                let e : TlbEnt := ⟨m.ctx, big, if big then m.granule / 64 else m.granule, leaf⟩
                let units := (m.clients.map (fun (c : Client) => match c with
                  | .ls _ => 16
                  | .desc q n _ => match s0.run? q n with
                    | some r => r.engine
                    | none => 16)).eraseDups
                units.foldl (fun (s : Block) (u : Nat) => s.microInstall u e) (s1.tlbInstall e)
              | .fail _ _ _ => s1
            let s3 := m.clients.foldl (fun s c => s.deliver x c) s2
            (s3.runsPump.lsPump)

end Sys2Proof.Machine
end

