-- ==== Sys2Proof/Machine/Home.lean ====
section
/-!
DEFINITION. The home (04; 05, R105, R106; 16, R365, R368, R369): sequence and epochs, block order, region checks and violations, atomics, deduplication, handoffs, the directory and its snoops.
-/
namespace Sys2Proof.Machine

/-! ### Regions (R76, R85) -/

def regionKey (i : Nat) : Nat := ob (0xB110 + i / 256) (i % 256)
def Common.rgTenant (c : Common) (i : Nat) : Nat := c.fld (regionKey i) 16 8
def Common.rgOwner (c : Common) (i : Nat) : Nat := c.fld (regionKey i) 9 7
def Common.rgMode (c : Common) (i : Nat) : Nat := c.fld (regionKey i) 7 2
def Common.rgCrew (c : Common) (i : Nat) : Bool := c.bit (regionKey i) 6
def Common.homeGranules (c : Common) : Nat := c.fld (ob 0xB104 1) 0 12
def Common.homeBase (c : Common) : Nat := c.fld (ob 0xB104 0) 29 23 * 2 ^ 29

def pOffset (p : Packet) : Nat := pFpa p % 2 ^ 40
def pRegion (p : Packet) : Nat := pOffset p / 2 ^ 29
def pBlock (p : Packet) : Nat := pOffset p / 256

/-- The access code of a request (R86): 0 read, 1 write, 2 atomic, 3 accumulating write, 5 handoff, 6 counter update. The codes name no coherent request, and nothing marks the WR of a FILL: RD_OWN, UPGRADE and WRITEBACK count as the opcode that falls here, RD_SHARED, RD_OWN and EVICT_CLEAN as reads or writes by what they do, and a FILL's WR as a write, so that code 4 is never recorded (DESIGN CHOICE, log). -/
def pAccess (p : Packet) : Nat :=
  match pOpc p with
  | 0x01 => 0 | 0x05 => 2 | 0x06 => 2 | 0x07 => 3 | 0x08 => 6 | 0x09 => 5 | 0x0A => 0 | 0x0E => 0 | _ => 1

/-- Does a request change state at the home (R368)? -/
def stateChanging (p : Packet) : Bool :=
  match pOpc p with
  | 0x02 | 0x03 | 0x04 | 0x05 | 0x06 | 0x07 | 0x08 | 0x09 | 0x0D => true
  | _ => false

/-- Does R76 forbid an access by `slot` to a region? The cause, NOT_OWNER or READ_ONLY. -/
def modeBad (mode owner slot access : Nat) : Option Nat :=
  let write := access == 1 || access == 2 || access == 3
  if access = 5 then (if slot = owner then none else some vioNotOwner)
  else match mode with
    | 0 => if slot = owner then none else some vioNotOwner
    | 1 => if write then (if slot = owner then some vioReadOnly else some vioNotOwner) else none
    | _ => none

/-- Malformed requests of R85. -/
def pMalformed (p : Packet) : Bool :=
  decide (256 < pFpa p % 256 + pBytes p)
  || (match pOpc p with
      | 0x09 => decide (71 < bitsOf p.w3 0 7) || bitsOf p.w3 7 2 == 3
      | 0x05 => !(atomPair (pAop p) (pAtype p)) || pAop p == 7 || pBytes p != atomSize (pAtype p) || pFpa p % max 1 (atomSize (pAtype p)) != 0
      | 0x06 => !(atomPair (pAop p) (pAtype p)) || pAop p != 7 || pBytes p != atomSize (pAtype p) || pFpa p % max 1 (atomSize (pAtype p)) != 0
      | 0x07 => let z := accSize (pAop p); z == 0 || pFpa p % max 1 z != 0 || pBytes p % max 1 z != 0
      | _ => false)

/-- The slot a request comes from: SRC's low seven bits. -/
def pSlot (p : Packet) : Nat := pSrc p % 128

/-- The cause of a violation of a region by a request, the lowest that applies (R85). -/
def Block.violationOf (s : Block) (p : Packet) : Option Nat :=
  let c := s.ep
  let i := pRegion p
  if c.homeGranules ≤ i then some vioWindow
  else if pTenant p ≠ c.rgTenant i then some vioTenant
  else match modeBad (c.rgMode i) (c.rgOwner i) (pSlot p) (pAccess p) with
    | some x => some x
    | none =>
      if pOwn p ≠ c.rgMode i then some vioMode
      else if pCc p != c.rgCrew i || (pCc p && pSlot p / 8 != s.epSlot / 8) then some vioCrew
      else if pMalformed p then some vioMalformed
      else none

/-- The check of a RESULT (R443): OWN is the region's own MODE, CC counts as 0, the recipient is the home itself. -/
def Block.resultViolation (s : Block) (p : Packet) : Option Nat :=
  let c := s.ep
  let i := pRegion p
  if c.homeGranules ≤ i then some vioWindow
  else if pTenant p ≠ c.rgTenant i then some vioTenant
  else match modeBad (c.rgMode i) (c.rgOwner i) s.epSlot 1 with
    | some x => some x
    | none => if c.rgCrew i then some vioCrew else none

/-! ### Deduplication (R367, R368) -/

def dedupKey (p : Packet) : Nat := pSlot p * 16384 + pTag p

/-- The entry of a request that was applied or refused as a violation. -/
def dedupEntry (p : Packet) (stroke : Nat) (poison : Bool) (old : Nat) : BitVec 128 :=
  BitVec.ofNat 128 (packArg [(40, stroke), (16, pSeq p), (4, pEpoch p), (1, b2n (pOrd p)), (1, 1), (1, b2n poison), (1, 0), (64, old)])

/-- The stored response of a duplicate: poison and OLD. -/
def Block.duplicate? (s : Block) (p : Packet) : Option (Bool × Nat) :=
  let e := SMap.get (0 : BitVec 128) s.oe.dedup (dedupKey p)
  if bitsOf e 61 1 = 1 ∧ bitsOf e 40 16 = pSeq p ∧ bitsOf e 56 4 = pEpoch p ∧ bitsOf e 60 1 = b2n (pOrd p)
      ∧ (s.ep.stroke + 2 ^ 40 - bitsOf e 0 40) % 2 ^ 40 < s.ep.dedupLife
  then some (bitsOf e 62 1 == 1, bitsOf e 64 64) else none

def Common.dedupEn (c : Common) : Bool := c.bit (ob 0x9030 1) 0
def Common.dedupBase (c : Common) : Nat := c.fld (ob 0x9030 1) 25 27 * 2 ^ 25

/-- Enter a request into the table, on chip and in accelerator memory. -/
def Block.dedupWrite (s : Block) (p : Packet) (poison : Bool) (old : Nat) : Block :=
  if stateChanging p then
    let e := dedupEntry p s.ep.stroke poison old
    (s.modOe (fun o => { o with dedup := SMap.set (0 : BitVec 128) o.dedup (dedupKey p) e })).memPost (s.ep.dedupBase + 16 * dedupKey p) (leBytes 16 e.toNat)
  else s

/-! ### Answers -/

/-- Send a response packet to its requester: over a live plane, which the spec does not fix, or to the own issuer. -/
def Block.respond (s : Block) (dst : Nat) (p : Packet) : Block := (s.transmit dst (s.anyPlane dst) [p]).tick

/-- Send on RSP ordered channel 15 of the pair (06): SEQ counts on; a new pinned plane starts a new epoch. -/
def Block.respond15 (s : Block) (dst tenant : Nat) (p : Packet) : Block :=
  let c := s.chanOf dst 31 tenant
  let pin := s.pinnedPlane dst 31 tenant
  let c1 := if pin = c.plane then c else { c with plane := pin, epoch := (c.epoch + 1) % 16, seq := 0 }
  let q : Packet := { p with w0 := setBits (setBits (setBits p.w0 46 1 1) 47 4 15) 51 4 c1.epoch, w1 := setBits p.w1 14 16 c1.seq }
  (s.setChan { c1 with seq := (c1.seq + 1) % 2 ^ 16 }).transmit dst c1.plane [q]

/-- The header of a response to a request. -/
def Block.rspHdr (s : Block) (p : Packet) (opc : Nat) (long : Bool) (status : Nat) (poison : Bool) : Hdr :=
  { net := 1, long := long, opc := opc, src := s.epId, dst := pSrc p, tenant := pTenant p, poison := poison, nb := status }

/-- The answer to a request by its opcode (R115): RD_DATA, ACK, ATOMIC_RESP or LINE_DATA; EVICT_CLEAN and the collective packets have none. -/
def Block.answerReq (s : Block) (p : Packet) (status : Nat) (data : List Byte) (poison : Bool) (old grant : Nat) : Block :=
  match pOpc p with
  | 0x01 => s.respond (pSlot p) ((s.rspHdr p 0x10 true status poison).packet (rspWord (pTag p) 0 0 (pBytes p)) 0 0 (List.replicate (pFpa p % 256) 0 ++ data))
  | 0x05 | 0x06 => s.respond (pSlot p) ((s.rspHdr p 0x12 false status false).packet (rspWord (pTag p) 0 0 (pBytes p)) 0 old [])
  | 0x0A | 0x0B | 0x0C =>
    s.respond15 (pSlot p) (pTenant p) ((s.rspHdr p 0x13 true status poison).packet (rspWord (pTag p) 0 grant 128) (pFpa p) 0 data)
  | 0x0E | 0x22 | 0x23 => s
  | _ => s.respond (pSlot p) ((s.rspHdr p 0x11 false status false).packet (rspWord (pTag p) 0 0 1) 0 0 [])

def Block.dropOp (s : Block) (seq : Nat) : Block := s.modOe (fun o => { o with hops := eraseFirst (fun h => h.seq == seq) o.hops })
def Block.modOp (s : Block) (seq : Nat) (f : HomeOp → HomeOp) : Block :=
  s.modOe (fun o => { o with hops := replaceFirst (fun h => h.seq == seq) f o.hops })

/-- The access finished: its answer, its table entry, its arrival counter (R71, R72), its place in block order freed. -/
def Block.finishOp (s : Block) (h : HomeOp) (status : Nat) (data : List Byte) (poison : Bool) (old grant : Nat) : Block :=
  let s1 := (s.dropOp h.seq).dedupWrite h.p poison old
  let counts := pArrEn h.p && (pOpc h.p == 0x02 || pOpc h.p == 0x04 || pOpc h.p == 0x07)
  let s2 := if counts then s1.ctrSignal (pArrCtr h.p) (pTenant h.p) (pSrc h.p) (pBytes h.p) status else s1
  s2.answerReq h.p status data poison old grant

/-- Refuse an access silently (R85, R86). -/
def Block.refuseOp (s : Block) (h : HomeOp) (cause : Nat) : Block :=
  let src := if pOpc h.p = 0x22 then s.epId else pSrc h.p
  let s1 := s.modEp (fun c => c.violation (pTenant h.p) cause (pAccess h.p) src (pRegion h.p) (pRegion h.p) 11)
  ((s1.dropOp h.seq).dedupWrite h.p false 0).answerReq h.p stOk (List.replicate (if pOpc h.p = 1 then pBytes h.p else 128) 0) false 0 0

/-! ### Atomics and accumulating writes (R74, R102, R105, R191) -/

/-- The new value of an atomic. -/
def atomicNew (op typ old operand compare : Nat) : Nat :=
  let w := 8 * atomSize typ
  let old := old % 2 ^ w
  let b := operand % 2 ^ w
  let signed := typ == 2 || typ == 3
  let lt := fun x y => if signed then decide (toSigned w x < toSigned w y) else decide (x < y)
  match op with
  | 0 => (old + b) % 2 ^ w
  | 1 => if lt b old then b else old
  | 2 => if lt old b then b else old
  | 3 => Nat.land old b
  | 4 => Nat.lor old b
  | 5 => Nat.xor old b
  | 6 => b
  | 7 => if old = compare % 2 ^ w then b else old
  | 8 => addElem (if typ = 4 then 1 else 2) old b
  | _ => old

/-- Add a burst element by element into `n` bytes of the old block (R74, R191). -/
def accNew (fmt : Nat) (old burst : List Byte) : List Byte :=
  let z := max 1 (accSize fmt)
  ((List.range (old.length / z)).map (fun i =>
    let x := leAt old (z * i) z
    let y := leAt burst (z * i) z
    leBytes z (if fmt = 11 then (x + y) % 2 ^ 32 else addElem fmt x y))).flatten

/-! ### The directory (R82 to R84) -/

/-- A crew member of a slot. -/
def memberOf (slot : Nat) : Nat := slot % 8
def Block.memberSlot (s : Block) (m : Nat) : Nat := s.epSlot / 8 * 8 + m

def Block.dirEnt (s : Block) (line : Nat) : Option DirEnt := s.oe.dir.find? (fun d => d.line == line)
/-- Write an entry; an empty vector removes it. -/
def Block.setDir (s : Block) (line st vec : Nat) : Block :=
  let rest := s.oe.dir.filter (fun d => d.line != line)
  s.modOe (fun o => { o with dir := if vec = 0 then rest else rest ++ [⟨line, st, vec⟩] })

/-- The members of a vector. -/
def membersOf (vec : Nat) : List Nat := (List.range 8).filter (fun k => bitAt vec k)

/-- Lines an access touches. -/
def pLines (p : Packet) : List Nat :=
  let a := pOffset p / 128
  let b := (pOffset p + pBytes p - 1) / 128
  match pOpc p with
  | 0x0A | 0x0B | 0x0C | 0x0D | 0x0E => [a]
  | 0x04 => [pOffset p / 256 * 2, pOffset p / 256 * 2 + 1]
  | _ => if a = b then [a] else [a, b]

/-- The snoop packet of a line to a member (R112, R115). -/
def Block.snoopPacket (s : Block) (inv : Bool) (tag line member : Nat) : Packet :=
  ({ net := 1, long := false, opc := if inv then 0x14 else 0x15, src := s.epId, dst := s.slotId (s.memberSlot member),
     tenant := s.ep.rgTenant (line / 2 ^ 22) } : Hdr).packet (rspWord tag 0 0 128) (s.epSlot * 2 ^ 40 + line * 128) 0 []

/-- Send a snoop to one member. -/
def Block.snoop (s : Block) (op : Option Nat) (inv : Bool) (line member : Nat) : Block :=
  let tag := s.oe.snoopTag
  let sn : Snoop := ⟨tag, line, member, op, inv, s.ep.stroke, 0⟩
  (s.modOe (fun o => { o with snoops := o.snoops ++ [sn], snoopTag := (tag + 1) % 2 ^ 14 })).respond15
    (s.memberSlot member) (s.ep.rgTenant (line / 2 ^ 22)) (s.snoopPacket inv tag line member)

def Block.snoopAll (s : Block) (op : Option Nat) (inv : Bool) (line : Nat) (ms : List Nat) : Block :=
  ms.foldl (fun s m => s.snoop op inv line m) s

/-- The snoops that a request makes before it is served: for each line, whom, and whether to invalidate. -/
def Block.snoopsFor (s : Block) (p : Packet) : List (Bool × Nat × List Nat) :=
  let k := memberOf (pSlot p)
  (pLines p).filterMap (fun line =>
    match s.dirEnt line with
    | none => none
    | some d =>
      let others := (membersOf d.vec).filter (fun m => m != k)
      let want := match pOpc p with
        | 0x0A => if d.st = 1 then none else some (false, line, others)
        | 0x0B | 0x0C => some (true, line, others)
        | 0x0D | 0x0E => none
        | 0x01 => if d.st = 1 then none else some (false, line, membersOf d.vec)
        | _ => some (true, line, membersOf d.vec)
      match want with
      | some (i, l, ms) => if ms.isEmpty then none else some (i, l, ms)
      | none => none)

/-- Does a request need a new directory entry in a full set (R83)? The set is the low 16 bits of the line number; misses whose read is out will have an entry each. -/
def Block.dirFull (s : Block) (p : Packet) : Bool :=
  let line := pOffset p / 128
  let coherent := fun (p : Packet) => pOpc p == 0x0A || pOpc p == 0x0B || pOpc p == 0x0C
  let coming := ((s.oe.hops.filter (fun h => (match h.phase with
    | .reading _ => true
    | _ => false) && coherent h.p && pOffset h.p / 128 % 2 ^ 16 == line % 2 ^ 16 && (s.dirEnt (pOffset h.p / 128)).isNone)).map (fun h => pOffset h.p / 128)).eraseDups
  coherent p && (s.dirEnt line).isNone
    && decide (16 ≤ (s.oe.dir.filter (fun d => d.line % 2 ^ 16 == line % 2 ^ 16)).length + coming.length)

/-- Recall a victim of a full set: a free choice among its entries that no snoop is out for. -/
def Block.recall (s : Block) (h : HomeOp) : Block :=
  let set := s.oe.dir.filter (fun d => d.line % 2 ^ 16 == pOffset h.p / 128 % 2 ^ 16 && !(s.oe.snoops.any (fun x => x.line == d.line)))
  match set[(Config.victim s.free) % max 1 set.length]? with
  | some v => ((s.snoopAll (some h.seq) true v.line (membersOf v.vec)).modEp (fun c => c.count (ob 0xB11A 1) 0 64 1)).tick
  | none => s

/-- The directory after an access was served, and the grant of a coherent request (the table of R82). -/
def Block.dirAfter (s : Block) (p : Packet) : Block × Nat :=
  let k := memberOf (pSlot p)
  let line := pOffset p / 128
  match pOpc p with
  | 0x0A =>
    match s.dirEnt line with
    | none => (s.setDir line 2 (2 ^ k), 1)
    | some d =>
      if bitAt d.vec k then (s, d.st - 1)
      else (s.setDir line 1 (d.vec + 2 ^ k), 0)
  | 0x0B | 0x0C => (s.setDir line 3 (2 ^ k), 2)
  | 0x0D => (match s.dirEnt line with
      | some d => if d.st ≠ 1 ∧ bitAt d.vec k then s.setDir line 0 0 else s
      | none => s, 0)
  | 0x0E => (match s.dirEnt line with
      | some d => if d.st ≠ 3 ∧ bitAt d.vec k then s.setDir line 1 (d.vec - 2 ^ k) else s
      | none => s, 0)
  | 0x01 => (s, 0)
  | _ => ((pLines p).foldl (fun s l => s.setDir l 0 0) s, 0)

/-! ### Serving an access -/

/-- Begin the memory part of an access whose checks and snoops are done. Two requests have no row in the table of R82: a WRITEBACK from a member that does not hold the line in E or M is dropped and answered OK, and a clean eviction of a line in M is ignored (DESIGN CHOICE, log). -/
def Block.access (s : Block) (h : HomeOp) : Block :=
  let p := h.p
  let apa := s.ep.homeBase + pOffset p
  let block := s.ep.homeBase + pBlock p * 256
  let write := fun (s : Block) (mask : BitVec 256) (data : List Byte) (poison : Bool) =>
    let w := s.memWrite block mask data poison
    w.1.modOp h.seq (fun x => { x with phase := .writing w.2 0 poison })
  match pOpc p with
  | 0x01 => let r := s.memRead apa (pBytes p); r.1.modOp h.seq (fun x => { x with phase := .reading r.2 })
  | 0x0A | 0x0B | 0x0C => let r := s.memRead (apa / 128 * 128) 128; r.1.modOp h.seq (fun x => { x with phase := .reading r.2 })
  | 0x05 | 0x06 | 0x07 => let r := s.memRead block 256; r.1.modOp h.seq (fun x => { x with phase := .reading r.2 })
  | 0x02 | 0x22 => write s (byteMask (pOffset p % 256) (pBytes p)) p.payload (pPoison p)
  | 0x04 => write s (BitVec.ofNat 256 (leAt (h.mask.getD []) 0 32)) p.payload (pPoison p)
  | 0x0D =>
    (match s.dirEnt (pOffset p / 128) with
     | some d =>
       if d.st ≠ 1 ∧ bitAt d.vec (memberOf (pSlot p)) then
         write s (byteMask (pOffset p / 128 % 2 * 128) 128) (List.replicate (pOffset p / 128 % 2 * 128) 0 ++ slice p.payload 0 128) (pPoison p)
       else s.finishOp h stOk [] false 0 0
     | none => s.finishOp h stOk [] false 0 0)
  | 0x0E => (s.dirAfter p).1.finishOp h stOk [] false 0 0
  | _ => s

/-- A COMPLETE takes effect once the result bytes before it are applied (R75, R239): one for each switch and launch (R370); its BYTES go to the launch's own counter, none when it tells of a missing program (R41). -/
def Block.applyComplete (s : Block) (p : Packet) : Block :=
  let plane := pSrc p % 16
  match s.oe.launches.find? (fun l => l.ctx == cCtx p) with
  | none => s
  | some l =>
    if l.completed.any (fun c => c.1 == plane) || !(l.planes.contains plane) then s
    else
      let upd := fun (x : MLaunch) => { x with completed := x.completed ++ [(plane, pStatus p, cDetail p)] }
      let s1 := s.modOe (fun o => { o with launches := replaceFirst (fun x => x.ctx == l.ctx) upd o.launches })
      if l.rcEn && pStatus p != stDescriptor then s1.ctrSignal l.rctr l.cfg.tenant s.epId (cBytes p) (pStatus p) else s1

/-- Start an access in its turn: its duplicate (R368), its violation (R85), its snoops (R83), else its memory access. -/
def Block.startOp (s : Block) (h : HomeOp) : Block :=
  let dup := if stateChanging h.p then s.duplicate? h.p else none
  match dup with
  | some d => ((s.dropOp h.seq).modEp (fun c => c.count (ob 0x9031 2) 0 64 1)).answerReq h.p (if d.1 then stPoison else stOk) [] false d.2 0
  | none =>
    if pOpc h.p = 0x23 then (s.dropOp h.seq).applyComplete h.p
    else if pOpc h.p = 0x08 then
      ((s.ctrAdd (pArrCtr h.p) (pTenant h.p) (pSrc h.p) (bitsOf h.p.w3 0 32)).finishOp h stOk [] false 0 0)
    else
      match if pOpc h.p = 0x22 then s.resultViolation h.p else s.violationOf h.p with
      | some cause => s.refuseOp h cause
      | none =>
        let sn := if pCc h.p && pOpc h.p != 0x22 then s.snoopsFor h.p else []
        if !sn.isEmpty then
          (sn.foldl (fun s x => s.snoopAll (some h.seq) x.1 x.2.1 x.2.2) s).modOp h.seq (fun x => { x with phase := .snooping })
        else if s.dirFull h.p then (s.recall h).modOp h.seq (fun x => { x with phase := .snooping })
        else s.access h

/-- Is a block's line waiting for a snoop or a write-back that another access ordered? -/
def Block.lineBusy (s : Block) (h : HomeOp) : Bool :=
  s.oe.snoops.any (fun x => x.line / 2 == pBlock h.p && x.op != some h.seq)
  || s.oe.wbs.any (fun x => x.2.2 == pBlock h.p && x.2.1 != some h.seq)

/-- Two requests on one ordered channel (R67). -/
def sameChan (a b : Packet) : Bool := pOrd a && pOrd b && pSrc a == pSrc b && pCh a == pCh b && pTenant a == pTenant b

/-- Requests that name no block: counter adds, and a COMPLETE. -/
def noBlock (p : Packet) : Bool := pOpc p == 0x08 || pOpc p == 0x23

/-- Must an access wait for an earlier one (R62, R67, R75, R79)? -/
def waitsFor (h e : HomeOp) : Bool :=
  (!noBlock h.p && !noBlock e.p && pBlock h.p == pBlock e.p)
  || (pOpc h.p != 0x22 && pOpc e.p != 0x22 && sameChan h.p e.p)
  || (pOpc e.p == 0x09 && !noBlock h.p && pRegion h.p == pRegion e.p)
  || (pOpc h.p == 0x23 && (pOpc e.p == 0x22 || pOpc e.p == 0x23) && pSrc e.p == pSrc h.p)

/-- May an access start now? -/
def Block.mayStart (s : Block) (h : HomeOp) : Bool :=
  h.phase == .queued && pOpc h.p != 0x09
    && !((s.oe.hops.takeWhile (fun e => e.seq != h.seq)).any (fun e => waitsFor h e))
    && !(s.lineBusy h)

/-- An access that waited for snoops goes on when its snoops and write-backs are over. -/
def Block.snoopsDone (s : Block) (h : HomeOp) : Bool :=
  h.phase == .snooping && !(s.oe.snoops.any (fun x => x.op == some h.seq)) && !(s.oe.wbs.any (fun x => x.2.1 == some h.seq))

/-- Let every access at the home go on that can, oldest first. -/
def Block.homePump (s : Block) : Block :=
  (s.oe.hops.map (fun h => h.seq)).foldl (fun s q =>
    match s.oe.hops.find? (fun h => h.seq == q) with
    | none => s
    | some h =>
      if s.mayStart h then s.startOp h
      else if s.snoopsDone h then
        (if !(s.snoopsFor h.p).isEmpty then s.startOp { h with phase := .queued }
         else if s.dirFull h.p then s.recall h else s.access h)
      else s) s

/-! ### Arrival, sequence and epochs (R68, R123, R369) -/

/-- Take a request into block order: refused while the table is off (R368). A handoff shows PENDING, and stands before handoffs of the same CCLK and region from a higher endpoint ID (R81). -/
def Block.accept (s : Block) (h : HomeOp) : Block :=
  if stateChanging h.p && !s.ep.dedupEn then
    (s.modEp (fun c => c.count (ob 0x9031 4) 0 32 1)).answerReq h.p stAborted [] false 0 0
  else
    let h1 := { h with seq := s.oe.arrivals, at_ := s.ep.stroke }
    let later := fun (e : HomeOp) => pOpc h.p == 9 && pOpc e.p == 9 && pRegion e.p == pRegion h.p && e.at_ == h1.at_ && decide (pSrc h.p < pSrc e.p)
    let hops := s.oe.hops.takeWhile (fun e => !later e) ++ h1 :: s.oe.hops.dropWhile (fun e => !later e)
    let s1 := s.modOe (fun o => { o with hops := hops, arrivals := o.arrivals + 1 })
    if pOpc h.p = 9 ∧ pRegion h.p < s.ep.homeGranules then s1.modEp (fun c => c.setBit (regionKey (pRegion h.p)) 5 true) else s1

def hchanOf (p : Packet) (c : HChan) : Bool := c.src == pSrc p && c.ch == pCh p && c.tenant == pTenant p

/-- Write a channel's epoch and expected number. -/
def Block.setHChan (s : Block) (p : Packet) (epoch expect : Nat) : Block :=
  let c : HChan := ⟨pSrc p, pCh p, pTenant p, epoch, expect⟩
  s.modOe (fun o => { o with hchans := if o.hchans.any (hchanOf p) then replaceFirst (hchanOf p) (fun _ => c) o.hchans else o.hchans ++ [c] })

/-- Admit the held requests of a channel that are next in sequence. -/
def Block.release (s : Block) (p : Packet) : Nat → Block
  | 0 => s
  | k + 1 =>
    match s.oe.hchans.find? (hchanOf p) with
    | none => s
    | some c =>
      match s.oe.reorder.find? (fun h => sameChan h.p p && pEpoch h.p == c.epoch && pSeq h.p == c.expect) with
      | none => s
      | some h =>
        (((s.modOe (fun o => { o with reorder := eraseFirst (fun x => x == h) o.reorder })).setHChan p c.epoch ((c.expect + 1) % 2 ^ 16)).accept h).release p k

/-- A request in its channel's sequence (R68, R123). -/
def Block.sequence (s : Block) (h : HomeOp) : Block :=
  let p := h.p
  if !pOrd p then s.accept h
  else
    let start := fun (s : Block) =>
      (((s.modOe (fun o => { o with reorder := o.reorder.filter (fun x => !(sameChan x.p p)) })).setHChan p (pEpoch p) 1).accept h).release p 512
    match s.oe.hchans.find? (hchanOf p) with
    | none => if pSeq p = 0 then start s else s
    | some c =>
      if pEpoch p ≠ c.epoch then (if pSeq p = 0 then start s else s)
      else
        let d := cntDiff (pSeq p) c.expect
        if d = 0 then ((s.setHChan p c.epoch ((c.expect + 1) % 2 ^ 16)).accept h).release p 512
        else if 2 ^ 15 ≤ d then s.accept h
        else
          let same := fun (x : HomeOp) => sameChan x.p p && pSeq x.p == pSeq p
          if s.oe.reorder.any same then s.modOe (fun o => { o with reorder := replaceFirst same (fun _ => h) o.reorder })
          else if 512 ≤ s.oe.reorder.length then
            s.modEp (fun c => (c.count (ob 0xB119 2) 0 32 1).log 0x7012 .corrected 0xFF (packArg [(13, pSrc p), (4, pCh p)]))
          else s.modOe (fun o => { o with reorder := o.reorder ++ [h] })

/-- Forget the channels of sources for which no plane is live at the home (R123). -/
def Block.forgetChans (s : Block) : Block :=
  let dead := fun (src : Nat) => src % 128 != s.epSlot && (s.ep.liveFor (src % 128)).isEmpty
  s.modOe (fun o => { o with hchans := o.hchans.filter (fun c => !dead c.src), reorder := o.reorder.filter (fun h => !dead (pSrc h.p)) })

/-- Take a delivered packet out of where its link, or the own issuer, left it. -/
def Block.takeIn (s : Block) (via : Via) (p : Packet) : Block :=
  match via with
  | .plane k => s.modEp (fun c => c.takeRx k.toNat p)
  | .selfServed => s.modOe (fun o => { o with selfq := eraseFirst (fun x => x == p) o.selfq })

/-- A packet of an opcode at the endpoint: nothing in reset, nothing when it is of another; one that fails checks 1 and 2 of R132 is refused, what the endpoint serves itself came over no link. -/
def Block.atEp (s : Block) (opc : Nat) (via : Via) (p : Packet) (f : Block → Block) : Block :=
  if s.ep.inReset || pOpc p != opc then s
  else match via with
    | .plane k => if classBad p (linkNets .oe36 k.toNat) then s.modEp (fun c => c.refuseHere k.toNat p) else f s
    | .selfServed => f s

/-- A request is taken in: state-changing intake waits while the table's region is cleared (R368). -/
def Block.letIn (s : Block) (h : HomeOp) : Block :=
  if s.oe.clearing && stateChanging h.p then s.modOe (fun o => { o with intake := o.intake ++ [h] })
  else (s.sequence h).homePump

/-- Place of a way in among those of one CCLK (R62): by plane, what is served locally last. -/
def viaRank : Via → Nat
  | .plane k => k.toNat
  | .selfServed => 16

/-- A request arrives at the home. Those of one CCLK come in ascending plane order (R62): one that comes out of it arrives in the next CCLK. -/
def Block.arrive (s : Block) (via : Via) (p : Packet) (mask : Option (List Byte)) : Block :=
  let h : HomeOp := ⟨0, s.ep.stroke, via, p, mask, .queued⟩
  if s.oe.lastVia.1 = s.ep.stroke ∧ viaRank via < s.oe.lastVia.2 then s.modOe (fun o => { o with late := o.late ++ [h] })
  else (s.modOe (fun o => { o with lastVia := (s.ep.stroke, viaRank via) })).letIn h

/-- A CCLK begins: the requests that came out of order in the last one arrive, by plane. -/
def Block.takeLate (s : Block) : Block :=
  if s.ep.inReset || s.oe.late.isEmpty then s
  else
    let l := (List.range 17).flatMap (fun k => s.oe.late.filter (fun h => viaRank h.via == k))
    l.foldl (fun s h => s.letIn { h with at_ := s.ep.stroke })
      (s.modOe (fun o => { o with late := [], lastVia := (s.ep.stroke, (l.getLast?.map (fun h => viaRank h.via)).getD 0) }))

/-- A request command. -/
def Block.homeReq (s : Block) (opc : Nat) (via : Via) (p : Packet) : Block := s.atEp opc via p (fun s => (s.takeIn via p).arrive via p none)

def execRd (via : Via) (p : Packet) (s : State) : Host.Outcome State Fault Refusal :=
  s.act fun s => (s.homeReq 0x01 via p)
def execWr (via : Via) (p : Packet) (s : State) : Host.Outcome State Fault Refusal :=
  s.act fun s => (s.homeReq 0x02 via p)

/-- Do two packets carry one request (one source, tag and identity)? -/
def sameRequest (a b : Packet) : Bool :=
  pSrc a == pSrc b && pTag a == pTag b && pOrd a == pOrd b && pEpoch a == pEpoch b && pSeq a == pSeq b

/-- WRM_MASK: the mask half waits for its data half (R112). -/
def execWrmMask (via : Via) (p : Packet) (s : State) : Host.Outcome State Fault Refusal :=
  s.act fun s => (s.atEp 0x03 via p (fun s =>
    (s.takeIn via p).modOe (fun o => { o with masks := o.masks.filter (fun m => !(pSrc m == pSrc p && pTag m == pTag p)) ++ [p] })))

/-- WRM_DATA: with its mask it is one request. -/
def execWrmData (via : Via) (p : Packet) (s : State) : Host.Outcome State Fault Refusal :=
  s.act fun s => (s.atEp 0x04 via p (fun s =>
    match s.oe.masks.find? (fun m => sameRequest m p) with
        | none => s.takeIn via p
        | some m => (((s.takeIn via p).modOe (fun o => { o with masks := eraseFirst (fun x => x == m) o.masks })).arrive via p (some (slice m.payload 0 32)))))

def execAtomic (via : Via) (p : Packet) (s : State) : Host.Outcome State Fault Refusal :=
  s.act fun s => (s.homeReq 0x05 via p)
def execAtomicCas (via : Via) (p : Packet) (s : State) : Host.Outcome State Fault Refusal :=
  s.act fun s => (s.homeReq 0x06 via p)
def execAccWr (via : Via) (p : Packet) (s : State) : Host.Outcome State Fault Refusal :=
  s.act fun s => (s.homeReq 0x07 via p)
def execCtrAdd (via : Via) (p : Packet) (s : State) : Host.Outcome State Fault Refusal :=
  s.act fun s => (s.homeReq 0x08 via p)
def execHandoff (via : Via) (p : Packet) (s : State) : Host.Outcome State Fault Refusal :=
  s.act fun s => (s.homeReq 0x09 via p)
def execRdShared (via : Via) (p : Packet) (s : State) : Host.Outcome State Fault Refusal :=
  s.act fun s => (s.homeReq 0x0A via p)
def execRdOwn (via : Via) (p : Packet) (s : State) : Host.Outcome State Fault Refusal :=
  s.act fun s => (s.homeReq 0x0B via p)
def execUpgrade (via : Via) (p : Packet) (s : State) : Host.Outcome State Fault Refusal :=
  s.act fun s => (s.homeReq 0x0C via p)
def execWriteback (via : Via) (p : Packet) (s : State) : Host.Outcome State Fault Refusal :=
  s.act fun s => (s.homeReq 0x0D via p)
def execEvictClean (via : Via) (p : Packet) (s : State) : Host.Outcome State Fault Refusal :=
  s.act fun s => (s.homeReq 0x0E via p)

/-- DEDUP_CLEAR_DONE: the intake that waited is applied in arrival order (R368). -/
def execDedupClearDone (s : State) : Host.Outcome State Fault Refusal :=
  s.act fun s =>
    (if s.oe.clearing && !s.ep.inReset then
        let q := s.oe.intake
        (q.foldl (fun s h => s.sequence h) (s.modOe (fun o => { o with clearing := false, intake := [] }))).homePump
      else s)

/-! ### Handoffs (R79 to R81) -/

/-- HANDOFF_APPLY: the oldest handoff of the region, once every earlier access to the region is applied. It acts in a later CCLK than that in which the handoff came, when every handoff of that CCLK has its place (R81), and after a catch that is due (R77). An access that waits in the reorder store has not arrived in the sense of R79: it has no place in block order yet (DESIGN CHOICE, log). -/
def execHandoffApply (region : BitVec 11) (s : State) : Host.Outcome State Fault Refusal :=
  s.act fun s =>
    let i := region.toNat
    (match s.oe.hops.find? (fun h => pOpc h.p == 0x09 && pRegion h.p == i) with
      | none => s
      | some h =>
        let before := s.oe.hops.takeWhile (fun e => e.seq != h.seq)
        if h.at_ = s.ep.stroke || s.ep.catchDue || before.any (fun e => (!noBlock e.p && pRegion e.p == i) || sameChan e.p h.p) then s
        else
          let more := (s.oe.hops.filter (fun e => pOpc e.p == 0x09 && pRegion e.p == i)).length
          let s0 := if more = 1 ∧ i < s.ep.homeGranules then s.modEp (fun c => c.setBit (regionKey i) 5 false) else s
          let s1 := match s0.duplicate? h.p with
            | some d => ((s0.dropOp h.seq).modEp (fun c => c.count (ob 0x9031 2) 0 64 1)).answerReq h.p (if d.1 then stPoison else stOk) [] false d.2 0
            | none =>
              match s0.violationOf h.p with
              | some cause => s0.refuseOp h cause
              | none =>
                (s0.modEp (fun c => ((c.setFld (regionKey i) 9 7 (bitsOf h.p.w3 0 7)).setFld (regionKey i) 7 2 (bitsOf h.p.w3 7 2)).setFld (regionKey i) 24 8
                  (c.fld (regionKey i) 24 8 + 1))).finishOp h stOk [] false 0 0
          s1.homePump)

/-! ### Accelerator memory answers (R63, R105) -/

/-- The data of a home read came back. -/
def Block.homeRead (s : Block) (h : HomeOp) (data : List Byte) (poison : Bool) : Block :=
  let p := h.p
  let block := s.ep.homeBase + pBlock p * 256
  match pOpc p with
  | 0x01 => s.finishOp h (if poison then stPoison else stOk) data poison 0 0
  | 0x0A | 0x0B | 0x0C =>
    let d := s.dirAfter p
    d.1.finishOp h (if poison then stPoison else stOk) data poison 0 d.2
  | 0x07 =>
    let off := pOffset p % 256
    let sum := accNew (pAop p) (slice data off (pBytes p)) (slice p.payload off (pBytes p))
    let bad := poison || pPoison p
    let w := s.memWrite block (byteMask off (pBytes p)) (List.replicate off 0 ++ sum) bad
    w.1.modOp h.seq (fun x => { x with phase := .writing w.2 0 bad })
  | _ =>
    if poison then ((s.dirAfter p).1.finishOp h stPoison [] true 0 0)
    else
      let off := pOffset p % 256
      let z := atomSize (pAtype p)
      let old := leAt data off z
      let new := atomicNew (pAop p) (pAtype p) old p.w3.toNat (leAt p.payload 0 8)
      let w := s.memWrite block (byteMask off z) (List.replicate off 0 ++ leBytes z new) false
      w.1.modOp h.seq (fun x => { x with phase := .writing w.2 (BitVec.ofNat 64 old) false })

/-- MEM_RD_RESPONSE: data for a descriptor fetch or a home access; an error answer outside a walk counts as data poison. The words of a descriptor fetch that comes back in error or poisoned are used as they came: the spec names no outcome (DESIGN CHOICE, log). -/
def execMemRdResponse (id : BitVec 32) (data : List Byte) (st : MemStatus) (inj : Bool) (s : State) : Host.Outcome State Fault Refusal :=
  s.act fun s =>
    let known := s.oe.memRds.any (fun m => m.1 == id.toNat) || s.oe.hops.any (fun h => h.phase == .reading id.toNat)
    let block := ((s.oe.hops.find? (fun h => h.phase == .reading id.toNat)).map (fun h => pBlock h.p)).getD (2 ^ 32)
    (if s.ep.inReset || !known then s
      else if !s.ep.detects 0x71 32 block inj then s.modEp (fun c => c.undetected 0x71 32 block inj)
      else
        let s0 := if inj then s.modEp (fun c => c.injected 0x71) else s
        match s.oe.memRds.find? (fun m => m.1 == id.toNat) with
        | some m =>
          let s1 := s0.modOe (fun o => { o with memRds := eraseFirst (fun x => x == m) o.memRds })
          (match m.2 with
           | some qn => s1.fetched qn.1 qn.2 data
           | none => s1)
        | none =>
          match s.oe.hops.find? (fun h => h.phase == .reading id.toNat) with
          | some h => (s0.homeRead h data (inj || st != .ok)).homePump
          | none => s0)

/-- MEM_WR_ACK: the accelerator acknowledged a write: the access is applied (R66). -/
def execMemWrAck (id : BitVec 32) (s : State) : Host.Outcome State Fault Refusal :=
  s.act fun s =>
    (if s.ep.inReset then s
      else match s.oe.hops.find? (fun h => match h.phase with
          | .writing i _ _ => i == id.toNat
          | _ => false) with
      | some h =>
        let r := match h.phase with
          | .writing _ old poison => (old.toNat, poison)
          | _ => (0, false)
        let s1 := if pOpc h.p = 0x22 then s else if pCc h.p then (s.dirAfter h.p).1 else s
        (s1.finishOp h (if r.2 then stPoison else stOk) [] r.2 r.1 0).homePump
      | none => (s.modOe (fun o => { o with wbs := o.wbs.filter (fun x => x.1 != id.toNat) })).homePump)

/-! ### Snoop replies (R82 to R84) -/

/-- Take a reply of a member for its snoop: invalidated, the member leaves the vector; shared, the line is S. -/
def Block.snoopReplied (s : Block) (sn : Snoop) : Block :=
  let s1 := s.modOe (fun o => { o with snoops := eraseFirst (fun x => x == sn) o.snoops })
  match s1.dirEnt sn.line with
  | none => s1
  | some d => if sn.inv then s1.setDir sn.line d.st (if bitAt d.vec sn.member then d.vec - 2 ^ sn.member else d.vec) else s1.setDir sn.line 1 d.vec

/-- Write dirty data of a line back to memory. -/
def Block.writeDirty (s : Block) (sn : Snoop) (data : List Byte) (poison : Bool) : Block :=
  let off := sn.line % 2 * 128
  let w := s.memWrite (s.ep.homeBase + sn.line / 2 * 256) (byteMask off 128) (List.replicate off 0 ++ slice data 0 128) poison
  w.1.modOe (fun o => { o with wbs := o.wbs ++ [(w.2, sn.op, sn.line / 2)] })

/-- A snoop reply packet. -/
def Block.snoopReply (s : Block) (opc : Nat) (via : Via) (p : Packet) : Block :=
  s.atEp opc via p fun s =>
    let s0 := s.takeIn via p
    match s0.oe.snoops.find? (fun x => x.tag == pTag p && x.member == memberOf (pSlot p)) with
    | none => s0
    | some sn =>
      let s1 := if opc = 0x17 then s0.writeDirty sn p.payload (pPoison p) else s0
      (s1.snoopReplied sn).homePump

def execSnoopAck (via : Via) (p : Packet) (s : State) : Host.Outcome State Fault Refusal :=
  s.act fun s => (s.snoopReply 0x16 via p)
def execSnoopData (via : Via) (p : Packet) (s : State) : Host.Outcome State Fault Refusal :=
  s.act fun s => (s.snoopReply 0x17 via p)

/-- SNOOP_TIMEOUT (R84): after the end-to-end timeout the snoop is sent again, and after its retries the home goes on without the reply. -/
def execSnoopTimeout (line : BitVec 33) (member : BitVec 3) (inj : Bool) (s : State) : Host.Outcome State Fault Refusal :=
  s.act fun s =>
    (match s.oe.snoops.find? (fun x => x.line == line.toNat && x.member == member.toNat) with
      | none => s
      | some sn =>
        if s.ep.inReset then s
        else if !s.ep.detects 0x70 8 member.toNat inj then s.modEp (fun c => c.undetected 0x70 8 member.toNat inj)
        else if !inj && decide (s.ep.since sn.sentAt < s.ep.e2eTimeout) then s
        else if !inj && decide (sn.tries < s.ep.retryMax) then
          (s.modOe (fun o => { o with snoops := replaceFirst (fun x => x == sn) (fun x => { x with tries := x.tries + 1, sentAt := s.ep.stroke }) o.snoops })).respond15
            (s.memberSlot sn.member) (s.ep.rgTenant (sn.line / 2 ^ 22)) (s.snoopPacket sn.inv sn.tag sn.line sn.member)
        else
          let s0 := if inj then s.modEp (fun c => c.injected 0x70) else s
          let dirty := match s0.dirEnt sn.line with
            | some d => d.st != 1
            | none => false
          let s1 := if dirty then
              let w := s0.memWrite (s0.ep.homeBase + sn.line / 2 * 256) 0 (List.replicate 256 0) true
              w.1.modOe (fun o => { o with wbs := o.wbs ++ [(w.2, sn.op, sn.line / 2)] })
            else s0
          let s2 := s1.snoopReplied { sn with inv := true }
          let s3 := s2.modOe (fun o => { o with snoops := eraseFirst (fun x => x == sn) o.snoops })
          (s3.modEp (fun c => (c.count (ob 0xB11A 2) 0 32 1).log 0x7011 .uncorrected 0xFF (packArg [(3, sn.member), (33, sn.line)]))).homePump)

end Sys2Proof.Machine
end

