-- ==== Sys2Proof/Machine/Records.lean ====
section
/-!
DEFINITION. Descriptors that read a record of their source before their last checks: the list of an ATOMIC_BATCH (05, R102), the extension record of a COLLECTIVE_LAUNCH (10, R223, R224), the header of a sealed blob (15, R351).
-/
namespace Sys2Proof.Machine

/-! ### Bytes that have come back -/

/-- The byte at a position of what a run has read, zero where it has none. -/
def Run.byteAt (r : Run) (pos : Nat) : Byte := ((r.source pos).map (fun x => x.1)).getD 0
def Run.bytesAt (r : Run) (pos len : Nat) : List Byte := (List.range len).map (fun i => r.byteAt (pos + i))
/-- Has every byte of a range come, or come without data? -/
def Run.hasBytes (r : Run) (pos len : Nat) : Bool := (List.range len).all (fun i => (r.source (pos + i)).isSome)
def Run.anyLost (r : Run) (pos len : Nat) : Bool := (List.range len).any (fun i => match r.source (pos + i) with
  | some x => x.2.1
  | none => false)
def Run.anyPoison (r : Run) (pos len : Nat) : Bool := (List.range len).any (fun i => match r.source (pos + i) with
  | some x => x.2.2
  | none => false)

/-- Complete an issued descriptor with DESCRIPTOR_ERROR before it has moved anything. -/
def Block.runError (s : Block) (r : Run) (detail : Nat) : Block := (s.completeDesc r.q r.n r.words stDescriptor detail r.retries).headPump r.q 9

/-- The record has passed its checks: the rest is translated. -/
def Block.recordPassed (s : Block) (r : Run) (gs : List (Bool × Nat × Nat × Nat)) (f : Run → Run) : Block :=
  (s.modRun r.q r.n (fun x => { f x with stage := 2, grans := x.grans ++ gs, pieces := [] })).runTranslate r.q r.n 80

/-! ### ATOMIC_BATCH (R102) -/

/-- The list has been read: its reserved fields, the granules of its targets, its operation and alignment, in DETAIL order; then the result area and the targets are translated, each in ascending order (R58). -/
def Block.batchRead (s : Block) (r : Run) (list : List Byte) : Block :=
  let ws := r.words
  let cnt := bitsOf (dw ws 0) 27 8 + 1
  let typ := bitsOf (dw ws 0) 39 3
  let tgt := fun i => leAt list (32 * i) 8 % 2 ^ 52
  let tg := (((List.range cnt).map (fun i => tgt i / 2 ^ 29)).eraseDups).foldl insertAsc []
  if (List.range cnt).any (fun i => leAt list (32 * i) 8 / 2 ^ 52 != 0 || leAt list (32 * i + 24) 8 != 0) then s.runError r 1
  else if 8 < tg.length then s.runError r 5
  else if !atomPair (bitsOf (dw ws 0) 35 4) typ || (List.range cnt).any (fun i => tgt i % max 1 (atomSize typ) != 0) then s.runError r 0x0A
  else
    let tgr := tg.map (fun g =>
      (true, ((List.range cnt).map tgt).foldl (fun m a => if a / 2 ^ 29 = g then min m a else m) (2 ^ 52), 2, accessRights 2))
    s.recordPassed r ((if bitsOf (dw ws 0) 42 1 == 1 then sideGranules true 1 (batchArea ws) else []) ++ tgr) (fun r => { r with list := list })

/-! ### COLLECTIVE_LAUNCH (R222 to R224) -/

/-- Eight bytes of the extension record: an FVA. -/
def extFva (ext : List Byte) (i : Nat) : Nat := leAt ext (8 * i) 8

/-- Reserved bits of an extension record. -/
def extBad (ext : List Byte) : Bool :=
  (List.range 5).any (fun i => decide (2 ^ 52 ≤ extFva ext i)) || leAt ext 40 24 != 0

/-- A buffer of a launch: its number, side, access, FVA and length. -/
structure Buf where
  id : Nat
  side : Bool
  access : Nat
  fva : Nat
  len : Nat
deriving DecidableEq, Repr

/-- Scale bytes of `e` elements that stand in pieces of `len`: one for each block of a piece (R176, R177). -/
def scaleBytes (code : Nat) (scaled : Bool) (e len : Nat) : Nat :=
  if hasScale code scaled then e / max 1 len * ((len + 31) / 32) else 0

/-- The extension record as a buffer: buffer 0. -/
def extBuf (ws : List (BitVec 64)) : Buf := ⟨0, false, 0, bitsOf (dw ws 7) 0 52, 128⟩

/-- The buffers that a launch uses, the sources before the destinations (R58, R59), those of no length left out. Of those that the record names only once it is read. -/
def launchBufs (cfg : Cfg) (k : Nat) (ws : List (BitVec 64)) (ext : Option (List Byte)) : List Buf :=
  let n := grpN cfg.grp
  let ce := cfg.contribOf k
  let re := cfg.resultOf k
  let v := if cfg.op = opAllToAllV then 4 * n else 0
  let x := ext.getD []
  let named : Buf → List Buf := fun b => if ext.isSome then [b] else []
  (([⟨1, false, 0, bitsOf (dw ws 4) 0 52, (ce * codeWidth cfg.inFmt + 7) / 8⟩] : List Buf)
   ++ named ⟨3, false, 0, extFva x 0, scaleBytes cfg.inFmt cfg.inScaled ce cfg.count⟩
   ++ named ⟨5, false, 0, extFva x 2, if cfg.op = opUpdateGather ∧ k % grpPerRack cfg.grp = 0 ∧ extFva x 2 ≠ 0 then (cfg.count * codeWidth cfg.outFmt + 7) / 8 else 0⟩
   ++ named ⟨6, false, 0, extFva x 3, v⟩
   ++ ([⟨2, true, 1, bitsOf (dw ws 5) 0 52, (re * codeWidth cfg.outFmt + 7) / 8⟩] : List Buf)
   ++ named ⟨4, true, 1, extFva x 1, scaleBytes cfg.outFmt cfg.outScaled re cfg.resPieceLen⟩
   ++ named ⟨7, true, 1, extFva x 4, v⟩).filter (fun b => b.len != 0)

def Buf.range (b : Buf) : Int × Int := (b.fva, (b.fva : Int) + ((b.len - 1 : Nat) : Int))

/-- The member index that a launch descriptor stands for. -/
def Block.memberOf (s : Block) (cfg : Cfg) (ws : List (BitVec 64)) : Nat :=
  if bitsOf (dw ws 0) 39 1 = 1 then bitsOf (dw ws 0) 40 13 else (grpIndexOf cfg.grp s.epId).getD 0

/-- The checks of R224, in DETAIL order: the lowest that fails. Those that need the extension record are made once it is read. -/
def Block.launchCheck (s : Block) (cfg : Cfg) (tenant : Nat) (ws : List (BitVec 64)) (ext : Option (List Byte)) : Option Nat :=
  let ctx := bitsOf (dw ws 0) 27 12
  let backup := bitsOf (dw ws 0) 39 1 == 1
  let bm := bitsOf (dw ws 0) 40 13
  let xen := bitsOf (dw ws 0) 57 1 == 1
  let me := grpIndexOf cfg.grp s.epId
  let k := s.memberOf cfg ws
  let needExt := hasScale cfg.inFmt cfg.inScaled || hasScale cfg.outFmt cfg.outScaled || cfg.op == opUpdateGather || cfg.op == opAllToAllV
  let latency := cfg.latency s.ep.smallBytes
  let bufs := (if xen && ext.isNone then [extBuf ws] else []) ++ launchBufs cfg k ws ext
  let named := (List.range 256).any (fun i =>
    let e := s.ep.reg (ob 0x7300 i)
    bitsOf e 38 1 == 1 && bitsOf e 0 12 == ctx && bitsOf e 12 13 == bm && bitsOf e 25 13 == s.epId)
  if ext.any extBad then some 1
  else if tenant ≠ cfg.tenant then some 3
  else if bufs.any (fun b => footprintBad b.range) then some 5
  else if !cfg.en || !grpValid cfg.grp || (me.isNone && !backup) || bufs.any (fun b => b.fva == 0) || (needExt && !xen)
      || cfg.shapeBad (cfg.modeOf latency) || (cfg.op == opUpdateGather && k % grpPerRack cfg.grp == 0 && ext.any (fun x => optBad (slice x 64 64))) then some 6
  else if backup && !named then some 8
  else none

/-- The granules of the buffers of a launch, each with its buffer's number. -/
def bufGrans (bs : List Buf) : List (Nat × Bool × Nat × Nat × Nat) := bs.flatMap (fun b => (sideGranules b.side b.access b.range).map (fun g => (b.id, g)))

/-- The extension record has been read: the checks that need it, then the translation of the buffers. -/
def Block.extRead (s : Block) (r : Run) (ext : List Byte) : Block :=
  let cfg := r.cfg.getD (s.ep.cfg (bitsOf (dw r.words 0) 27 12))
  match s.launchCheck cfg r.tenant r.words (some ext) with
  | some d => s.runError r d
  | none =>
    let gs := bufGrans (launchBufs cfg (s.memberOf cfg r.words) r.words (some ext))
    s.recordPassed r (gs.map (fun g => g.2)) (fun r => { r with list := ext, bufs := r.bufs ++ gs.map (fun g => g.1) })

/-! ### DECRYPT_COPY (R104, R351) -/

def blobPlain (h : List Byte) : Nat := leAt h 16 4
def blobSeg (h : List Byte) : Nat := 2 ^ (12 + leAt h 5 1)
def blobSegs (h : List Byte) : Nat := (blobPlain h + blobSeg h - 1) / max 1 (blobSeg h)

/-- A header that R351 step 1 refuses. -/
def blobBad (h : List Byte) (len : Nat) : Bool :=
  leAt h 0 4 != 0x3142574F || leAt h 4 1 != 1 || decide (4 < leAt h 5 1) || leAt h 6 2 != 0 || leAt h 12 4 != 0 || leAt h 20 4 != 0
    || leAt h 32 32 != 0 || blobPlain h == 0 || len != 64 + blobPlain h + 16 * blobSegs h

/-- The header has been read: footprint, form, then the key as captured at issue, whose check comes after the translations (its DETAIL is the higher). -/
def Block.headerRead (s : Block) (r : Run) (h : List Byte) : Block :=
  let dst : Int := bitsOf (dw r.words 5) 0 52
  let rd := (dst, dst + ((blobPlain h - 1 : Nat) : Int))
  if footprintBad rd then s.runError r 5
  else if blobBad h (bitsOf (dw r.words 6) 0 32) then s.runError r 6
  else s.recordPassed r (sideGranules true 1 rd) (fun r => { r with header := h, digestInput := h, keyOk := r.keyOk && r.keyId == leAt h 8 4 })

/-! ### A record has come -/

/-- Go on when a run's record has come: one that came without data, or poisoned, ends the descriptor with that status before it has moved anything (the spec does not say what becomes of a poisoned record: DESIGN CHOICE, log). -/
def Block.recordDone (s : Block) (q n : Nat) : Block :=
  match s.run? q n with
  | none => s
  | some r =>
    if r.stage = 1 && decide (r.recordAt.2 ≤ r.srcPos) && r.outstanding == 0 then
      let len := r.recordAt.2
      let data := r.bytesAt 0 len
      if r.anyLost 0 len || r.anyPoison 0 len then
        let st := firstStatus (stPoison :: r.status)
        (s.completeDesc q n r.words st (r.detailFor st) r.retries).headPump q 9
      else match dKind r.words with
        | 3 => s.batchRead r data
        | 4 => s.extRead r data
        | _ => s.headerRead r data
    else s

end Sys2Proof.Machine
end

