-- ==== Sys2Proof/Machine/Answers.lean ====
section
/-!
DEFINITION. Answers at the issuer (05, R90; 06, R123 to R125; 16, R366, R367, R369, R370): responses, snoops for the accelerator, NACK and REACH, re-pins, end-to-end timeouts, the loss of a plane.
-/
namespace Sys2Proof.Machine

/-- The opcode of a transaction's request. -/
def Txn.opc (t : Txn) : Nat := match t.pkts.getLast? with
  | some p => pOpc p
  | none => 0

/-- The response opcode that answers a request opcode (R115). -/
def rspOpc : Nat → Nat
  | 0x01 => 0x10
  | 0x05 | 0x06 => 0x12
  | 0x0A | 0x0B | 0x0C => 0x13
  | _ => 0x11

/-- DETAIL of a transaction's end in a completion record (R107, R368). -/
def endDetail (st : Nat) : Nat := if st = stAborted then 4 else 0

/-- What the end of a transaction does to its descriptor: an access less, its status, its data (R70, R101, R102). -/
def Run.accessEnd (r : Run) (t : Txn) (st : Nat) (data : List Byte) (poison : Bool) (old : BitVec 64) : Run :=
  let r1 := { r with outstanding := r.outstanding - 1, status := r.status ++ txnStatus t st, retries := r.retries + t.tries,
                     detail := if st = stAborted && r.detail != 3 then endDetail st else r.detail }
  match t.owner with
  | .tileRead _ _ pos len => { r1 with pieces := r1.pieces ++ [⟨pos, len, data, st == stTimeout || st == stAborted, poison⟩] }
  | .batch _ _ i => { r1 with olds := r1.olds.set i old }
  | _ => r1

/-- The descriptor a transaction belongs to. -/
def Owner.desc : Owner → Option (Nat × Nat)
  | .ls => none
  | .tileRead q n _ _ => some (q, n)
  | .tileWrite q n _ => some (q, n)
  | .batch q n _ => some (q, n)
  | .batchResult q n => some (q, n)
  | .counter q n => some (q, n)
  | .handoff q n => some (q, n)

/-- BYTES_MOVED of an engine: the bytes of a tile burst that its home has acknowledged. -/
def Block.bytesMoved (s : Block) (t : Txn) (st : Nat) : Block :=
  match t.owner with
  | .tileWrite q n len =>
    (match s.run? q n with
     | some r => if success st then s.modEp (fun c => c.count (ob 0xB040 r.engine) 0 64 len) else s
     | none => s)
  | _ => s

/-- A transaction ends (R366, R367): its tag, then its load/store request or its descriptor. -/
def Block.endTxn (s : Block) (t : Txn) (st : Nat) (data : List Byte) (poison : Bool) (old : BitVec 64) (grant : Nat) : Block :=
  let s1 := s.dropTxn t (st == stTimeout)
  match t.owner.desc with
  | some qn => ((s1.bytesMoved t st).modRun qn.1 qn.2 (fun r => r.accessEnd t st data poison old)).recordDone qn.1 qn.2
  | none =>
    match s1.oe.ls.find? (fun r => r.tag == t.tag) with
    | none => s1
    | some r =>
      let lineReq := r.kind == .rdShared || r.kind == .rdOwn || r.kind == .upgrade
      if lineReq && st != stTimeout then
        (((s1.modEp (fun c => c.emit (.ucieGrant r.tag (firstStatus (txnStatus t st)) grant data))).dropLs r.tag)).lsPump
      else (s1.lsRespond t (txnStatus t st) data).lsPump

/-- A response packet of an opcode: discarded when no transaction of its tag awaits it (R369), lost when point 0x61 injects. -/
def Block.response (s : Block) (opc : Nat) (via : Via) (p : Packet) : Block :=
  s.atEp opc via p fun s =>
    let inj := if s.ep.fld (ob 0x9010 1) 0 8 == pSlot p then s.ep.occasion 0x61 else (false, s.ep)
    let s0 := (s.modEp (fun _ => inj.2)).takeIn via p
    match s0.oe.txns.find? (fun t => t.tag == pTag p && t.dst == pSlot p && rspOpc t.opc == opc && !inj.1) with
    | none => s0
    | some t =>
      let off := t.fpa % 256
      let size := match t.pkts.head? with
        | some k => pBytes k
        | none => 0
      let data := match opc with
        | 0x10 => slice p.payload off size
        | 0x12 => leBytes size p.w3.toNat
        | 0x13 => slice p.payload 0 128
        | _ => []
      s0.endTxn t (pStatus p) data (pPoison p || pStatus p == stPoison) p.w3 (pGrant p)

def execRdData (via : Via) (p : Packet) (s : State) : Host.Outcome State Fault Refusal :=
  s.act fun s => (s.response 0x10 via p)
def execAck (via : Via) (p : Packet) (s : State) : Host.Outcome State Fault Refusal :=
  s.act fun s => (s.response 0x11 via p)
def execAtomicResp (via : Via) (p : Packet) (s : State) : Host.Outcome State Fault Refusal :=
  s.act fun s => (s.response 0x12 via p)
def execLineData (via : Via) (p : Packet) (s : State) : Host.Outcome State Fault Refusal :=
  s.act fun s => (s.response 0x13 via p)

/-- A snoop for the accelerator (R90). -/
def Block.snoopIn (s : Block) (opc : Nat) (share : Bool) (via : Via) (p : Packet) : Block :=
  s.atEp opc via p fun s => (s.takeIn via p).modEp (fun c => c.emit (.ucieSnoop share (pSlot p) (pTag p) (pFpa p)))

def execSnoopInv (via : Via) (p : Packet) (s : State) : Host.Outcome State Fault Refusal :=
  s.act fun s => (s.snoopIn 0x14 false via p)
def execSnoopShare (via : Via) (p : Packet) (s : State) : Host.Outcome State Fault Refusal :=
  s.act fun s => (s.snoopIn 0x15 true via p)

/-! ### Retries (R366, R369) -/

/-- A retried ordered READ of the load/store path makes every later READ of its channel that UCIe has not had go out again, data held for order included (R369). -/
def Block.resendLater (s : Block) (t : Txn) : Block :=
  match s.oe.ls.find? (fun r => r.tag == t.tag) with
  | none => s
  | some r =>
    if t.owner != .ls || r.kind != .read || !r.ord then s
    else
      let later := (s.oe.ls.dropWhile (fun x => x.tag != t.tag)).drop 1
      (later.filter (fun x => x.kind == .read && x.ord && x.ch == r.ch && x.dst == r.dst && x.tenant == r.tenant && x.sent)).foldl (fun s x =>
        match x.held with
        | some h =>
          let s1 := s.modOe (fun o => { o with
            ls := updLs x.tag (fun y => { y with answer := none, held := none }) o.ls,
            quiet := o.quiet.filter (fun q => q.1 != h.tag), txns := o.txns ++ [h] })
          s1.resend h
        | none =>
          match s.oe.txns.find? (fun y => y.tag == x.tag) with
          | some y => s.resend y
          | none => s) s

/-- The last attempt of a transaction is lost for good: TIMEOUT (R366). -/
def Block.timeoutTxn (s : Block) (t : Txn) : Block :=
  (s.modEp (fun c => (c.count (ob 0x9031 1) 0 32 1).log 0x9007 .uncorrected 0xFF (packArg [(7, t.dst), (14, t.tag)]))).endTxn t stTimeout [] false 0 0

/-- An attempt is lost: the next one at once, or the end after RETRY_MAX retries. -/
def Block.attemptLost (s : Block) (t : Txn) : Block :=
  if t.tries < s.ep.retryMax then (s.resend t).resendLater t else s.timeoutTxn t

/-- E2E_TIMEOUT: an attempt has waited E2E_TIMEOUT (an injected one counts as having done so, point 0x62). -/
def execE2eTimeout (tag : BitVec 14) (inj : Bool) (s : State) : Host.Outcome State Fault Refusal :=
  s.act fun s =>
    (match s.oe.txns.find? (fun t => t.tag == tag.toNat) with
      | none => s
      | some t =>
        if s.ep.inReset || (!inj && decide (s.ep.since t.sentAt < s.ep.e2eTimeout)) then s
        else if !s.ep.detects 0x62 8 t.dst inj then s.modEp (fun c => c.undetected 0x62 8 t.dst inj)
        else (if inj then s.modEp (fun c => c.injected 0x62) else s).attemptLost t)

/-- QUIET_TAG_RELEASE: a tag is free 2 × DEDUP_LIFE after its transaction (R367). -/
def execQuietTagRelease (tag : BitVec 14) (s : State) : Host.Outcome State Fault Refusal :=
  s.act fun s =>
    (if s.ep.inReset then s else
      s.modOe (fun o => { o with quiet := o.quiet.filter (fun q => !(q.1 == tag.toNat && decide (2 * s.ep.dedupLife ≤ s.ep.since q.2))) }))

/-! ### Live planes (R119, R123 to R125) -/

/-- What every change of the planes live for a destination leads to. -/
def Block.planesChanged (s : Block) : Block := s.forgetChans.repinScan

/-- NACK: the plane is excluded for the destination, and the request goes again at once (R125). -/
def execNack (plane : BitVec 4) (p : Packet) (s : State) : Host.Outcome State Fault Refusal :=
  s.act fun s => (s.atEp 0x18 (.plane plane) p (fun s =>
        let s0 := (s.takeIn (.plane plane) p).modEp (fun c => c.count (ob 0xB203 0) 0 32 1)
        match s0.oe.txns.find? (fun t => t.tag == pTag p) with
        | none => s0
        | some t =>
          (((s0.modOe (fun o => { o with nacks := o.nacks.filter (fun x => x.1 == s.ep.stroke) ++ [(s.ep.stroke, t.dst, plane.toNat)] })).modEp (fun c => (c.setBit (ob 0xB202 t.dst) plane.toNat true).log 0x3042 .corrected 0xFF (packArg [(7, t.dst), (4, plane.toNat)]))).planesChanged).attemptLost t))

/-- REACH: a crew port of a plane's switch went down or came back. One that comes in the CCLK of a NACK for the same slot and plane counts as applied before it, whose exclusion then stands (R125). -/
def execReach (plane : BitVec 4) (p : Packet) (s : State) : Host.Outcome State Fault Refusal :=
  s.act fun s => (s.atEp 0x3A (.plane plane) p (fun s =>
        let d := bitsOf p.w1 0 7
        let k := bitsOf p.w1 8 4
        ((s.takeIn (.plane plane) p).modEp (fun c => c.setBit (ob 0xB202 d) k (bitsOf p.w1 7 1 == 0 || s.oe.nacks.contains (s.ep.stroke, d, k)))).planesChanged))

/-- CHANNEL_REPIN: a stopped channel whose requests have all completed moves to its new plane with the next epoch (R123); a channel that had lost its last plane made its epoch step then. -/
def execChannelRepin (dst : BitVec 7) (ch : BitVec 4) (tenant : BitVec 8) (s : State) : Host.Outcome State Fault Refusal :=
  s.act fun s =>
    (match s.oe.chans.find? (fun c => c.dst == dst.toNat && c.ch == ch.toNat && c.tenant == tenant.toNat) with
      | none => s
      | some c =>
        match s.pinnedPlane c.dst c.ch c.tenant with
        | none => s
        | some p =>
          if s.ep.inReset || !c.stopped || s.chanBusy c then s
          else if c.plane.isNone then (s.setChan { c with plane := some p, stopped := false }).lsPump
          else ((s.setChan { c with plane := some p, stopped := false, epoch := (c.epoch + 1) % 16, seq := 0 }).modEp
            (fun c => c.count (ob 0xB203 1) 0 32 1)).lsPump)

/-- The loss of plane `k` at the endpoint (R370): its bit of COLL_VIA_TWIN, the lost attempts, the re-pins, the event. The plane has left LIVE_MASK already. -/
def Block.planeLost (s : Block) (k ownCause farCause : Nat) : Block :=
  let s1 := s.modEp (fun c => c.setBit (ob 0x9040 0) k true)
  let lost := s1.oe.txns.filter (fun t => t.plane == some k && t.dst != s.epSlot)
  let s2 := (lost.foldl (fun s t => if s.oe.txns.any (fun x => x.tag == t.tag && x.sentAt == t.sentAt && x.tries == t.tries) then s.attemptLost t else s) s1).planesChanged
  s2.modEp (fun c => c.log 0x9008 .uncorrected 0xFF (packArg [(4, k), (3, ownCause), (3, farCause)]))

/-- The return of plane `k` (R375). -/
def Block.planeRestored (s : Block) (k : Nat) : Block :=
  (s.modEp (fun c => c.log 0x9009 .info 0xFF (packArg [(4, k)]))).planesChanged

end Sys2Proof.Machine
end

