-- ==== Sys2Proof/Machine/Image.lean ====
section
/-!
DEFINITION. Stroke images: entries, the arrival map, patterns and bundles (11, R247, R249, R251, R267 to R270; 16, 0x9042).
-/
namespace Sys2Proof.Machine

/-- The entry that an image word pair spells. -/
def entryOfWords (a b : BitVec 64) : Option Entry :=
  if bitsOf a 12 1 == 1 then
    some ⟨bitsOf a 0 12, bitsOf a 13 16, bitsOf a 29 16, bitsOf a 45 4, bitsOf a 49 5, bitsOf a 54 1 == 1, bitsOf b 0 11, bitsOf b 11 12⟩
  else none

/-- The stand-in entry that an object spells. -/
def standEntry (v : BitVec 64) : Option Entry :=
  if bitsOf v 12 1 == 1 then
    some ⟨bitsOf v 0 12, bitsOf v 13 16, bitsOf v 13 16, bitsOf v 29 4, bitsOf v 33 5, false, bitsOf v 38 11, bitsOf v 49 12⟩
  else none

def Common.word (c : Common) (key : Nat) : BitVec 64 := BitVec.ofNat 64 (c.fld key 0 64)

/-- The entry of a context in the active image: an entry object that is not listed holds its default, V = 0. -/
def Common.imageEntry (c : Common) (ctx : Nat) : Option Entry :=
  (c.regs.filter (fun r => r.1 / 256 == 0x6110)).findSome? (fun r =>
    match entryOfWords (BitVec.ofNat 64 r.2.toNat) (c.word (ob 0x6111 (r.1 % 256))) with
    | some x => if x.ctx == ctx then some x else none
    | none => none)

/-- The stand-in entry of a context of the twin. -/
def Common.twinEntry (c : Common) (ctx : Nat) : Option Entry :=
  (c.regs.filter (fun r => r.1 / 256 == 0x9042)).findSome? (fun r =>
    match standEntry (BitVec.ofNat 64 r.2.toNat) with
    | some x => if x.ctx == ctx then some x else none
    | none => none)

/-- Is this switch standing in for its twin (R373)? -/
def Common.standIn (c : Common) : Bool := c.bit (ob 0x9041 0) 0
/-- Are its collectives fenced (R372)? -/
def Common.isFenced (c : Common) : Bool := c.bit (ob 0x9041 0) 1

/-- A context has a program when it holds a valid entry in the active image (R270), or for the twin a stand-in entry; a launch under way keeps the entry under which it began (R40). -/
def Block.entryFor (s : Block) (twin : Bool) (ctx : Nat) : Option Entry :=
  match s.ox.launches.find? (fun l => l.ctx == ctx && l.twin == twin) with
  | some l => some l.entry
  | none => if !s.ox.imageOn then none else if twin then s.sw.twinEntry ctx else s.sw.imageEntry ctx

/-- Arrival map entry `a` (0x6120): PRE, HALL, INPUT_LO, INPUT_HI. -/
def Common.arvEntry (c : Common) (a : Nat) : Bool × Bool × Nat × Nat :=
  let k := ob 0x6120 a
  (c.bit k 0, c.bit k 1, c.fld k 2 7, c.fld k 9 7)

/-- Byte `j` of pattern `p` (R268). -/
def Common.patByte (c : Common) (p j : Nat) : Nat := c.fld (ob (0x6200 + p / 32) (p % 32 * 8 + j / 16)) (j % 16 * 8) 8

/-- The input that pattern `p` reserves output `o` to (R148). -/
def Common.reserved (c : Common) (p o : Nat) : Option Nat :=
  let b := c.patByte p o
  if 128 ≤ b then some (b % 128) else none

/-- Bundle `b` as a 512-bit value (R268). -/
def Common.bundle (c : Common) (b : Nat) : Nat :=
  (List.range 4).foldl (fun a w => a + c.fld (ob (0x6400 + b / 64) (b % 64 * 4 + w)) 0 128 * 2 ^ (128 * w)) 0

/-! ### Bundle fields (R247) -/

def bGop (b g : Nat) : Nat := field b (24 * g) 24
def bPat (b : Nat) : Nat := field b 384 12
def bRepeat (b : Nat) : Nat := field b 396 8
def bLop (b : Nat) : Nat := field b 404 3
def bLarg (b : Nat) : Nat := field b 407 16
def bWen (b : Nat) : Bool := bitAt b 423
def bWsrc (b : Nat) : Bool := bitAt b 424
def bWid (b : Nat) : Nat := field b 425 6
def bWval (b : Nat) : Nat := field b 431 16
def bSlack (b : Nat) : Nat := field b 447 16
def bSen (b : Nat) : Bool := bitAt b 463
def bSid (b : Nat) : Nat := field b 464 6
def bSteer (b : Nat) : Bool := bitAt b 470
def bSport (b : Nat) : Nat := field b 471 4
def bSpos (b : Nat) : Nat := field b 475 2
def bAnnEn (b : Nat) : Bool := bitAt b 477
def bAnn (b : Nat) : Nat := field b 478 2
def bCkpt (b : Nat) : Bool := bitAt b 480
def bAlign (b : Nat) : Bool := bitAt b 481
def bGctl (b : Nat) : Bool := bitAt b 482
def bGgrp (b : Nat) : Nat := field b 483 4
def bGopc (b : Nat) : Nat := field b 487 2
def bGarg (b : Nat) : Nat := field b 489 23

/-! ### Operation fields (R249) -/

def gVop (g : Nat) : Nat := field g 0 5
def gSub (g : Nat) : Nat := field g 5 2
def gA (g : Nat) : Nat := field g 7 5
def gB (g : Nat) : Nat := field g 12 5
def gD (g : Nat) : Nat := field g 17 5
def gLn (g : Nat) : Nat := field g 22 2

/-- The segment of a chunk in its stream, by which its group is chosen (R251): a CONTRIB chunk's index divided by K; of a PREPASS chunk, the first that it carries. -/
def chunkSegment (p : Packet) (k : Nat) : Nat := if pOpc p == 0x21 then 16 * cChunk p else cChunk p / max 1 k

/-- K of a chunk's lane form (R226). A weight chunk has the form of OUT_FMT. -/
def Cfg.chunkK (c : Cfg) (p : Packet) (latency : Bool) (mode : Nat) : Nat :=
  if cWeight p then chunksPerSeg (codeWidth c.outFmt) (hasScale c.outFmt c.outScaled)
  else
    let f := c.sendForm latency mode
    chunksPerSeg f.1 f.2

def Common.isLatency (c : Common) (cfg : Cfg) : Bool := cfg.latency c.smallBytes
def Common.modeFor (c : Common) (cfg : Cfg) : Nat := cfg.modeOf (c.isLatency cfg)
def Common.prepassFor (c : Common) (cfg : Cfg) : Bool := cfg.prepass (c.isLatency cfg) (c.modeFor cfg)

/-- The tile group whose staging instance a chunk of an entry's context is written to (R251). -/
def Block.chunkGroup (s : Block) (twin : Bool) (e : Entry) (p : Packet) : Nat :=
  let cfg := match s.ox.launches.find? (fun l => l.ctx == e.ctx && l.twin == twin) with
    | some l => l.cfg
    | none => s.sw.cfg e.ctx
  (e.group0 + chunkSegment p (cfg.chunkK p (s.sw.isLatency cfg) (s.sw.modeFor cfg)) % max 1 e.ngroups) % 16

end Sys2Proof.Machine
end

