-- ==== Sys2Proof/Machine/Cells.lean ====
section
/-!
DEFINITION. Buffers of the switch core: packet cells and the shared pool, virtual output queues, queue instances with their spill and watermarks (07, R140 to R143, R151 to R165).
-/
namespace Sys2Proof.Machine

/-! ### Ports of the crossbar (R140) -/

abbrev xpHall : Nat := 72
abbrev xpBridge : Nat := 88
abbrev xpGroup : Nat := 90
abbrev xpQueue : Nat := 106
abbrev xpCox : Nat := 122
abbrev xpEngine : Nat := 123

/-- The link behind a crossbar port. -/
def portLink (i : Nat) : Option Nat :=
  if i < 72 then some i else if i < 88 then some (0x48 + (i - 72)) else if i < 90 then some 0x58 else none

/-- The crossbar input of a link's packet (R141, R298). -/
def linkInput (pp : Nat) (p : Packet) : Nat :=
  if pp < 0x48 then pp else if pp < 0x58 then 72 + (pp - 0x48) else if pNet p == 2 then 88 + cCtx p % 2 else 88

/-- The crossbar output for the bridge (R141). -/
def bridgeOutput (p : Packet) : Nat := if pNet p == 2 then 88 + cCtx p % 2 else 88

/-- Where an internal unit leaves a packet for the command that consumes it: `Common.rx` under 128 + port. -/
def unitRx (port : Nat) : Nat := 128 + port

/-! ### Cells (R151, R152) -/

def numCells : Nat := 344064

/-- Cells on the free list. -/
def Ox.freeCells (x : Ox) : Nat := numCells - x.fresh + x.freed.length

/-- Cells that the link inputs reserve by their advertised credits (R152). -/
def Common.reserveTotal (c : Common) : Nat :=
  let sum := fun pp => ((linkNets .ox720 pp).map (fun n => c.creditsFor pp n)).foldl (fun a x => a + x) 0
  72 * sum 0 + 16 * sum 0x48 + sum 0x58

/-- Cells of a link's reserve for a network that are in use. -/
def Ox.reserveUse (x : Ox) (pp net : Nat) : Nat :=
  (x.cells.filter (fun e => match e.2 with
    | some c => !c.pool && portLink c.input == some pp && pNet c.pkt == net
    | none => false)).length

/-- Cells in use that the shared pool has given. -/
def Ox.poolUse (x : Ox) : Nat :=
  (x.cells.filter (fun e => match e.2 with
    | some c => c.pool
    | none => false)).length

/-- Cells that are retired and hold no packet any more. -/
def Ox.retiredIdle (x : Ox) : Nat := (x.retired.filter (fun k => (SMap.get none x.cells k).isNone)).length

/-- Cells left in the shared pool: all but the reserves, the retired ones and what the pool has given. -/
def Block.poolFree (s : Block) : Nat := numCells - s.sw.reserveTotal - s.ox.retiredIdle - s.ox.poolUse

/-- Has the reserve of a link input a cell for a network left? Internal inputs have none. -/
def Block.inReserve (s : Block) (i net : Nat) : Bool :=
  match portLink i with
  | some pp => decide (s.ox.reserveUse pp net < s.sw.creditsFor pp net)
  | none => false

/-- May a packet of input `i` take a cell: from its reserve where it came over a link (`link`), else from the shared pool (R152)? -/
def Block.poolAllows (s : Block) (i net : Nat) (link : Bool) : Bool :=
  decide (0 < s.ox.freeCells) && ((link && s.inReserve i net) || decide (0 < s.poolFree))

def voqKey (i o net : Nat) : Nat := (i * 128 + o) * 8 + net
def Ox.voq (x : Ox) (i o net : Nat) : Voq := SMap.get {} x.voqs (voqKey i o net)
def Ox.setVoq (x : Ox) (i o net : Nat) (v : Voq) : Ox := { x with voqs := SMap.set {} x.voqs (voqKey i o net) v }
def Ox.cell (x : Ox) (k : Nat) : Option Cell := SMap.get none x.cells k

/-- Take a cell from the free list: those never used yet in ascending order, then the freed ones in the order in which they came back. -/
def Ox.takeCell (x : Ox) (c : Cell) : Nat × Ox :=
  if x.fresh < numCells then (x.fresh, { x with fresh := x.fresh + 1, cells := SMap.set none x.cells x.fresh (some c) })
  else match x.freed with
    | k :: r => (k, { x with freed := r, cells := SMap.set none x.cells k (some c) })
    | [] => (0, x)

/-- The packet that a cell holds for an output. -/
def Cell.pktFor (c : Cell) (o : Nat) : Packet :=
  match c.copies.find? (fun x => x.1 == o) with
  | some x => x.2
  | none => c.pkt

/-- Link packets onto the VOQs of an input, one for each output: one cell, one reference for each (R150, R151). `none` when no cell is to be had. `link`: the packet came over the input's link; `entry`: the input at which it entered the switch. -/
def Block.enqueueAll (s : Block) (i : Nat) (outs : List (Nat × Packet)) (arrived : Nat) (link : Bool) (entry : Nat) : Option Block :=
  match outs with
  | [] => none
  | (_, p) :: more =>
    if !s.poolAllows i (pNet p) link then none
    else
      let (k, x) := s.ox.takeCell { pkt := p, arrived := arrived, refs := outs.length, input := i, entry := entry,
                                    pool := !(link && s.inReserve i (pNet p)), copies := if more.isEmpty then [] else outs }
      let x1 := outs.foldl (fun (x : Ox) (o : Nat × Packet) =>
        let v := x.voq i o.1 (pNet o.2)
        x.setVoq i o.1 (pNet o.2) { v with cells := v.cells ++ [(k, s.sw.stroke)] }) x
      let s1 : Block := { s with ox := x1 }
      some (s1.modSw (fun c => c.setFld (ob 0x5100 3) 0 19 (min (c.fld (ob 0x5100 3) 0 19) x1.freeCells)))

/-- A packet that came over a link, for one output. -/
def Block.enqueue (s : Block) (i o : Nat) (p : Packet) : Option Block := s.enqueueAll i [(o, p)] s.sw.stroke true i

/-- Drop one reference to a cell; at zero it goes to the free list, unless it was retired (R151, R156). -/
def Ox.unref (x : Ox) (k : Nat) : Ox :=
  match x.cell k with
  | none => x
  | some c =>
    if 1 < c.refs then { x with cells := SMap.set none x.cells k (some { c with refs := c.refs - 1 }) }
    else { x with cells := SMap.drop x.cells k, freed := if x.retired.contains k then x.freed else x.freed ++ [k] }

/-- Has a packet of an input taken credits of its link: all but the NACKs that a crew port makes (R124)? -/
def tookCredits (i : Nat) (p : Packet) : Bool := (portLink i).isSome && !(pOpc p == 0x18 && pSrcSw p)

/-- Free the credits of a packet that has left the buffer of its input (R153). -/
def Block.inputCredits (s : Block) (i : Nat) (p : Packet) : Block :=
  match portLink i with
  | some pp => if tookCredits i p then s.modSw (fun c => c.freeCredits pp (pNet p) (pCredits p)) else s
  | none => s

/-! ### Queue instances (R159 to R165) -/

def instHead (ii : Nat) : Nat := if ii < 0x60 then 1024 else if ii < 0xA0 then 128 else if ii < 0xB0 then 512 else 64
def instTail (ii : Nat) : Nat := if ii < 0x60 then 0 else instHead ii
def instMark (ii : Nat) : Bool := bitAt (instFeatures ii) 4
def instWmark (ii : Nat) : Bool := bitAt (instFeatures ii) 1
def instSpill (ii : Nat) : Bool := bitAt (instFeatures ii) 0

def Ox.inst (x : Ox) (ii : Nat) : QInst := SMap.get {} x.insts ii
def Ox.setInst (x : Ox) (ii : Nat) (q : QInst) : Ox := { x with insts := SMap.set {} x.insts ii q }

def Common.secureReady (c : Common) : Bool := c.bit (ob 0x8000 0) 0

/-- Words of an instance's spill region; none is used before SECURE_READY (R350). -/
def Common.spillWords (c : Common) (ii : Nat) : Nat := if instSpill ii && c.secureReady then c.fld (ob 0x5302 ii) 20 20 * 16384 else 0
def Common.instCapacity (c : Common) (ii : Nat) : Nat := instHead ii + instTail ii + c.spillWords ii

/-- 64-byte words that a packet takes in a queue instance. -/
def pWords (p : Packet) : Nat := (pFrame p + 63) / 64

/-- The boathouse address of word `pos` of an instance. -/
def Common.spillAddr (c : Common) (ii pos : Nat) : Nat := c.fld (ob 0x5302 ii) 0 20 * 2 ^ 20 + pos % max 1 (c.spillWords ii) * 64

/-- The bytes and tenant of word `pos` of an instance. -/
def QInst.word (q : QInst) (pos : Nat) : Option (List Byte × Nat) :=
  (q.items.find? (fun it => decide (it.pos ≤ pos) && decide (pos < it.pos + it.words))).map
    (fun it => (slice (pBytesList it.pkt) (64 * (pos - it.pos)) 64, pTenant it.pkt))

/-- Move words after a write or a read (R161): from the tail buffer straight to the head buffer while the middle is empty; into the boathouse what the tail buffer cannot hold. -/
def Block.settle (s : Block) (ii : Nat) : Block :=
  let q := s.ox.inst ii
  let q1 : QInst := if q.headEnd = q.tailStart then
      (let e := max q.headEnd (min q.wp (q.rp + instHead ii))
       { q with headEnd := e, tailStart := e })
    else q
  let n := q1.wp - q1.tailStart - instTail ii
  let ovf := (List.range n).map (fun i => q1.tailStart + i)
  let x1 := ovf.foldl (fun (x : Ox) pos =>
    match q1.word pos with
    | some (bytes, t) => x.bhWrite (s.sw.spillAddr ii pos) bytes false t (SMap.get 0 x.keyGen t)
    | none => x) s.ox
  { s with ox := x1.setInst ii { q1 with tailStart := q1.tailStart + n } }

/-- Evaluate ABOVE of an instance from its occupancy, at the end of a CCLK (R160). -/
def Common.evalAbove (c : Common) (ii occ : Nat) : Common :=
  if !instWmark ii then c
  else
    let hi := c.fld (ob 0x5301 ii) 0 32
    let lo := c.fld (ob 0x5301 ii) 32 32
    let c1 := if hi ≤ occ then c.setBit (ob 0x5300 ii) 5 true else if occ ≤ lo then c.setBit (ob 0x5300 ii) 5 false else c
    c1.fcoDrive c

def QInst.occ (q : QInst) : Nat := q.wp - q.fp
def Common.above (c : Common) (ii : Nat) : Bool := c.bit (ob 0x5300 ii) 5
def Block.evalInst (s : Block) (ii : Nat) : Block := s.modSw (fun c => c.evalAbove ii (s.ox.inst ii).occ)

/-- The end of a CCLK: ABOVE of every instance, then the credits that an instance no longer above withheld go back (R153, R160). -/
def Block.evalAll (s : Block) : Block :=
  let s1 := s.ox.insts.foldl (fun s q => s.evalInst q.1) s
  let back := s1.ox.withheld.filter (fun w => !s1.sw.above w.inst)
  (s1.modSw (fun c => back.foldl (fun c w => c.freeCredits w.pp w.net w.n) c)).modOx (fun x => { x with withheld := x.withheld.filter (fun w => s1.sw.above w.inst) })

/-- Is there room in an instance for a packet? -/
def Block.instRoom (s : Block) (ii : Nat) (p : Packet) : Bool := decide ((s.ox.inst ii).occ + pWords p ≤ s.sw.instCapacity ii)

/-- A write finds the instance full: the writer waits; each wait is counted and logged once (R160, R173). -/
def Block.fullWait (s : Block) (ii : Nat) : Block :=
  if s.ox.fullWaiting.contains ii then s
  else (s.modOx (fun x => { x with fullWaiting := insertNat x.fullWaiting ii })).modSw (fun c =>
    (c.count (ob 0x5304 ii) 32 32 1).logLimited 0x3004 .info ii ii (packArg [(8, ii)]))

/-- A writer has been served: the wait is over. -/
def Ox.fullDone (x : Ox) (ii : Nat) : Ox := { x with fullWaiting := x.fullWaiting.filter (fun j => j != ii) }

/-- Write a packet into an instance that has room for it (R160). `input`: where it entered the switch. -/
def Block.instWrite (s : Block) (ii : Nat) (p : Packet) (arrived input : Nat) : Block :=
  let q := s.ox.inst ii
  let q1 : QInst := { q with wp := q.wp + pWords p, items := q.items ++ [⟨q.wp, pWords p, p, arrived, input⟩] }
  ({ s with ox := (s.ox.setInst ii q1).fullDone ii } : Block).settle ii

/-- The positions of an instance counted from a start `n` words earlier. -/
def QInst.shift (q : QInst) (n : Nat) : QInst :=
  { wp := q.wp + n, rp := q.rp + n, mp := q.mp + n, fp := q.fp + n, headEnd := q.headEnd + n, tailStart := q.tailStart + n,
    items := q.items.map (fun it => { it with pos := it.pos + n }) }

/-- A packet that had been read from an instance without MARK stands in front of it again. -/
def Block.instUnread (s : Block) (ii : Nat) (p : Packet) (arrived input : Nat) : Block :=
  let n := pWords p
  let q := if (s.ox.inst ii).rp < n then (s.ox.inst ii).shift n else s.ox.inst ii
  let rp := q.rp - n
  s.modOx (fun x => x.setInst ii { q with rp := rp, mp := rp, fp := rp, items := ⟨rp, n, p, arrived, input⟩ :: q.items })

/-- The packet at RP, when all its words are in the head buffer. -/
def QInst.front (q : QInst) : Option QItem :=
  match q.items.find? (fun it => it.pos == q.rp) with
  | some it => if it.pos + it.words ≤ q.headEnd then some it else none
  | none => none

/-- Advance RP over a packet; without MARK its space is free at once. -/
def Block.instAdvance (s : Block) (ii : Nat) (it : QItem) : Block :=
  let q := s.ox.inst ii
  let rp := q.rp + it.words
  let q1 : QInst := if instMark ii then { q with rp := rp }
    else { q with rp := rp, mp := rp, fp := rp, items := q.items.filter (fun x => decide (rp ≤ x.pos)) }
  ({ s with ox := s.ox.setInst ii q1 } : Block).settle ii

/-- MARK, REWIND and RELEASE (R162). A RELEASE outside FP to RP is ignored. -/
def Block.instMarkHere (s : Block) (ii : Nat) : Block := s.modOx (fun x => x.setInst ii { x.inst ii with mp := (x.inst ii).rp })
def Block.instRewind (s : Block) (ii : Nat) : Block := s.modOx (fun x => x.setInst ii { x.inst ii with rp := (x.inst ii).mp })
def Block.instRelease (s : Block) (ii p : Nat) : Block :=
  let q := s.ox.inst ii
  if q.fp ≤ p ∧ p ≤ q.rp then
    (s.modOx (fun x => x.setInst ii { q with fp := p, mp := max q.mp p, items := q.items.filter (fun i => decide (p < i.pos + i.words)) })).settle ii
  else s

/-- Does the FCI pin bound to an instance hold its reads at EMPTY (R165)? -/
def Block.fciHolds (s : Block) (ii : Nat) : Bool :=
  s.sw.bit (ob 0x5305 ii) 7 && bitAt s.sw.fci (s.sw.fld (ob 0x5305 ii) 4 3)

/-- Empty an instance: a catch that changed it, or a reset (R160). -/
def Block.instClear (s : Block) (ii : Nat) : Block :=
  (s.modOx (fun x => { x.setInst ii {} with groups := x.groups.map (fun q => if q.1 + 0xA0 = ii then (q.1, { q.2 with replayTo := 0 }) else q) })).modSw (fun c => (c.setBit (ob 0x5300 ii) 5 false).fcoDrive c)

/-- OCCUPANCY of an instance in words of 64 bytes: the flits of a replay buffer, the records of the event log, WP − FP of the others (R160). -/
def Block.occupancy (s : Block) (ii : Nat) : Nat :=
  if ii = 0xB0 then packedWords s.sw.evtLog.length
  else if ii < 0x59 then ((s.sw.link ii).replayBuf.length + 1) / 2
  else (s.ox.inst ii).occ

end Sys2Proof.Machine
end

