-- ==== Sys2Proof/Machine/Routing.lean ====
section
/-!
DEFINITION. Ingress of the switch: the checks of arriving packets, drops, the hall routing table and where a packet goes (06, R124, R126 to R133; 07, R171; 15, R341 to R343; 16, R371, R372).
-/
namespace Sys2Proof.Machine

def noRouteCause : Nat := 8
def partitionCause : Nat := 9

/-! ### Drops (R133) -/

/-- Would an event limited to one per 1 ms for `key` be suppressed now? -/
def Common.suppressed (c : Common) (code key : Nat) : Bool :=
  c.rates.any (fun r => r.code == code && r.unit == key && decide (c.since r.last < cclkMs))

/-- Count and log a refused packet of a port (R133; for PARTITION R342). `slot` is the sending slot. -/
def Common.countDrop (c : Common) (pp cause : Nat) (p : Packet) (slot : Nat) : Common :=
  if cause == partitionCause then
    (c.count (ob 0x8011 pp) 0 32 1).logLimited 0x8004 .uncorrected pp pp (packArg [(7, pp), (7, slot), (8, pTenant p)])
  else
    let c1 := c.count (ob (0x5220 + cause) pp) 0 32 1
    let c2 := if c1.suppressed 0x3040 pp then c1.count (ob 0x5229 0) 0 32 1 else c1
    let c3 := c2.logLimited 0x3040 .uncorrected pp pp (packArg [(7, pp), (4, cause)])
    if cause == noRouteCause then c3.log 0x3041 .uncorrected pp (packArg [(6, if pDstSw p then pDst p / 16 % 64 else pDst p / 128), (1, b2n (pNet p == 3 && hFwd p))])
    else c3

/-- Refuse an arriving packet: its credits go back, it is counted and logged, nothing answers it. A packet of an invalid network took no credit. -/
def Block.refuse (s : Block) (pp cause : Nat) (p : Packet) : Block :=
  s.modSw (fun c =>
    let c1 := c.rxDrop pp p
    (if pNet p < 5 then c1.freeCredits pp (pNet p) (pCredits p) else c1).countDrop pp cause p (pSrc p % 128))

/-! ### Checks (R131, R132, R341) -/

def Common.slotTenant (c : Common) (slot : Nat) : Nat := c.fld (ob 0x8010 slot) 0 8

/-- Does the switch take a COLL packet addressed to its twin (R371 to R373)? -/
def Block.twinOpen (s : Block) : Bool := s.sw.standIn || s.sw.lstate 0x58 == lsActive

/-- Check 3 of R132: is the source allowed at crew port `n`? -/
def Block.sourceOk (s : Block) (n : Nat) (p : Packet) : Bool :=
  let own := !pSrcSw p && pSrc p == s.swRack * 128 + n
  if pNet p == 4 then
    own || (pOpc p == 0x38 && pSrcSw p && pSrc p / 16 == s.swRack)
      || (pOpc p == 0x39 && (if pSrcSw p then pSrc p / 16 == s.swRack else pSrc p / 128 == s.swRack))
  else own

/-- Is the partition check of a crew packet broken (R341)? A context without an entry is answered under R240 instead. -/
def Block.partitioned (s : Block) (n : Nat) (p : Packet) : Bool :=
  let t := pTenant p
  pNet p != 4 &&
    ((t != 0 && t != s.sw.slotTenant n)
     || (!pDstSw p && t != 0 && s.sw.slotTenant (pDst p % 128) != t)
     || (pDstSw p && pNet p == 2 && (s.entryFor (pDst p == s.twinId) (cCtx p)).isSome && t != (s.sw.cfg (cCtx p)).tenant))

/-- The checks of a crew port, in order (R132, R341); the first that fails gives the cause. -/
def Block.crewCause (s : Block) (n : Nat) (p : Packet) : Option Nat :=
  if classBad p (linkNets .ox720 n) then some 0
  else if !s.sourceOk n p then some 6
  else if decide (pNet p < 2) && !(if pDstSw p then pDst p / 16 == s.swRack else pDst p / 128 == s.swRack) then some 4
  else if !pDstSw p && decide (71 < pDst p % 128) then some 5
  else if pDstSw p && pDst p != s.swId && !(pNet p == 2 && pDst p == s.twinId && s.twinOpen) then some 7
  else if s.partitioned n p then some partitionCause
  else none

/-- The unknown-type rule of R130. -/
def extKnown (t : Nat) : Bool := decide (1 ≤ t ∧ t ≤ 3) || decide (128 ≤ t)

/-- Follow the chain of extension headers from byte `pos` (R131, check 4): an error, or the byte at which they end. A fifth extension is found in the NEXT of the fourth, before its own bytes are looked at (the worked example). -/
def extWalk (payload : List Byte) (limit : Nat) : Nat → Nat → Nat → Nat ⊕ Nat
  | 0, t, pos => if t == 0 then .inr pos else .inl 2
  | k + 1, t, pos =>
    if t == 0 then .inr pos
    else
      let el := leAt payload (pos - 32 + 1) 1
      if el == 0 then .inl 1
      else if limit < pos + 8 * el then .inl 1
      else if !extKnown t then .inl 3
      else extWalk payload limit k (leAt payload (pos - 32) 1) (pos + 8 * el)

/-- The header checks of a HALL packet, in order (R131). -/
def hallHeaderBad (p : Packet) : Option Nat :=
  let h := hHlen p * 8
  if hHlen p < 4 ∨ 36 < hHlen p then some 1
  else if !pLong p then (if hHlen p = 4 ∧ hPlen p = 0 ∧ pStatus p = 0 then none else some 1)
  else if h + hPlen p ≤ 32 ∨ 288 < h + hPlen p then some 1
  else match extWalk p.payload h 4 (pStatus p) 32 with
    | .inl c => some c
    | .inr e => if e = h then none else some 1

/-- Is a tenant's bit set in TENANT_PRESENT? -/
def Common.tenantPresent (c : Common) (t : Nat) : Bool := c.bit (ob 0x8012 (t / 64)) (t % 64)

/-- The checks of a hall port, in order (R131, R132, R342). -/
def Block.hallCause (s : Block) (pp : Nat) (p : Packet) : Option Nat :=
  if classBad p (linkNets .ox720 pp) then some 0
  else match (if pNet p == 3 then hallHeaderBad p else none) with
    | some c => some c
    | none =>
      if !pSrcSw p || pSrc p % 16 != s.swPlane then some 7
      else if pNet p == 3 && !s.sw.tenantPresent (pTenant p) then some partitionCause
      else none

/-! ### Routes (R126 to R128, R318) -/

inductive Route where
  | out (o : Nat)
  | spill (rack : Nat)
  | noRoute
deriving DecidableEq, Repr

def Common.rtMode (c : Common) (n : Nat) : Nat := c.fld (ob 0x5210 n) 0 2
def Common.steered (c : Common) (n : Nat) : Bool := c.bit (ob 0x5210 n) 9

/-- The COLL_STAGE extension of a HALL packet when it comes first: its 128 bits (R130, R234). -/
def collStage (p : Packet) : Option Nat := if pOpc p == 0x30 && pStatus p == 1 then some (leAt p.payload 0 16) else none
def stCtx (v : Nat) : Nat := field v 16 12
def stPhase (v : Nat) : Nat := field v 28 6
def stRack (v : Nat) : Nat := field v 34 6
def stFirst (v : Nat) : Nat := field v 64 32
def stCount (v : Nat) : Nat := field v 96 16

/-- The unit that consumes a packet addressed to this switch: the cox core takes MGMT; collective chunks of a context with an entry go to the queue port of their group; what has no entry, or is no chunk, goes to the stroke engine. -/
def Block.consumer (s : Block) (twin : Bool) (p : Packet) : Nat :=
  if pNet p == 4 then xpCox
  else if pNet p == 3 then
    match collStage p with
    | some v =>
      (match s.entryFor false (stCtx v) with
       | some e => xpQueue + (e.group0 + stFirst v / 16 % max 1 e.ngroups) % 16
       | none => xpQueue)
    | none => xpQueue
  else if pOpc p == 0x20 || pOpc p == 0x21 then
    match s.entryFor twin (cCtx p) with
    | some e => xpQueue + s.chunkGroup twin e p
    | none => xpEngine
  else xpEngine

/-- The rack that a HALL or MGMT packet for a switch is bound for. -/
def rackOf (p : Packet) : Option Nat := if pDstSw p && (pNet p == 3 || pNet p == 4) then some (pDst p / 16) else none

/-- Does a cell hold a packet of a network for rack `n` that entered the switch at input `e`? -/
def Ox.cellFor (x : Ox) (e n net k : Nat) : Bool :=
  match x.cell k with
  | some c => c.entry == e && rackOf c.pkt == some n && pNet c.pkt == net
  | none => false

/-- Does a VOQ hold one? -/
def Ox.voqFor (x : Ox) (i o net e n : Nat) : Bool := (x.voq i o net).cells.any (fun c => x.cellFor e n net c.1)

/-- The hall output in whose VOQ an earlier packet of the input for rack `n` waits: the next one follows it there (R118). -/
def Ox.follows (x : Ox) (i n net : Nat) : Option Nat := ((List.range 16).map (fun k => xpHall + k)).find? (fun o => x.voqFor i o net i n)

/-- Does an earlier packet that entered at `e` stand on the way through the spill queue of rack `n`: bound for it, in it, or read from it and not gone (R118)? -/
def Ox.behind (x : Ox) (e n net : Nat) : Bool :=
  let q := xpQueue + n / 4
  (x.inst (0x60 + n)).items.any (fun it => it.input == e && pNet it.pkt == net)
    || x.voqFor e q net e n
    || (List.range 16).any (fun k => x.voqFor q (xpHall + k) net e n)
    || x.flight.any (fun f => (f.output == q || f.input == q) && x.cellFor e n net f.cell)

/-- The hall output that is open to rack `n` now: its own port, or the port of its intermediate; `fwd`: only directly (R127, cases 2 and 3; R128). -/
def Common.hallOpen (c : Common) (n : Nat) (fwd : Bool) : Option Nat :=
  let via := c.fld (ob 0x5210 n) 3 6
  if c.rtMode n = 2 ∧ c.steered n then some (xpHall + n / 4)
  else if !fwd && c.bit (ob 0x5210 n) 2 && c.steered via then some (xpHall + via / 4)
  else none

/-- The route of a HALL or MGMT packet of input `i` for the switch of rack `n` on this plane (R127, R128). A packet keeps its place behind those that entered with it and wait (R118): behind one that waits for a hall output it joins that VOQ, unless it is the head of one itself (`again`), behind one in the spill queue it joins that. -/
def Block.hallRoute (s : Block) (again : Bool) (i n : Nat) (fwd : Bool) (p : Packet) : Route :=
  if n = s.swRack then .out (s.consumer false p)
  else match (if again then none else s.ox.follows i n (pNet p)) with
    | some o => .out o
    | none =>
      if s.sw.rtMode n = 2 && s.ox.behind i n (pNet p) then .spill n
      else match s.sw.hallOpen n fwd with
        | some o => .out o
        | none => if s.sw.rtMode n = 2 then .spill n else .noRoute

/-- The route of a packet of input `i` that has passed its checks (R126, R371). START and CATCH_ANN name no switch on a crew link: they are for the cox core of the switch that receives them. -/
def Block.route (s : Block) (again : Bool) (i : Nat) (fwd : Bool) (p : Packet) : Route :=
  if !pDstSw p && (pOpc p == 0x38 || pOpc p == 0x39) then .out xpCox
  else if !pDstSw p then
    (if pDst p / 128 = s.swRack then .out (pDst p % 128) else .noRoute)
  else if pDst p = s.swId then .out (s.consumer false p)
  else if pNet p == 2 then
    (if pDst p = s.twinId then (if s.sw.standIn then .out (s.consumer true p) else .out (bridgeOutput p)) else .noRoute)
  else if pNet p == 3 || pNet p == 4 then
    (if pDst p = s.twinId && pNet p == 4 then .out (bridgeOutput p)
     else if pDst p % 16 = s.swPlane then s.hallRoute again i (pDst p / 16) fwd p else .noRoute)
  else .noRoute

/-- The crossbar output of a route: a spill goes through the queue port of the rack's instances (R141). -/
def Route.port : Route → Option Nat
  | .out o => some o
  | .spill n => some (xpQueue + n / 4)
  | .noRoute => none

/-! ### NACK and REACH (R124) -/

/-- Packets that a unit of the switch itself sends, one for each output. With no cell to be had, or behind one that waits already, they wait; none is lost (R152). -/
def Block.unitSendAll (s : Block) (i : Nat) (outs : List (Nat × Packet)) : Block :=
  let wait := s.modOx (fun x => { x with unitQ := x.unitQ ++ [(i, outs)] })
  if outs.isEmpty then s
  else if s.ox.unitQ.any (fun w => w.1 == i) then wait
  else match s.enqueueAll i outs s.sw.stroke false i with
    | some t => t
    | none => wait

def Block.unitSend (s : Block) (i : Nat) (outs : List Nat) (p : Packet) : Block := s.unitSendAll i (outs.map (fun o => (o, p)))

/-- The units' waiting packets take cells in order as cells are free. -/
def Block.unitPump (s : Block) : Block :=
  s.ox.unitQ.foldl (fun s w => s.unitSendAll w.1 w.2) (s.modOx (fun x => { x with unitQ := [] }))

/-- NACK to the source of a REQ packet whose crew port is not ACTIVE: the crew port of the source makes it, an RSP packet of that input (R140). -/
def Block.sendNack (s : Block) (p : Packet) : Block :=
  s.unitSend (pSrc p % 128) [pSrc p % 128]
    (({ net := 1, opc := 0x18, src := s.swId, srcSw := true, dst := pSrc p, tenant := pTenant p } : Hdr).packet (pTag p) 0 0 [])

/-- REACH to every endpoint on an ACTIVE crew port: crew port `slot` went down or came back. -/
def Block.sendReach (s : Block) (slot : Nat) (up : Bool) : Block :=
  ((List.range 72).filter (fun n => s.sw.lstate n == lsActive)).foldl (fun s n =>
    s.unitSend xpCox [n] (({ net := 4, opc := 0x3A, src := s.swId, srcSw := true, dst := s.swRack * 128 + n } : Hdr).packet
      (packArg [(7, slot), (1, b2n up), (4, s.swPlane)]) 0 0 [])) s

/-! ### Ingress -/

/-- A packet that passed its checks enters its VOQ; a REQ packet for a crew port that is not ACTIVE is answered with NACK, a HALL or MGMT packet without a route is dropped. While no cell is free it stays with its link. -/
def Block.admitPacket (s : Block) (pp : Nat) (fwd : Bool) (p : Packet) : Block :=
  match (s.route false (linkInput pp p) fwd p).port with
  | none => s.refuse pp noRouteCause p
  | some o =>
    if pNet p == 0 && decide (o < 72) && s.sw.lstate o != lsActive then
      (s.modSw (fun c => c.takeRx pp p)).sendNack p
    else
      match s.enqueue (linkInput pp p) o p with
      | some t => t.modSw (fun c => c.rxDrop pp p)
      | none => s

/-- CREW_PORT_INGRESS: the checks of R132 and R341, then the route. Port 0x58 is the bridge, where the twin's packets arrive: they pass the class checks, the partition check does not apply, and packets for a slot leave on its crew port (R371). A COLL packet for the twin is noted as one condition of a stand-in (R372); a fenced switch drops COLL arrivals. An injected lost request (point 0x60) disappears here. -/
def execCrewPortIngress (port : BitVec 7) (p : Packet) (s : State) : Host.Outcome State Fault Refusal :=
  s.act fun s =>
    let pp := port.toNat
    (if s.sw.inReset || s.sw.parityStopped 5 then s
      else
        let s0 := if pNet p == 2 && pDstSw p && pDst p == s.twinId && pp < 72 && s.sw.lstate 0x58 != lsActive then s.modOx (fun x => { x with twinSeen := true }) else s
        let cause := if pp < 72 then s0.crewCause pp p
          else if classBad p (linkNets .ox720 pp) then some 0
          else if pDstSw p && pDst p != s.swId then some 7 else none
        match cause with
        | some k => s0.refuse pp k p
        | none =>
          let inj := if pNet p == 0 && s.sw.fld (ob 0x9010 1) 0 8 == pSrc p % 128 then s.sw.occasion 0x60 else (false, s0.sw)
          let s1 := s0.modSw (fun _ => inj.2)
          if inj.1 || (pNet p == 2 && s.sw.isFenced) then s1.modSw (fun c => c.takeRx pp p)
          else s1.admitPacket pp false p)

/-- RATE × 936 and KiB bursts in units of 1/256 byte (R167). -/
def rateUnits (rate : Nat) : Nat := rate * 936
def burstUnits (kib : Nat) : Nat := kib * 1024 * 256

/-- The policer credit of a tenant at a hall port (R171). -/
def Block.policeCredit (s : Block) (hp t : Nat) : Nat := (SMap.get none s.ox.policers (hp * 256 + t)).getD 0

/-- The objects of a tenant's policer have changed: where it is policed and was not, its credit starts full at every port; a credit that stands already is left to the next refill (R168, R171); a tenant that is not policed has none. -/
def Block.policeCaught (s : Block) (t : Nat) : Block :=
  let rate := s.sw.fld (ob 0x5410 t) 0 16
  s.modOx (fun x => { x with policers := (List.range 16).foldl (fun m hp =>
    if rate = 0 then SMap.drop m (hp * 256 + t)
    else match SMap.get none m (hp * 256 + t) with
      | some _ => m
      | none => SMap.set none m (hp * 256 + t) (some (burstUnits (s.sw.fld (ob 0x5410 t) 16 16)))) x.policers })

/-- HALL_PORT_INGRESS: the checks of R131, R132 and R342, the policer, then consumption, forwarding with FWD set, or a drop. -/
def execHallPortIngress (hp : BitVec 4) (p : Packet) (s : State) : Host.Outcome State Fault Refusal :=
  s.act fun s =>
    let pp := 0x48 + hp.toNat
    let t := pTenant p
    (if s.sw.inReset || s.sw.parityStopped 5 then s
      else match s.hallCause pp p with
        | some k => s.refuse pp k p
        | none =>
          let rate := s.sw.fld (ob 0x5410 t) 0 16
          let credit := s.policeCredit hp.toNat t
          let need := pFrame p * 256
          if pNet p == 3 && rate != 0 && decide (credit < need) then
            s.modSw (fun c => ((c.takeRx pp p).count (ob 0x5420 t) 0 32 1).logLimited 0x3005 .info pp pp (packArg [(4, hp.toNat), (8, t)]))
          else
            let s1 := if pNet p == 3 && rate != 0 then s.modOx (fun x => { x with policers := SMap.set none x.policers (hp.toNat * 256 + t) (some (credit - need)) }) else s
            let elsewhere := pDstSw p && pDst p / 16 != s.swRack
            let q : Packet := if elsewhere && pNet p == 3 then { p with w1 := setBits p.w1 31 1 1 } else p
            match (s1.route false (linkInput pp q) true q).port with
            | none => s1.refuse pp noRouteCause p
            | some o =>
              match s1.enqueue (linkInput pp q) o q with
              | some t => t.modSw (fun c => c.rxDrop pp p)
              | none => s)

end Sys2Proof.Machine
end

