-- ==== Sys2Proof/Machine/Moves.lean ====
section
/-!
DEFINITION. What an output can take, aging, the calendar shapers, and the landing of a transfer that has crossed the crossbar (07, R142, R144, R151 to R154, R160, R167 to R170).
-/
namespace Sys2Proof.Machine

/-! ### What an output can take (R142, R169) -/

def Common.pstate (c : Common) (k : Nat) : Nat := c.fld (ob 0x4011 k) 0 3

def egressKey (hp t : Nat) : Nat := hp * 256 + t
def Ox.egressOf (x : Ox) (hp t : Nat) : List Nat := SMap.get [] x.egress (egressKey hp t)
/-- The cells in all egress lists of a hall port. -/
def Ox.egressAll (x : Ox) (hp : Nat) : List Nat := ((x.egress.filter (fun e => e.1 / 256 == hp)).map (fun e => e.2)).flatten

/-- The queue instance that a packet bound for a queue port is written into. -/
def Block.portInst (s : Block) (o : Nat) (p : Packet) : Nat :=
  let n := pDst p / 16
  if pNet p != 2 && n != s.swRack then 0x60 + n % 64 else 0xA0 + (o - xpQueue)

/-- The packets in flight to an output. -/
def Ox.flightTo (x : Ox) (o : Nat) : List Packet :=
  (x.flight.filter (fun f => f.output == o)).filterMap (fun f => (x.cell f.cell).map (fun c => c.pktFor o))

/-- What has crossed to a unit and waits there. -/
def Common.unitWaits (c : Common) (o : Nat) : List Packet := (c.rx.filter (fun r => r.1 == unitRx o)).map (fun r => r.2)

/-- Credits that packets of a network take. -/
def creditSum (net : Nat) (ps : List Packet) : Nat := ((ps.filter (fun p => pNet p == net)).map pCredits).foldl (fun a x => a + x) 0

/-- Can a hall output take one more HALL packet: the limits of its egress lists, and the credits of the link? -/
def Block.egressTakes (s : Block) (hp : Nat) (p : Packet) : Bool :=
  let cells := s.ox.egressAll hp
  let ahead := (s.ox.flightTo (xpHall + hp)).filter (fun q => pNet q == 3)
  let mine := (ahead.filter (fun q => pTenant q == pTenant p)).length
  let credits := creditSum 3 (cells.filterMap (fun k => (s.ox.cell k).map (fun c => c.pkt)) ++ ahead)
  s.sw.lstate (0x48 + hp) == lsActive && decide (credits + pCredits p ≤ (s.sw.link (0x48 + hp)).held 3)
    && decide (cells.length + ahead.length < s.sw.fld (ob 0x5430 0) 0 12)
    && decide ((s.ox.egressOf hp (pTenant p)).length + mine < s.sw.fld (ob 0x5430 0) 12 12)

/-- Is there room in a queue instance for a packet behind those that are on their way to it? -/
def Block.queueTakes (s : Block) (o : Nat) (p : Packet) : Bool :=
  let ii := s.portInst o p
  let ahead := (s.ox.flightTo o ++ s.sw.unitWaits o).filter (fun q => s.portInst o q == ii)
  decide ((s.ox.inst ii).occ + (ahead.map pWords).foldl (fun a x => a + x) 0 + pWords p ≤ s.sw.instCapacity ii)

/-- Can output `o` take the packet, behind those in flight to it? A unit with nothing waiting has room for a packet; what it reports beyond that the spec does not say. -/
def Block.outputTakes (s : Block) (o : Nat) (p : Packet) : Bool :=
  if o < 72 then s.sw.linkTakes o (s.ox.flightTo o) p
  else if o < 88 then
    s.sw.pstate (o - 72) == 3 && (if pNet p == 3 then s.egressTakes (o - 72) p else s.sw.linkTakes (0x48 + (o - 72)) (s.ox.flightTo o) p)
  else if o < 90 then s.sw.linkTakes 0x58 ((s.ox.flightTo 88) ++ (s.ox.flightTo 89)) p
  else if 106 ≤ o ∧ o < 122 then s.queueTakes o p && !s.sw.above (s.portInst o p)
  else
    let waiting := ((s.ox.flightTo o ++ s.sw.unitWaits o).filter (fun q => pNet q == pNet p)).length
    waiting == 0 || Config.unitRoom o (pNet p) waiting

/-! ### Aging (R154) -/

def Block.tooOld (s : Block) (c : Cell) : Bool :=
  pNet c.pkt != 2 && decide (s.sw.fld (ob 0x5100 0) 0 16 * cclkUs < s.sw.since c.arrived)

/-- Count and log a packet dropped for age. -/
def Block.ageCount (s : Block) (net input : Nat) : Block :=
  s.modSw (fun w => (w.count (ob 0x5101 net) 0 32 1).logLimited 0x3001 .uncorrected 0xFF net (packArg [(3, net), (7, input)]))

/-- Drop a cell's copy for age out of the VOQ of its input. -/
def Block.ageDrop (s : Block) (k : Nat) (c : Cell) : Block :=
  ((s.modOx (fun x => x.unref k)).inputCredits c.input c.pkt).ageCount (pNet c.pkt) c.input

/-- Take the head off a VOQ. -/
def Block.popVoq (s : Block) (i o net : Nat) : Block :=
  s.modOx (fun x => x.setVoq i o net { x.voq i o net with cells := (x.voq i o net).cells.drop 1 })

/-! ### Calendar shapers (R167 to R170) -/

/-- The index of the current wheel slot. -/
def Common.slotNow (c : Common) : Nat := c.stroke / 64

/-- Put a shaper on the wheel when its credit is below zero, else into service. -/
def Shaper.place (sh : Shaper) (rate now : Nat) : Shaper :=
  if sh.credit < 0 then { sh with due := some (now + min 4095 (((-sh.credit).toNat + rateUnits rate - 1) / max 1 (rateUnits rate))) }
  else { sh with due := none }

/-- A refill: the slots since the last one at the rate now applied, capped at the burst (R167, R168). -/
def Shaper.refill (sh : Shaper) (rate burst now : Nat) : Shaper :=
  let c := min (sh.credit + (rateUnits rate * (now - sh.last) : Nat)) (burstUnits burst : Nat)
  ({ sh with credit := c, last := now } : Shaper).place rate now

/-- A tenant has a packet: one that was inactive starts at the current virtual time. -/
def Shaper.wake (sh : Shaper) (burst now : Nat) : Shaper := if sh.active then sh else ⟨(burstUnits burst : Nat), now, none, true⟩

def Shaper.open_ (sh : Shaper) : Bool := sh.due.isNone && decide (0 ≤ sh.credit)

/-- Sending subtracts the frame bytes (R166, R167). -/
def Shaper.send (sh : Shaper) (rate bytes now : Nat) : Shaper := ({ sh with credit := sh.credit - (bytes * 256 : Nat) } : Shaper).place rate now

/-- With an empty queue and not on the wheel the tenant is inactive. -/
def Shaper.rest (sh : Shaper) (queueEmpty : Bool) : Shaper := if queueEmpty && sh.due.isNone then ⟨0, 0, none, false⟩ else sh

def idleShaper : Shaper := ⟨0, 0, none, false⟩

def Block.injShaper (s : Block) (t : Nat) : Shaper := SMap.get idleShaper s.oe.shapers t
def Block.hallShaper (s : Block) (hp t : Nat) : Shaper := SMap.get idleShaper s.ox.shapers (egressKey hp t)
def Common.injRate (c : Common) (t : Nat) : Nat := c.fld (ob 0xB300 t) 0 16
def Common.injBurst (c : Common) (t : Nat) : Nat := c.fld (ob 0xB300 t) 16 16
def Common.shapeRate (c : Common) (t : Nat) : Nat := c.fld (ob 0x5400 t) 0 16
def Common.shapeBurst (c : Common) (t : Nat) : Nat := c.fld (ob 0x5400 t) 16 16

/-- Does the injection shaper act on a packet (R170)? -/
def injShaped (p : Packet) : Bool := pNet p == 0 || pNet p == 2

/-- Has a tenant no packet that waits for injection? -/
def Block.injEmpty (s : Block) (t : Nat) : Bool := !s.ep.txq.any (fun x => pTenant x.2 == t && injShaped x.2)

/-- The shapers of the OE36 follow its queues: a tenant whose first packet has come wakes, one whose queue is empty rests. -/
def Block.injScan (s : Block) : Block :=
  let now := s.ep.slotNow
  let woken := ((s.ep.txq.filter (fun x => injShaped x.2)).map (fun x => pTenant x.2)).foldl (fun m t =>
    SMap.set idleShaper m t ((SMap.get idleShaper m t).wake (s.ep.injBurst t) now)) s.oe.shapers
  s.modOe (fun o => { o with shapers := woken.foldl (fun m e => SMap.set idleShaper m e.1 (e.2.rest (s.injEmpty e.1))) woken })

/-- Those of the hall ports follow the egress lists. -/
def Block.hallScan (s : Block) : Block :=
  let now := s.sw.slotNow
  let woken := (s.ox.egress.filter (fun e => !e.2.isEmpty)).foldl (fun m e =>
    SMap.set idleShaper m e.1 ((SMap.get idleShaper m e.1).wake (s.sw.shapeBurst (e.1 % 256)) now)) s.ox.shapers
  s.modOx (fun x => { x with shapers := woken.foldl (fun m e => SMap.set idleShaper m e.1 (e.2.rest (SMap.get [] s.ox.egress e.1).isEmpty)) woken })

/-! ### Landing (R144, R151, R153, R160) -/

/-- A packet has crossed: its credits go back, unless it lands in an instance above its high watermark, which withholds them. -/
def Block.crossCredits (s : Block) (i o : Nat) (p : Packet) : Block :=
  match portLink i with
  | some pp =>
    if tookCredits i p && 106 ≤ o && o < 122 && s.sw.above (s.portInst o p) then
      s.modOx (fun x => { x with withheld := x.withheld ++ [⟨s.portInst o p, pp, pNet p, pCredits p⟩] })
    else s.inputCredits i p
  | none => s

/-- Hand a packet on to output `o`. A cell on a hall egress list stays linked, now on the account of the shared pool, since its credits are back; elsewhere its reference falls. -/
def Block.handOn (s : Block) (i o k : Nat) (p : Packet) (c : Cell) : Block :=
  let s1 := s.crossCredits i o p
  if o < 72 then (s1.modOx (fun x => x.unref k)).modSw (fun c => c.queueTx o p)
  else if o < 88 ∧ pNet p = 3 then
    let key := egressKey (o - 72) (pTenant p)
    s1.modOx (fun x => { x with
      cells := SMap.set none x.cells k (some { c with pool := true }), egress := SMap.set [] x.egress key (SMap.get [] x.egress key ++ [k]),
      shapers := SMap.set idleShaper x.shapers key ((SMap.get idleShaper x.shapers key).wake (s.sw.shapeBurst (pTenant p)) s.sw.slotNow) })
  else if o < 88 then (s1.modOx (fun x => x.unref k)).modSw (fun c => c.queueTx (0x48 + (o - 72)) p)
  else if o < 90 then (s1.modOx (fun x => x.unref k)).modSw (fun c => c.queueTx 0x58 p)
  else if 106 ≤ o ∧ o < 122 ∧ pNet p ≠ 2 then (s1.modOx (fun x => x.unref k)).instWrite (s.portInst o p) p c.arrived c.entry
  else (s1.modOx (fun x => x.unref k)).modSw (fun c => { c with rx := c.rx ++ [(unitRx o, p)] })

/-- Transfers in flight land. -/
def Block.landFlights (s : Block) (sel : Flight → Bool) : Block :=
  (s.ox.flight.filter sel).foldl (fun s f =>
    match s.ox.cell f.cell with
    | some c => s.handOn f.input f.output f.cell (c.pktFor f.output) c
    | none => s) (s.modOx (fun x => { x with flight := x.flight.filter (fun f => !sel f) }))

/-- A transfer in flight to a link lands there. -/
def flightOn (pp : Nat) (f : Flight) : Bool := portLink f.output == some pp

end Sys2Proof.Machine
end

