-- ==== Sys2Proof/Machine/Griward.lean ====
section
/-!
DEFINITION. The Griward recorder: its records and ring, RECORD and REPLAY, divergences (14, R335 to R337).
-/
namespace Sys2Proof.Machine

/-! ### CRC-64 (R335) -/

/-- The generator of ECMA-182: x^64 + x^62 + x^57 + ... + 1. -/
def crc64Poly : BitVec 64 := 0x42F0E1EBA9EA3693

def crc64Bit (c : BitVec 64) : BitVec 64 := if c.msb then (c <<< 1) ^^^ crc64Poly else c <<< 1

def crc64Byte (c : BitVec 64) (b : Byte) : BitVec 64 :=
  let x := c ^^^ (BitVec.ofNat 64 b.toNat <<< 56)
  crc64Bit (crc64Bit (crc64Bit (crc64Bit (crc64Bit (crc64Bit (crc64Bit (crc64Bit x)))))))

/-- CRC-64 of ECMA-182: most significant bit first, from zero, nothing inverted. -/
def crc64 (l : List Byte) : BitVec 64 := l.foldl crc64Byte 0

/-! ### Records -/

abbrev gwMarker : Nat := 0
abbrev gwArrival : Nat := 1
abbrev gwCatch : Nat := 2
abbrev gwHold : Nat := 3
abbrev gwAck : Nat := 4
abbrev gwRefresh : Nat := 5
abbrev gwRetry : Nat := 6
abbrev gwDone : Nat := 7

/-- The 32 bytes of a record (R335). -/
def gwBytes (stroke kind flags ctx src arg digest launch : Nat) : List Byte :=
  leBytes 6 stroke ++ leBytes 1 kind ++ leBytes 1 flags ++ leBytes 2 ctx ++ leBytes 2 src ++ leBytes 4 arg ++ leBytes 8 digest ++ leBytes 4 launch ++ leBytes 4 0

/-- GW_MODE, GW_REGION in bytes, and the records that the ring holds. -/
def Common.gwMode (c : Common) : Nat := c.fld (ob 0xC020 0) 0 2
def Common.gwBase (c : Common) : Nat := c.fld (ob 0xC020 1) 0 20 * 2 ^ 20
def Common.gwCap (c : Common) : Nat := c.fld (ob 0xC020 1) 20 20 * 32768

/-- The bytes of the record at ring position `i`, positions counted on from the MARKER. -/
def Block.gwAt (s : Block) (i : Nat) : List Byte := Memory.readN s.ox.bh (s.sw.gwBase + 32 * (i % max 1 s.sw.gwCap)) 32

def gwStroke (r : List Byte) : Nat := leAt r 0 6
def gwKind (r : List Byte) : Nat := leAt r 6 1
def gwLaunch (r : List Byte) : Nat := leAt r 24 4

/-- Positions that the ring holds, oldest first. -/
def Block.gwPositions (s : Block) : List Nat :=
  let n := min s.ox.gwWp s.sw.gwCap
  (List.range n).map (fun i => s.ox.gwWp - n + i)

def Block.gwPut (s : Block) (i : Nat) (r : List Byte) : Block :=
  s.modOx (fun x => x.bhWrite (s.sw.gwBase + 32 * (i % max 1 s.sw.gwCap)) r false 0 (SMap.get 0 x.keyGen 0))

/-- Put a record at position `i`, behind the records of its CCLK with a smaller or the same KIND. -/
def Block.gwInsert (s : Block) (r : List Byte) : Nat → Nat → Block
  | 0, i => s.gwPut i r
  | f + 1, i =>
    let before := s.gwAt (i - 1)
    if 1 < i && gwStroke before == gwStroke r && decide (gwKind r < gwKind before) then (s.gwPut i before).gwInsert r f (i - 1) else s.gwPut i r

/-- Write a record (R336). It is lost while the boathouse cannot be written; with WRAP = 0 a full ring stops the recorder. -/
def Block.gwWrite (s : Block) (r : List Byte) : Block :=
  if !s.sw.secureReady then
    s.modSw (fun c => (c.count (ob 0xC020 3) 0 32 1).logLimited 0xC005 .uncorrected 0xFF 0 (packArg [(32, 1)]))
  else if !s.sw.bit (ob 0xC020 0) 3 && decide (s.sw.gwCap ≤ s.ox.gwWp) then s.modSw (fun c => c.setFld (ob 0xC020 0) 0 2 0)
  else
    let s1 := s.gwInsert r 64 s.ox.gwWp
    (s1.modOx (fun x => { x with gwWp := x.gwWp + 1 })).when (gwKind r != gwMarker) (fun s => s.modSw (fun c => c.count (ob 0xC020 2) 0 48 1))

/-- One record of the event now, in RECORD mode. -/
def Block.gwRecord (s : Block) (kind flags ctx src arg digest launch : Nat) : Block :=
  if s.sw.gwMode = 1 then s.gwWrite (gwBytes s.sw.stroke kind flags ctx src arg digest launch) else s

/-! ### The selecting catch -/

/-- The ring's first MARKER: its position. A record of zeros was never written. -/
def Block.gwFirstMarker (s : Block) : Option Nat := s.gwPositions.find? (fun i => gwKind (s.gwAt i) == 0 && gwStroke (s.gwAt i) != 0)

/-- A catch that selects RECORD writes the MARKER; one that selects REPLAY fixes the offset of the run. -/
def Block.gwSelect (s : Block) : Block :=
  match s.sw.gwMode with
  | 1 =>
    let s1 := (s.modOx (fun x => { x with gwWp := 0 })).modSw (fun c => c.setFld (ob 0xC020 2) 0 48 0)
    s1.gwRecord gwMarker 0 0 0 (s.sw.fld (ob 0xC020 2) 0 32) 0 0
  | 2 =>
    let m := match s.gwFirstMarker with
      | some i => gwStroke (s.gwAt i)
      | none => s.sw.stroke
    s.modOx (fun x => { x with gwOffset := (s.sw.stroke : Int) - (m : Int), gwSeen := [] })
  | _ => s

/-! ### Replay (R337) -/

/-- A divergence against the record at position `i`: counted, the first kept, logged. -/
def Block.gwDiverge (s : Block) (i : Nat) : Block :=
  let idx := match s.gwFirstMarker with
    | some m => i - m
    | none => i
  s.modSw (fun c =>
    let c1 := if c.fld (ob 0xC020 4) 0 32 = 0 then c.setFld (ob 0xC020 5) 0 48 idx else c
    (c1.count (ob 0xC020 4) 0 32 1).logLimited 0xC006 .info 0xFF 0 (packArg [(40, idx), (8, gwKind (s.gwAt i))]))

/-- The stroke count at which the event of a record falls in the run. -/
def Block.gwTime (s : Block) (i : Nat) : Int := (gwStroke (s.gwAt i) : Int) + s.ox.gwOffset

/-- The key of an input's arrivals: context, input with HALL, launch. -/
def gwKey (ctx input : Nat) (hall : Bool) (launch : Nat) : Nat := ctx % 4096 + 4096 * (input % 128 + 128 * b2n hall) + 2 ^ 20 * launch

/-- The record of the next chunk of an input, by its number. -/
def Block.gwMatch (s : Block) (ctx input : Nat) (hall : Bool) (launch : Nat) : Option Nat :=
  let n := SMap.get 0 s.ox.gwSeen (gwKey ctx input hall launch)
  (s.gwPositions.filter (fun i =>
    let r := s.gwAt i
    gwKind r == gwArrival && leAt r 8 2 % 4096 == ctx % 4096 && leAt r 10 2 % 128 == input && bitAt (leAt r 10 2) 8 == hall && gwLaunch r == launch))[n]?

/-- A chunk at the reader under REPLAY: it takes its record; its lateness and its digest are compared. The answer is the stroke count before which it does not land. -/
def Block.gwArrive (s : Block) (ctx input : Nat) (hall : Bool) (launch arrived : Nat) (payload : List Byte) : Option Nat × Block :=
  if s.sw.gwMode = 2 then
    (match s.gwMatch ctx input hall launch with
     | none => (none, s)
     | some i =>
       let s1 := s.modOx (fun x => { x with gwSeen := SMap.modify 0 x.gwSeen (gwKey ctx input hall launch) (fun n => n + 1) })
       let t := s.gwTime i
       let late := decide (t < (arrived : Int))
       let bad := bitAt (leAt (s.gwAt i) 7 1) 0 && leAt (s.gwAt i) 16 8 != (crc64 payload).toNat
       let s2 := if late then s1.gwDiverge i else s1
       let s3 := if bad then s2.gwDiverge i else s2
       (if (s.sw.stroke : Int) < t then some t.toNat else none, s3))
  else (none, s)

/-- The record of a landing. -/
def Block.gwLanded (s : Block) (ctx input : Nat) (pre hall : Bool) (chunk launch : Nat) (payload : List Byte) : Block :=
  let dig := s.sw.bit (ob 0xC020 0) 2
  s.gwRecord gwArrival (b2n dig) ctx (packArg [(7, input), (1, b2n pre), (1, b2n hall)]) chunk (if dig then (crc64 payload).toNat else 0) launch

/-- A DONE: recorded, or compared with the recorded DONE of its launch. -/
def Block.gwDoneAt (s : Block) (ctx launch lag : Nat) : Block :=
  if s.sw.gwMode = 2 then
    (match s.gwPositions.find? (fun i =>
        let r := s.gwAt i
        gwKind r == gwDone && leAt r 8 2 % 4096 == ctx % 4096 && gwLaunch r == launch) with
     | some i => if s.gwTime i != (s.sw.stroke : Int) || leAt (s.gwAt i) 12 4 != lag % 2 ^ 32 then s.gwDiverge i else s
     | none => s)
  else s.gwRecord gwDone 0 ctx 0 lag 0 launch

/-- A transition of HOLD_WATER_N, an acknowledgement that SC62 or SC63 counts, a link replay. -/
def Block.gwHoldAt (s : Block) (entering : Bool) : Block := s.gwRecord gwHold 0 0 (b2n entering) 0 0 0
def Block.gwAckAt (s : Block) (sc : Nat) : Block := s.gwRecord gwAck 0 0 sc 0 0 0
def Block.gwRetryAt (s : Block) (port n : Nat) : Block := s.gwRecord gwRetry 0 0 port n 0 0

/-- An access met a refresh of a stack that takes it `n` CCLK (R333 item 1). -/
def Block.gwRefreshAt (s : Block) (stack n : Nat) : Block := (s.modSw (fun c => c.count (ob 0xC010 0) 0 64 1)).gwRecord gwRefresh 0 0 stack n 0 0

/-- Objects that the scheduled domain reads (R245, R333): the sweep array, programs, contexts and groups, stand-in entries, the control of the hall ports that programs steer, and the staging instances (DEDUCED, log). -/
def gwReads (key : Nat) : Bool :=
  (decide (0x6000 ≤ key / 256) && decide (key / 256 < 0x8000)) || key / 256 == 0x9042 || key / 256 == 0x4010
  || (decide (0x5300 ≤ key / 256) && decide (key / 256 ≤ 0x5305) && decide (0xA0 ≤ key % 256) && decide (key % 256 < 0xB0))

/-- A catch: one record for each object of the scheduled domain that it changed. -/
def Block.gwCatchAt (s : Block) (keys : List Nat) : Block := (keys.filter gwReads).foldl (fun s k => s.gwRecord gwCatch 0 0 0 k 0 0) s

end Sys2Proof.Machine
end

