-- ==== Sys2Proof/Machine/Crossbar.lean ====
section
/-!
DEFINITION. The crossbar and what it feeds: the slot match and its moves, aging, the audit, spill refills, shapers and policers, and the sending of packets on links (06, R116, R318; 07, R142 to R171).
-/
namespace Sys2Proof.Machine

/-! ### Head scans (R154) -/

/-- Drop the heads of a VOQ that are too old; the next one is checked at once. -/
def Block.ageVoq (s : Block) (i o net : Nat) : Nat → Block
  | 0 => s
  | n + 1 =>
    match (s.ox.voq i o net).cells with
    | [] => s
    | (k, _) :: _ =>
      match s.ox.cell k with
      | none => (s.popVoq i o net).ageVoq i o net n
      | some c => if s.tooOld c then ((s.popVoq i o net).ageDrop k c).ageVoq i o net n else s

/-- The same for an egress list, whose packets have returned their credits. -/
def Block.ageEgress (s : Block) (key : Nat) : Nat → Block
  | 0 => s
  | n + 1 =>
    match SMap.get [] s.ox.egress key with
    | [] => s
    | k :: r =>
      let drop := s.modOx (fun x => { x with egress := SMap.set [] x.egress key r })
      match s.ox.cell k with
      | none => drop.ageEgress key n
      | some c => if s.tooOld c then ((drop.modOx (fun x => x.unref k)).ageCount (pNet c.pkt) c.input).ageEgress key n else s

/-- HEAD_SCAN: every VOQ head and every hall egress list head (R154). -/
def execHeadScan (s : State) : Host.Outcome State Fault Refusal :=
  s.act fun s =>
    (if s.sw.inReset then s
      else
        let s1 := s.ox.voqs.foldl (fun s v => s.ageVoq (v.1 / 1024) (v.1 / 8 % 128) (v.1 % 8) v.2.cells.length) s
        s.ox.egress.foldl (fun s e => s.ageEgress e.1 e.2.length) s1)

/-! ### Moves (R144, R151, R153) -/

/-- The packets that one grant moves from VOQ (i, o, net): at most 512 bytes in all, only packets enqueued before stroke count `e`; the first always, each further one while the output can take it. Heads that are too old are dropped on the way. -/
def Block.grantMove (s : Block) (i o net e : Nat) (bytes : Nat) : Nat → Block
  | 0 => s
  | n + 1 =>
    match (s.ox.voq i o net).cells with
    | [] => s
    | (k, t) :: _ =>
      match s.ox.cell k with
      | none => (s.popVoq i o net).grantMove i o net e bytes n
      | some c =>
        if s.tooOld c then ((s.popVoq i o net).ageDrop k c).grantMove i o net e bytes n
        else if t < e ∧ bytes + pFrame c.pkt ≤ 512 ∧ s.outputTakes o (c.pktFor o) then
          ((s.popVoq i o net).modOx (fun x => { x with flight := x.flight ++ [⟨i, o, k⟩] })).grantMove i o net e (bytes + pFrame c.pkt) n
        else s

/-! ### Hall heads and spill queues before a match (R127, R128, R318) -/

/-- Did a packet reach this switch over a hall link, so that it is sent on directly or not at all? -/
def fromHall (i : Nat) : Bool := (decide (72 ≤ i) && decide (i < 88))

/-- Is a packet that entered at `i` sent only directly (R128)? -/
def onlyDirect (i : Nat) (p : Packet) : Bool := fromHall i || (pNet p == 3 && hFwd p)

/-- The route of the head of a VOQ for hall output `o`. An announcement that the cox core sends over a link stays with it. -/
def Block.routeAgain (s : Block) (i o : Nat) (p : Packet) : Route :=
  if i = xpCox ∧ pOpc p = 0x39 then .out o else s.route true i (onlyDirect i p) p

/-- Route the head of a VOQ for a hall output afresh; where it no longer leads there it goes where R127 sends it now. -/
def Block.rerouteHead (s : Block) (i o net : Nat) : Nat → Block
  | 0 => s
  | n + 1 =>
    match (s.ox.voq i o net).cells with
    | [] => s
    | (k, _) :: _ =>
      match s.ox.cell k with
      | none => s
      | some c =>
        match (s.routeAgain i o c.pkt).port with
        | none =>
          ((((s.popVoq i o net).modOx (fun x => x.unref k)).inputCredits i c.pkt).modSw (fun w =>
            w.countDrop ((portLink i).getD (0x48 + (o - 72))) noRouteCause c.pkt (pSrc c.pkt % 128))).rerouteHead i o net n
        | some o' =>
          if o' = o then s
          else ((s.popVoq i o net).modOx (fun x => x.setVoq i o' net { x.voq i o' net with cells := (x.voq i o' net).cells ++ [(k, s.sw.stroke)] })).rerouteHead i o net n

/-- Packets that a queue port has read from its spill instances for hall output `o`, and that no longer leave there, stand in front of their instances again, in order: a rack that is not steered in holds back no other. -/
def Block.recallSpill (s : Block) (i o net : Nat) : Block :=
  let v := s.ox.voq i o net
  let away := fun (k : Nat) => match s.ox.cell k with
    | some c => (match rackOf c.pkt with
      | some n => s.sw.hallOpen n (onlyDirect c.entry c.pkt) != some o
      | none => false)
    | none => false
  let s1 := s.modOx (fun x => x.setVoq i o net { v with cells := v.cells.filter (fun e => !away e.1) })
  ((v.cells.map (fun e => e.1)).filter away).reverse.foldl (fun s k =>
    match s.ox.cell k with
    | some c => (s.modOx (fun x => x.unref k)).instUnread (0x60 + (rackOf c.pkt).getD 0) c.pkt c.arrived c.entry
    | none => s) s1

/-- The heads of every VOQ for a hall output are routed afresh: those of the queue ports go back, the others where R127 sends them now. -/
def Block.rerouteAll (s : Block) : Block :=
  s.ox.voqs.foldl (fun s v =>
    let i := v.1 / 1024
    let o := v.1 / 8 % 128
    if 72 ≤ o ∧ o < 88 then (if xpQueue ≤ i ∧ i < xpCox then s.recallSpill i o (v.1 % 8) else s.rerouteHead i o (v.1 % 8) v.2.cells.length) else s) s

/-- A queue port sends on what a hall spill instance holds while a route is open, up to 512 bytes a slot and no more than it can hand over in one; packets too old are dropped as they leave. -/
def Block.drainSpill (s : Block) (n bytes : Nat) : Nat → Block
  | 0 => s
  | f + 1 =>
    let ii := 0x60 + n
    match (s.ox.inst ii).front with
    | none => s
    | some it =>
      if s.fciHolds ii then s
      else match s.sw.hallOpen n (onlyDirect it.input it.pkt) with
        | none => s
        | some o =>
          if s.tooOld { pkt := it.pkt, arrived := it.arrived, refs := 0, input := 0 } then
            ((s.instAdvance ii it).ageCount (pNet it.pkt) (xpQueue + n / 4)).drainSpill n bytes f
          else if 512 < bytes + pFrame it.pkt ∨ 16 ≤ (s.ox.voq (xpQueue + n / 4) o (pNet it.pkt)).cells.length then s
          else match s.enqueueAll (xpQueue + n / 4) [(o, it.pkt)] it.arrived false it.input with
            | some t => (t.instAdvance ii it).drainSpill n (bytes + pFrame it.pkt) f
            | none => s

/-- The writers that wait for room in a queue instance: the packets at the heads of the VOQs of its queue port that it cannot hold, and the chunks that have crossed and are not written (R160). -/
def Block.fullScan (s : Block) : Block :=
  let full := s.ox.voqs.filterMap (fun v =>
    let o := v.1 / 8 % 128
    match v.2.cells with
    | (k, _) :: _ => (s.ox.cell k).bind (fun c => if 106 ≤ o ∧ o < 122 ∧ s.queueTakes o (c.pktFor o) = false then some (s.portInst o (c.pktFor o)) else none)
    | [] => none)
  full.foldl (fun s ii => s.fullWait ii) (s.modOx (fun x => { x with
    fullWaiting := x.fullWaiting.filter (fun ii => full.contains ii || decide (ii < 0x60) || !(s.sw.unitWaits (xpQueue + (ii - 0xA0))).isEmpty) }))

/-! ### The match (R145, R146, R150) -/

/-- The eligible VOQs (input, output, network) for a match that considers packets enqueued before `e`. A fenced switch sends no COLL packet (R372). -/
def Block.eligible (s : Block) (e : Nat) : List (Nat × Nat × Nat) :=
  (s.ox.voqs.filter (fun v =>
    match v.2.cells with
    | (k, t) :: _ => decide (t < e) && !(s.sw.isFenced && v.1 % 8 == 2) && (match s.ox.cell k with
        | some c => s.outputTakes (v.1 / 8 % 128) (c.pktFor (v.1 / 8 % 128))
        | none => false)
    | [] => false)).map (fun v => (v.1 / 1024, v.1 / 8 % 128, v.1 % 8))

/-- The first of some ports at or after `p`, modulo 124. -/
def firstAfter (p : Nat) (l : List Nat) : Option Nat :=
  l.foldl (fun best x => match best with
    | none => some x
    | some b => if (x + 124 - p) % 124 < (b + 124 - p) % 124 then some x else some b) none

/-- One iteration of request, grant and accept over the eligible pairs: the matches it makes. -/
def iterate (req : List (Nat × Nat)) (gptr aptr : SMap Nat) : List (Nat × Nat) :=
  let outs := (req.map (fun r => r.2)).eraseDups
  let grants := outs.filterMap (fun o => (firstAfter (SMap.get 0 gptr o) ((req.filter (fun r => r.2 == o)).map (fun r => r.1))).map (fun i => (i, o)))
  let ins := (grants.map (fun g => g.1)).eraseDups
  ins.filterMap (fun i => (firstAfter (SMap.get 0 aptr i) ((grants.filter (fun g => g.1 == i)).map (fun g => g.2))).map (fun o => (i, o)))

/-- The VOQ of a matched pair that is served (R143): one past the limit first, lowest network number first; otherwise RSP, MGMT, REQ, HALL, COLL. -/
def Block.serveOrder (s : Block) (nets : List Nat) (i o : Nat) : Option Nat :=
  let lim := s.sw.fld (ob 0x5000 0) 0 8
  match ([0, 1, 2, 3, 4].filter (fun n => nets.contains n)).find? (fun n => decide (lim ≤ (s.ox.voq i o n).passed)) with
  | some n => some n
  | none => [1, 4, 0, 3, 2].find? (fun n => nets.contains n)

/-- Serve a dynamic match: the counts of the VOQs passed over, the move, the counters (R143, R147). -/
def Block.serve (s : Block) (elig : List (Nat × Nat × Nat)) (e i o : Nat) : Block :=
  let nets := (elig.filter (fun v => v.1 == i && v.2.1 == o)).map (fun v => v.2.2)
  match s.serveOrder nets i o with
  | none => s
  | some net =>
    let s1 := nets.foldl (fun s n => s.modOx (fun x =>
      let v := x.voq i o n
      x.setVoq i o n { v with passed := if n == net then 0 else v.passed + 1 })) s
    let before := (s1.ox.voq i o net).cells.length
    let s2 := (s1.modSw (fun c => c.count (ob 0x5001 0) 0 64 1)).grantMove i o net e 0 before
    if net == 2 then s2.modSw (fun c => c.count (ob 0x5001 3) 0 64 (before - (s2.ox.voq i o net).cells.length)) else s2

/-- The pairs that the latched pattern reserves: (input, output). Pattern 0 reserves nothing. -/
def Block.reservedPairs (s : Block) : List (Nat × Nat) :=
  if s.ox.pattern = 0 then [] else (List.range 124).filterMap (fun o => (s.sw.reserved s.ox.pattern o).map (fun i => (i, o)))

/-- SLOT_MATCH: at an even stroke count, the match for the next slot: hall heads routed afresh, spill queues moved on, reserved pairs first, then three iterations over the free ports; matched packets are in flight until the slot begins. Of the latter, REQ, HALL and COLL stand back in a CCLK in which the slew limiter defers them (R410). -/
def execSlotMatch (s : State) : Host.Outcome State Fault Refusal :=
  s.act fun s =>
    (if s.sw.inReset || s.sw.stroke % 2 != 0 then s
      else
        let e := s.sw.stroke
        let s0 := s.unitPump
        let s1 := s0.rerouteAll.fullScan
        let s2 := s1.ox.insts.foldl (fun s q => if 0x60 ≤ q.1 ∧ q.1 < 0xA0 then s.drainSpill (q.1 - 0x60) 0 16 else s) s1
        let elig := s2.eligible e
        let res := s2.reservedPairs
        let used := res.filter (fun r => elig.contains (r.1, r.2, 2))
        let s3 := used.foldl (fun s r => (s.grantMove r.1 r.2 2 e 0 16).modSw (fun c => c.count (ob 0x5001 1) 0 64 1)) s2
        let s4 := s3.modSw (fun c => c.count (ob 0x5001 2) 0 64 (res.length - used.length))
        let dyn := elig.filter (fun v => !s.ox.deferDynamic || v.2.2 == 1 || v.2.2 == 4)
        let pairs := fun (ins outs : List Nat) =>
          ((dyn.map (fun v => (v.1, v.2.1))).eraseDups).filter (fun r => !ins.contains r.1 && !outs.contains r.2)
        let i0 := used.map (fun r => r.1)
        let o0 := used.map (fun r => r.2)
        let m0 := iterate (pairs i0 o0) s4.ox.gptr s4.ox.aptr
        let i1 := i0 ++ m0.map (fun r => r.1)
        let o1 := o0 ++ m0.map (fun r => r.2)
        let gp := m0.foldl (fun g r => SMap.set 0 g r.2 ((r.1 + 1) % 124)) s4.ox.gptr
        let ap := m0.foldl (fun a r => SMap.set 0 a r.1 ((r.2 + 1) % 124)) s4.ox.aptr
        let m1 := iterate (pairs i1 o1) gp ap
        let m2 := iterate (pairs (i1 ++ m1.map (fun r => r.1)) (o1 ++ m1.map (fun r => r.2))) gp ap
        let s5 := s4.modOx (fun x => { x with gptr := gp, aptr := ap })
        (m0 ++ m1 ++ m2).foldl (fun s r => s.serve dyn e r.1 r.2) s5)

/-! ### The audit (R155, R156) -/

/-- Every cell that a VOQ, an egress list or a transfer in flight links. -/
def Ox.linked (x : Ox) : List Nat :=
  ((x.voqs.map (fun v => v.2.cells.map (fun c => c.1))).flatten ++ (x.egress.map (fun e => e.2)).flatten ++ x.flight.map (fun f => f.cell)).eraseDups

/-- AUDIT_PASS, AUDIT_INTERVAL after the last pass began: SEEN from the structures that link cells; a cell found unlinked twice is reclaimed, one that is free and linked is retired. An injected leak (point 0x33) takes a free cell without linking it. -/
def execAuditPass (s : State) : Host.Outcome State Fault Refusal :=
  s.act fun s =>
    (if s.sw.inReset || decide (s.sw.since s.ox.auditAt < s.sw.fld (ob 0x5100 1) 0 16 * cclkMs) then s
      else
        let leak := s.sw.injects 0x33
        let dummy : Cell := { pkt := ⟨0, 0, 0, 0, []⟩, arrived := s.sw.stroke, refs := 1, input := xpCox }
        let arg := s.sw.fld (ob 0x9010 1) 0 19
        let x0 := if !leak then s.ox
          else if s.ox.freed.contains arg then { s.ox with freed := s.ox.freed.erase arg, cells := SMap.set none s.ox.cells arg (some dummy) }
          else (s.ox.takeCell dummy).2
        let s0 : Block := { s with ox := { x0 with auditAt := s.sw.stroke } }
        let s1 := s0.modSw (fun c => (c.occasion 0x33).2)
        let linked := x0.linked
        let s2 := x0.cells.foldl (fun s e =>
          match e.2 with
          | none => s
          | some c =>
            if linked.contains e.1 then s.modOx (fun x => { x with cells := SMap.set none x.cells e.1 (some { c with seen := true, suspect := false }) })
            else if c.suspect then
              (s.modOx (fun x => { x with cells := SMap.drop x.cells e.1, freed := x.freed ++ [e.1] })).modSw (fun w =>
                (w.count (ob 0x5102 0) 0 32 1).log 0x3002 .corrected 0xFF (packArg [(19, e.1)]))
            else s.modOx (fun x => { x with cells := SMap.set none x.cells e.1 (some { c with seen := false, suspect := true }) })) s1
        let both := linked.filter (fun k => x0.freed.contains k)
        let s3 := both.foldl (fun s k =>
          (s.modOx (fun x => { x with freed := x.freed.erase k, retired := insertNat x.retired k })).modSw (fun w =>
            (w.count (ob 0x5102 1) 0 32 1).log 0x3003 .uncorrected 0xFF (packArg [(19, k)]))) s2
        s3.modSw (fun c => c.count (ob 0x5102 2) 0 32 1))

/-! ### Spill refills (R161) -/

/-- The head buffer of the event log refills from the boathouse by whole words (R161). -/
def Common.evtRefill (c : Common) : Common :=
  let n := min c.evtMid ((256 - c.evtHead) / 4 * 4)
  ({ c with evtHead := c.evtHead + n, evtMid := c.evtMid - n } : Common).evtSettle

/-- SPILL_REFILL: the boathouse read that refills a head buffer returns; a block that came back poisoned poisons the packets whose words it holds (R365). Records of the event log carry no poison. -/
def execSpillRefill (inst : BitVec 8) (s : State) : Host.Outcome State Fault Refusal :=
  s.act fun s =>
    let ii := inst.toNat
    (if s.sw.inReset || !instSpill ii then s
      else if ii = 0xB0 then s.modSw (fun c => c.evtRefill.pumpLog)
      else
        let q := s.ox.inst ii
        let dest := max q.headEnd (min q.tailStart (q.rp + instHead ii))
        let bad := ((List.range (dest - q.headEnd)).map (fun i => q.headEnd + i)).filter (fun pos => (s.ox.bhRead (s.sw.spillAddr ii pos) 64).2)
        let items := q.items.map (fun it => if bad.any (fun b => decide (it.pos ≤ b) && decide (b < it.pos + it.words)) then { it with pkt := setPoison it.pkt true } else it)
        (s.modOx (fun x => x.setInst ii { q with headEnd := dest, items := items })).settle ii)

/-! ### Refills (R167 to R171) -/

/-- SHAPER_SLOT: the tenants whose wheel slot has come due refill (R167). -/
def execShaperSlot (part : Part) (hp : BitVec 4) (s : State) : Host.Outcome State Fault Refusal :=
  s.act fun s =>
    let isDue := fun (now : Nat) (sh : Shaper) => match sh.due with
      | some d => decide (d ≤ now)
      | none => false
    (match part with
      | .oe36 =>
        let now := s.ep.slotNow
        (s.oe.shapers.filter (fun e => isDue now e.2)).foldl (fun s e =>
          s.modOe (fun o => { o with shapers := SMap.set idleShaper o.shapers e.1 ((e.2.refill (s.ep.injRate e.1) (s.ep.injBurst e.1) now).rest (s.injEmpty e.1)) })) s
      | .ox720 =>
        let now := s.sw.slotNow
        (s.ox.shapers.filter (fun e => e.1 / 256 == hp.toNat && isDue now e.2)).foldl (fun s e =>
          let sh := (e.2.refill (s.sw.shapeRate (e.1 % 256)) (s.sw.shapeBurst (e.1 % 256)) now).rest (SMap.get [] s.ox.egress e.1).isEmpty
          s.modOx (fun x => { x with shapers := SMap.set idleShaper x.shapers e.1 sh })) s)

/-- POLICER_REFILL, once in each 64 CCLK: every policed tenant's credit at a hall port gains RATE × 936 units, capped at its burst (R171). -/
def execPolicerRefill (hp : BitVec 4) (s : State) : Host.Outcome State Fault Refusal :=
  s.act fun s =>
    (if SMap.get 0 s.ox.policeAt hp.toNat == s.sw.slotNow + 1 then s
     else (s.ox.policers.filter (fun e => e.1 / 256 == hp.toNat)).foldl (fun s e =>
      let t := e.1 % 256
      let rate := s.sw.fld (ob 0x5410 t) 0 16
      match e.2 with
      | some c => if rate = 0 then s else s.modOx (fun x => { x with policers := SMap.set none x.policers e.1 (some (min (c + rateUnits rate) (burstUnits (s.sw.fld (ob 0x5410 t) 16 16)))) })
      | none => s) (s.modOx (fun x => { x with policeAt := SMap.set 0 x.policeAt hp.toNat (s.sw.slotNow + 1) })))

/-! ### Sending on a link (R116, R169, R170) -/

/-- May a tenant inject now? A packet queued in this CCLK has just made its tenant active. -/
def Block.injOpen (s : Block) (p : Packet) : Bool :=
  !injShaped p || s.ep.injRate (pTenant p) == 0
    || ((s.injShaper (pTenant p)).wake (s.ep.injBurst (pTenant p)) s.ep.slotNow).open_

/-- The injection shaper after a packet was sent. -/
def Block.injSent (s : Block) (p : Packet) : Block :=
  let t := pTenant p
  if !injShaped p || s.ep.injRate t == 0 then s
  else
    let now := s.ep.slotNow
    let sh := (((s.injShaper t).wake (s.ep.injBurst t) now).send (s.ep.injRate t) (pFrame p) now).rest (s.injEmpty t)
    s.modOe (fun o => { o with shapers := SMap.set idleShaper o.shapers t sh })

/-- The tenant that a hall port serves next: round-robin in ascending order from the one after the last served, among the lists that hold a packet and may send (R169). -/
def Block.egressNext (s : Block) (hp : Nat) : Option Nat :=
  let last := SMap.get 255 s.ox.egressLast hp
  let ready := (s.ox.egress.filter (fun e => e.1 / 256 == hp && !e.2.isEmpty &&
    (s.sw.shapeRate (e.1 % 256) == 0 || ((s.hallShaper hp (e.1 % 256)).wake (s.sw.shapeBurst (e.1 % 256)) s.sw.slotNow).open_))).map (fun e => e.1 % 256)
  ready.foldl (fun best t => match best with
    | none => some t
    | some b => if (t + 255 - last) % 256 < (b + 255 - last) % 256 then some t else some b) none

/-- A transmitter that has the credits waits for room in its replay buffer (R160). -/
def Block.replayFull (s : Block) (k : Nat) (p : Packet) : Block :=
  let l := s.sw.link k
  if s.sw.lstate k == lsActive && decide (pCredits p ≤ l.held (pNet p)) && decide (2048 < l.replayBuf.length + pCredits p) then s.fullWait k else s

/-- Send the head of a tenant's egress list. -/
def Block.egressSend (s : Block) (hp t : Nat) : Block :=
  match s.ox.egressOf hp t with
  | [] => s
  | k :: r =>
    match s.ox.cell k with
    | none => s.modOx (fun x => { x with egress := SMap.set [] x.egress (egressKey hp t) r })
    | some c =>
      if !s.sw.maySend (0x48 + hp) c.pkt then s.replayFull (0x48 + hp) c.pkt
      else
        let s1 := (s.modSw (fun w => w.sendPacket (0x48 + hp) c.pkt)).modOx (fun x =>
          { (x.unref k).fullDone (0x48 + hp) with egress := SMap.set [] x.egress (egressKey hp t) r, egressLast := SMap.set 255 x.egressLast hp t })
        if s.sw.shapeRate t = 0 then s1
        else
          let now := s.sw.slotNow
          let sh := (((s.hallShaper hp t).wake (s.sw.shapeBurst t) now).send (s.sw.shapeRate t) (pFrame c.pkt) now).rest r.isEmpty
          s1.modOx (fun x => { x with shapers := SMap.set idleShaper x.shapers (egressKey hp t) sh })

/-- The WRM_DATA that must leave next on a crew link whose WRM_MASK has just left (R112): of the same tag, source of the pair. -/
def Block.otherHalf (s : Block) (k : Nat) : Option (Nat × Packet) :=
  match s.oe.mid.find? (fun m => m.1 == k) with
  | some m => s.ep.txq.find? (fun x => x.1 == k && pOpc x.2 == 4 && pTag x.2 == pTag m.2 && pDst x.2 == pDst m.2 && pTenant x.2 == pTenant m.2)
  | none => none

/-- PACKET_TRANSMIT: the next packet of a network goes out on a link that is ACTIVE and holds credits for all of it; on a hall port HALL packets go by tenant, after MGMT. -/
def execPacketTransmit (part : Part) (pp : BitVec 7) (net : BitVec 3) (s : State) : Host.Outcome State Fault Refusal :=
  s.act fun s =>
    let k := pp.toNat
    let n := net.toNat
    (if (s.common part).inReset then s
      else if hallLink part k && n == 3 then
        (if s.sw.txq.any (fun x => x.1 == k && pNet x.2 == 4 && s.sw.maySend k x.2) then s
         else match s.egressNext (k - 0x48) with
          | some t => s.egressSend (k - 0x48) t
          | none => s)
      else
        let c := s.common part
        let half : Option (Nat × Packet) := if part == .oe36 then s.otherHalf k else none
        let next : Option (Nat × Packet) := match half with
          | some y => if pNet y.2 = n then some y else none
          | none => c.txq.find? (fun x => x.1 == k && pNet x.2 == n && (part == .ox720 || s.injOpen x.2))
        match next with
        | none => s
        | some x =>
          if !c.maySend k x.2 then (if part == .ox720 then s.replayFull k x.2 else s)
          else
            let s1 := s.modCommon part (fun c => ({ c with txq := eraseFirst (fun y => y == x) c.txq } : Common).sendPacket k x.2)
            if part == .oe36 then (s1.modOe (fun o => { o with mid := o.mid.filter (fun m => m.1 != k) ++ (if pOpc x.2 = 3 then [x] else []) })).injSent x.2 else s1.modOx (fun x => x.fullDone k))

end Sys2Proof.Machine
end

