-- ==== Sys2Proof/Machine/Lanes.lean ====
section
/-!
DEFINITION. The arithmetic that both parts do on lanes (08, R177 to R190): encoding a block of 32 values, the pre-pass byte, AX64 values and how they travel.
-/
namespace Sys2Proof.Machine

/-! ### One lane's outcome -/

/-- What an operation leaves in a lane: its word and sticky flags; `scale`: the scale byte of the lane's block, where a conversion chose one (256: none); what it counts; `lost`: the spec states no value. -/
structure LaneRes where
  w : BitVec 64 := 0
  scale : Nat := 256
  flags : Nat := 0
  sat : Bool := false
  nanZero : Bool := false
  breach : Bool := false
  lost : Bool := false
deriving DecidableEq, Repr

/-! ### ANCHORED (R186 to R190) -/

/-- The pre-pass byte of a block of values. -/
def blockP (vs : List Val) : Nat :=
  match maxLog vs with
  | none => 0
  | some e => (max e (-112) + 113).toNat % 256

/-- The weight of an AX64 unit: A − 63 for P and N. -/
def axUnit (p n : Nat) : Int := (p : Int) - 113 + (clog2 n : Nat) + 1 - 63

/-- A partial of the hall stage that travelled narrowed, back to AX64 under P and N (R187, R232): no contribution, so R189 does not bound it. -/
def axBack (p n : Nat) (v : Val) : LaneRes :=
  match v with
  | .nan => { flags := 4 }
  | .inf neg => { flags := if neg then 2 else 1 }
  | .fin neg m e =>
    if m = 0 ∨ p = 0 then {}
    else
      let k : Int := (roundUnits m e (axUnit p n) 1 0 : Nat)
      let x := if neg then -k else k
      if -(2 ^ 63 : Int) ≤ x ∧ x < 2 ^ 63 then { w := BitVec.ofInt 64 x } else { lost := true }

/-- A contribution element to AX64 under P and N (R187 to R189). -/
def axOf (p n : Nat) (v : Val) : LaneRes :=
  match v with
  | .nan => { flags := 4 }
  | .inf neg => { flags := if neg then 2 else 1 }
  | .fin neg m e =>
    if m = 0 then {}
    else if p = 0 then { breach := true }
    else
      let ovf := decide ((p : Int) - 113 < (Nat.log2 m : Int) + e)
      let k : Int := if ovf then 2 ^ (63 - clog2 n) - 1 else (roundUnits m e (axUnit p n) 1 0 : Nat)
      { w := BitVec.ofInt 64 (if neg then -k else k), breach := ovf }

/-- The final value of an AX64 sum (R188). -/
def axVal (p n : Nat) (w : BitVec 64) (flags : Nat) : Val :=
  if bitAt flags 2 || (bitAt flags 0 && bitAt flags 1) then .nan
  else if bitAt flags 0 then .inf false
  else if bitAt flags 1 then .inf true
  else if p = 0 ∨ w = 0 then .zero
  else ofInt w.toInt (axUnit p n)

/-- A value as a 64-bit two's-complement integer. -/
def laneInt (v : Val) : BitVec 64 := BitVec.ofNat 64 (encodeInt 64 0 (-(2 ^ 63 : Int)) (2 ^ 63 - 1) v rne 0).bits

/-! ### AX64 lanes on the wire -/

/-- The word that stands for an AX64 lane with flags (R188). A lane whose NAN flag is set, or both infinities, ends as NaN whatever else comes, and a lane with one infinity needs no sum; no sum of N ≥ 2 lanes reaches these three words. The spec gives the flags no place in a chunk: DESIGN CHOICE, log. -/
def axWire (w : BitVec 64) (flags : Nat) : BitVec 64 :=
  if bitAt flags 2 || (bitAt flags 0 && bitAt flags 1) then BitVec.ofNat 64 (2 ^ 63)
  else if bitAt flags 0 then BitVec.ofNat 64 (2 ^ 63 - 1)
  else if bitAt flags 1 then BitVec.ofNat 64 (2 ^ 63 + 1)
  else w

/-- The flags of an AX64 lane as it travels. -/
def axWireFlags (w : BitVec 64) : Nat :=
  if w = BitVec.ofNat 64 (2 ^ 63) then 4 else if w = BitVec.ofNat 64 (2 ^ 63 - 1) then 1 else if w = BitVec.ofNat 64 (2 ^ 63 + 1) then 2 else 0

/-! ### A block of 32 values in a format -/

/-- Encode 32 values into a format: the scale byte and the elements. -/
def encodeLanes (code : Nat) (scaled : Bool) (mode : Nat) (r : Nat → Nat) (vs : List Val) : Nat × List Enc :=
  if hasScale code scaled then encodeBlock code vs mode r
  else (0, (List.range vs.length).map (fun i => encodeElem code (vs.getD i .zero) mode (r i)))

/-- The value of an element with its block's scale byte. -/
def elemVal (code : Nat) (scaled : Bool) (scale bits : Nat) : Val :=
  if hasScale code scaled then decodeScaled code scale bits else decodeElem code bits

/-- Element `j` of `w` bits of a little-endian bit stream that begins at bit `at_` of a list of bytes (R176). -/
def bitElem (bs : List Byte) (at_ w j : Nat) : Nat := leAt bs ((at_ + j * w) / 8) 9 / 2 ^ ((at_ + j * w) % 8) % 2 ^ w

end Sys2Proof.Machine
end

