-- ==== Sys2Proof/Machine/SweepOps.lean ====
section
/-!
DEFINITION. The arithmetic of the tiles, lane by lane: register forms, conversions with the collective's rounding, the ANCHORED pre-pass, AX64 values, reciprocal square root and the MAC array (08, R179 to R190; 09, R195 to R197; 11, R249, R250).
-/
namespace Sys2Proof.Machine

def lanesPerGroup : Nat := 384
def numBlocks : Nat := 12

/-! ### Register forms -/

/-- The exact value of a lane. -/
def laneVal (form : Nat) (w : BitVec 64) : Val :=
  match form with
  | 0 => decodeElem 1 (w.toNat % 2 ^ 32)
  | 1 => decodeElem 0 w.toNat
  | 5 => decodeElem 0 w.toNat
  | 4 => ofInt w.toNat 0
  | _ => ofInt w.toInt 0

/-- A value as a lane of a form, rounded once with RNE. -/
def laneOf (form : Nat) (v : Val) : BitVec 64 :=
  match form with
  | 0 => BitVec.ofNat 64 (encodeElem 1 v rne 0).bits
  | 1 => BitVec.ofNat 64 (encodeElem 0 v rne 0).bits
  | 5 => BitVec.ofNat 64 (encodeElem 0 v rne 0).bits
  | _ => laneInt v

/-- A register's form as floating operations see it. -/
def VReg.isFloat (v : VReg) : Bool := v.form == 0 || v.form == 1 || v.form == 5
def VReg.at_ (v : VReg) (i : Nat) : BitVec 64 := v.lanes.getD i 0
def VReg.val (v : VReg) (i : Nat) : Val := laneVal v.form (v.at_ i)
def VReg.flag (v : VReg) (i : Nat) : Nat := v.flags.getD i 0
/-- A register that nothing has written: zero in the form of the operation's other operand (R418; the kind is DEDUCED, log). -/
def VReg.blank (v : VReg) : Bool := v.lanes.isEmpty && v.form == 0

/-- The form in which elements of a format stand in a register. -/
def formOf (code : Nat) (scaled : Bool) : Nat :=
  if code == 0 && !scaled then 1 else if code == 1 && !scaled then 0 else if isIntFmt code && !scaled then 2 else 5

/-- The lane form that CVT decodes a format to (R249). -/
def laneForm (code : Nat) (scaled : Bool) : Nat := if code == 0 then 1 else if isIntFmt code && !scaled then 2 else 0

/-! ### One lane's outcome -/

def laneRes (form : Nat) (v : Val) : LaneRes := { w := laneOf form v }

/-- The result form of an arithmetic operation (R196): FP64 where an operand is FP64, FP32 for other floats, else integer. -/
def arithForm (l : List VReg) : Nat :=
  if l.any (fun v => v.form == 1) then 1 else if l.any VReg.isFloat then 0 else 2

/-- Minimum and maximum keep the exact value (R183). -/
def exactForm (l : List VReg) : Nat :=
  if l.any (fun v => v.form == 1) then 1 else if l.any (fun v => v.form == 5) then 5 else if l.any (fun v => v.form == 0) then 0 else 2

/-- An integer product that does not fit the lane has no stated value: `lost`. -/
def intRes (x : Int) : LaneRes :=
  if -(2 ^ 63 : Int) ≤ x ∧ x < 2 ^ 63 then { w := BitVec.ofInt 64 x } else { lost := true }

/-- An integer square root, bit by bit from bit `k` down. -/
def isqrt (n : Nat) : Nat → Nat → Nat
  | 0, r => r
  | k + 1, r => if (r + 2 ^ k) * (r + 2 ^ k) ≤ n then isqrt n k (r + 2 ^ k) else isqrt n k r

/-- The reciprocal square root (R196), before its rounding: a value that rounds as the exact one does. -/
def rsqrtVal (v : Val) : Val :=
  match v with
  | .nan => .nan
  | .inf false => .zero
  | .inf true => .nan
  | .fin n m e =>
    if m = 0 then .inf n
    else if n then .nan
    else
      let m2 := if e % 2 = 0 then m else 2 * m
      let e2 := if e % 2 = 0 then e else e - 1
      let q := isqrt (2 ^ 200 / m2) 101 0
      let sticky := if q * q * m2 = 2 ^ 200 then 0 else 1
      .fin false (2 * q + sticky) (-100 - e2 / 2 - 1)

def signVal (v : Val) : Val :=
  match v with
  | .nan => .nan
  | .inf n => .fin n 1 0
  | .fin n m _ => if m = 0 then .zero else .fin n 1 0

/-- Numeric comparison of exact values (CMP): less, equal or greater; with NaN none holds, and the two zeros are equal. -/
def cmpVal (sub : Nat) (a b : Val) : Bool :=
  let lt := fun (a b : Val) => ltVal a b && !(a.isZero && b.isZero)
  if a = .nan ∨ b = .nan then false
  else if sub = 0 then lt a b
  else if sub = 2 then lt b a
  else !lt a b && !lt b a

/-! ### Conversion of a block of 32 lanes (R178 to R182) -/

/-- The generator's bits for the elements of a block that starts at `index`. -/
def blockBits (seed launch stream index i : Nat) : Nat := srBits seed launch stream (index + i)

/-- The values that 32 values become in a format, as lanes of form `formOf`. -/
def convertLanes (code : Nat) (scaled : Bool) (mode : Nat) (r : Nat → Nat) (vs : List Val) : List LaneRes :=
  let e := encodeLanes code scaled mode r vs
  e.2.map (fun (x : Enc) => { w := laneOf (formOf code scaled) (elemVal code scaled e.1 x.bits), scale := if hasScale code scaled then e.1 else 256, sat := x.sat, nanZero := x.nanZero })

/-! ### The MAC array (R197) -/

/-- A matrix input of the array: formats other than BF16, FP16, FP8 and INT8 become BF16. -/
def mmaIn (v : VReg) (i : Nat) : Val :=
  if (v.form == 5 && decide (2 ≤ v.code) && decide (v.code ≤ 5)) || (v.form == 2 && v.code == 9) then v.val i
  else decodeElem 2 (encodeElem 2 (v.val i) rne 0).bits

/-- The lane of a tile that holds element (row, col) of operand `k`: not laid out by the spec. -/
def mmaAt (k row col : Nat) : Nat := Config.mmaLane k row col % 64

/-- The terms of a long product, eight to a chunk in ascending order, added to an accumulator (R197). -/
def macSum : Nat → Val → List Val → Val
  | 0, c, _ => c
  | f + 1, c, l =>
    if l.isEmpty then c
    else
      let r := fun (v : Val) => decodeElem 1 (encodeElem 1 v rne 0).bits
      macSum f (r (addVal c (r ((l.take 8).foldl addVal Val.zero)))) (l.drop 8)

/-- The entry ±1 of the Sylvester Hadamard matrix at (row, col): the parity of the bits that both have (R212). -/
def hadamard (row col : Nat) : Val :=
  .fin ((List.range 5).foldl (fun x k => x != (bitAt row k && bitAt col k)) false) 1 0

/-- One step of one tile: the 64 lanes of C + A × B; `clear` takes C as zero. -/
def mmaTile (a b c : VReg) (base : Nat) (clear : Bool) : List (BitVec 64) :=
  let int8 := a.form == 2 && a.code == 9 && b.form == 2 && b.code == 9
  let elem := fun (r col : Nat) =>
    let ci := base + mmaAt 2 r col
    let terms := (List.range 8).map (fun k => mulVal (mmaIn a (base + mmaAt 0 r k)) (mmaIn b (base + mmaAt 1 k col)))
    if int8 then
      let sum := (List.range 8).foldl (fun (x : Int) k => x + (a.at_ (base + mmaAt 0 r k)).toInt * (b.at_ (base + mmaAt 1 k col)).toInt)
        (if clear then 0 else (c.at_ ci).toInt)
      BitVec.ofInt 64 (toSigned 32 (toUnsigned 32 sum))
    else
      let chunk := decodeElem 1 (encodeElem 1 (terms.foldl addVal Val.zero) rne 0).bits
      laneOf 0 (addVal (if clear then Val.zero else c.val ci) chunk)
  (List.range 64).foldl (fun (l : List (BitVec 64)) rc => l.set (mmaAt 2 (rc / 8) (rc % 8)) (elem (rc / 8) (rc % 8)))
    ((List.range 64).map (fun i => c.at_ (base + i)))

/-! ### Occupancy and latency (R250) -/

def timeNarrow : Nat × Nat := (1, 4)
def timeFp32 : Nat × Nat := (2, 5)
def timeFp64 : Nat × Nat := (4, 7)

/-- The row of R250 for a form. -/
def timeOf (form : Nat) : Nat × Nat := if form = 1 then timeFp64 else if form = 0 then timeFp32 else timeNarrow

/-- The row of a conversion between a register's form and a format. -/
def timeCvt (form code : Nat) : Nat × Nat :=
  if form = 1 ∨ code = 0 then timeFp64 else if form = 0 ∨ code = 1 then timeFp32 else timeNarrow

end Sys2Proof.Machine
end

