-- ==== Sys2Proof/Machine/Sweep.lean ====
section
/-!
DEFINITION. A tile group at work: launches and streams at the switch, the operands and ports of a GOP, its result, the group controls (09, R195 to R197, R207 to R211; 10, R216 to R232; 11, R249 to R253).
-/
namespace Sys2Proof.Machine

/-! ### Launches -/

/-- The key of a launch: its context, 4,096 higher for a context of the twin. -/
def SLaunch.key (l : SLaunch) : Nat := l.ctx + 4096 * b2n l.twin
def Block.slaunch? (s : Block) (key : Nat) : Option SLaunch := s.ox.launches.find? (fun l => l.key == key)
def Block.modSL (s : Block) (key : Nat) (f : SLaunch → SLaunch) : Block :=
  s.modOx (fun x => { x with launches := replaceFirst (fun l => l.key == key) f x.launches })

/-- The values that a key's launch runs under: its own, or without one those applied now. -/
def Block.cfgOf (s : Block) (key : Nat) : Cfg :=
  match s.slaunch? key with
  | some l => l.cfg
  | none => s.sw.cfg (key % 4096)

/-- The plane whose share a key's launches are. -/
def Block.keyPlane (s : Block) (key : Nat) : Nat := if 4096 ≤ key then Nat.xor s.swPlane 1 else s.swPlane

/-- LAUNCH of a key (R221): of the twin's contexts, the count that a stand-in keeps (R373). -/
def Block.launchCount (s : Block) (key : Nat) : Nat :=
  if 4096 ≤ key then SMap.get 0 s.ox.twinLaunch (key % 4096) else s.sw.launchNo key

def Block.launchOfKey (s : Block) (key : Nat) : Nat :=
  match s.slaunch? key with
  | some l => l.launch
  | none => s.launchCount key

/-! ### Streams at the switch (R225, R226) -/

/-- Live plane number and the number of planes of a key. -/
def Block.keyShare (s : Block) (key : Nat) : Nat × Nat :=
  planeNo (s.sw.isLatency (s.cfgOf key)) s.sw.collPlanes (s.keyPlane key)

/-- Index of this rack in the key's group. -/
def Block.rackIndex (s : Block) (key : Nat) : Nat := (grpRackIndex (s.cfgOf key).grp s.swRack).getD 0

/-- Block `b` of the stream of rack member `j`. -/
def Block.inBlock (s : Block) (key j b : Nat) : Option (Nat × Nat) :=
  let c := s.cfgOf key
  let sh := s.keyShare key
  if j < grpPerRack c.grp then blockAt (c.pieces (s.rackIndex key * grpPerRack c.grp + j)) c.count sh.1 sh.2 b else none

/-- Block `b` of the result stream. -/
def Block.resBlock (s : Block) (key b : Nat) : Option (Nat × Nat) :=
  let c := s.cfgOf key
  let sh := s.keyShare key
  blockAt (List.range c.pieceCount) c.resPieceLen sh.1 sh.2 b

/-- Blocks of the share, sixteen to a segment. -/
def Block.shareBlocks (s : Block) (key : Nat) : Nat :=
  let c := s.cfgOf key
  let sh := s.keyShare key
  16 * streamSegs (List.range c.pieceCount) c.resPieceLen sh.1 sh.2

/-- Block `b` of the vector that is reduced, and the blocks of its share: the result stream, but of a projection the n elements that its hall stage sums (R218, R231). -/
def Block.sumBlock (s : Block) (key b : Nat) : Option (Nat × Nat) :=
  let c := s.cfgOf key
  let sh := s.keyShare key
  blockAt (List.range c.pieceCount) c.count sh.1 sh.2 b
def Block.sumBlocks (s : Block) (key : Nat) : Nat :=
  let c := s.cfgOf key
  let sh := s.keyShare key
  16 * streamSegs (List.range c.pieceCount) c.count sh.1 sh.2

/-- Block `b` of what leaves by XB: a final value, or a partial of the hall stage. -/
def Block.outBlock (s : Block) (final : Bool) (key b : Nat) : Option (Nat × Nat) := if final then s.resBlock key b else s.sumBlock key b

/-- INDEX of R182: the position in the result vector (of a partial, in the vector that is reduced) of the first element of block `b`. -/
def Block.blockIndex (s : Block) (final : Bool) (key b : Nat) : Nat :=
  let c := s.cfgOf key
  match s.outBlock final key b with
  | some (piece, off) => (if c.op = 1 then piece * c.count else c.resOffset piece) + off
  | none => 32 * b

/-! ### The state area (R209, R218, R373) -/

/-- OPT_REGION as a key sees it: for the twin's contexts the mirrored state. Base and end in bytes. -/
def Common.optRegion (c : Common) (twin : Bool) : Nat × Nat :=
  if twin then
    (let b := c.fld (ob 0x6103 1) 0 20 * 2 ^ 20
     (b + 2 ^ 20, b + c.fld (ob 0x6103 1) 20 20 * 2 ^ 20))
  else
    (let b := c.fld (ob 0x6010 0) 0 20 * 2 ^ 20
     (b, b + c.fld (ob 0x6010 0) 20 20 * 2 ^ 20))

def Block.areaBase (s : Block) (key : Nat) : Nat := (s.sw.optRegion (4096 ≤ key)).1 + (s.cfgOf key).areaBase * 2 ^ 20

/-- May a path access a range (R207)? Nothing is accessed before SECURE_READY (R350). -/
def Block.bhAllowed (s : Block) (key a n : Nat) : Bool :=
  let r := s.sw.optRegion (4096 ≤ key)
  s.sw.secureReady && decide (r.1 ≤ a) && decide (a + n ≤ r.2)

def pad256 (n : Nat) : Nat := (n + 255) / 256 * 256

/-- MASTER, MFMT, LEN and the powers of a state area header. -/
structure AreaHdr where
  step : Nat
  p1 : Nat
  p2 : Nat
  master : Bool
  mfmt : Bool
  len : Nat
deriving DecidableEq, Repr

def Block.areaHdr (s : Block) (key : Nat) : AreaHdr :=
  let b := (s.ox.bhRead (s.areaBase key) 64).1
  { step := leAt b 0 8, p1 := leAt b 8 4, p2 := leAt b 12 4, master := bitAt (leAt b 16 1) 0, mfmt := bitAt (leAt b 16 1) 1, len := leAt b 17 5 }

def AreaHdr.masterBytes (h : AreaHdr) : Nat := if h.master then pad256 (4 * h.len) else 0
/-- Bytes of one moment: its mantissas and exponents, or its FP32 array. -/
def AreaHdr.momentBytes (h : AreaHdr) : Nat := if h.mfmt then pad256 (2 * h.len) + pad256 ((h.len + 31) / 32) else pad256 (4 * h.len)

/-- What stands at an offset of a state area: its format code, and for BX16 the offset of the block's exponent. -/
def Block.areaForm (s : Block) (key off : Nat) : Nat × Nat :=
  let c := s.cfgOf key
  let h := s.areaHdr key
  let m0 := 256 + h.masterBytes
  if c.residual && decide (c.resOff * 2 ^ 20 ≤ off) then (1, 0)
  else if c.op = 11 then (2, 0)
  else if !h.mfmt || decide (off < m0) then (1, 0)
  else
    let i := (off - m0) / max 1 h.momentBytes
    let e := (off - m0) % max 1 h.momentBytes / 2
    (12, m0 + i * h.momentBytes + pad256 (2 * h.len) + e / 32)

/-- Log an access outside the regions. -/
def Block.rangeLog (s : Block) (g key a : Nat) : Block :=
  s.modSw (fun c => c.log 0x4006 .uncorrected 0xFF (packArg [(4, g), (12, key % 4096), (28, a / 2 ^ 20)]))

/-- Tenant and key generation of a state area's blocks (R349). -/
def Block.areaOwner (s : Block) (key : Nat) : Nat × Nat :=
  let t := (s.cfgOf key).tenant
  (t, SMap.get 0 s.ox.keyGen t)

/-! ### Groups and registers -/

def Ox.group (x : Ox) (g : Nat) : Group := SMap.get {} x.groups g
def Ox.setGroup (x : Ox) (g : Nat) (v : Group) : Ox := { x with groups := SMap.set {} x.groups g v }
def Block.modGroup (s : Block) (g : Nat) (f : Group → Group) : Block := s.modOx (fun x => x.setGroup g (f (x.group g)))

/-- Merge a result into a register: the lanes that acted; the others keep their value. -/
def VReg.merge (old new : VReg) (act : List Bool) : VReg :=
  if act.all id then new
  else
    let on := fun (i : Nat) => act.getD i false
    { new with
      lanes := (List.range lanesPerGroup).map (fun i =>
        if on i then new.at_ i else if old.form == new.form then old.at_ i else laneOf new.form (old.val i)),
      flags := if new.flags.isEmpty && old.flags.isEmpty then [] else (List.range lanesPerGroup).map (fun i => if on i then new.flag i else old.flag i),
      scales := (List.range numBlocks).map (fun b =>
        if (List.range 32).all (fun i => on (32 * b + i)) then new.scales.getD b 256
        else if (List.range 32).any (fun i => on (32 * b + i)) then 256 else old.scales.getD b 256),
      poison := ((List.range numBlocks).filter (fun b =>
        if (List.range 32).any (fun i => on (32 * b + i)) then new.poison.contains b else old.poison.contains b)) }

/-- Results that have become readable by now (R250). -/
def Group.settle (g : Group) (now : Nat) : Group :=
  let due := g.pend.filter (fun p => decide (p.at_ ≤ now))
  let g1 := due.foldl (fun (g : Group) p =>
    if p.reg = 32 then { g with mask := (List.range lanesPerGroup).map (fun i => if p.act.getD i false then (p.v.at_ i != 0) else g.mask.getD i false) }
    else { g with regs := SMap.set {} g.regs p.reg ((SMap.get {} g.regs p.reg).merge p.v p.act) }) g
  { g1 with pend := g1.pend.filter (fun p => decide (now < p.at_)) }

def Group.reg (g : Group) (r : Nat) : VReg := SMap.get {} g.regs r

/-! ### Port sources (R249) -/

/-- A block of 32 lanes read from a port: form, format code, lanes, flags, poison. -/
structure BlkIn where
  form : Nat
  code : Nat
  lanes : List (BitVec 64)
  flags : List Nat := []
  poison : Bool := false
deriving DecidableEq, Repr

/-- Put twelve blocks together; a block that is not there reads as zero. -/
def gather (l : List (Option BlkIn)) : VReg :=
  let f := (l.findSome? id).getD ⟨0, 1, [], [], false⟩
  { lanes := (l.map (fun b => match b with
      | some x => x.lanes
      | none => List.replicate 32 0)).flatten,
    form := f.form, code := f.code,
    flags := if l.any (fun b => match b with
      | some x => !x.flags.isEmpty
      | none => false) then (l.map (fun b => match b with
      | some x => if x.flags.isEmpty then List.replicate 32 0 else x.flags
      | none => List.replicate 32 0)).flatten else [],
    poison := (List.range numBlocks).filter (fun i => match l.getD i none with
      | some x => x.poison
      | none => false) }

/-- The lanes of a landed block. -/
def LandBlk.lanes (e : LandBlk) : BlkIn :=
  if e.pre then ⟨4, 1, List.replicate 32 (BitVec.ofNat 64 (leAt e.data 0 1)), [], e.poison⟩
  else if e.code = 16 then
    (let l := (List.range 32).map (fun i => BitVec.ofNat 64 (leAt e.data (8 * i) 8))
     let f := (List.range 32).map (fun i => axWireFlags (l.getD i 0))
     ⟨3, 0, (List.range 32).map (fun i => if f.getD i 0 = 0 then l.getD i 0 else 0), if f.all (fun x => x == 0) then [] else f, e.poison⟩)
  else if e.code = 17 then ⟨2, 17, (List.range 32).map (fun i => BitVec.ofNat 64 (leAt e.data (8 * i) 8)), [], e.poison⟩
  else
    let w := fmtWidth e.code
    let scaled := decide (4 * w < e.data.length)
    let form := formOf e.code (scaled && e.code != 12)
    ⟨if e.code = 12 then 5 else form, e.code, (List.range 32).map (fun i =>
      let x := elemAt e.code e.data i
      laneOf (if e.code = 12 then 5 else form) (if scaled then decodeScaled e.code (leAt e.data (4 * w) 1) x else decodeElem e.code x)), [], e.poison⟩

/-- Is a block of the read cursor's stream before the end of it? -/
def Block.readEnabled (s : Block) (key : Nat) (hall : Bool) (input b : Nat) : Bool :=
  if hall then (s.sumBlock key b).isSome || (s.resBlock key b).isSome else (s.inBlock key input b).isSome

/-- Is block `i` of the twelve on which an operation without a cursor of its own acts before the end of its stream? The spec names the stream of no register operation: that which the group last read or wrote (DEDUCED, log). -/
def Block.workEnabled (s : Block) (key : Nat) (gr : Group) (i : Nat) : Bool :=
  match gr.work with
  | some (input, hall, b) => s.readEnabled key hall input (b + i)
  | none => (s.outBlock (!gr.sendHall) key (gr.sendBlock + i)).isSome

def sameSlot (g key input : Nat) (hall pre : Bool) (b : Nat) (e : LandBlk) : Bool :=
  !e.half && e.g == g && e.ctx == key && e.input == input && e.hall == hall && e.pre == pre && e.block == b

/-- What stands in a slot: the block not read yet, else the last one read. -/
def Ox.landedAt (x : Ox) (slot : LandBlk → Bool) : Option LandBlk :=
  match x.landed.find? (fun e => slot e && !e.freed) with
  | some e => some e
  | none => x.landed.reverse.find? slot

/-- LND: the twelve blocks at the read cursor; the cursor moves on and the slots are free. A block that has not landed has no stated value. -/
def Block.readLnd (s : Block) (g key : Nat) : VReg × List Bool × Block :=
  let gr := s.ox.group g
  let en := (List.range numBlocks).map (fun i => s.readEnabled key gr.rdHall gr.rdInput (gr.rdBlock + i))
  let blk := fun (i : Nat) =>
    if !en.getD i false then none
    else match s.ox.landedAt (sameSlot g key gr.rdInput gr.rdHall gr.rdPre (gr.rdBlock + i)) with
      | some e => some e.lanes
      | none => some ⟨if gr.rdPre then 4 else 2, if gr.rdPre then 1 else 17, (List.range 32).map (fun k =>
          if gr.rdPre then BitVec.ofNat 64 ((Config.freeWord (s.free + 32 * i)).toNat % 256) else Config.freeWord (s.free + 32 * i + k)), [], false⟩
  let v : VReg := { gather ((List.range numBlocks).map blk) with fromHall := gr.rdHall }
  let mark := fun (e : LandBlk) =>
    if (List.range numBlocks).any (fun i => en.getD i false && sameSlot g key gr.rdInput gr.rdHall gr.rdPre (gr.rdBlock + i) e) then { e with freed := true } else e
  let s1 := s.modOx (fun x => { x with landed := x.landed.map mark })
  (v, en, { s1.modGroup g (fun q => { q with rdBlock := q.rdBlock + numBlocks, work := some (gr.rdInput, gr.rdHall, gr.rdBlock) }) with free := s.free + 384 })

/-- Division rounded to FP32 by its exact quotient and a sticky bit. -/
def divVal (a b : Val) : Val :=
  match a, b with
  | .nan, _ => .nan
  | _, .nan => .nan
  | .inf _, .inf _ => .nan
  | .inf x, .fin y _ _ => .inf (x != y)
  | .fin x _ _, .inf y => .fin (x != y) 0 0
  | .fin x m e, .fin y k h =>
    if k = 0 then (if m = 0 then .nan else .inf (x != y))
    else
      let q := m * 2 ^ 100 / k
      .fin (x != y) (2 * q + (if q * k = m * 2 ^ 100 then 0 else 1)) (e - h - 101)

/-- Round to FP32. -/
def rnd32 (v : Val) : Val := decodeElem 1 (encodeElem 1 v rne 0).bits

/-- A scalar constant (R210, R253), of the launch's optimizer record and the powers of its state area. -/
def scalarConst (rec : List Byte) (h : AreaHdr) (k : Nat) : Val :=
  let f := fun (pos : Nat) => decodeElem 1 (leAt rec pos 4)
  let one : Val := .fin false 1 0
  let lr := f 4
  let lam := f 8
  let b1 := f 16
  let b2 := f 20
  let eps := f 24
  let p1 := rnd32 (mulVal (decodeElem 1 h.p1) b1)
  let p2 := rnd32 (mulVal (decodeElem 1 h.p2) b2)
  let sub1 := fun (x : Val) => rnd32 (addVal one (negVal x))
  match k with
  | 0 => f 12
  | 1 => b1
  | 2 => b2
  | 3 => sub1 b1
  | 4 => sub1 b2
  | 5 => negVal lr
  | 6 => rnd32 (divVal lr (sub1 p1))
  | 7 => rnd32 (divVal one (sub1 p2))
  | 8 => rnd32 (mulVal eps eps)
  | 9 => lam
  | 10 => rnd32 (mulVal lam lr)
  | 11 => one
  | 12 => .fin true 1 0
  | _ => .zero

/-- K: the selected constant in every lane. -/
def Block.readK (s : Block) (g key : Nat) : VReg :=
  let rec_ := match s.slaunch? key with
    | some l => l.optrec
    | none => []
  let v := laneOf 0 (scalarConst rec_ (s.areaHdr key) (s.ox.group g).ksel)
  { lanes := List.replicate lanesPerGroup v, form := 0, code := 1 }

/-- Bytes that 384 elements of a format occupy. -/
def bhSpan (code : Nat) : Nat := lanesPerGroup * (fmtWidth code / 8)

/-- BH as a source: the state at the pointer, which moves on. An access outside the regions is not made, and its blocks are poisoned. -/
def Block.readBh (s : Block) (g key : Nat) : VReg × Block :=
  let ptr := (s.ox.group g).bhPtr
  let base := s.areaBase key
  let f := s.areaForm key ptr
  let n := bhSpan f.1
  let s1 := s.modGroup g (fun q => { q with bhPtr := q.bhPtr + n })
  if !s.bhAllowed key (base + ptr) n then
    ({ lanes := List.replicate lanesPerGroup 0, form := if f.1 = 1 then 0 else 5, code := f.1, poison := List.range numBlocks }, s1.rangeLog g key (base + ptr))
  else
    let blk := fun (i : Nat) =>
      let w := fmtWidth f.1 / 8
      let d := s.ox.bhRead (base + ptr + 32 * w * i) (32 * w)
      let x := s.ox.bhRead (base + f.2 + i) 1
      some (BlkIn.mk (if f.1 = 1 then 0 else 5) f.1 ((List.range 32).map (fun k =>
        laneOf (if f.1 = 1 then 0 else 5) (if f.1 = 12 then decodeScaled 12 (leAt x.1 0 1) (elemAt 12 d.1 k) else decodeElem f.1 (elemAt f.1 d.1 k)))) []
        (d.2 || (f.1 == 12 && x.2)))
    (gather ((List.range numBlocks).map blk), s1)

/-- A source operand: its value, the blocks it enables, the state after it was read. -/
def Block.source (s : Block) (g key r : Nat) : VReg × List Bool × Block :=
  let all := List.replicate numBlocks true
  if r = 28 then s.readLnd g key
  else if r = 30 then
    (let x := s.readBh g key
     (x.1, all, x.2))
  else if r = 31 then (s.readK g key, all, s)
  else ((s.ox.group g).reg r, all, s)

/-! ### Operations (R195) -/

/-- A register that nothing wrote takes the form of the other operand. -/
def VReg.like (v o : VReg) : VReg := if v.blank then { v with form := o.form, code := o.code } else v

/-- What an operation works under. -/
structure OpCtx where
  cfg : Cfg
  launch : Nat
  stream : Nat
  index : Nat → Nat
  outCode : Nat
  outScaled : Bool
  n : Nat
  residual : Nat → BitVec 64
  macs : Option (VReg → Nat → List Val) := none
  free : Nat := 0

/-- The lanes of a block. -/
def VReg.block (v : VReg) (b : Nat) : List Val := (List.range 32).map (fun i => v.val (32 * b + i))

/-- Run `f` over every lane. -/
def perLane (f : Nat → LaneRes) : List LaneRes := (List.range lanesPerGroup).map f

/-- Run `f` over every block that acts. -/
def perBlock (act : List Bool) (f : Nat → List LaneRes) : List LaneRes :=
  ((List.range numBlocks).map (fun b => if (List.range 32).any (fun i => act.getD (32 * b + i) false) then f b else List.replicate 32 {})).flatten

def bitOp (sub : Nat) (a b : BitVec 64) : BitVec 64 := if sub = 0 then a &&& b else if sub = 1 then a ||| b else a ^^^ b

/-- A floating or integer arithmetic operation of one, two or three operands. -/
def arith (form : Nat) (f : Val → Val → Val → Val) (fi : Int → Int → Int → LaneRes) (a b d : VReg) : List LaneRes :=
  if form = 2 then perLane (fun i => fi (a.at_ i).toInt (b.at_ i).toInt (d.at_ i).toInt)
  else perLane (fun i => laneRes form (f (a.val i) (b.val i) (d.val i)))

/-- The conversion of a block with the collective's rounding (R178 to R182). -/
def OpCtx.convert (o : OpCtx) (code : Nat) (scaled : Bool) (stream b : Nat) (vs : List Val) : List LaneRes :=
  convertLanes code scaled o.cfg.rnd (blockBits o.cfg.seed.toNat o.launch stream (o.index b)) vs

/-- What was kept or narrowed, in AX64 again; outside 64 bits the spec states no value. -/
def OpCtx.back (o : OpCtx) (p i : Nat) (v : Val) : BitVec 64 :=
  let r := axBack p o.n v
  if r.lost then Config.freeWord (o.free + i) else r.w

/-- The value of an AX64 lane with the residual of the context added (R232). -/
def OpCtx.axSum (o : OpCtx) (p i : Nat) (w : BitVec 64) : BitVec 64 :=
  if o.stream = 1 && o.cfg.residual then w + o.back p i (decodeElem 1 (o.residual i).toNat) else w

/-- The result of an operation: its form, format code and lanes. -/
def OpCtx.run (o : OpCtx) (vop sub k : Nat) (a b d : VReg) (act : List Bool) : Nat × Nat × List LaneRes :=
  match vop with
  | 0x01 => let f := arithForm [a, b]; (f, 1, arith f (fun a b _ => addVal a b) (fun a b _ => { w := BitVec.ofInt 64 (a + b) }) a b d)
  | 0x02 => let f := arithForm [a, b]; (f, 1, arith f (fun a b _ => mulVal a b) (fun a b _ => intRes (a * b)) a b d)
  | 0x03 => let f := arithForm [a, b, d]; (f, 1, arith f (fun a b d => addVal (mulVal a b) d) (fun a b d => intRes (a * b + d)) a b d)
  | 0x04 => let f := exactForm [a, b]; (f, a.code, arith f (fun a b _ => minVal a b) (fun a b _ => { w := BitVec.ofInt 64 (min a b) }) a b d)
  | 0x05 => let f := exactForm [a, b]; (f, a.code, arith f (fun a b _ => maxVal a b) (fun a b _ => { w := BitVec.ofInt 64 (max a b) }) a b d)
  | 0x06 => (2, 17, perLane (fun i => { w := if cmpVal sub (a.val i) (b.val i) then 1 else 0 }))
  | 0x07 =>
    (match sub with
     | 0 => let f := laneForm o.cfg.inFmt o.cfg.inScaled; (f, if f = 2 then o.cfg.inFmt else 1, perLane (fun i => laneRes f (a.val i)))
     | 2 => (0, 1, perLane (fun i => laneRes 0 (a.val i)))
     | 3 => (if o.outCode = 1 then 0 else 5, o.outCode, perBlock act (fun b => o.convert o.outCode false 2 b (a.block b)))
     | _ => (formOf o.outCode o.outScaled, o.outCode, perBlock act (fun b => o.convert o.outCode o.outScaled o.stream b (a.block b))))
  | 0x08 => let f := arithForm [a]; (f, 1, perLane (fun i => laneRes f ((a.val i).scale (toSigned 9 k))))
  | 0x09 => let f := exactForm [a, b, d]; (f, a.code, arith f (fun a b d => minVal (maxVal a b) d) (fun a b d => { w := BitVec.ofInt 64 (min (max a b) d) }) a b d)
  | 0x0A => (0, 1, perLane (fun i => laneRes 0 (rsqrtVal (a.val i))))
  | 0x0B => let f := if a.form == 1 then 1 else 0; (f, 1, perLane (fun i => laneRes f (signVal (a.val i))))
  | 0x0C => (2, a.code, perLane (fun i => { w := bitOp sub (a.at_ i) (b.at_ i) }))
  | 0x10 =>
    (4, 0, perBlock act (fun blk =>
      let pa := if a.form == 4 && a.code == 1 then (a.at_ (32 * blk)).toNat % 256 else blockP (a.block blk)
      let p := max pa ((b.at_ (32 * blk)).toNat % 256)
      List.replicate 32 { w := BitVec.ofNat 64 p }))
  | 0x11 => (3, 0, perLane (fun i => (if a.fromHall then axBack else axOf) ((b.at_ (i / 32 * 32)).toNat % 256) o.n (a.val i)))
  | 0x12 => (3, 0, perLane (fun i => { w := a.at_ i + b.at_ i, flags := Nat.lor (a.flag i) (b.flag i) }))
  | 0x13 =>
    (formOf o.outCode o.outScaled, o.outCode, perBlock act (fun blk =>
      let p := (b.at_ (32 * blk)).toNat % 256
      o.convert o.outCode o.outScaled o.stream blk
        ((List.range 32).map (fun i => axVal p o.n (o.axSum p (32 * blk + i) (a.at_ (32 * blk + i))) (a.flag (32 * blk + i))))))
  | 0x14 => (2, 17, perLane (fun i => { w := a.at_ i + b.at_ i }))
  | 0x18 =>
    (match o.macs with
     | some f => (0, 1, perLane (fun i => { w := laneOf 0 (macSum 64 (if sub == 1 then Val.zero else d.val i) (f a i)) }))
     | none => (if a.form == 2 && a.code == 9 then 2 else 0, if a.form == 2 && a.code == 9 then 11 else 1,
      ((List.range 6).map (fun q => (mmaTile a b d (64 * q) (sub == 1)).map (fun w => ({ w := w } : LaneRes)))).flatten))
  | _ => (0, 1, [])

/-- Which of A, B and D an operation reads (R195). -/
def opReads (vop : Nat) : Bool × Bool × Bool :=
  match vop with
  | 0x03 | 0x09 | 0x18 => (true, true, true)
  | 0x07 | 0x08 | 0x0A | 0x0B => (true, false, false)
  | 0x01 | 0x02 | 0x04 | 0x05 | 0x06 | 0x0C | 0x10 | 0x11 | 0x12 | 0x13 | 0x14 => (true, true, false)
  | _ => (false, false, false)

/-- Occupancy and latency of an operation on its operands. -/
def opTime (vop sub outCode : Nat) (cfg : Cfg) (l : List VReg) (a : VReg) : Nat × Nat :=
  match vop with
  | 0x0A => (2, 9)
  | 0x18 => (1, 12)
  | 0x01 | 0x02 | 0x03 => timeOf (arithForm l)
  | 0x04 | 0x05 => timeOf (if l.any (fun v => v.form == 1) then 1 else if l.any (fun v => v.form == 0) then 0 else 5)
  | 0x07 => if sub = 0 then timeOf (laneForm cfg.inFmt cfg.inScaled) else if sub = 1 then timeCvt (if a.isFloat && a.form != 1 then 0 else a.form) outCode else timeFp32
  | 0x13 => timeCvt 3 outCode
  | _ => timeNarrow

/-! ### Hall partials (R230 to R232) -/

/-- Is the hall stage of a key direct (R227 to R229, R231)? -/
def Block.hallDirect (s : Block) (key : Nat) : Bool :=
  let c := s.cfgOf key
  s.sw.isLatency c || !c.reduces || decide (s.sumBlocks key * 4 * c.partialWidth (s.sw.modeFor c) < s.sw.fld (ob 0x7000 2) 0 32)

/-- Are partials narrowed (R232)? The format they take: BX16 or block-scaled E4M3. -/
def Block.narrowCode (s : Block) (key : Nat) : Option Nat :=
  let c := s.cfgOf key
  let f := s.sw.fld (ob 0x7000 3) 8 2
  if s.sw.fld (ob 0x7000 3) 0 7 < grpHExt c.grp ∧ s.sw.modeFor c = 1 ∧ c.reduces ∧ (f = 1 ∨ f = 2) then some (if f = 1 then 12 else 4) else none

/-- Largest power of two not above `r` (r at least 1). -/
def floorPow2 (r : Nat) : Nat := 2 ^ Nat.log2 (max 1 r)

/-- The halving walk of R231 for block `b` at rack `i`: the step and distance at which it leaves, or the range kept. Steps count from `step`. -/
def halve (i b : Nat) : Nat → Nat → Nat → Nat → Nat → Option (Nat × Nat) × Nat × Nat
  | 0, _, _, lo, hi => (none, lo, hi)
  | f + 1, d, step, lo, hi =>
    if d = 0 then (none, lo, hi)
    else
      let mid := (lo + hi) / 2
      let up := Nat.land i d != 0
      let keep := if up then decide (mid ≤ b) else decide (b < mid)
      if keep then halve i b f (d / 2) (step + 1) (if up then mid else lo) (if up then hi else mid)
      else (some (step, d), if up then mid else lo, if up then hi else mid)

/-- Where a block written at the hall send cursor goes: racks, LANES and PHASE; `lanes` is what the operation made of it, `sent` how often a final value of it was sent before. The bytes P of a pre-pass go to every other rack at once: it ends everywhere before the first step (R228). -/
def Block.hallDest (s : Block) (key b lanes sent : Nat) (pre : Bool) : List Nat × Nat × Nat :=
  let c := s.cfgOf key
  let r := grpHExt c.grp
  let i := s.rackIndex key
  let rack := fun (k : Nat) => grpRack c.grp k
  if pre || s.hallDirect key then (((List.range r).filter (fun k => k != i)).map rack, lanes, 0x3F)
  else
    let f := floorPow2 r
    let first := if f < r then 1 else 0
    let w := halve i b 7 (f / 2) first 0 (if lanes = 2 then s.shareBlocks key else s.sumBlocks key)
    if f ≤ i then ([rack (i - f)], lanes, 0)
    else if lanes != 2 then (match w.1 with
      | some (step, d) => ([rack (Nat.xor i d)], lanes, step)
      | none => ([], lanes, 0x3F))
    else
      let lf := Nat.log2 f
      let start := match w.1 with
        | some (_, d) => Nat.log2 d + 1
        | none => 0
      let k := start + sent
      if k < lf then ([rack (Nat.xor i (2 ^ k))], 2, first + lf + k)
      else if i + f < r then ([rack (i + f)], 2, first + 2 * lf) else ([], 2, 0x3F)

/-! ### Results (R249, R250, R252) -/

/-- A block of 32 lanes in a format: under the shared exponent with which its conversion wrote it, where there was one. -/
def VReg.encode (v : VReg) (code : Nat) (scaled : Bool) (mode : Nat) (r : Nat → Nat) (b : Nat) : Nat × List Enc :=
  let k := v.scales.getD b 256
  if hasScale code scaled && v.form == 5 && v.code == code && decide (k < 256) then (k, scaledElems code k (v.block b) mode r)
  else encodeLanes code scaled mode r (v.block b)

/-- The bytes of an encoded block, the scale byte apart, and how many elements saturated or lost a NaN; elements from `fill` on lie beyond the end of their piece and are zero (R226). -/
def packEnc (code : Nat) (scaled : Bool) (e : Nat × List Enc) (fill : Nat) : List Byte × List Byte × List Enc :=
  (packElems (fmtWidth code) ((List.range 32).map (fun i => if i < fill then ((e.2.map Enc.bits).getD i 0) else 0)),
   if hasScale code scaled then [BitVec.ofNat 8 e.1] else [], e.2)

/-- Bytes of 32 lanes that hold their values exactly, or whose encoding the spec leaves to RNE. -/
def packLanes (code : Nat) (scaled : Bool) (v : VReg) (b fill : Nat) : List Byte × List Byte × List Enc :=
  packEnc code scaled (v.encode code scaled rne (fun _ => 0) b) fill

/-- Sixty-four-bit lanes as they are; an AX64 lane with flags as the word that stands for them. -/
def rawLanes (v : VReg) (b : Nat) : List Byte :=
  ((List.range 32).map (fun i =>
    let k := 32 * b + i
    leBytes 8 (if v.form == 3 then axWire (v.at_ k) (v.flag k) else v.at_ k).toNat)).flatten

def Block.countEnc (s : Block) (l : List Enc) : Block :=
  s.modSw (fun c => (c.count (ob 0x6080 3) 0 64 (l.filter (fun x => x.sat)).length).count (ob 0x6080 2) 0 64 (l.filter (fun x => x.nanZero)).length)

/-- Does an operation's result leave as a final value, in OUT_FMT? -/
def finalOp (vop : Nat) (narrow : Bool) : Bool := vop == 0x07 || (vop == 0x13 && !narrow)

/-- What a lane form is called on a hall link: LANES of R234 for an operation's result. What does not reduce crosses in the input format (R230). The bytes P of a pre-pass have no code of their own and go as LANES 3, which an ANCHORED launch has no other use for (DESIGN CHOICE, log). -/
def hallLanes (reduces : Bool) (vop : Nat) (v : VReg) (narrow : Bool) : Nat :=
  if !reduces then 3 else if v.form == 3 then 0 else if v.form == 4 then 3 else if finalOp vop narrow then 2 else if vop == 0x13 then 1 else 3

/-- One block written to XB. -/
def Block.xbBlock (s : Block) (g key vop b i lat : Nat) (v : VReg) : Block :=
  let c := s.cfgOf key
  let gr := s.ox.group g
  let mode := s.sw.modeFor c
  let narrow := s.narrowCode key
  let lanes := hallLanes c.reduces vop v narrow.isSome
  let pre := gr.sendHall && lanes == 3 && v.form == 4
  let sent := match s.slaunch? key with
    | some l => SMap.get 0 l.hallSent b
    | none => 0
  let dest := if gr.sendHall then some (s.hallDest key b lanes sent pre) else none
  let code := if !gr.sendHall || lanes = 2 then c.outFmt else if lanes = 1 then narrow.getD 12 else if lanes = 0 then 16 else c.partialCode mode
  let scaled := if !gr.sendHall || lanes = 2 then c.outScaled else if lanes = 3 then c.partialScaled && c.inScaled else code == 4
  let final := !gr.sendHall || lanes == 2
  let fill := match s.outBlock final key b with
    | some x => min 32 ((if final then c.resPieceLen else c.count) - x.2)
    | none => 0
  let body := if pre then (leBytes 1 ((v.at_ (32 * i)).toNat % 256), ([] : List Byte), ([] : List Enc))
    else if 16 ≤ code || v.form == 3 then (rawLanes v i, ([] : List Byte), ([] : List Enc)) else packLanes code scaled v i fill
  let s1 := s.countEnc body.2.2
  let r : ResBlk := { g := g, ctx := key, block := b, at_ := s.sw.stroke + lat, dest := dest, data := body.1, scale := body.2.1, poison := v.poison.contains i, released := false,
                       member := if c.op = opScan ∧ dest.isNone then some (s.rackIndex key * grpPerRack c.grp + gr.member) else none }
  let s2 := s1.modOx (fun x => { x with results := x.results ++ [r] })
  if gr.sendHall && lanes = 2 then s2.modSL key (fun l => { l with hallSent := SMap.modify 0 l.hallSent b (fun n => n + 1) }) else s2

/-- Write a block's bytes to the boathouse once its checks have passed (R201). Outside the regions nothing is written, and the block completes with poison (R207). -/
def Block.stateWrite (s : Block) (g key block a : Nat) (bs : List Byte) (poison : Bool) : Block :=
  if s.bhAllowed key a bs.length then s.modOx (fun x => { x with stateWrites := x.stateWrites ++ [⟨g, key, block, a, bs, poison⟩] })
  else (s.rangeLog g key a).modOx (fun x => { x with stateWrites := x.stateWrites ++ [⟨g, key, block, a, [], true⟩] })

/-- One block written at the boathouse pointer: its elements, and for BX16 its exponent. -/
def Block.bhBlock (s : Block) (g key b i : Nat) (v : VReg) : Block :=
  let ptr := (s.ox.group g).bhPtr
  let f := s.areaForm key ptr
  let base := s.areaBase key
  let w := fmtWidth f.1 / 8
  let body := packLanes f.1 false v i 32
  let s1 := (s.countEnc body.2.2).stateWrite g key b (base + ptr + 32 * w * i) body.1 (v.poison.contains i)
  if f.1 = 12 then s1.stateWrite g key b (base + f.2 + i) body.2.1 (v.poison.contains i) else s1

/-- The FP32 residual of lane `i` (R232), at RES_OFF within the state area. -/
def Block.residualAt (s : Block) (key block i : Nat) : Nat := s.areaBase key + (s.cfgOf key).resOff * 2 ^ 20 + 4 * (32 * block + i)
def Block.residualOf (s : Block) (key block i : Nat) : BitVec 64 :=
  let a := s.residualAt key block i
  if s.bhAllowed key a 4 then BitVec.ofNat 64 (leAt (s.ox.bhRead a 4).1 0 4) else 0

/-- The new residuals of a block that leaves narrowed: its AX64 value less the AX64 value of its narrowed form. -/
def Block.residualWrite (s : Block) (g key b i : Nat) (o : OpCtx) (a pv v : VReg) : Block :=
  let p := (pv.at_ (32 * i)).toNat % 256
  let bytes := ((List.range 32).map (fun k =>
    let l := 32 * i + k
    let d := o.axSum p l (a.at_ l) - o.back p l (v.val l)
    leBytes 4 (encodeElem 1 (axVal p o.n d 0) rne 0).bits)).flatten
  s.stateWrite g key b (s.residualAt key b 0) bytes false

/-! ### A GOP -/

/-- Count what the lanes that acted report (R179, R189). -/
def Block.laneCounts (s : Block) (key : Nat) (block : Nat → Nat) (l : List LaneRes) (act : List Bool) : Block :=
  let on := (List.range lanesPerGroup).filter (fun i => act.getD i false)
  let num := fun (p : LaneRes → Bool) => (on.filter (fun i => p (l.getD i {}))).length
  let s1 := s.modSw (fun c => ((c.count (ob 0x6080 3) 0 64 (num (fun x => x.sat))).count (ob 0x6080 2) 0 64 (num (fun x => x.nanZero))).count (ob 0x6080 1) 0 64 (num (fun x => x.breach)))
  on.foldl (fun s i => if (l.getD i {}).breach then s.modSw (fun c => c.logLimited 0x4080 .uncorrected 0xFF 0 (packArg [(12, key % 4096), (32, block (i / 32))])) else s) s1

/-- Does an operation of a REDUCE_UPDATE_GATHER show the reduced gradient: the AX64 sums decoded, or a factor that is GSCALE (R210)? -/
def showsGradient (vop ksel : Nat) (usesK narrow : Bool) : Bool := (vop == 0x13 && !narrow) || ((vop == 0x02 || vop == 0x03) && usesK && ksel == 0)

/-- Blocks of the reduced gradient that are not finite, where an operation shows it (R211). -/
def Block.noteSkips (s : Block) (key : Nat) (shows : Bool) (v : VReg) (block : Nat → Nat) (act : List Bool) : Block :=
  match s.slaunch? key with
  | some l =>
    if l.cfg.op = 9 && bitAt (leAt l.optrec 0 4) 5 && shows then
      (List.range numBlocks).foldl (fun s i =>
        if (List.range 32).any (fun k => act.getD (32 * i + k) false && (v.val (32 * i + k)).special) && !(l.skips.contains (block i)) then
          (s.modSL key (fun l => { l with skips := insertNat l.skips (block i) })).modSw (fun c => c.count (ob 0x6004 3) 0 64 1)
        else s) s
    else s
  | none => s

/-! ### Rotation and projection (R212, R213, R218) -/

/-- Entry (row, col) of rotation matrix `m` in a group's copy. -/
def Ox.rotEntry (x : Ox) (m row col : Nat) : Val :=
  if m = 0 then hadamard row col else decodeElem 2 (leAt x.rotTable (2048 * m + 64 * row + 2 * col) 2)

/-- Is a rotation matrix unusable: not read, or poisoned? -/
def Ox.rotBad (x : Ox) (m : Nat) : Bool := m != 0 && (x.rotTable.isEmpty || x.rotPoison.contains m)

/-- Bytes of the basis P of a projection at the base of its state area: 2^RLOG rows of RANK BF16 entries. -/
def Cfg.basisBytes (c : Cfg) : Nat := 2 * 2 ^ c.rlog * c.rank

/-- Place in its piece of lane `l` of the blocks last read. -/
def Block.workOffset (s : Block) (key : Nat) (gr : Group) (l : Nat) : Option Nat :=
  match gr.work with
  | some (_, _, b) => (s.sumBlock key (b + l / 32)).map (fun x => x.2 + l % 32)
  | none => none

/-- The products that an MMA of a ROTATE_REDUCE adds to each lane: a row of Q times the block's values; or, of the result element at the send cursor, a column of P times the rows of its column that stand in the blocks last read, ascending. The spec lays out no operands for either kernel (DESIGN CHOICE, log). -/
def Block.macsOf (s : Block) (key : Nat) (gr : Group) (basis : List Byte) : Option (VReg → Nat → List Val) :=
  let c := s.cfgOf key
  if c.op != opRotateReduce then none
  else if !c.xform then some (fun a i => (List.range 32).map (fun k => mulVal (s.ox.rotEntry c.rot (i % 32) k) (mmaIn a (i / 32 * 32 + k))))
  else
    let rows := 2 ^ c.rlog
    some (fun a i =>
      match s.resBlock key (gr.sendBlock + i / 32) with
      | none => []
      | some x =>
        let q := x.2 + i % 32
        (List.range lanesPerGroup).filterMap (fun l =>
          match s.workOffset key gr l with
          | some o => if o / rows = q / c.rank then some (mulVal (decodeElem 2 (leAt basis (2 * (o % rows * c.rank + q % c.rank)) 2)) (mmaIn a l)) else none
          | none => none))

/-- What an MMA reads besides its operands: the basis of a projection, whether it is usable, and the access outside the regions that was not made. -/
def Block.mmaBasis (s : Block) (g key vop : Nat) : List Byte × Bool × Block :=
  let c := s.cfgOf key
  if vop != 0x18 || c.op != opRotateReduce then ([], true, s)
  else if !c.xform then ([], !s.ox.rotBad c.rot, s)
  else
    let a := s.areaBase key
    if s.bhAllowed key a c.basisBytes then
      (let d := s.ox.bhRead a c.basisBytes
       (d.1, !d.2, s))
    else ([], false, s.rangeLog g key a)

/-- Blocks whose residual lies outside the regions: the access is not made, its block is poisoned (R207). -/
def Block.residualCheck (s : Block) (g key : Nat) (used : Nat → Bool) (block : Nat → Nat) : List Nat × Block :=
  let bad := (List.range numBlocks).filter (fun i => used i && !s.bhAllowed key (s.residualAt key (block i) 0) 128)
  (bad, bad.foldl (fun s i => s.rangeLog g key (s.residualAt key (block i) 0)) s)

/-- Execute an operation on a group: read, compute, and leave the result where it can be read L CCLK later (R249, R250). An occupied group does not take it. -/
def Block.gop (s : Block) (g gop : Nat) : Block :=
  let now := s.sw.stroke
  let vop := gVop gop
  let gr0 := (s.ox.group g).settle now
  match gr0.bound with
  | none => s
  | some key =>
    if vop = 0 ∨ now < gr0.busyUntil then s
    else
      let s0 := s.modOx (fun x => x.setGroup g gr0)
      let rd := opReads vop
      let cfg := s0.cfgOf key
      let blank : VReg × List Bool × Block := ({}, List.replicate numBlocks true, s0)
      let sa := if rd.1 then s0.source g key (gA gop) else blank
      let sb := if rd.2.1 then sa.2.2.source g key (gB gop) else ({}, List.replicate numBlocks true, sa.2.2)
      let d0 := if rd.2.2 then gr0.reg (gD gop) else {}
      let a := sa.1.like (if rd.2.1 then sb.1 else {})
      let b := sb.1.like a
      let d := d0.like a
      let lnd := (rd.1 && gA gop == 28) || (rd.2.1 && gB gop == 28)
      let toXb := gD gop == 29 && vop != 0x06
      let toBh := gD gop == 30 && vop != 0x06
      let narrow := if gr0.sendHall && toXb then s0.narrowCode key else none
      let final := !gr0.sendHall || (finalOp vop narrow.isSome && cfg.reduces)
      let block := fun (i : Nat) => gr0.sendBlock + i
      let live := fun (i : Nat) => if toXb then (s0.outBlock final key (block i)).isSome else lnd || s0.workEnabled key gr0 i
      let en := (List.range numBlocks).map (fun i => sa.2.1.getD i false && sb.2.1.getD i false && live i)
      let ln := if vop = 8 then 0 else gLn gop
      let act := (List.range lanesPerGroup).map (fun i => en.getD (i / 32) false && (ln == 0 || (ln == 1 && gr0.mask.getD i false) || (ln == 2 && !(gr0.mask.getD i false))))
      let stream := if narrow.isSome && vop == 0x13 then 1 else if vop = 7 && cfg.op = opRotateReduce && !cfg.xform then 3 else 0
      let out := if vop = 0x13 && narrow.isSome then (narrow.getD 12, narrow == some 4)
        else if vop = 0x13 && cfg.op = 9 then (1, false)
        else if vop = 7 && gSub gop = 3 then ((s0.areaForm key gr0.bhPtr).1, false)
        else (cfg.outFmt, cfg.outScaled)
      let rc := sb.2.2.residualCheck g key (fun i => stream == 1 && cfg.residual && en.getD i false) block
      let mb := rc.2.mmaBasis g key vop
      let s1 := mb.2.2
      let o : OpCtx := { cfg := cfg, launch := s0.launchOfKey key, stream := stream, index := fun i => s0.blockIndex final key (block i),
                         outCode := out.1, outScaled := out.2, n := grpN cfg.grp, residual := fun i => s0.residualOf key (block (i / 32)) (i % 32),
                         macs := s0.macsOf key gr0 mb.1, free := s1.free + lanesPerGroup }
      let k := gLn gop * 128 + gSub gop * 32 + gB gop
      let r := o.run vop (gSub gop) k a b d act
      let v : VReg := { lanes := (List.range lanesPerGroup).map (fun i =>
                          let x := r.2.2.getD i {}
                          if x.lost then Config.freeWord (s1.free + i) else x.w),
                        form := r.1, code := r.2.1,
                        flags := if r.2.2.any (fun x => x.flags != 0) then r.2.2.map (fun x => x.flags) else [],
                        scales := if r.2.2.any (fun x => x.scale != 256) then (List.range numBlocks).map (fun i => (r.2.2.getD (32 * i) {}).scale) else [],
                        poison := (List.range numBlocks).filter (fun i => !mb.2.1 || rc.1.contains i || a.poison.contains i || b.poison.contains i || (rd.2.2 && d.poison.contains i)) }
      let shown := if vop = 0x13 then v else if gA gop == 31 then b else a
      let s2 := (s1.laneCounts key (fun i => if lnd then gr0.rdBlock + i else block i) r.2.2 act).noteSkips key
        (showsGradient vop gr0.ksel (gA gop == 31 || gB gop == 31) narrow.isSome) shown block act
      let t := opTime vop (gSub gop) out.1 cfg [a, b, d] a
      let s3 : Block := { s2 with free := s2.free + 2 * lanesPerGroup }
      let s4 := s3.modGroup g (fun q => { q with busyUntil := now + t.1, computing := !(toXb || toBh), work := if toXb then none else q.work })
      if toXb then
        (let s5 := (List.range numBlocks).foldl (fun s i =>
          if en.getD i false then
            (let s' := s.xbBlock g key vop (block i) i t.2 v
             if stream = 1 && cfg.residual then s'.residualWrite g key (block i) i o a b v else s')
          else s) s4
         s5.modGroup g (fun q => { q with sendBlock := q.sendBlock + numBlocks }))
      else if toBh then
        (let n := bhSpan (s4.areaForm key gr0.bhPtr).1
         ((List.range numBlocks).foldl (fun s i => if en.getD i false then s.bhBlock g key (block i) i v else s) s4).modGroup g (fun q => { q with bhPtr := q.bhPtr + n }))
      else s4.modGroup g (fun q => { q with pend := q.pend ++ [⟨now + t.2, if vop = 0x06 then 32 else gD gop, v, act⟩] })

/-! ### Tiles at work (R194, R204 to R206) -/

/-- The group whose tiles carry a group's work: its partner, once it is withdrawn. -/
def Ox.carrier (x : Ox) (g : Nat) : Nat :=
  match x.partners.find? (fun p => p.1 == g) with
  | some p => p.2
  | none => g

/-- Are the tiles that carry a group occupied, by its own operations or by those of a group that they carry too? -/
def Block.tilesBusy (s : Block) (g : Nat) : Bool :=
  (List.range 16).any (fun h => s.ox.carrier h == s.ox.carrier g && decide (s.sw.stroke < (s.ox.group h).busyUntil))

/-- Does a tile that carries the group wait, fenced, to be replaced? -/
def Block.fencedWaits (s : Block) (g : Nat) : Bool := s.ox.fencing.any (fun l => l / 6 == s.ox.carrier g)

/-- Is a group between blocks: none begun, none waiting for its checks (R194)? -/
def Block.betweenBlocks (s : Block) (g : Nat) : Bool :=
  !(s.ox.group g).computing && !s.ox.results.any (fun r => r.g == g && !r.released) && !s.ox.stateWrites.any (fun w => w.g == g) && !s.ox.recomps.any (fun r => r.g == g)

/-- Is a group's operation held: the array has stopped (R206), its tiles are occupied (R250), it would begin a block on a fenced tile (R204), or it reads boathouse data that has not come? -/
def Block.gopHeld (s : Block) (g gop : Nat) : Bool :=
  let gr := s.ox.group g
  let rd := opReads (gVop gop)
  gVop gop != 0 && gr.bound.isSome && (s.ox.sweepFailed || s.tilesBusy g || (!gr.computing && s.fencedWaits g)
    || (!gr.bhReady && ((rd.1 && gA gop == 30) || (rd.2.1 && gB gop == 30))))

/-- Does an operation reach the boathouse, as a source or to write? -/
def gopReachesBh (gop : Nat) : Bool :=
  let rd := opReads (gVop gop)
  gVop gop != 0 && ((rd.1 && gA gop == 30) || (rd.2.1 && gB gop == 30) || (gD gop == 30 && gVop gop != 0x06))

/-! ### Group controls (R253) -/

def Block.gctl (s : Block) (g gopc garg : Nat) (twin : Bool) : Block :=
  match gopc with
  | 0 => s.modGroup g (fun q => { q with bound := some (garg % 4096 + 4096 * b2n twin) })
  | 1 =>
    if garg % 128 = 0x7F then s.modGroup g (fun q => { q with sendBlock := field garg 9 14, sendHall := bitAt garg 7, work := none })
    else s.modGroup g (fun q =>
      { q with rdInput := garg % 128, rdHall := bitAt garg 7, rdPre := bitAt garg 8, rdBlock := field garg 9 14,
               member := if bitAt garg 7 then q.member else garg % 128, work := some (garg % 128, bitAt garg 7, field garg 9 14) })
  | 2 => s.modGroup g (fun q => { q with bhPtr := garg % 2 ^ 23 * 256, bhReady := false })
  | _ => s.modGroup g (fun q => { q with ksel := garg % 16 })

/-- Does a bundle BIND act for the running launch of the twin? -/
def Block.runTwin (s : Block) : Bool := s.ox.eng.running && decide (4096 ≤ s.ox.eng.ctx)

/-! ### The rows -/

/-- Does the engine hold water: the scheduled domain is suspended (R261)? -/
def Block.held (s : Block) : Bool := s.ox.eng.state == 5

/-- A vector row: the operation acts on its group when the word's code is the row's, and the group is free. -/
def Block.vrow (s : Block) (code : Nat) (g : BitVec 4) (gop : BitVec 24) : Block :=
  if s.sw.inReset || s.held || gVop gop.toNat != code || s.gopHeld g.toNat gop.toNat then s else s.gop g.toNat gop.toNat

/-- A bitwise row: its SUB chooses the variant. -/
def Block.bitRow (s : Block) (sub : Nat) (g : BitVec 4) (gop : BitVec 24) : Block :=
  if gSub gop.toNat = sub then s.vrow 0x0C g gop else s

def execVNop (g : BitVec 4) (gop : BitVec 24) (s : State) : Host.Outcome State Fault Refusal :=
  s.act fun s => (s.vrow 0x00 g gop)
def execVAdd (g : BitVec 4) (gop : BitVec 24) (s : State) : Host.Outcome State Fault Refusal :=
  s.act fun s => (s.vrow 0x01 g gop)
def execVMul (g : BitVec 4) (gop : BitVec 24) (s : State) : Host.Outcome State Fault Refusal :=
  s.act fun s => (s.vrow 0x02 g gop)
def execVFma (g : BitVec 4) (gop : BitVec 24) (s : State) : Host.Outcome State Fault Refusal :=
  s.act fun s => (s.vrow 0x03 g gop)
def execVMin (g : BitVec 4) (gop : BitVec 24) (s : State) : Host.Outcome State Fault Refusal :=
  s.act fun s => (s.vrow 0x04 g gop)
def execVMax (g : BitVec 4) (gop : BitVec 24) (s : State) : Host.Outcome State Fault Refusal :=
  s.act fun s => (s.vrow 0x05 g gop)
def execVCmp (g : BitVec 4) (gop : BitVec 24) (s : State) : Host.Outcome State Fault Refusal :=
  s.act fun s => (s.vrow 0x06 g gop)
def execVCvt (g : BitVec 4) (gop : BitVec 24) (s : State) : Host.Outcome State Fault Refusal :=
  s.act fun s => (s.vrow 0x07 g gop)
def execVScale (g : BitVec 4) (gop : BitVec 24) (s : State) : Host.Outcome State Fault Refusal :=
  s.act fun s => (s.vrow 0x08 g gop)
def execVClamp (g : BitVec 4) (gop : BitVec 24) (s : State) : Host.Outcome State Fault Refusal :=
  s.act fun s => (s.vrow 0x09 g gop)
def execVRsqrt (g : BitVec 4) (gop : BitVec 24) (s : State) : Host.Outcome State Fault Refusal :=
  s.act fun s => (s.vrow 0x0A g gop)
def execVSign (g : BitVec 4) (gop : BitVec 24) (s : State) : Host.Outcome State Fault Refusal :=
  s.act fun s => (s.vrow 0x0B g gop)
def execVAnd (g : BitVec 4) (gop : BitVec 24) (s : State) : Host.Outcome State Fault Refusal :=
  s.act fun s => (s.bitRow 0 g gop)
def execVOr (g : BitVec 4) (gop : BitVec 24) (s : State) : Host.Outcome State Fault Refusal :=
  s.act fun s => (s.bitRow 1 g gop)
def execVXor (g : BitVec 4) (gop : BitVec 24) (s : State) : Host.Outcome State Fault Refusal :=
  s.act fun s => (s.bitRow 2 g gop)
def execVExpmax (g : BitVec 4) (gop : BitVec 24) (s : State) : Host.Outcome State Fault Refusal :=
  s.act fun s => (s.vrow 0x10 g gop)
def execVAxcvt (g : BitVec 4) (gop : BitVec 24) (s : State) : Host.Outcome State Fault Refusal :=
  s.act fun s => (s.vrow 0x11 g gop)
def execVAxadd (g : BitVec 4) (gop : BitVec 24) (s : State) : Host.Outcome State Fault Refusal :=
  s.act fun s => (s.vrow 0x12 g gop)
def execVAxout (g : BitVec 4) (gop : BitVec 24) (s : State) : Host.Outcome State Fault Refusal :=
  s.act fun s => (s.vrow 0x13 g gop)
def execVIsum (g : BitVec 4) (gop : BitVec 24) (s : State) : Host.Outcome State Fault Refusal :=
  s.act fun s => (s.vrow 0x14 g gop)
def execVMma (g : BitVec 4) (gop : BitVec 24) (s : State) : Host.Outcome State Fault Refusal :=
  s.act fun s => (s.vrow 0x18 g gop)

/-- BIND, SEEK, BHPTR and KSEL: the group control of a bundle (R253). -/
def execBind (g : BitVec 4) (garg : BitVec 23) (s : State) : Host.Outcome State Fault Refusal :=
  s.act fun s =>
    (if s.sw.inReset || s.held then s else s.gctl g.toNat 0 garg.toNat s.runTwin)
def execSeek (g : BitVec 4) (garg : BitVec 23) (s : State) : Host.Outcome State Fault Refusal :=
  s.act fun s =>
    (if s.sw.inReset || s.held then s else s.gctl g.toNat 1 garg.toNat false)
def execBhptr (g : BitVec 4) (garg : BitVec 23) (s : State) : Host.Outcome State Fault Refusal :=
  s.act fun s =>
    (if s.sw.inReset || s.held then s else s.gctl g.toNat 2 garg.toNat false)
def execKsel (g : BitVec 4) (garg : BitVec 23) (s : State) : Host.Outcome State Fault Refusal :=
  s.act fun s =>
    (if s.sw.inReset || s.held then s else s.gctl g.toNat 3 garg.toNat false)

/-- BH_FETCH_DONE: the data at the group's pointer is here; an uncorrectable read returns the block with poison (R364; an injected one, point 0x31, at the block that ARG names); an injected correctable one (point 0x30) is corrected and written back. -/
def execBhFetchDone (g : BitVec 4) (uncorrectable inj : Bool) (s : State) : Host.Outcome State Fault Refusal :=
  s.act fun s =>
    let gr := s.ox.group g.toNat
    (if s.sw.inReset || gr.bhReady then s
      else
        let blk := (s.areaBase (gr.bound.getD 0) + gr.bhPtr) / 256
        let bad := uncorrectable && s.sw.detects 0x31 32 blk inj
        let corrected := inj && !uncorrectable && s.sw.detects 0x30 32 blk inj
        let s1 := if bad then (s.modSw (fun c => (if inj then c.injected 0x31 else c).count (ob 0x9021 1) 0 32 1)).modOx (fun x => { x with bhPoison := insertNat x.bhPoison blk })
          else if corrected then s.modSw (fun c => ((c.injected 0x30).count (ob 0x9021 0) 0 64 1).logLimited 0x9004 .corrected 0xFF 0 (packArg [(30, blk)]))
          else s.modSw (fun c => c.undetected (if uncorrectable then 0x31 else 0x30) 32 blk inj)
        s1.modGroup g.toNat (fun q => { q with bhReady := true }))

end Sys2Proof.Machine
end

