-- ==== Sys2Proof/Machine/Release.lean ====
section
/-!
DEFINITION. What leaves a tile group: result chunks and COMPLETE, boathouse writes and their mirror, staging words; residue strikes, recomputation, fencing and withdrawal of tiles (09, R193, R201 to R206, R211; 10, R226, R231 to R239; 11, R252, R256, R265 to R267; 16, R371).
-/
namespace Sys2Proof.Machine

/-! ### Sending to members (R141, R233, R371) -/

/-- The switch ID under which a launch's packets leave: the twin's for a launch served for it. -/
def Block.keyId (s : Block) (key : Nat) : Nat := if 4096 ≤ key then s.twinId else s.swId

/-- Send packets for slots of this rack from an internal port: by their crew ports in one cell, over the bridge one by one where the crew port is not ACTIVE. A fenced switch sends no COLL packet (R372). -/
def Block.sendSlots (s : Block) (port : Nat) (l : List (Nat × Packet)) : Block :=
  if s.sw.isFenced then s
  else
    let here := l.filter (fun x => s.sw.lstate x.1 == lsActive)
    let away := l.filter (fun x => s.sw.lstate x.1 != lsActive)
    away.foldl (fun s x => s.unitSend port [bridgeOutput x.2] x.2) (s.unitSendAll port here)

/-- COMPLETE to an endpoint (R239). -/
def Block.completePacket (s : Block) (key id member : Nat) (st detail bytes rctr : Nat) (rcEn : Bool) (tenant : Nat) : Packet :=
  ({ net := 2, opc := 0x23, src := s.keyId key, srcSw := true, dst := id, tenant := tenant, nb := st } : Hdr).packet
    (collWord (key % 4096) member 2 false false 0 0) 0 (packArg [(13, rctr), (1, b2n rcEn), (32, bytes), (8, detail)]) []

/-- RELEASE to an endpoint (R108). -/
def Block.releasePacket (s : Block) (key id member tenant : Nat) : Packet :=
  ({ net := 2, opc := 0x25, src := s.keyId key, srcSw := true, dst := id, tenant := tenant } : Hdr).packet (collWord (key % 4096) member 2 false false 0 0) 0 0 []

/-- RESEND_REQ to an endpoint (R233). -/
def Block.resendPacket (s : Block) (key id member tenant first n : Nat) (pre : Bool) : Packet :=
  ({ net := 2, opc := 0x24, src := s.keyId key, srcSw := true, dst := id, tenant := tenant } : Hdr).packet
    (collWord (key % 4096) member 2 false false 0 0) 0 (packArg [(14, 0), (32, first), (16, n), (1, b2n pre)]) []

def Block.endpointId (s : Block) (slot : Nat) : Nat := s.swRack * 128 + slot

/-! ### Result chunks (R226, R233, R252) -/

/-- B and K of a key's result chunks. -/
def Block.resForm (s : Block) (key : Nat) : Nat × Nat :=
  let c := s.cfgOf key
  let w := codeWidth c.outFmt
  let sc := hasScale c.outFmt c.outScaled
  (chunkBlocks w sc, chunksPerSeg w sc)

/-- The chunk of the result stream that holds block `b`, and the blocks of a chunk that the stream has. -/
def Block.chunkOf (s : Block) (key b : Nat) : Nat := let f := s.resForm key; b / 16 * f.2 + b % 16 / max 1 f.1
def Block.chunkBlocksOf (s : Block) (key c : Nat) : List Nat :=
  let f := s.resForm key
  let p := c % max 1 f.2
  ((List.range (min 16 (f.1 * (p + 1)) - f.1 * p)).map (fun i => 16 * (c / max 1 f.2) + f.1 * p + i)).filter (fun b => (s.resBlock key b).isSome)

/-- CHUNK numbers of the result stream. -/
def Block.resChunks (s : Block) (key : Nat) : List Nat :=
  let c := s.cfgOf key
  let sh := s.keyShare key
  chunkNumbers (codeWidth c.outFmt) (hasScale c.outFmt c.outScaled) (List.range c.pieceCount) c.resPieceLen sh.1 sh.2

/-- Is chunk `c` the last of the stream to a member? -/
def Block.lastFor (s : Block) (key c member : Nat) : Bool :=
  !(s.resChunks key).any (fun d => decide (c < d) && (match s.resBlock key ((s.chunkBlocksOf key d).headD 0) with
    | some (piece, _) => ((s.cfgOf key).recipients piece).contains member
    | none => false))

/-- The RESULT packet of a chunk for one joined endpoint. `member` is its member index. -/
def Block.resultPacket (s : Block) (key chunk piece off : Nat) (j : Joined) (payload : List Byte) (poison : Bool) : Packet :=
  let c := s.cfgOf key
  let w := codeWidth c.outFmt
  let fpa := j.slot * 2 ^ 40 + (j.rbase + (c.resOffset piece + off) * w / 8) % 2 ^ 40
  let stage := if 1 < grpHExt c.grp then 3 else 2
  ({ net := 2, long := true, opc := 0x22, src := s.keyId key, srcSw := true, dst := s.endpointId j.slot, tenant := c.tenant, poison := poison } : Hdr).packet
    (collWord (key % 4096) j.slot stage j.backup (s.lastFor key chunk j.member) chunk c.outFmt) fpa 0 payload

/-- Bytes of a chunk that are written to a result: element bytes within the piece, and a scale byte for each block. -/
def Block.chunkBytes (s : Block) (key : Nat) (blocks : List Nat) (off : Nat) : Nat :=
  let c := s.cfgOf key
  let n := min (32 * blocks.length) (c.resPieceLen - off)
  (n * codeWidth c.outFmt + 7) / 8 + (if hasScale c.outFmt c.outScaled then blocks.length else 0)

/-- The backup's endpoint ID of a repechage slot of a context, when member `m` is the primary of one (R235). -/
def Common.repBackup (c : Common) (ctx m : Nat) : Option Nat :=
  (c.regs.find? (fun r => r.1 / 256 == 0x7300 && bitsOf r.2 38 1 == 1 && bitsOf r.2 0 12 == ctx && bitsOf r.2 12 13 == m)).map (fun r => bitsOf r.2 25 13)

/-- The payload of result chunk `chunk` (R226): its blocks' elements, those beyond the end of the stream zero, then a scale byte for each block. -/
def Cfg.resPayload (c : Cfg) (chunk : Nat) (bs : List ResBlk) : List Byte :=
  let w := codeWidth c.outFmt
  let sc := hasScale c.outFmt c.outScaled
  let parts := (blocksOfChunk w sc chunk).map (fun b => bs.find? (fun r => r.block == b))
  (parts.map (fun r => match r with
    | some x => x.data
    | none => List.replicate (4 * w) 0)).flatten
  ++ (if sc then (parts.map (fun r => match r with
    | some x => x.scale
    | none => [0])).flatten else [])

/-- Has a result chunk gone to all its members with this one: every chunk but a SCAN's, which goes to each member in turn? -/
def Cfg.lastOf (c : Cfg) (m : Option Nat) : Bool :=
  match m with
  | some k => k % max 1 (grpPerRack c.grp) + 1 == grpPerRack c.grp
  | none => true

/-- Send a complete chunk to every recipient that has joined; hold it for the endpoints of a repechage slot that have not (R237). A block of a SCAN is for the member whose contribution was read last before it was written (DEDUCED, log). -/
def Block.sendResult (s : Block) (g key chunk : Nat) (bs : List ResBlk) : Block :=
  match s.slaunch? key, bs with
  | some l, b0 :: _ =>
    match (if b0.block < l.resume then none else s.resBlock key b0.block) with
    | none => s
    | some (piece, off) =>
      let all := l.cfg.recipients piece
      let rcp := match b0.member with
        | some m => all.filter (fun k => k == m)
        | none => all
      let dest := l.joined.filter (fun j => rcp.contains j.member && !j.completed)
      let payload := l.cfg.resPayload chunk bs
      let poison := bs.any (fun b => b.poison)
      let n := s.chunkBytes key (bs.map (fun b => b.block)) off
      let pkts := dest.map (fun j => (j.slot, s.resultPacket key chunk piece off j payload poison))
      let absent := (rcp.filter (fun m => (s.sw.repBackup (key % 4096) m).isSome)).flatMap (fun m =>
        [false, true].filterMap (fun bk => if l.joined.any (fun j => j.member == m && j.backup == bk) then none
          else some (HeldRes.mk key m bk n (s.resultPacket key chunk piece off ⟨m, 0, bk, 0, 0, false, 0, [], false⟩ payload poison))))
      let s1 := s.sendSlots (xpGroup + g) pkts
      let s2 := s1.modOx (fun x => { x with heldResults := x.heldResults ++ absent })
      let first := poison && !l.poisoned
      let s3 := if first then s2.modSw (fun c => (c.count (ob 0x9021 4) 0 32 1).logLimited 0x9006 .uncorrected 0xFF 0
          (packArg [(39, match pkts with
            | x :: _ => pFpa x.2 / 256
            | [] => 0), (8, l.cfg.tenant)])) else s2
      s3.modSL key (fun l => { l with
        sentChunks := if l.cfg.lastOf b0.member then insertNat l.sentChunks chunk else l.sentChunks,
        unacked := l.unacked ++ dest.map (fun _ => chunk),
        poisoned := l.poisoned || poison,
        joined := l.joined.map (fun j => if dest.any (fun t => t.slot == j.slot) then
          { j with bytes := j.bytes + n, status := if poison && !j.status.contains stPoison then j.status ++ [stPoison] else j.status } else j) })
  | _, _ => s

/-! ### Hall partials (R231, R234) -/

/-- The HALL_DATA packets of a block: one, or two halves with a SEGMENT extension where its bytes do not fit behind COLL_STAGE. -/
def Block.hallPackets (s : Block) (key : Nat) (r : ResBlk) (rack lanes phase : Nat) : List Packet :=
  let c := s.cfgOf key
  let bytes := r.data ++ r.scale
  let stage := fun (next : Nat) => leBytes 16 (packArg [(8, next), (8, 2), (12, key % 4096), (6, phase), (6, s.rackIndex key), (24, 0), (32, r.block), (16, 1)])
  let pkt := fun (hlen : Nat) (ext body : List Byte) =>
    ({ net := 3, long := true, opc := 0x30, src := s.swId, srcSw := true, dst := rack * 16 + s.swPlane, dstSw := true, tenant := c.tenant,
       poison := r.poison, nb := 1 } : Hdr).packet (packArg [(6, hlen), (9, body.length)]) (s.launchOfKey key % 2 ^ 32) lanes (ext ++ body)
  if bytes.length ≤ 240 then [pkt 6 (stage 0) bytes]
  else
    let seg := fun (k : Nat) => leBytes 8 (packArg [(8, 0), (8, 1), (16, k), (16, 2)])
    [pkt 7 (stage 2 ++ seg 0) (bytes.take 128), pkt 7 (stage 2 ++ seg 1) (bytes.drop 128)]

/-- Send one packet of the hall stage by the route of R127. -/
def Block.sendHallPacket (s : Block) (g : Nat) (p : Packet) : Block :=
  match (s.route false (xpGroup + g) false p).port with
  | some o => s.unitSend (xpGroup + g) [o] p
  | none => s.modSw (fun c => c.log 0x3041 .uncorrected 0xFF (packArg [(6, pDst p / 16 % 64), (1, 0)]))

def Block.sendHallBlock (s : Block) (g key : Nat) (r : ResBlk) (d : List Nat × Nat × Nat) : Block :=
  if s.sw.isFenced then s
  else
    let s1 := (d.1.flatMap (fun rack => s.hallPackets key r rack d.2.1 d.2.2)).foldl (fun s p => s.sendHallPacket g p) s
    s1.modSL key (fun l => { l with hallStep := d.2.2 })

/-! ### Staging words (R251) -/

/-- The result block that a landed block's block contributes to. -/
def Block.fedBlock (s : Block) (key : Nat) (e : LandBlk) : Nat :=
  let op := (s.cfgOf key).op
  if e.hall || !(op == 2 || op == 5 || op == 6 || op == 10) then e.block
  else match s.inBlock key e.input e.block with
    | some x => ((List.range (s.shareBlocks key)).find? (fun b => s.resBlock key b == some x)).getD e.block
    | none => e.block

/-- Release the staging words of a group up to the first that a landed block still needs. -/
def Block.stagingRelease (s : Block) (g : Nat) : Block :=
  let ii := 0xA0 + g
  let rp := (s.ox.inst ii).rp
  s.instRelease ii ((s.ox.gwHeld.filter (fun e => e.g == g)).foldl (fun m e => min m e.pos)
    ((s.ox.landed.filter (fun e => e.g == g)).foldl (fun m e => min m e.pos) rp))

/-! ### The mirror (R265 to R267) -/

/-- A MIRROR packet. -/
def Block.mirrorPacket (s : Block) (ctx tenant kind offset : Nat) (payload : List Byte) (poison : Bool) : Packet :=
  ({ net := 2, long := true, opc := 0x26, src := s.swId, srcSw := true, dst := s.twinId, dstSw := true, tenant := tenant, poison := poison } : Hdr).packet
    (packArg [(12, ctx)]) 0 (packArg [(14, 0), (2, kind), (30, offset)]) payload

/-- Is a key's state mirrored now: its entry says so, and the bridge is ACTIVE? -/
def Block.mirrored (s : Block) (key : Nat) : Bool :=
  decide (key < 4096) && s.sw.lstate 0x58 == lsActive &&
    (match s.entryFor false key with
     | some e => e.mirror
     | none => false)

/-- Send a written block of state to the twin; the group's block waits for its acknowledgement. -/
def Block.mirrorState (s : Block) (g key block a : Nat) : Block :=
  let blk := a / 256
  let d := s.ox.bhRead (blk * 256) 256
  let off := blk - (s.sw.optRegion false).1 / 256
  let p := s.mirrorPacket key (s.cfgOf key).tenant 1 off d.1 d.2
  (s.unitSend (xpGroup + g) [bridgeOutput p] p).modOx (fun x => { x with mirrorsOut := x.mirrorsOut ++ [⟨key, some off, g, block⟩] })

/-- Does a block wait for the mirror? -/
def Block.withheld (s : Block) (g key block : Nat) : Bool :=
  s.ox.mirrorsOut.any (fun m => m.offset.isSome && m.g == g && m.ctx == key && m.block == block)

/-! ### Releasing a block (R201, R202) -/

/-- Send what can be sent of a group's results for a key: complete chunks whose blocks have all passed, none behind a block that has not. -/
def Block.pumpResults (s : Block) (g key : Nat) : Nat → Block
  | 0 => s
  | f + 1 =>
    let ready := (s.ox.results.filter (fun r => r.g == g && r.ctx == key)).takeWhile (fun r => r.released && !s.withheld g key r.block)
    let drop := fun (s : Block) (bs : List ResBlk) => s.modOx (fun x => { x with results := bs.foldl (fun l b => eraseFirst (fun r => r == b) l) x.results })
    let pick := ready.findSome? (fun r => match r.dest with
      | some d => some (some d, [r])
      | none =>
        let need := s.chunkBlocksOf key (s.chunkOf key r.block)
        let have_ := need.map (fun b => ready.find? (fun x => x.block == b && x.dest.isNone && x.member == r.member))
        if have_.all Option.isSome && !need.isEmpty then some (none, have_.filterMap id) else none)
    match pick with
    | some (some d, bs) => ((bs.foldl (fun s r => s.sendHallBlock g key r d) s |> fun s => drop s bs)).pumpResults g key f
    | some (none, bs) => (drop (s.sendResult g key (s.chunkOf key ((bs.map (fun b => b.block)).headD 0)) bs) bs).pumpResults g key f
    | none => s

/-- The current weights of a skipped block (R211): the master weights, or the weight input. -/
def Block.currentWeights (s : Block) (g key block : Nat) : VReg :=
  let h := s.areaHdr key
  let lo := match s.slaunch? key with
    | some l => l.lo
    | none => 0
  if h.master then
    (let d := s.ox.bhRead (s.areaBase key + 256 + 4 * 32 * (block - lo)) 128
     { lanes := (List.range 32).map (fun i => BitVec.ofNat 64 (leAt d.1 (4 * i) 4)), form := 0, code := 1, poison := if d.2 then [0] else [] })
  else match s.ox.landed.find? (fun e => e.g == g && e.ctx == key && e.weight && e.block == block) with
    | some e =>
      let b := e.lanes
      { lanes := b.lanes, form := b.form, code := b.code, poison := if b.poison then [0] else [] }
    | none => { lanes := (List.range 32).map (fun i => Config.freeWord (s.free + i)), form := 2, code := 17 }

/-- A result block of a skipped block carries the current weights, converted like any result. -/
def Block.skipResult (s : Block) (r : ResBlk) : ResBlk :=
  match s.slaunch? r.ctx with
  | some l =>
    if l.skips.contains r.block && r.dest.isNone then
      (let w := s.currentWeights r.g r.ctx r.block
       let fill := match s.resBlock r.ctx r.block with
         | some x => min 32 (l.cfg.resPieceLen - x.2)
         | none => 0
       let body := packEnc l.cfg.outFmt l.cfg.outScaled (w.encode l.cfg.outFmt l.cfg.outScaled l.cfg.rnd (blockBits l.cfg.seed.toNat l.launch 0 (s.blockIndex true r.ctx r.block)) 0) fill
       { r with data := body.1, scale := body.2.1, poison := r.poison || w.poison.contains 0 })
    else r
  | none => r

/-- Is a block's state left as it is (R211)? The residual of a hall stage is no optimizer state. -/
def Block.stateKept (s : Block) (w : StateWrite) : Bool :=
  match s.slaunch? w.ctx with
  | some l => l.skips.contains w.block && !(l.cfg.residual && decide (s.areaBase w.ctx + l.cfg.resOff * 2 ^ 20 ≤ w.addr))
  | none => false

/-- A block passes its checks, or is released poisoned: its state is written, its results may go, its staging words are free. -/
def Block.releaseBlock (s : Block) (g key block : Nat) (failed : Bool) : Block :=
  let all := s.ox.stateWrites.filter (fun w => w.g == g && w.ctx == key && w.block == block)
  let mine := all.filter (fun w => !w.data.isEmpty)
  let poison := failed || decide (mine.length < all.length)
  let own := s.areaOwner key
  let s1 := s.modOx (fun x => { x with stateWrites := x.stateWrites.filter (fun w => !(w.g == g && w.ctx == key && w.block == block)) })
  let s2 := mine.foldl (fun s w => if s.stateKept w then s else s.modOx (fun x => x.bhWrite w.addr w.data (w.poison || poison) own.1 own.2)) s1
  let s3 := if s.mirrored key then
      (((mine.filter (fun w => !s.stateKept w)).flatMap (fun w => [w.addr / 256, (w.addr + w.data.length - 1) / 256])).eraseDups).foldl (fun s b => s.mirrorState g key block (b * 256)) s2
    else s2
  let s4 := s3.modOx (fun x => { x with
    results := x.results.map (fun r => if r.g == g && r.ctx == key && r.block == block && !r.released then
      (let q := s3.skipResult r
       { q with released := true, poison := q.poison || poison }) else r),
    landed := x.landed.filter (fun e => !(e.g == g && e.ctx == key && e.freed && s3.fedBlock key e == block)) })
  (s4.stagingRelease g).pumpResults g key (s4.ox.results.length + 1)

/-! ### Tiles (R193, R194, R203 to R206) -/

def Common.tileState (c : Common) (p : Nat) : Nat := c.fld (ob 0x6000 p) 0 2
def Common.tileLogical (c : Common) (p : Nat) : Nat := c.fld (ob 0x6000 p) 2 7
def Common.physical (c : Common) (l : Nat) : Nat := c.fld (ob 0x6001 l) 0 7
/-- SPARES_FREE counts the SPARE tiles, saturating. -/
def Common.spareCount (c : Common) : Common :=
  c.setFld (ob 0x6003 0) 16 4 (min 15 ((List.range 104).filter (fun p => c.tileState p == 1)).length)
def Common.setTile (c : Common) (p st l : Nat) : Common := ((c.setFld (ob 0x6000 p) 0 2 st).setFld (ob 0x6000 p) 2 7 l).spareCount
def Common.lowestSpare (c : Common) : Option Nat := (List.range 104).find? (fun p => c.tileState p == 1)
def Common.groupLive (c : Common) (g : Nat) : Bool := c.bit (ob 0x6003 0) g

/-- The first group in the order of R205 that is live and no partner yet. -/
def Block.partnerFor (s : Block) (g : Nat) : Option Nat :=
  ((List.range 15).map (fun k => Nat.xor g (k + 1))).find? (fun h => s.sw.groupLive h && !(s.ox.partners.any (fun p => p.2 == h)))

/-- Withdraw a group: its healthy tiles become SPARE, a partner carries its work; what it carried for another group goes to a partner of that group's. Without a partner the array stops. -/
def Block.withdraw (s : Block) (g : Nat) : Block :=
  let tiles := (List.range 6).map (fun q => s.sw.physical (6 * g + q))
  let s1 := s.modSw (fun c => tiles.foldl (fun c p => if c.tileState p == 0 && c.tileLogical p / 6 == g then c.setTile p 1 0x7F else c) (c.setBit (ob 0x6003 0) g false))
  let carried := (s.ox.partners.filter (fun p => p.2 == g)).map (fun p => p.1)
  (g :: carried).foldl (fun s w =>
    match s.partnerFor w with
    | some h =>
      let s2 := s.modOx (fun x => { x with partners := (x.partners.filter (fun p => p.1 != w)) ++ [(w, h)] })
      s2.modSw (fun c => c.log 0x4004 .corrected w (packArg [(4, w), (4, h)]))
    | none => if s.ox.sweepFailed then s else (s.modOx (fun x => { x with sweepFailed := true })).modSw (fun c => (c.log 0x4005 .fatal w (packArg [(4, w)])).yieldToken))
    s1

/-- Logical tiles whose physical tile is fenced move to spares in ascending order, each when its group is between blocks (R194); with none free they wait for a borrowed one, and with none borrowed their group is withdrawn. -/
def Block.moveTile (s : Block) (l : Nat) : Block :=
  let g := l / 6
  let gone : Block := s.modOx (fun x => { x with fencing := x.fencing.filter (fun k => k != l) })
  if !s.sw.groupLive g then gone
  else if !s.betweenBlocks g then s
  else match s.sw.lowestSpare with
  | some p => gone.modSw (fun c => (c.setTile p 0 l).setFld (ob 0x6001 l) 0 7 p)
  | none => if (List.range 104).any (fun p => s.sw.tileState p == 2) then s else gone.withdraw g
def Block.moveTiles (s : Block) : Block := s.ox.fencing.foldl (fun s l => if s.ox.fencing.contains l then s.moveTile l else s) s

/-- Fence a physical tile (R204): once, for good until power-on. -/
def Block.fenceTile (s : Block) (p : Nat) : Block :=
  if 104 ≤ p || s.sw.tileState p == 3 then s
  else
    let l := s.sw.tileLogical p
    let serving := s.sw.tileState p == 0
    let s1 := s.modSw (fun c => (c.setTile p 3 0x7F).log 0x4002 .corrected p (packArg [(7, p), (7, l)]))
    let s2 := if serving then s1.modOx (fun x => { x with fencing := insertNat x.fencing l }) else s1
    s2.moveTiles

/-- A strike against a physical tile (R204). -/
def Block.strike (s : Block) (p : Nat) : Block :=
  let now := s.sw.stroke
  let old := SMap.get [] s.ox.strikes p
  let s1 := (s.modOx (fun x => { x with strikes := SMap.set [] x.strikes p ((old ++ [now]).drop (old.length - 1)) })).modSw (fun c => c.count (ob 0x6004 0) 0 64 1)
  match old with
  | [a, _] => if s.sw.since a ≤ 1750000000 then s1.fenceTile p else s1
  | _ => s1

/-! ### Recomputation (R202, R203) -/

/-- A borrowed tile returns. -/
def Block.returnTile (s : Block) (r : Recomp) : Block :=
  if r.borrowed && s.sw.tileState r.tile == 2 then (s.modSw (fun c => c.setTile r.tile 1 0x7F)).moveTiles else s

/-- A recomputation takes the lowest spare; without one, the tile that failed. -/
def Block.lendTile (s : Block) (r : Recomp) : Block :=
  match s.sw.lowestSpare with
  | some p => (s.modSw (fun c => c.setTile p 2 0x7F)).modOx (fun x => { x with recomps := x.recomps ++ [{ r with tile := p, borrowed := true }] })
  | none => s.modOx (fun x => { x with recomps := x.recomps ++ [{ r with tile := r.failedTile, borrowed := false }] })

/-- Put a recomputation among those that need a tile in the same CCLK, ascending by logical tile. -/
def insertRecomp (r : Recomp) (l : List Recomp) : List Recomp :=
  l.takeWhile (fun q => decide (q.logical ≤ r.logical)) ++ r :: l.dropWhile (fun q => decide (q.logical ≤ r.logical))

/-- Begin, or begin again, the recomputation of a block (R202): the group's staging instance is rewound to its mark, and the spares of this CCLK are taken in ascending order of logical tile (R203). -/
def Block.recompute (s : Block) (g key block logical failedTile fails : Nat) : Block :=
  let now := s.sw.stroke
  let r : Recomp := { g := g, ctx := key, block := block, logical := logical, failedTile := failedTile, tile := failedTile, borrowed := false, fails := fails, at_ := now }
  let same := s.ox.recomps.filter (fun q => q.at_ == now)
  let s1 := same.foldl (fun s q => if q.borrowed && s.sw.tileState q.tile == 2 then s.modSw (fun c => c.setTile q.tile 1 0x7F) else s) s
  let s2 := s1.modOx (fun x => { x with recomps := x.recomps.filter (fun q => q.at_ != now) })
  let s3 := (insertRecomp r same).foldl (fun s q => s.lendTile q) s2
  (s3.modGroup g (fun q => { q with replayTo := max q.replayTo (s.ox.inst (0xA0 + g)).rp })).instRewind (0xA0 + g)

/-- Has the reader come past the words that a rewind replays? -/
def Block.replayed? (s : Block) (g : Nat) : Bool := decide ((s.ox.group g).replayTo ≤ (s.ox.inst (0xA0 + g)).rp)

/-! ### COMPLETE and RELEASE (R239, R256) -/

/-- Are all results of a launch on their way? -/
def Block.resultsOut (s : Block) (key : Nat) : Bool := !(s.ox.results.any (fun r => r.ctx == key)) && !(s.ox.stateWrites.any (fun w => w.ctx == key))

/-- COMPLETE, then RELEASE, to one joined endpoint, behind its results; the loser of a repechage slot has had its RELEASE. -/
def Block.closeJoined (s : Block) (key port : Nat) (tenant : Nat) (j : Joined) (st detail : Nat) (released : Bool) : Block :=
  let id := s.endpointId j.slot
  let s1 := s.sendSlots port [(j.slot, s.completePacket key id j.slot st detail j.bytes j.rctr j.rcEn tenant)]
  if released then s1 else s1.sendSlots port [(j.slot, s.releasePacket key id j.slot tenant)]

/-- The port behind which a launch's COMPLETEs enter: that of its first group. -/
def Block.closePort (s : Block) (key : Nat) : Nat :=
  match s.entryFor (4096 ≤ key) (key % 4096) with
  | some e => xpGroup + e.group0
  | none => xpEngine

/-- COMPLETE and RELEASE to every joined endpoint that has not had them. -/
def Block.sendCompletes (s : Block) (key : Nat) (st : Joined → Nat) : Block :=
  match s.slaunch? key with
  | none => s
  | some l =>
    let s1 := (l.joined.filter (fun j => !j.completed)).foldl (fun s j => s.closeJoined key (s.closePort key) l.cfg.tenant j (st j) (if st j = stDescriptor then 6 else 0) (l.released.contains (j.member, j.backup))) s
    s1.modSL key (fun l => { l with finishing := false, finished := true, joined := l.joined.map (fun j => { j with completed := true }) })

/-! ### What an ended launch leaves (R211, R221, R256) -/

/-- STEP, P1 and P2 are written back once, when the launch completes well (R211). -/
def Block.writeHeader (s : Block) (key : Nat) (l : SLaunch) : Block :=
  let ok := l.joined.all (fun j => success (firstStatus j.status)) && !optBad l.optrec
  if l.cfg.op = 9 ∧ ok ∧ l.optrec ≠ [] ∧ l.cfg.areaSize ≠ 0 ∧ l.lo < l.hi then
    (let h := s.areaHdr key
     let a := s.areaBase key
     let f := fun (p pos : Nat) => (encodeElem 1 (mulVal (decodeElem 1 p) (decodeElem 1 (leAt l.optrec pos 4))) rne 0).bits
     let own := s.areaOwner key
     let bytes := leBytes 8 (h.step + 1) ++ leBytes 4 (f h.p1 16) ++ leBytes 4 (f h.p2 20)
     if s.bhAllowed key a 16 then
       (let s1 := s.modOx (fun x => x.bhWrite a bytes false own.1 own.2)
        if s1.mirrored key then s1.mirrorState l.entry.group0 key (2 ^ 32) a else s1)
     else s.rangeLog l.entry.group0 key a)
  else s

/-- A group without the marks of a launch's struck blocks. -/
def Group.forgetBad (q : Group) (key : Nat) : Group := { q with badMem := q.badMem.filter (fun m => m.1 != key) }

/-- What a launch still has at the tile groups goes: landed blocks, results and writes that wait, recomputations, arrival registers, its place in the queues. -/
def Block.dropLaunchData (s : Block) (key : Nat) : Block :=
  let s1 := (s.ox.recomps.filter (fun r => r.ctx == key)).foldl (fun s r => s.returnTile r) s
  let s2 := s1.modOx (fun x => { x with
    landed := x.landed.filter (fun e => e.ctx != key),
    results := x.results.filter (fun r => r.ctx != key),
    stateWrites := x.stateWrites.filter (fun w => w.ctx != key),
    recomps := x.recomps.filter (fun r => r.ctx != key),
    arv := x.arv.filter (fun a => a.1 / 64 != key),
    arvPend := x.arvPend.filter (fun a => a / 64 != key),
    groups := x.groups.map (fun q => (q.1, (if q.2.bound == some key then { q.2 with computing := false } else q.2).forgetBad key)),
    ready := x.ready.filter (fun k => k != key),
    hallHeld := x.hallHeld.filter (fun k => k != key) })
  ((List.range 16).foldl (fun s g => s.stagingRelease g) s2).moveTiles

/-- A launch that DONE has ended is gone once its results and COMPLETEs are out: its header is written, what the groups held of it goes. -/
def Block.closeEnded (s : Block) (key : Nat) : Block :=
  match s.slaunch? key with
  | some l =>
    if l.ended && l.finished && s.resultsOut key then
      ((s.writeHeader key l).dropLaunchData key).modOx (fun x => { x with launches := x.launches.filter (fun m => m.key != key) })
    else s
  | none => s

/-- A launch that FINISH has acted for closes once its results are out; its packets enter in the CCLK after. -/
def Block.closePump (s : Block) (key : Nat) : Block :=
  match s.slaunch? key with
  | some l =>
    if l.finishing && s.resultsOut key then
      (let now := s.sw.stroke
       (((s.modSw (fun c => { c with stroke := now + 1 })).sendCompletes key (fun j => firstStatus (if optBad l.optrec then stDescriptor :: j.status else j.status))).modSw (fun c => { c with stroke := now })).closeEnded key)
    else s
  | none => s

/-- The launch key of a block that waits for its checks at a group. -/
def Block.blockKey (s : Block) (g ctx block : Nat) : Option Nat :=
  match s.ox.results.find? (fun r => r.g == g && r.ctx % 4096 == ctx && r.block == block && !r.released && decide (r.at_ ≤ s.sw.stroke)) with
  | some r => some r.ctx
  | none => (s.ox.stateWrites.find? (fun w => w.g == g && w.ctx % 4096 == ctx && w.block == block)).map (fun w => w.ctx)

/-- BLOCK_RELEASE: a block's checks are done. A failed one is a strike against the tile at position `pos` (points 0x40 and 0x41: the tile that ARG names) and starts a recomputation; one whose memory an SRAM error has struck is recomputed without a strike (R363); a passed one releases the block. -/
def execBlockRelease (g : BitVec 4) (ctx : BitVec 12) (block : BitVec 32) (bad : Bool) (pos : BitVec 3) (inj : Bool) (s : State) : Host.Outcome State Fault Refusal :=
  s.act fun s =>
    let gg := g.toNat
    (if s.sw.inReset then s
      else match s.blockKey gg ctx.toNat block.toNat with
      | none => s
      | some key =>
        if s.ox.recomps.any (fun r => r.g == gg && r.ctx == key && r.block == block.toNat) then s
        else
          let point := if s.sw.injects 0x40 then 0x40 else 0x41
          let l := 6 * s.ox.carrier gg + pos.toNat % 6
          let p := s.sw.physical l
          if bad && s.sw.detects point 8 p inj then
            (((if inj then s.modSw (fun c => c.injected point) else s).strike p).recompute gg key block.toNat l p 0)
          else if (s.ox.group gg).badMem.contains (key, block.toNat) then
            (s.modGroup gg (fun q => { q with badMem := q.badMem.filter (fun m => m != (key, block.toNat)) })).recompute gg key block.toNat l p 0
          else (((s.modSw (fun c => if bad then c.undetected point 8 p inj else c)).releaseBlock gg key block.toNat false).closePump key).moveTiles)

/-- RECOMPUTE_DONE: the rewound words have been read again, and the recomputed block passes and is released, or fails: a strike against the tile that did it, and another try; after three failures it is released with poison. -/
def execRecomputeDone (g : BitVec 4) (ctx : BitVec 12) (block : BitVec 32) (bad : Bool) (s : State) : Host.Outcome State Fault Refusal :=
  s.act fun s =>
    let same := fun (r : Recomp) => r.g == g.toNat && r.ctx % 4096 == ctx.toNat && r.block == block.toNat
    (if s.sw.inReset || !s.replayed? g.toNat then s
      else match s.ox.recomps.find? same with
      | none => s
      | some r =>
        let s0 := s.modOx (fun x => { x with recomps := eraseFirst same x.recomps })
        if !bad then
          (let s1 := ((s0.returnTile r).modSw (fun c => (c.count (ob 0x6004 1) 0 64 1).logLimited 0x4001 .corrected r.failedTile r.failedTile
              (packArg [(7, r.failedTile), (7, r.logical), (12, r.ctx % 4096), (32, r.block)])))
           ((s1.releaseBlock r.g r.ctx r.block false).closePump r.ctx).moveTiles)
        else
          let s1 := (s0.returnTile r).strike r.tile
          if 2 ≤ r.fails then
            (let s2 := s1.modSw (fun c => (c.count (ob 0x6004 2) 0 32 1).log 0x4003 .uncorrected 0xFF (packArg [(12, r.ctx % 4096), (32, r.block)]))
             ((s2.releaseBlock r.g r.ctx r.block true).closePump r.ctx).moveTiles)
          else s1.recompute r.g r.ctx r.block r.logical r.tile (r.fails + 1))

/-- FENCE_MASK at a catch: the tiles named are fenced (R204). -/
def execFenceMask (mask : BitVec 104) (s : State) : Host.Outcome State Fault Refusal :=
  s.act fun s =>
    (if s.sw.inReset then s else ((List.range 104).filter (fun p => bitAt mask.toNat p)).foldl (fun s p => s.fenceTile p) s)

end Sys2Proof.Machine
end

