-- ==== Sys2Proof/Machine/EngineOps.lean ====
section
/-!
DEFINITION. The stroke engine between launches: its ready queue, taking a launch, checkpoints, ending a launch and timing one out (10, R221, R241, R242; 11, R256 to R258, R262, R265, R270).
-/
namespace Sys2Proof.Machine

abbrev engNoImage : Nat := 0
abbrev engIdle : Nat := 1
abbrev engDispatch : Nat := 2
abbrev engRun : Nat := 3
abbrev engWait : Nat := 4
abbrev engHeld : Nat := 5

def Block.modEng (s : Block) (f : Engine → Engine) : Block := s.modOx (fun x => { x with eng := f x.eng })

/-- Change the engine's state; while the rack holds water, the state to which it returns. -/
def Engine.to (e : Engine) (st : Nat) : Engine := if e.state = engHeld then { e with before := st } else { e with state := st }
/-- The state apart from HELD. -/
def Engine.inner (e : Engine) : Nat := if e.state = engHeld then e.before else e.state

/-! ### LAG (R258) -/

/-- CCLK spent HELD since the rack last suspended. -/
def Block.heldNow (s : Block) : Nat :=
  match s.ox.hold.heldAt with
  | some t => s.sw.since t
  | none => 0

def Block.nominal (s : Block) : Nat := s.ox.eng.base + s.ox.eng.executed + s.ox.eng.held + s.heldNow
def Block.lag (s : Block) : Nat := s.sw.since (s.nominal % 2 ^ 48)

/-! ### Taking a launch (R256) -/

/-- May the engine take or dispatch a launch: SYNCED, collectives not fenced, the sweep array running, no parity error in the domain (R206, R331, R363, R372)? -/
def Block.engineOpen (s : Block) : Bool :=
  s.sw.bit (ob 0xC000 2) 0 && !s.sw.isFenced && !s.ox.sweepFailed && !s.sw.parityStopped 6 && !s.sw.parityStopped 7

/-- An IDLE engine takes the head of the ready queue; the ENTRY bundle comes 4 CCLK after the launch is ready, and 4 CCLK after now. -/
def Block.engineKick (s : Block) : Block :=
  match s.ox.ready with
  | key :: rest =>
    if s.ox.eng.inner = engIdle && s.engineOpen then
      (let r := match s.slaunch? key with
        | some l => l.readyAt.getD s.sw.stroke
        | none => s.sw.stroke
       (s.modOx (fun x => { x with ready := rest })).modEng (fun e => { e with ctx := key, dispatchAt := some (max r s.sw.stroke + 4) }.to engDispatch))
    else s
  | [] => s

def Block.readyOf (s : Block) (key : Nat) : Nat :=
  match s.slaunch? key with
  | some l => l.readyAt.getD 0
  | none => 0

/-- Insert a launch into the ready queue: by the CCLK in which it became ready, then by context. -/
def Block.insertReady (s : Block) (key : Nat) (l : List Nat) : List Nat :=
  let rank := fun (k : Nat) => k % 4096 * 2 + k / 4096
  let first := fun k => decide (s.readyOf k < s.readyOf key) || (s.readyOf k == s.readyOf key && decide (rank k < rank key))
  l.takeWhile first ++ key :: l.dropWhile first

/-- A launch is ready in the CCLK after its first chunk has landed; one that spans racks waits for HALL_SYNCED (R242). One of the same CCLK and a lower context that the engine has taken goes before it. -/
def Block.makeReady (s : Block) (key : Nat) : Block :=
  match s.slaunch? key with
  | none => s
  | some l =>
    if l.readyAt.isSome then s
    else
      let s1 := s.modSL key (fun l => { l with readyAt := some (s.sw.stroke + 1) })
      if 1 < grpHExt l.cfg.grp && !s.sw.bit (ob 0xC000 2) 2 then s1.modOx (fun x => { x with hallHeld := x.hallHeld ++ [key] })
      else if s1.ox.eng.inner = engDispatch && s1.readyOf s1.ox.eng.ctx == s.sw.stroke + 1 && decide (key % 4096 * 2 + key / 4096 < s1.ox.eng.ctx % 4096 * 2 + s1.ox.eng.ctx / 4096) then
        (s1.modOx (fun x => { x with ready := s1.insertReady x.eng.ctx x.ready })).modEng (fun e => { e with ctx := key })
      else (s1.modOx (fun x => { x with ready := s1.insertReady key x.ready })).engineKick

/-- HALL_SYNCED sets: the launches held for it rejoin the queue, behind those ready now (R242). -/
def Block.hallReady (s : Block) : Block := (s.modOx (fun x => { x with ready := x.ready ++ x.hallHeld, hallHeld := [] })).engineKick

/-- Does a launch's group span racks? -/
def Block.spans (s : Block) (key : Nat) : Bool :=
  match s.slaunch? key with
  | some l => decide (1 < grpHExt l.cfg.grp)
  | none => false

/-- HALL_SYNCED is clear: the launches that span racks leave the ready queue, one that the engine has taken among them (R242). -/
def Block.hallLeave (s : Block) : Block :=
  let taken := s.ox.eng.inner = engDispatch && s.spans s.ox.eng.ctx
  let gone := (if taken then [s.ox.eng.ctx] else []) ++ s.ox.ready.filter s.spans
  if gone.isEmpty then s
  else
    let s1 := s.modOx (fun x => { x with ready := x.ready.filter (fun k => !s.spans k), hallHeld := x.hallHeld ++ gone })
    if taken then (s1.modEng (fun e => { e with dispatchAt := none }.to engIdle)).engineKick else s1

/-- The launches that span racks go where HALL_SYNCED puts them. -/
def Block.hallSort (s : Block) : Block :=
  if !s.sw.bit (ob 0xC000 2) 2 then s.hallLeave else if s.ox.hallHeld.isEmpty then s else s.hallReady

/-! ### Checkpoints (R265) -/

/-- Every block of the share below it has had its RESULT packets sent and acknowledged. -/
def Block.resumeBlock (s : Block) (l : SLaunch) : Nat :=
  let key := l.key
  match (s.resChunks key).find? (fun c => !l.sentChunks.contains c || l.unacked.contains c) with
  | some c => max l.resume ((s.chunkBlocksOf key c).headD 0)
  | none => s.shareBlocks key

/-- Has every member of the rack that contributes finished its pre-pass? -/
def Block.prepassDone (s : Block) (l : SLaunch) : Bool :=
  let per := grpPerRack l.cfg.grp
  let m0 := s.rackIndex l.key * per
  s.sw.prepassFor l.cfg && (List.range per).all (fun j => l.cfg.contribOf (m0 + j) == 0 || l.preDone.any (fun d => d.1 == m0 + j))

/-- The 256-byte record of a launch: `pc` is the address after the CKPT bundle. -/
def Block.checkpointBytes (s : Block) (l : SLaunch) (finished abandoned : Bool) (pc : Nat) : List Byte :=
  let e := s.ox.eng
  let per := grpPerRack l.cfg.grp
  let joined := l.joined.foldl (fun a j => Nat.lor a (2 ^ (j.member % max 1 per))) 0
  leBytes 2 l.ctx ++ leBytes 1 (b2n (s.prepassDone l) + 2 * b2n finished + 4 * b2n abandoned) ++ leBytes 1 l.hallStep ++ leBytes 4 l.launch
    ++ leBytes 6 s.sw.stroke ++ leBytes 2 pc ++ ((List.range 4).map (fun i => leBytes 2 ((e.loops.reverse.map (fun x => x.2)).getD i 0))).flatten
    ++ leBytes 4 (s.resumeBlock l) ++ leBytes 4 0 ++ leBytes 4 l.lo ++ leBytes 4 l.hi ++ leBytes 16 joined ++ leBytes 8 (s.ox.ckptSeq + 1)
    ++ ((List.range 6).map (fun i => leBytes 8 (s.sw.fld (ob 0x6101 i) 0 64))).flatten ++ leBytes 16 0
    ++ ((List.range 64).map (fun i => leBytes 2 (SMap.get 0 s.ox.sc i))).flatten

/-- Write a checkpoint record and send it over the bridge; a launch served for the twin has none, and without an ACTIVE bridge none leaves. -/
def Block.checkpoint (s : Block) (key : Nat) (finished abandoned : Bool) (pc : Nat) : Block :=
  match s.slaunch? key with
  | none => s
  | some l =>
    if l.twin || s.sw.lstate 0x58 != lsActive || s.sw.isFenced then s
    else
      let p := s.mirrorPacket l.ctx l.cfg.tenant 0 0 (s.checkpointBytes l finished abandoned pc) false
      (((s.unitSend xpEngine [bridgeOutput p] p).modOx (fun x => { x with mirrorsOut := x.mirrorsOut ++ [⟨key, none, 0, 0⟩], ckptWait := true, ckptSeq := x.ckptSeq + 1 })).modSw
        (fun c => c.count (ob 0x6104 4) 0 64 1))

/-! ### Ending a launch (R221, R241, R256) -/

/-- LAUNCH counts on, unless a catch has changed the context since the launch began (R221, R222). -/
def Block.bumpLaunch (s : Block) (key : Nat) (l : SLaunch) : Block :=
  if l.stale then s
  else if 4096 ≤ key then s.modOx (fun x => { x with twinLaunch := SMap.set 0 x.twinLaunch (key % 4096) ((l.launch + 1) % 2 ^ 32) })
  else s.modSw (fun c => c.setLaunchNo key ((l.launch + 1) % 2 ^ 32))

/-- A retiring image goes when the last launch under it has ended (R270). -/
def Block.pruneImages (s : Block) : Block :=
  s.modOx (fun x => { x with retiring := x.retiring.filter (fun i => x.launches.any (fun l => l.image == i.1 && !l.ended) || (x.eng.running && x.eng.image == i.1)) })

/-- The endpoints of a launch's repechage slots whose chunks it did not use (R236, R237). -/
def SLaunch.losers (key : Nat) (l : SLaunch) : List LateSlot :=
  l.winners.map (fun w =>
    { key := key, seq := l.launch % 16, member := w.1, backup := !w.2.1, joined := l.joined.any (fun j => j.member == w.1 && j.backup != w.2.1),
      told := l.released.contains (w.1, !w.2.1) })

/-- DONE ends a launch: LAUNCH counts, BUSY is clear, the arrival registers are (R256); its last results go their way. -/
def Block.endLaunch (s : Block) (key : Nat) (l : SLaunch) : Block :=
  let seq := l.launch % 16
  let s1 := (s.bumpLaunch key l).modOx (fun x => { x with
    arv := x.arv.filter (fun a => a.1 / 64 != key),
    arvPend := x.arvPend.filter (fun a => a / 64 != key),
    groups := x.groups.map (fun q => (q.1, (if q.2.bound == some key then { q.2 with computing := false } else q.2).forgetBad key)),
    timedOut := x.timedOut.filter (fun t => t != (key, seq)),
    lateSlots := x.lateSlots.filter (fun e => !(e.key == key && e.seq == seq)) ++ l.losers key })
  let s2 := (s1.modSL key (fun m => { m with ended := true })).closeEnded key
  (if 4096 ≤ key then s2 else s2.modSw (fun c => c.setBusy key false)).moveTiles

/-- The launch is no longer under way. -/
def Block.removeLaunch (s : Block) (key : Nat) (l : SLaunch) : Block :=
  let s1 := (s.bumpLaunch key l).modOx (fun x => { x with launches := x.launches.filter (fun m => m.key != key) })
  if 4096 ≤ key then s1 else s1.modSw (fun c => c.setBusy key false)

/-- The engine has nothing presented: IDLE, and the next launch. -/
def Block.engineFree (s : Block) : Block :=
  ((s.modEng (fun e => { e with running := false, finished := false, abandoned := false, loops := [], dispatchAt := none, gdone := [], half := false, acted := false, passed := false, rep := 0 }.to engIdle)).pruneImages).engineKick

/-- The engine goes on at an ABANDON bundle (R262). -/
def Block.engineAbandon (s : Block) (pc : Nat) : Block :=
  s.modEng (fun e => { e with pc := pc, abandoned := true, finished := true, loops := [], gdone := [], half := false, acted := false, passed := false, rep := 0 }.to engRun)

/-- R241: COMPLETE TIMEOUT to the joined members, LAUNCH and COLL_TIMEOUTS count, the launch ends. A running launch goes to its ABANDON bundle with an ABANDONED checkpoint, where `abandon` says so and it has one. -/
def Block.timeoutLaunch (s : Block) (key : Nat) (abandon : Bool) : Block :=
  match s.slaunch? key with
  | none => s
  | some l =>
    let run := s.ox.eng.running && s.ox.eng.ctx == key && !s.ox.eng.abandoned
    let taken := s.ox.eng.inner = engDispatch && s.ox.eng.ctx == key
    let missing := grpPerRack l.cfg.grp - ((l.joined.map (fun j => j.member)).eraseDups).length
    let s1 := s.sendCompletes key (fun _ => stTimeout)
    if l.ended then ((s1.dropLaunchData key).modOx (fun x => { x with launches := x.launches.filter (fun m => m.key != key) })).pruneImages
    else
    let s2 := if run && abandon then s1.checkpoint key false true s.ox.eng.pc else s1
    let s3 := s2.modSw (fun c => (c.count (ob 0x7500 1) 0 32 1).log 0x6001 .uncorrected 0xFF (packArg [(12, l.ctx), (32, l.launch), (7, missing)]))
    let s4 := (s3.dropLaunchData key).removeLaunch key l
    let s5 := s4.modOx (fun x => { x with timedOut := (x.timedOut.filter (fun t => t != (key, l.launch % 16))) ++ [(key, l.launch % 16)],
                                          heldResults := x.heldResults.filter (fun r => r.key != key) })
    if run && abandon && !l.twin then (s5.modEng (fun e => { e with image := l.image })).engineAbandon l.entry.abandon
    else if run || taken then s5.engineFree
    else s5.pruneImages

/-- CCLK that count towards COLL_TIMEOUT: those since the first chunk, less those in which the rack held water (R241). -/
def Block.launchAge (s : Block) (l : SLaunch) : Nat := s.sw.since l.firstAt - (s.sw.fld (ob 0x6104 1) 0 64 + s.heldNow - l.heldCclk)

end Sys2Proof.Machine
end

