-- ==== Sys2Proof/Machine/Land.lean ====
section
/-!
DEFINITION. Collectives arriving at the switch: CONTRIB and PREPASS, launches and their members, repechage slots, landing, stragglers, timeouts, MIRROR (10, R221, R233 to R242; 11, R251, R256, R257, R266; 14, R337; 16, R371 to R373).
-/
namespace Sys2Proof.Machine

/-! ### Launches and answers -/

/-- The range [LO, HI) of R231 that a rack keeps after the halving. -/
def shardRange (i n : Nat) : Nat → Nat → Nat → Nat → Nat × Nat
  | 0, _, lo, hi => (lo, hi)
  | f + 1, d, lo, hi =>
    if d = 0 then (lo, hi)
    else if Nat.land i d != 0 then shardRange i n f (d / 2) ((lo + hi) / 2) hi else shardRange i n f (d / 2) lo ((lo + hi) / 2)

def Block.shard (s : Block) (key : Nat) : Nat × Nat :=
  let c := s.cfgOf key
  let n := s.shareBlocks key
  let f := floorPow2 (grpHExt c.grp)
  if s.hallDirect key || grpHExt c.grp ≤ 1 then (0, n) else if f ≤ s.rackIndex key then (0, 0) else shardRange (s.rackIndex key) n 7 (f / 2) 0 n

/-- A launch begins with its first chunk (R241, R256): it runs under the values and the entry of now (R222, R40); results held for an earlier launch of the context go (R237). -/
def Block.newLaunch (s : Block) (key : Nat) (e : Entry) : Block :=
  let l : SLaunch := { ctx := key % 4096, launch := s.launchCount key, twin := decide (4096 ≤ key), firstAt := s.sw.stroke,
                       heldCclk := s.sw.fld (ob 0x6104 1) 0 64 + s.heldNow, cfg := s.sw.cfg (key % 4096), entry := e, image := s.ox.imageNo }
  let s1 := s.modOx (fun x => { x with
    launches := x.launches ++ [l],
    lateSlots := x.lateSlots.map (fun e => if e.key = key then { e with gone := true } else e),
    heldResults := x.heldResults.filter (fun r => r.key != key) })
  let r := s1.shard key
  (s1.modSL key (fun l => { l with lo := r.1, hi := r.2 })).when (key < 4096) (fun s => s.modSw (fun c => c.setBusy key true))

/-- COMPLETE and RELEASE in answer to a chunk, from the stroke engine's port. -/
def Block.answerChunk (s : Block) (key : Nat) (p : Packet) (st detail : Nat) : Block :=
  let slot := cMember p
  (s.sendSlots xpEngine [(slot, s.completePacket key (pSrc p) slot st detail 0 (cArrCtr p) (cArrEn p) (pTenant p))]).sendSlots xpEngine
    [(slot, s.releasePacket key (pSrc p) slot (pTenant p))]

/-- R240: one answer to each member for its launch; NO_PROGRAM is logged once for a launch of the context. -/
def Block.noProgram (s : Block) (key : Nat) (p : Packet) (detail : Nat) : Block :=
  let who := cMember p + 128 * b2n (cBackup p)
  let mine := fun (a : Nat × Nat × Nat) => a.1 == key && a.2.1 == who
  if s.ox.answered.any (fun a => mine a && a.2.2 == cLseq p) then s
  else
    let s1 := if detail = 0x0C && !s.ox.answered.any (fun a => a.1 == key && a.2.2 == cLseq p) then
        s.modSw (fun c => c.log 0x6005 .uncorrected 0xFF (packArg [(12, cCtx p)])) else s
    (s1.modOx (fun x => { x with answered := x.answered.filter (fun a => !mine a) ++ [(key, who, cLseq p)] })).answerChunk key p stDescriptor detail

/-- The member index of a chunk's sender, and whether it is the backup of a repechage slot. -/
def Block.chunkMember (s : Block) (cfg : Cfg) (p : Packet) : Option (Nat × Bool) :=
  let id := s.swRack * 128 + cMember p
  if cBackup p then
    (s.sw.regs.find? (fun r => r.1 / 256 == 0x7300 && bitsOf r.2 38 1 == 1 && bitsOf r.2 0 12 == cCtx p && bitsOf r.2 25 13 == id)).map (fun r => (bitsOf r.2 12 13, true))
  else (grpIndexOf cfg.grp id).map (fun m => (m, false))

/-- Must a launch of the twin's context end under R373: its group spans racks, or it needs state that was not mirrored? -/
def Block.twinRefused (s : Block) (ctx : Nat) (cfg : Cfg) : Bool :=
  decide (1 < grpHExt cfg.grp) || ((cfg.op == 9 || cfg.residual) && !(match s.sw.imageEntry ctx with
    | some e => e.mirror
    | none => false))

/-! ### Joining (R233, R237) -/

/-- Give a held result packet its endpoint: ID, slot and RBASE. -/
def Block.placeResult (s : Block) (p : Packet) (slot rbase : Nat) : Packet :=
  { p with w0 := setBits p.w0 24 13 (s.endpointId slot), w1 := setBits p.w1 12 7 slot,
           w2 := BitVec.ofNat 64 (slot * 2 ^ 40 + (pFpa p + rbase) % 2 ^ 40) }

/-- Send the results held for an endpoint: how many bytes, and whether any was poisoned. -/
def Block.sendHeld (s : Block) (key port m : Nat) (bk : Bool) (slot rbase : Nat) : Nat × Bool × Block :=
  let mine := fun (r : HeldRes) => r.key == key && r.member == m && r.backup == bk
  let rs := s.ox.heldResults.filter mine
  let s1 := rs.foldl (fun s r => s.sendSlots port [(slot, s.placeResult r.pkt slot rbase)]) s
  ((rs.map (fun r => r.bytes)).foldl (fun a x => a + x) 0, rs.any (fun r => pPoison r.pkt),
   s1.modOx (fun x => { x with heldResults := x.heldResults.filter (fun r => !mine r) }))

/-- A chunk of an endpoint whose chunks a launch that has ended did not use: discarded and counted, the first of them with RELEASE (R236). With its first CONTRIB chunk the endpoint joins: it gets the results still held and COMPLETE, or, once they are gone, COMPLETE TIMEOUT (R237). -/
def Block.lateChunk (s : Block) (key : Nat) (e : LateSlot) (pre : Bool) (p : Packet) : Block :=
  let slot := cMember p
  let joins := !pre && !e.joined
  let s1 := (s.modSw (fun c => c.count (ob 0x7500 0) 0 32 1)).modOx (fun x =>
    { x with lateSlots := replaceFirst (fun y => y == e) (fun y => { y with joined := y.joined || joins, told := true }) x.lateSlots })
  let complete := fun (s : Block) (st bytes : Nat) => s.sendSlots xpEngine [(slot, s.completePacket key (pSrc p) slot st 0 bytes (cArrCtr p) (cArrEn p) (pTenant p))]
  let s2 := if !joins then s1 else if e.gone then complete s1 stTimeout 0
    else
      let h := s1.sendHeld key xpEngine e.member e.backup slot (cRbase p)
      complete h.2.2 (if h.2.1 then stPoison else stOk) h.1
  if e.told then s2
  else (s2.modSw (fun c => c.log 0x6002 .info 0xFF (packArg [(12, key % 4096), (13, e.member), (13, pSrc p)]))).sendSlots xpEngine
    [(slot, s2.releasePacket key (pSrc p) slot (pTenant p))]

/-- The endpoint of an ended launch that a chunk names. -/
def Block.lateSlot? (s : Block) (key q m : Nat) (bk : Bool) : Option LateSlot :=
  s.ox.lateSlots.find? (fun e => e.key == key && e.seq == q && e.member == m && e.backup == bk)

/-- Bytes of the results for a member below the block from which a stand-in resumed: its COMPLETE counts them too (R373). -/
def Block.bytesBelow (s : Block) (key m : Nat) : Nat :=
  match s.slaunch? key with
  | none => 0
  | some l =>
    if l.resume = 0 then 0
    else ((s.resChunks key).map (fun c =>
      let bs := s.chunkBlocksOf key c
      match s.resBlock key (bs.headD 0) with
      | some (piece, off) => if bs.headD 0 < l.resume && (l.cfg.recipients piece).contains m then s.chunkBytes key bs off else 0
      | none => 0)).foldl (fun a x => a + x) 0

/-- A chunk's RBASE, RCTR and RC_EN at its launch: a CONTRIB chunk joins its sender, and the latest chunk's RCTR and RC_EN stand. -/
def Block.joinChunk (s : Block) (key m : Nat) (bk pre : Bool) (p : Packet) : Block :=
  match s.slaunch? key with
  | none => s
  | some l =>
    let mine := fun (j : Joined) => j.member == m && j.backup == bk
    let s1 := s.modSL key (fun l => { l with
      seen := if l.seen.contains (m, bk) then l.seen else l.seen ++ [(m, bk)],
      joined := l.joined.map (fun j => if mine j then { j with rctr := cArrCtr p, rcEn := cArrEn p } else j) })
    if pre || l.joined.any mine then s1
    else
      let h := s1.sendHeld key (s1.closePort key) m bk (cMember p) (cRbase p)
      let below := s.bytesBelow key m
      let j : Joined := { member := m, slot := cMember p, backup := bk, rbase := cRbase p, rctr := cArrCtr p, rcEn := cArrEn p, bytes := h.1 + below,
                          status := if h.2.1 then [stPoison] else [], completed := l.finished }
      let s2 := h.2.2.modSL key (fun l => { l with joined := l.joined ++ [j] })
      if l.finished then s2.closeJoined key (s2.closePort key) l.cfg.tenant j (firstStatus j.status) 0 (l.released.contains (m, bk)) else s2

/-! ### Repechage slots (R236) -/

/-- The last chunk of a deciding stream has come: its sender wins, unless another has; in one CCLK the primary wins. -/
def Block.decide_ (s : Block) (key m : Nat) (bk : Bool) : Block :=
  match s.slaunch? key with
  | none => s
  | some l =>
    let now := s.sw.stroke
    let both := l.seen.contains (m, false) && l.seen.contains (m, true)
    match l.winners.find? (fun w => w.1 == m) with
    | none => (s.modSL key (fun l => { l with winners := l.winners ++ [(m, bk, now)] })).when both (fun s => s.modSw (fun c => c.count (ob 0xC010 2) 0 64 1))
    | some w =>
      if w.2.1 && !bk && w.2.2 == now then s.modSL key (fun l => { l with winners := l.winners.map (fun x => if x.1 == m then (m, false, now) else x) }) else s

/-- Note the last chunk of a stream. A slot that sends this switch no PREPASS chunk is decided by its CONTRIB stream (R236). -/
def Block.lastChunk (s : Block) (key m : Nat) (bk pre : Bool) : Block :=
  let s1 := s.modSL key (fun l =>
    if pre then { l with preDone := if l.preDone.contains (m, bk) then l.preDone else l.preDone ++ [(m, bk)] }
    else { l with dataDone := if l.dataDone.contains (m, bk) then l.dataDone else l.dataDone ++ [(m, bk)],
                  lastAt := if l.lastAt.any (fun a => a.1 == m + 8192 * b2n bk) then l.lastAt else l.lastAt ++ [(m + 8192 * b2n bk, s.sw.stroke)] })
  match s1.slaunch? key with
  | some l =>
    let first := s1.sw.prepassFor l.cfg && (s1.inBlock key (m % max 1 (grpPerRack l.cfg.grp)) 0).isSome
    if (s1.sw.repBackup l.ctx m).isSome && first == pre then s1.decide_ key m bk else s1
  | none => s1

/-! ### CONTRIB and PREPASS -/

/-- Write a chunk of a launch under way into its group's staging instance; a full one lets it wait. -/
def Block.stageChunk (s : Block) (key port m : Nat) (bk pre : Bool) (p : Packet) : Block :=
  let ii := 0xA0 + (port - xpQueue)
  if !s.instRoom ii p then s.fullWait ii
  else
    let s1 := (s.modSw (fun c => c.rxDrop (unitRx port) p)).joinChunk key m bk pre p
    (if cLast p then s1.lastChunk key m bk pre else s1).instWrite ii p s.sw.stroke port

/-- A chunk whose LSEQ names no launch that is under way or next (R237, R241). -/
def Block.mismatch (s : Block) (key m : Nat) (bk pre : Bool) (p : Packet) : Block :=
  let q := cLseq p
  match s.lateSlot? key q m bk with
  | some e => s.lateChunk key e pre p
  | none =>
    if s.ox.timedOut.contains (key, q) then s.answerChunk key p stTimeout 0
    else (s.modSw (fun c => (c.count (ob 0x7500 2) 0 32 1).log 0x6004 .uncorrected 0xFF (packArg [(12, cCtx p), (13, pSrc p), (4, q)]))).answerChunk key p stAborted 2

/-- The LSEQ of the launch after a launch under way. -/
def SLaunch.nextSeq (l : SLaunch) : Nat := if l.stale then 0 else (l.launch + 1) % 16

/-- A collective chunk reaches the switch. Chunks of the next launch wait until the one under way is DONE; chunks of others than the group's members are discarded. -/
def Block.collArrive (s : Block) (pre : Bool) (p : Packet) : Block :=
  let twin := pDst p != s.swId
  let key := cCtx p + 4096 * b2n twin
  let port := s.consumer twin p
  let taken := s.modSw (fun c => c.rxDrop (unitRx port) p)
  if s.sw.isFenced then taken
  else match s.entryFor twin (cCtx p) with
  | none => taken.noProgram key p 0x0C
  | some e =>
    let cfg := match s.slaunch? key with
      | some l => l.cfg
      | none => s.sw.cfg (cCtx p)
    if !cfg.en then taken.noProgram key p 0x06
    else if twin && s.twinRefused (cCtx p) cfg then taken.answerChunk key p stTimeout 0
    else match s.chunkMember cfg p with
    | none => taken
    | some (m, bk) =>
      match s.slaunch? key with
      | some l =>
        if cLseq p == l.launch % 16 then s.stageChunk key port m bk pre p
        else if (l.finishing || l.finished) && cLseq p == l.nextSeq then s
        else taken.mismatch key m bk pre p
      | none =>
        if cLseq p == s.launchCount key % 16 then (s.newLaunch key e).stageChunk key port m bk pre p
        else taken.mismatch key m bk pre p

/-- Is a packet for this switch's collectives: its own ID, or its twin's while it stands in? -/
def Block.collHere (s : Block) (p : Packet) : Bool := pDstSw p && (pDst p == s.swId || (pDst p == s.twinId && s.sw.standIn))

def execContrib (p : Packet) (s : State) : Host.Outcome State Fault Refusal :=
  s.act fun s =>
    (if s.sw.inReset || pOpc p != 0x20 || !s.collHere p then s else s.collArrive false p)
def execPrepass (p : Packet) (s : State) : Host.Outcome State Fault Refusal :=
  s.act fun s =>
    (if s.sw.inReset || pOpc p != 0x21 || !s.collHere p then s else s.collArrive true p)

/-! ### Landing (R251) -/

/-- What a staged chunk is: its launch key, its input, its number among the chunks of the input, and for COLL its sender. -/
structure Chunk where
  key : Nat
  hall : Bool
  pre : Bool
  input : Nat
  num : Nat
  member : Nat := 0
  backup : Bool := false
deriving DecidableEq, Repr

/-- The extension that follows COLL_STAGE: the half that a SEGMENT extension names (R130). -/
def hallHalf (p : Packet) : Option Nat := if leAt p.payload 0 1 == 2 then some (leAt p.payload 18 2) else none

/-- Read a staged packet as a chunk of a launch under way; a hall chunk may be a launch's first. -/
def Block.chunkOfPacket (s : Block) (p : Packet) : Option Chunk :=
  if pNet p == 2 then
    let key := cCtx p + 4096 * b2n (pDst p != s.swId)
    match s.slaunch? key with
    | none => none
    | some l =>
      match s.chunkMember l.cfg p with
      | some (m, bk) =>
        if cLseq p == l.launch % 16 then
          some ⟨key, false, pOpc p == 0x21, m % max 1 (grpPerRack l.cfg.grp),
            cChunk p + 2 ^ 33 * b2n (cWeight p) + 2 ^ 34 * b2n (cOptrec p) + 2 ^ 35 * b2n (cJoin p) + 2 ^ 36 * b2n bk, m, bk⟩
        else none
      | none => none
  else match collStage p with
    | some v =>
      (match s.slaunch? (stCtx v) with
       | some l => if p.w2.toNat % 2 ^ 32 == l.launch % 2 ^ 32 then
           some ⟨stCtx v, true, p.w3.toNat % 4 == 3 && s.sw.prepassFor l.cfg, stRack v, stFirst v + 2 ^ 32 * stPhase v + 2 ^ 38 * (hallHalf p).getD 0, 0, false⟩ else none
       | none => none)
    | none => none

/-- Blocks that a chunk carries: block of the stream, format code, bytes with the scale byte last. -/
def Block.chunkData (s : Block) (c : Chunk) (p : Packet) : List (Nat × Nat × List Byte) :=
  let cfg := s.cfgOf c.key
  let mode := s.sw.modeFor cfg
  if c.hall then
    match collStage p with
    | some v =>
      let code := match p.w3.toNat % 4 with
        | 0 => 16
        | 1 => (s.narrowCode c.key).getD 12
        | 2 => cfg.outFmt
        | _ => if c.pre then 1 else cfg.partialCode mode
      [(stFirst v, code, slice p.payload (hHlen p * 8 - 32) (hPlen p))]
    | none => []
  else if c.pre then
    (List.range 256).map (fun i => (256 * cChunk p + i, 1, slice p.payload i 1))
  else if cJoin p || cOptrec p then []
  else
    let code := if cWeight p then cfg.outFmt else if cStage p == 0 then cfg.partialCode mode else cfg.inFmt
    let w := if 16 ≤ code then 64 else codeWidth code
    let sc := if cWeight p then hasScale cfg.outFmt cfg.outScaled else if cStage p == 0 then cfg.partialScaled else hasScale cfg.inFmt cfg.inScaled
    let k := max 1 (chunksPerSeg w sc)
    let b0 := chunkBlocks w sc * (cChunk p % k)
    let n := min 16 (b0 + chunkBlocks w sc) - b0
    (List.range n).map (fun i => (16 * (cChunk p / k) + b0 + i, code, slice p.payload (4 * w * i) (4 * w) ++ (if sc then slice p.payload (4 * w * n + i) 1 else [])))

/-- The blocks of a chunk that its stream has. -/
def Block.chunkLive (s : Block) (c : Chunk) (p : Packet) : List (Nat × Nat × List Byte) :=
  (s.chunkData c p).filter (fun d => if c.hall then (s.outBlock (p.w3.toNat % 4 == 2) c.key d.1).isSome else if cWeight p then (s.resBlock c.key d.1).isSome else (s.inBlock c.key c.input d.1).isSome)

/-- May the chunk's blocks take their ring slots: there is a ring, no two blocks share a slot, and none holds a block that has not been read (PREPASS bytes lie outside the ring)? -/
def Block.slotsFree (s : Block) (g : Nat) (c : Chunk) (p : Packet) : Bool :=
  let bs := (s.chunkLive c p).map (fun d => d.1)
  let lb := match s.slaunch? c.key with
    | some l => l.entry.landBlocks
    | none => 0
  c.pre || bs.isEmpty || (lb != 0 && decide (bs.length ≤ lb) && !bs.any (fun b => s.ox.landed.any (fun e =>
    e.g == g && e.ctx == c.key && !e.freed && !e.pre && e.input == c.input && e.block % lb == b % lb && !(e.half && c.hall && e.block == b && hallHalf p == some 1))))

/-- Put a chunk's blocks into the ring. The second half of a hall block joins the first. -/
def Block.landBlocks (s : Block) (g : Nat) (c : Chunk) (pos : Nat) (p : Packet) : Block :=
  (s.chunkLive c p).foldl (fun s d =>
    let e : LandBlk := { g := g, ctx := c.key, input := c.input, hall := c.hall, pre := c.pre, weight := !c.hall && !c.pre && cWeight p, block := d.1, pos := pos,
                         code := d.2.1, data := d.2.2, poison := pPoison p, freed := false, half := c.hall && hallHalf p == some 0 }
    let first := fun (q : LandBlk) => q.half && q.g == g && q.ctx == c.key && q.input == c.input && q.block == d.1
    let join := fun (q : LandBlk) => { q with data := q.data ++ d.2.2, poison := q.poison || pPoison p, half := false }
    if c.hall && hallHalf p == some 1 then s.modOx (fun x => { x with landed := replaceFirst first join x.landed })
    else s.modOx (fun x => { x with landed := x.landed ++ [e] })) s

/-- The arrival map under which a launch runs. -/
def Block.arvOf (s : Block) (l : SLaunch) (a : Nat) : Bool × Bool × Nat × Nat :=
  match s.ox.retiring.find? (fun i => i.1 == l.image) with
  | some (_, i) => i.arv.getD a (false, false, 0, 0)
  | none => s.sw.arvEntry a

/-- A landed chunk counts towards the arrival registers that match it (R257), at the end of its CCLK (R251). -/
def Block.countArrival (s : Block) (l : SLaunch) (c : Chunk) : Block :=
  (List.range 64).foldl (fun s a =>
    let m := s.arvOf l a
    if m.1 == c.pre && m.2.1 == c.hall && decide (m.2.2.1 ≤ c.input) && decide (c.input ≤ m.2.2.2) then
      s.modOx (fun x => { x with arvPend := x.arvPend ++ [c.key * 64 + a] })
    else s) s

/-- The lateness of a member whose last chunk has landed (R238). -/
def Block.lateness (s : Block) (l : SLaunch) (c : Chunk) : Block :=
  match l.lastAt.find? (fun a => a.1 == c.member + 8192 * b2n c.backup) with
  | none => s
  | some tm =>
    let t0 := l.lastAt.foldl (fun m a => min m a.2) tm.2
    let late := tm.2 - t0
    let gid := l.cfg.gid
    let lim := s.sw.fld (ob 0x7000 5) 0 32
    let k := ob (0x7400 + gid / 256) (gid % 256)
    let before := l.maxLate
    let worst := match before with
      | some w => decide (w < late)
      | none => true
    let s1 := s.modSw (fun c' => c'.count (ob 0x7420 (grpSlot l.cfg.grp (c.member % max 1 (grpPerRack l.cfg.grp)))) 0 64 late)
    let s2 := if worst then (s1.modSw (fun c' => (c'.setFld k 0 13 c.member).setFld k 13 32 (min late (2 ^ 32 - 1)))).modSL l.key (fun l => { l with maxLate := some late }) else s1
    let s3 := s2.modSw (fun c' =>
      let q := ob (0x7410 + gid / 256) (gid % 256)
      if c'.fld q 0 32 < late then c'.setFld q 0 32 (min late (2 ^ 32 - 1)) else c')
    let s4 := if lim < late ∧ before.getD 0 ≤ lim then s3.modSw (fun c' => c'.count k 45 19 1) else s3
    if lim < late then s4.modSw (fun c' => c'.logLimited 0x6003 .info 0xFF 0 (packArg [(12, gid), (13, c.member), (32, late)])) else s4

/-- Land a chunk: its blocks, its arrival, the optimizer record, lateness, the ready queue, Griward. -/
def Block.landChunk (s : Block) (g : Nat) (c : Chunk) (pos : Nat) (p : Packet) : Block :=
  match s.slaunch? c.key with
  | none => s
  | some l =>
    if l.landed.contains (c.input + 256 * b2n c.hall, c.pre, c.num) then s.stagingRelease g
    else
      let s1 := (s.landBlocks g c pos p).modSL c.key (fun l => { l with
        landed := l.landed ++ [(c.input + 256 * b2n c.hall, c.pre, c.num)],
        optrec := if !c.hall && !c.pre && cOptrec p then slice p.payload 0 64 else l.optrec })
      let whole := !(c.hall && hallHalf p == some 0)
      let s2 := if whole then s1.countArrival l c else s1
      let s3 := if !c.hall && !c.pre && cLast p then s2.lateness l c else s2
      ((s3.gwLanded (c.key % 4096) c.input c.pre c.hall (if c.hall then c.num % 2 ^ 32 else cChunk p) l.launch p.payload).makeReady c.key).stagingRelease g

/-- A loser's chunk is discarded and counted; the first one tells the loser RELEASE (R236). -/
def Block.discardLoser (s : Block) (c : Chunk) (p : Packet) : Block :=
  let s1 := s.modSw (fun d => d.count (ob 0x7500 0) 0 32 1)
  match s1.slaunch? c.key with
  | some l =>
    if l.released.contains (c.member, c.backup) then s1
    else
      let slot := cMember p
      ((s1.modSL c.key (fun l => { l with released := l.released ++ [(c.member, c.backup)] })).modSw (fun d =>
        d.log 0x6002 .info 0xFF (packArg [(12, c.key % 4096), (13, c.member), (13, pSrc p)]))).sendSlots (s1.closePort c.key)
          [(slot, s1.releasePacket c.key (s1.endpointId slot) slot l.cfg.tenant)]
  | none => s1

/-- Whose chunks of a repechage slot are used: none while undecided. -/
def Block.winner (s : Block) (c : Chunk) : Option Bool :=
  match s.slaunch? c.key with
  | some l => (l.winners.find? (fun w => w.1 == c.member)).map (fun w => w.2.1)
  | none => none

def Block.inSlot (s : Block) (c : Chunk) : Bool := !c.hall && (s.sw.repBackup (c.key % 4096) c.member).isSome

/-- Read past a chunk, and write it back at the tail where there is room. -/
def Block.writeBack (s : Block) (ii : Nat) (it : QItem) (counted : Bool) : Block :=
  if !s.instRoom ii it.pkt then s
  else
    let s1 := ((s.instAdvance ii it).instWrite ii it.pkt it.arrived it.input).stagingRelease (ii - 0xA0)
    if counted then s1.modSw (fun c => c.count (ob 0x6104 3) 0 64 1) else s1

/-- A hall chunk whose launch is not under way: it opens the current launch, or belongs to the next one and waits. -/
def Block.hallFirst (s : Block) (p : Packet) : Option (Bool × Block) :=
  match collStage p with
  | some v =>
    let key := stCtx v
    let n := p.w2.toNat % 2 ^ 32
    (match s.slaunch? key, s.entryFor false key with
     | some l, _ => if n == (if l.stale then 0 else (l.launch + 1) % 2 ^ 32) then some (false, s) else none
     | none, some e => if n == s.launchCount key && (s.sw.cfg key).en then some (true, s.newLaunch key e) else none
     | none, none => none)
  | none => none

/-- A staged chunk whose launch is gone, or never was: a repechage loser's is counted (R236); a hall chunk of a context without a program is answered under R240, where no member of it has joined yet. -/
def Block.strayChunk (s : Block) (p : Packet) : Block :=
  if pNet p == 2 then
    (let key := cCtx p + 4096 * b2n (pDst p != s.swId)
     match s.chunkMember (s.sw.cfg (cCtx p)) p with
     | some (m, bk) => (match s.lateSlot? key (cLseq p) m bk with
       | some e => s.lateChunk key e (pOpc p == 0x21) p
       | none => s)
     | none => s)
  else match collStage p with
    | none => s
    | some v =>
      let a : Nat × Nat × Nat := (stCtx v, 256 + stRack v, p.w2.toNat % 16)
      if (s.entryFor false (stCtx v)).isSome || s.ox.answered.any (fun x => x.1 == a.1 && x.2.2 == a.2.2) then s
      else (s.modSw (fun c => c.log 0x6005 .uncorrected 0xFF (packArg [(12, stCtx v)]))).modOx (fun x => { x with answered := x.answered.filter (fun y => !(y.1 == a.1 && y.2.1 == a.2.1)) ++ [a] })

/-- CHUNK_LAND: the reader of group `g` takes the chunk at the front; one that a rewind replays it reads past (R202). Before the first that a block still needs it places its mark. `inj` is an injected late arrival (point 0x50: the context and the delay that ARG names). -/
def execChunkLand (g : BitVec 4) (inj : Bool) (s : State) : Host.Outcome State Fault Refusal :=
  s.act fun s =>
    let gg := g.toNat
    let ii := 0xA0 + gg
    (if s.sw.inReset || s.fciHolds ii then s
      else match (s.ox.inst ii).front with
      | none => s
      | some it =>
        if it.pos < (s.ox.group gg).replayTo then (s.instAdvance ii it).stagingRelease gg
        else
        let s := if (s.ox.inst ii).fp = (s.ox.inst ii).rp then s.instMarkHere ii else s
        let p := it.pkt
        let opened := if pNet p == 2 then none else match s.chunkOfPacket p with
          | some _ => none
          | none => s.hallFirst p
        match opened with
        | some (false, _) => s.writeBack ii it false
        | _ =>
          let s0 := match opened with
            | some (_, t) => t
            | none => s
          match s0.chunkOfPacket p with
          | none => ((s.instAdvance ii it).strayChunk p).stagingRelease gg
          | some c =>
            if !s.sw.detects 0x50 12 (c.key % 4096) inj then s.modSw (fun w => w.undetected 0x50 12 (c.key % 4096) inj)
            else if s0.inSlot c && (s0.winner c).isNone then s0.writeBack ii it false
            else if s0.inSlot c && s0.winner c != some c.backup then ((s0.instAdvance ii it).discardLoser c p).stagingRelease gg
            else if inj then
              ((s0.modSw (fun c => c.injected 0x50)).instAdvance ii it).modOx (fun x =>
                { x with gwHeld := x.gwHeld ++ [⟨gg, s.sw.stroke + s.sw.fld (ob 0x9010 1) 12 32, it.pos, p, it.arrived⟩] })
            else if !s0.slotsFree gg c p then s0.writeBack ii it true
            else
              let r := s0.gwArrive (c.key % 4096) c.input c.hall (s0.launchOfKey c.key) it.arrived p.payload
              match r.1 with
              | some t => (r.2.instAdvance ii it).modOx (fun x => { x with gwHeld := x.gwHeld ++ [⟨gg, t, it.pos, p, it.arrived⟩] })
              | none => (r.2.instAdvance ii it).landChunk gg c it.pos p)

/-- GRIWARD_REPLAY_LANDING: a held chunk of an input lands at its time, when its slots are free; a chunk whose launch has ended goes. -/
def execGriwardReplayLanding (ctx : BitVec 12) (input : BitVec 7) (s : State) : Host.Outcome State Fault Refusal :=
  s.act fun s =>
    let mine := fun (h : GwHold) => decide (h.at_ ≤ s.sw.stroke) &&
      (match s.chunkOfPacket h.pkt with
       | some c => c.key % 4096 == ctx.toNat && c.input == input.toNat
       | none => (if pNet h.pkt == 2 then cCtx h.pkt else (match collStage h.pkt with
         | some v => stCtx v
         | none => 4096)) == ctx.toNat)
    (if s.sw.inReset then s
      else match s.ox.gwHeld.find? mine with
      | none => s
      | some h =>
        let s1 := s.modOx (fun x => { x with gwHeld := eraseFirst mine x.gwHeld })
        match s.chunkOfPacket h.pkt with
        | none => s1.stagingRelease h.g
        | some c => if s.slotsFree h.g c h.pkt then s1.landChunk h.g c h.pos h.pkt else s)

/-! ### A lost crew port (R371) -/

/-- The first chunk of a member's stream that has not landed. -/
def Block.firstMissing (s : Block) (l : SLaunch) (j : Joined) (pre : Bool) : Option Nat :=
  let f := l.cfg.sendForm (s.sw.isLatency l.cfg) (s.sw.modeFor l.cfg)
  let sh := s.keyShare l.key
  let input := j.member % max 1 (grpPerRack l.cfg.grp)
  let stream := if pre then List.range ((streamSegs (l.cfg.pieces j.member) l.cfg.count sh.1 sh.2 * 16 + 255) / 256)
    else chunkNumbers f.1 f.2 (l.cfg.pieces j.member) l.cfg.count sh.1 sh.2
  stream.find? (fun c => !l.landed.contains (input, pre, c + 2 ^ 36 * b2n j.backup))

/-- A crew port has left ACTIVE: each launch in which its slot has joined without sending LAST asks it to send again. -/
def Block.resendLost (s : Block) (slot : Nat) : Block :=
  s.ox.launches.foldl (fun s l =>
    match l.joined.find? (fun j => j.slot == slot && !l.dataDone.contains (j.member, j.backup)) with
    | none => s
    | some j =>
      let ask := fun (pre : Bool) (first : Nat) (s : Block) =>
        s.sendSlots xpEngine [(slot, s.resendPacket l.key (s.endpointId slot) slot l.cfg.tenant first 0 pre)]
      let s1 := if s.sw.prepassFor l.cfg && !l.preDone.contains (j.member, j.backup) then ask true ((s.firstMissing l j true).getD 0) s else s
      ask false ((s.firstMissing l j false).getD 0) s1) s

/-! ### Timeouts and the mirror -/

/-- COLL_TIMEOUT: a launch of the context has run COLL_TIMEOUT without DONE (R241). A member that has had its COMPLETE gets no second one. -/
def execCollTimeout (ctx : BitVec 12) (s : State) : Host.Outcome State Fault Refusal :=
  s.act fun s =>
    let due := fun (l : SLaunch) => l.ctx == ctx.toNat && !l.ended && decide (s.sw.collTimeout ≤ s.launchAge l)
    (if s.sw.inReset then s
      else match s.ox.launches.find? due with
      | some l => s.timeoutLaunch l.key true
      | none => s)

/-- MIRROR: the twin's checkpoint record or state is written into TWIN_REGION (R265, R266). -/
def execMirror (p : Packet) (s : State) : Host.Outcome State Fault Refusal :=
  s.act fun s =>
    let base := s.sw.fld (ob 0x6103 1) 0 20 * 2 ^ 20
    let size := s.sw.fld (ob 0x6103 1) 20 20 * 2 ^ 20
    let arg := p.w3.toNat / 2 ^ 14
    let off := if field arg 14 2 = 0 then 256 * cCtx p else 2 ^ 20 + field arg 16 30 * 256
    (if s.sw.inReset || pOpc p != 0x26 || !s.collHere p then s
      else
        let s1 := s.modSw (fun c => c.rxDrop (unitRx xpEngine) p)
        if s.sw.isFenced || decide (1 < field arg 14 2) || !s.sw.secureReady then s1
        else if size < off + 256 then
          (if field arg 14 2 = 0 then s1 else s1.modSw (fun c => c.log 0x5003 .uncorrected 0xFF (packArg [(12, cCtx p), (30, field arg 16 30)])))
        else
          let owner := if field arg 14 2 = 0 then 0 else pTenant p
          s1.modOx (fun x => x.bhWrite (base + off) (slice p.payload 0 256) (pPoison p) owner (SMap.get 0 x.keyGen owner)))

end Sys2Proof.Machine
end

