-- ==== Sys2Proof/Machine/SteerOps.lean ====
section
/-!
DEFINITION. Hall ports as the scheduled domain and the link layer see them: fibres, STEERED bits, the order of a steer (06, R127; 13, R311, R313, R316, R317).
-/
namespace Sys2Proof.Machine

abbrev psDisabled : Nat := 0
abbrev psDark : Nat := 1
abbrev psSurvey : Nat := 2
abbrev psActive : Nat := 3
abbrev psSteering : Nat := 4
abbrev psNoLink : Nat := 5

def Ox.hport (x : Ox) (k : Nat) : HPort := SMap.get {} x.hports k
def Ox.setHport (x : Ox) (k : Nat) (h : HPort) : Ox := { x with hports := SMap.set {} x.hports k h }
def Block.modHport (s : Block) (k : Nat) (f : HPort → HPort) : Block := s.modOx (fun x => x.setHport k (f (x.hport k)))

def Common.hstate (c : Common) (k : Nat) : Nat := c.fld (ob 0x4011 k) 0 3
def Common.setHstate (c : Common) (k v : Nat) : Common := c.setFld (ob 0x4011 k) 0 3 v
def Common.hpos (c : Common) (k : Nat) : Nat := c.fld (ob 0x4011 k) 3 2
def Common.setHpos (c : Common) (k v : Nat) : Common := c.setFld (ob 0x4011 k) 3 2 v

/-- The fibre pair of a port's position; it leads to the rack of the same number. -/
def fibreOf (k pos : Nat) : Nat := 4 * k + pos % 4
def Common.profileValid (c : Common) (k pos : Nat) : Bool := c.bit (ob 0x4020 (fibreOf k pos)) 0
def Common.spareLoop (c : Common) (k pos : Nat) : Bool := c.bit (ob 0x4020 (fibreOf k pos)) 2

/-- Set or clear the STEERED bit of the rack at a port's position (R127). A packet for the own rack never looks at its own entry (R127, case 1; R136). -/
def Common.setSteered (c : Common) (k pos : Nat) (b : Bool) : Common :=
  c.setBit (ob 0x5210 (fibreOf k pos)) 9 b

/-- Lines usable at the comb input, and whether they, or VOPT (R409), leave the hall ports dark (R307). -/
def Common.linesOk (c : Common) : Nat := c.fld (ob 0x4000 0) 3 18
def linesIn (mask : Nat) : Nat := ((List.range 18).filter (bitAt mask)).length
def Common.isDark (c : Common) : Bool := c.voptBad || !c.bit (ob 0x4000 0) 1 || decide (linesIn c.linesOk < 16)

/-! ### Profiles and surveys (R312) -/

/-- A fibre's profile becomes invalid. -/
def Block.dropProfile (s : Block) (k pos : Nat) : Block :=
  (s.modSw (fun c => c.setFld (ob 0x4020 (fibreOf k pos)) 0 3 0)).modHport k (fun h => { h with profiles := SMap.drop h.profiles pos })

/-- A launch of the port's position has passed: its fibre has a valid profile. -/
def Block.saveProfile (s : Block) (k : Nat) : Block :=
  let l := s.sw.link (0x48 + k)
  let pos := s.sw.hpos k
  let f := fibreOf k pos
  (s.modSw (fun c => c.setFld (ob 0x4020 f) 0 3 (packArg [(1, 1), (1, b2n l.session.isSome), (1, b2n (f == s.swRack))]))).modHport k
    (fun h => { h with profiles := SMap.set {} h.profiles pos ⟨l.farRec.getD [], (List.range 16).map (fun i => s.sw.fld (ob 0x3002 (0x48 + k)) (5 * i) 5), l.session⟩ })

/-- Keep the session and the receive lane map of the link in the profile of the port's position, where there is one (R310, R319). -/
def Block.keepSession (s : Block) (k : Nat) : Block :=
  if s.sw.profileValid k (s.sw.hpos k) then
    s.modHport k (fun h => { h with profiles := SMap.modify {} h.profiles (s.sw.hpos k) (fun p => { p with session := (s.sw.link (0x48 + k)).session, map := (List.range 16).map (fun i => s.sw.fld (ob 0x3002 (0x48 + k)) (5 * i) 5) }) })
  else s

/-- The e of R316 now. -/
def Block.rotaE (s : Block) : Nat := s.sw.stroke / (max 1 (s.sw.fld (ob 0x4002 0) 6 16) * cclkUs) % 4

/-- The position that a port's steering mode names; in PROGRAM mode it names none, and the port stays where it is. -/
def Block.namedPos (s : Block) (k : Nat) : Nat :=
  match s.sw.fld (ob 0x4010 k) 1 2 with
  | 0 => (s.rotaE + 64 - s.swRack) % 4
  | 2 => s.sw.fld (ob 0x4010 k) 3 2
  | _ => s.sw.hpos k

/-- The receiver takes the lane map and the session of the profile at the port's position, where there is one. -/
def Block.useProfile (s : Block) (k : Nat) : Block :=
  if !s.sw.profileValid k (s.sw.hpos k) then s
  else
    let p := SMap.get {} (s.ox.hport k).profiles (s.sw.hpos k)
    s.modSw (fun c => (c.setReg (ob 0x3002 (0x48 + k)) (BitVec.ofNat 128 (packArg (p.map.map (fun l => (5, l)))))).modLink (0x48 + k) (fun l => { l with session := p.session }))

/-- The port rests at its position without a link; it relocks there when the position has a valid profile. -/
def Block.toNoLink (s : Block) (k : Nat) : Block :=
  ((s.modSw (fun c => c.setHstate k psNoLink)).useProfile k).modHport k (fun h => { h with noLinkSince := s.sw.stroke, full := false, survey := none })

/-- The survey goes on from position `pos`: positions of absent racks are skipped; after the last one it ends. -/
def Block.surveyFrom (s : Block) (k pos : Nat) : Block :=
  match ((List.range 4).filter (fun p => decide (pos ≤ p) && s.sw.bit (ob 0x5202 0) (fibreOf k p))).head? with
  | some p => (s.modSw (fun c => ((c.setHstate k psSurvey).setHpos k p).setLstate (0x48 + k) lsDetect)).modHport k (fun h => { h with survey := some p })
  | none =>
    let valid := (List.range 4).foldl (fun a p => a + 2 ^ p * b2n (s.sw.profileValid k p)) 0
    let s1 := s.modSw (fun c => ((c.log 0x2005 .info (0x48 + k) (packArg [(4, k), (4, valid)])).setHpos k (s.namedPos k)).setLstate (0x48 + k) lsDetect)
    (s1.modHport k (fun h => { h with rotaE := some s.rotaE })).toNoLink k

/-- A survey begins. -/
def Block.surveyStart (s : Block) (k : Nat) : Block := (s.modSw (fun c => c.setHstate k psSurvey)).surveyFrom k 0

/-- A full launch of the port's position has failed: no profile; a survey goes on. -/
def Block.hallFailed (s : Block) (k : Nat) : Block :=
  let pos := s.sw.hpos k
  let s1 := s.dropProfile k pos
  if s.sw.hstate k == psSurvey then s1.surveyFrom k (pos + 1) else if s.sw.hstate k == psNoLink then s1.toNoLink k else s1

/-- A steer begins: the old peer is no longer steered, the port drains. -/
def Block.startSteer (s : Block) (k : Nat) (st : Steer) : Block :=
  let pos := s.sw.hpos k
  (s.modSw (fun c => ((c.setSteered k pos false).setHstate k psSteering).count (ob 0x4013 k) 0 32 1)).modHport k (fun h => { h with steer := some st, phase := 1 })

/-- A steer is ordered: at once where the port has a link or none, after the steer in progress otherwise. A port that is DISABLED, DARK or in SURVEY has no position to leave. -/
def Block.orderSteer (s : Block) (k : Nat) (st : Steer) : Block :=
  if (s.ox.hport k).steer.isSome then s.modHport k (fun h => { h with next := h.next ++ [st] })
  else if s.sw.hstate k == psActive || s.sw.hstate k == psNoLink then s.startSteer k st
  else s

/-- A bundle's steer: of a port that is not in PROGRAM mode it is ignored and counted. -/
def Block.bundleSteer (s : Block) (k pos : Nat) : Block :=
  if s.sw.fld (ob 0x4010 k) 1 2 == 1 then s.orderSteer k ⟨pos, true, s.sw.stroke⟩
  else s.modSw (fun c => c.count (ob 0x4013 k) 48 16 1)

end Sys2Proof.Machine
end

