-- ==== Sys2Proof/Machine/Engine.lean ====
section
/-!
DEFINITION. The stroke engine at work: dispatch, patterns, waits and bundles, control flow, steering and power tens, checkpoints, crabs and holding water (11, R246 to R265).
-/
namespace Sys2Proof.Machine

/-- The presented bundle. -/
def Block.presented (s : Block) : Nat := s.sw.bundle s.ox.eng.pc

/-- Does the presented bundle's wait hold (R257)? -/
def Block.waitHolds (s : Block) : Bool :=
  let b := s.presented
  let v := if bWsrc b then SMap.get 0 s.ox.sc (bWid b) else SMap.get 0 s.ox.arv (s.ox.eng.ctx * 64 + bWid b)
  !bWen b || decide ((v + 65536 - bWval b) % 65536 < 32768)

/-! ### Dispatch and patterns -/

/-- DISPATCH: 4 CCLK after it took the launch, the engine presents its ENTRY bundle; the loop stack is empty and the nominal count is the stroke count (R256). An IDLE engine that could not take a launch before takes it now. -/
def execDispatch (s : State) : Host.Outcome State Fault Refusal :=
  s.act fun s =>
    let s := if s.sw.inReset then s else s.hallSort
    (if s.sw.inReset then s
      else if s.ox.eng.state = engDispatch then
        match s.slaunch? s.ox.eng.ctx, s.ox.eng.dispatchAt with
        | some l, some d =>
          if d ≤ s.sw.stroke ∧ s.engineOpen then
            (s.modSL l.key (fun l => { l with dispatched := true })).modEng (fun e =>
              { e with state := engRun, pc := l.entry.entry, running := true, finished := false, abandoned := false, image := l.image, loops := [], base := s.sw.stroke, executed := 0, held := 0,
                       dispatchAt := none, rep := 0, passed := false, acted := false, half := false, gdone := [], lastAct := none })
          else s
        | _, _ => s
      else s.engineKick)

/-- PATTERN_LATCH: at an even stroke count, PAT of the presented bundle in RUN or WAIT, else pattern 0 (R254). -/
def execPatternLatch (s : State) : Host.Outcome State Fault Refusal :=
  s.act fun s =>
    (if s.sw.inReset || s.sw.stroke % 2 != 0 then s
      else s.modOx (fun x => { x with pattern := if x.eng.state = engRun ∨ x.eng.state = engWait then bPat (s.sw.bundle x.eng.pc) else 0 }))

/-! ### Fields (R248) -/

/-- Drive LOAD_ANN from the next CCLK (R264): 0 ends every announcement; a lower value replaces the one driven at once, in effect or on its way, whose 3,500 CCLK go on; a higher one takes effect later, and what was driven before stays until then (R411). -/
def Block.driveAnn (s : Block) (v : Nat) : Block :=
  if v = s.ox.ann then s
  else
    let now := s.sw.schedCur
    let drive := fun (x : Ox) =>
      if v = 0 then { x with ann := 0, annPend := [], annEffect := 0 }
      else if x.ann < v then { x with ann := v, annPend := x.annPend ++ [(v, s.sw.stroke + 1, now)] }
      else
        let low := fun (e : Nat × Nat × Nat) => if v < e.1 then (v, e.2.1, now) else e
        { x with ann := v, annPend := x.annPend.map low, annEffect := min v x.annEffect, annBase := if v < x.annEffect then now else x.annBase }
    (s.modOx drive).modSw (fun c => c.emit (.pin "LOAD_ANN" v))

/-- ALIGN: the nominal count is the stroke count (R258). -/
def Block.align (s : Block) : Block := s.modEng (fun e => { e with base := s.sw.stroke, executed := 0, held := 0 })

/-- A signal to a counter (R257) lands at the end of its CCLK (R248). -/
def Block.signal (s : Block) (i : Nat) : Block := s.modOx (fun x => { x with scPend := x.scPend ++ [i] })

/-- The engine's own signals: a program steer has relocked, a checkpoint record is acknowledged; both are inputs that Griward records. -/
def Block.ownSignal (s : Block) (i : Nat) : Block := (s.signal i).gwAckAt i

/-- Present another bundle. -/
def Block.goto (s : Block) (pc : Nat) : Block :=
  s.modEng (fun e => { e with pc := pc % 65536, rep := 0, passed := false, acted := false, half := false, gdone := [] })

def Block.nextPc (s : Block) : Nat := (s.ox.eng.pc + 1) % 65536

/-! ### Control flow (R255, R256) -/

def Block.lopBegin (s : Block) (larg : Nat) : Block :=
  (if s.ox.eng.loops.length < 4 then s.modEng (fun e => { e with loops := (s.nextPc, larg + 1) :: e.loops }) else s).goto s.nextPc

/-- END with no level acts as NONE. -/
def Block.lopEnd (s : Block) : Block :=
  match s.ox.eng.loops with
  | [] => s.goto s.nextPc
  | (top, n) :: rest =>
    if 1 < n then (s.modEng (fun e => { e with loops := (top, n - 1) :: rest })).goto top
    else (s.modEng (fun e => { e with loops := rest })).goto s.nextPc

/-- FINISH: the COMPLETEs go behind the results. -/
def Block.finishLaunch (s : Block) : Block :=
  let key := s.ox.eng.ctx
  if s.ox.eng.finished || s.ox.eng.abandoned then s
  else (((s.modEng (fun e => { e with finished := true })).modSL key (fun l => { l with finishing := true }))).closePump key

/-- Stages that this switch has folded in ARRIVAL mode (R185, R229). -/
def Block.arrivalStages (s : Block) (l : SLaunch) : Nat :=
  let isFloat := decide (l.cfg.inFmt ≤ 8) || l.cfg.inFmt == 12
  if l.cfg.reduces && (l.cfg.rop == 0 || l.cfg.rop == 3) && isFloat && s.sw.modeFor l.cfg == 2 then
    (if s.sw.isLatency l.cfg then 1 else 2) + (if 1 < grpHExt l.cfg.grp then 1 else 0)
  else 0

/-- DONE: FINISH if it has not acted, a FINISHED checkpoint, LAUNCH counts, the registers clear, the next launch. -/
def Block.lopDone (s : Block) : Block :=
  let key := s.ox.eng.ctx
  match (if s.ox.eng.abandoned then none else s.slaunch? key) with
  | none => s.engineFree
  | some l =>
    let s1 := s.finishLaunch.checkpoint key true false s.nextPc
    ((((s1.modSw (fun c => c.count (ob 0x6080 0) 0 64 (s.arrivalStages l))).gwDoneAt l.ctx l.launch s.lag)).endLaunch key l).engineFree

/-- CKPT: a record of the running launch. -/
def Block.ckpt (s : Block) : Block := if s.ox.ckptWait then s else s.checkpoint s.ox.eng.ctx false false s.nextPc

/-- LOP of a bundle. -/
def Block.lop (s : Block) (code larg : Nat) : Block :=
  match code with
  | 1 => s.lopBegin larg
  | 2 => s.lopEnd
  | 3 => s.goto larg
  | 4 => s.finishLaunch.goto s.nextPc
  | 5 => s.lopDone
  | _ => s.goto s.nextPc

/-! ### One CCLK of the presented bundle (R248, R250, R205) -/

/-- The fields that act on the first repetition. -/
def Block.firstFields (s : Block) (b : Nat) : Block :=
  let s1 := if bGctl b then s.gctl (bGgrp b) (bGopc b) (bGarg b) s.runTwin else s
  let s2 := if bSteer b then s1.bundleSteer (bSport b) (bSpos b) else s1
  let s3 := if bAnnEn b then s2.driveAnn (bAnn b) else s2
  (if bAlign b then s3.align else s3).modEng (fun e => { e with acted := true })

/-- Is a group's operation for the second CCLK: its partner has one of its own in this bundle? -/
def Block.secondHalf (s : Block) (b g : Nat) : Bool :=
  match s.ox.partners.find? (fun p => p.1 == g) with
  | some p => gVop (bGop b p.2) != 0 && !s.ox.eng.half
  | none => false

/-- The operation of a group acts. One that reaches the boathouse may meet a refresh, of at most 350 ns: then its group waits (R333). -/
def Block.bundleGop (s : Block) (g gop : Nat) : Block :=
  let act := fun (s : Block) => (s.gop g gop).modEng (fun e => { e with gdone := e.gdone ++ [g] })
  if gopReachesBh gop then
    let r := Config.refresh s.free
    let n := min r.1 613
    if n = 0 then act s.tick
    else (s.tick.modGroup g (fun q => { q with busyUntil := s.sw.stroke + n })).gwRefreshAt r.2.toNat n
  else act s

/-- The groups whose operations have not acted in this repetition act unless they are held. -/
def Block.bundleGops (s : Block) (b : Nat) : Block :=
  (List.range 16).foldl (fun s g =>
    let gop := bGop b g
    if gVop gop == 0 || s.ox.eng.gdone.contains g || s.secondHalf b g || s.gopHeld g gop || s.ox.mirrorsOut.any (fun m => m.offset.isSome && m.g == g) then s
    else s.bundleGop g gop) s

def Block.gopsDone (s : Block) (b : Nat) : Bool := (List.range 16).all (fun g => gVop (bGop b g) == 0 || s.ox.eng.gdone.contains g)

/-- After the last repetition: SEN, CKPT, LOP. A CKPT whose predecessor is not acknowledged holds the bundle. -/
def Block.bundleEnd (s : Block) (b : Nat) : Block :=
  if bCkpt b && s.ox.ckptWait then s
  else
    let s1 := s.modEng (fun e => { e with executed := e.executed + 1 })
    let s2 := if bSen b then s1.signal (bSid b) else s1
    (if bCkpt b then s2.ckpt else s2).lop (bLop b) (bLarg b)

/-- One repetition is over: the next, or the end of the bundle. Operations that no announcement covers and the slew limiter defers stretch the bundle (R264). -/
def Block.bundleStep (s : Block) (b : Nat) : Block :=
  if s.ox.deferScheduled && s.ox.annEffect == 0 && !s.gopsDone b then s.modSw (fun c => c.count (ob 0x6104 2) 0 64 1)
  else
    let s1 := s.bundleGops b
    if !s1.gopsDone b then s1.modEng (fun e => { e with half := true })
    else if s1.ox.eng.rep < bRepeat b then s1.modEng (fun e => { e with rep := e.rep + 1, executed := e.executed + 1, gdone := [], half := false })
    else s1.bundleEnd b

/-- WAIT: one CCLK of the presented bundle. Until its wait holds, nothing else acts; an engine that has crabbed stays in WAIT. -/
def Block.runBundle (s : Block) : Block :=
  let b := s.presented
  if !s.ox.eng.passed && (s.ox.hold.crabbed || !s.waitHolds) then s.modEng (fun e => { e with state := engWait })
  else
    let s1 := s.modEng (fun e => { e with state := engRun, passed := true })
    (if s1.ox.eng.acted then s1 else s1.firstFields b).bundleStep b

/-- Does the engine present a bundle that has not acted in this CCLK? None acts once the sweep array has stopped (R206). -/
def Block.presents (s : Block) : Bool :=
  s.ox.eng.running && (s.ox.eng.state == engRun || s.ox.eng.state == engWait) && s.ox.eng.lastAct != some s.sw.stroke && !s.sw.inReset && !s.ox.sweepFailed

def execWait (s : State) : Host.Outcome State Fault Refusal :=
  s.act fun s =>
    (if s.presents then (s.modEng (fun e => { e with lastAct := some s.sw.stroke })).runBundle else s)

/-! ### The fields one by one -/

/-- Does a field of a bundle act: the engine runs? -/
def Block.engineRuns (s : Block) : Bool := s.ox.eng.running && s.ox.eng.state == engRun && !s.sw.inReset

def execLopBegin (larg : BitVec 16) (s : State) : Host.Outcome State Fault Refusal :=
  s.act fun s => (if s.engineRuns then s.lopBegin larg.toNat else s)
def execLopEnd (s : State) : Host.Outcome State Fault Refusal :=
  s.act fun s => (if s.engineRuns then s.lopEnd else s)
def execLopJump (larg : BitVec 16) (s : State) : Host.Outcome State Fault Refusal :=
  s.act fun s => (if s.engineRuns then s.goto larg.toNat else s)
def execLopFinish (s : State) : Host.Outcome State Fault Refusal :=
  s.act fun s => (if s.engineRuns then s.finishLaunch.goto s.nextPc else s)
def execLopDone (s : State) : Host.Outcome State Fault Refusal :=
  s.act fun s => (if s.engineRuns then s.lopDone else s)
def execSteerEn (sport : BitVec 4) (spos : BitVec 2) (s : State) : Host.Outcome State Fault Refusal :=
  s.act fun s =>
    (if s.engineRuns then s.bundleSteer sport.toNat spos.toNat else s)
def execAnnEn (ann : BitVec 2) (s : State) : Host.Outcome State Fault Refusal :=
  s.act fun s => (if s.engineRuns then s.driveAnn ann.toNat else s)
def execCkpt (s : State) : Host.Outcome State Fault Refusal :=
  s.act fun s => (if s.engineRuns then s.ckpt else s)
def execAlign (s : State) : Host.Outcome State Fault Refusal :=
  s.act fun s => (if s.engineRuns then s.align else s)
def execSen (sid : BitVec 6) (s : State) : Host.Outcome State Fault Refusal :=
  s.act fun s => (if s.engineRuns && decide (sid.toNat < 62) then s.signal sid.toNat else s)

/-! ### Crabs and holding water (R259 to R262) -/

/-- The first multiple of 256 after a stroke count. -/
def after256 (x : Nat) : Nat := (x / 256 + 1) * 256
def Block.at256 (s : Block) : Bool := s.sw.stroke % 256 == 0 && !s.sw.inReset
def Block.modHold (s : Block) (f : Hold → Hold) : Block := s.modOx (fun x => { x with hold := f x.hold })

/-- A stand-in drives the line no more. -/
def Block.standRelease (s : Block) : Block := s.modHold (fun h => { h with standDrive := none, standFrom := none, standEnd := false })

/-- CRAB: the presented bundle's wait does not hold and LAG exceeds its SLACK. -/
def execCrab (s : State) : Host.Outcome State Fault Refusal :=
  s.act fun s =>
    let b := s.presented
    (if s.ox.eng.running && s.ox.eng.state == engWait && !s.sw.inReset && !s.ox.hold.crabbed && !s.ox.eng.passed && !s.waitHolds
        && bSlack b != 0xFFFF && decide (bSlack b < s.lag) then
        (s.modHold (fun h => { h with crabbed := true, crabAt := some s.sw.stroke, limited := false })).modSw (fun c => (c.count (ob 0x6104 0) 0 32 1).logLimited 0x5001 .corrected 0xFF 0
          (packArg [(12, s.ox.eng.ctx), (16, s.ox.eng.pc), (7, bWid b + 64 * b2n (bWsrc b)), (32, s.lag)]))
      else s)

/-- HOLD_DRIVE_START: at the multiple of 256 after its cause the switch drives the line low: for a crab, or for a stand-in (R373). -/
def execHoldDriveStart (s : State) : Host.Outcome State Fault Refusal :=
  s.act fun s =>
    let h := s.ox.hold
    let due := fun (o : Option Nat) => match o with
      | some x => decide (after256 x ≤ s.sw.stroke)
      | none => false
    let crab := h.crabbed && !h.drive && due h.crabAt
    let stand := h.standDrive.isNone && due h.standFrom
    (if s.at256 && (crab || stand) then
        (s.modHold (fun h => { h with drive := h.drive || crab, standDrive := if stand then some s.sw.stroke else h.standDrive })).when (!h.drive && h.standDrive.isNone)
          (fun s => s.modSw (fun c => c.emit (.pin "HOLD_WATER_N" 0)))
      else s)

/-- HOLD_WATER_SEEN_LOW: the line falls. -/
def execHoldWaterSeenLow (s : State) : Host.Outcome State Fault Refusal :=
  s.act fun s =>
    (if s.sw.inReset || s.ox.hold.lineLow then s
      else (s.modHold (fun h => { h with lineLow := true, seenLow := some s.sw.stroke, seenHigh := none })).gwHoldAt true)

/-- HELD_ENTER: at the multiple of 256 after the line was seen low. -/
def execHeldEnter (s : State) : Host.Outcome State Fault Refusal :=
  s.act fun s =>
    (match s.ox.hold.seenLow with
      | some x => if s.at256 && s.ox.eng.state != engHeld && decide (after256 x ≤ s.sw.stroke) && s.ox.hold.heldAt.isNone then
          (s.modEng (fun e => { e with before := e.state, state := engHeld })).modHold (fun h => { h with heldAt := some s.sw.stroke })
        else s
      | none => s)

/-- HOLD_DRIVE_RELEASE: at a multiple of 256, HELD, with its wait holding (or its launch abandoned), the crabbing switch releases the line; a stand-in whose entries a catch has activated releases it too (R373). -/
def execHoldDriveRelease (s : State) : Host.Outcome State Fault Refusal :=
  s.act fun s =>
    let h := s.ox.hold
    let crab := h.drive && s.ox.eng.state == engHeld && (s.waitHolds || h.limited)
    let stand := h.standDrive.isSome && h.standEnd
    (if s.at256 && (crab || stand) then
        (let s1 := if crab then s.modHold (fun h => { h with drive := false, crabbed := false, crabAt := none, limited := false }) else s
         let s2 := if stand then s1.standRelease else s1
         if s2.ox.hold.drive || s2.ox.hold.standDrive.isSome then s2 else s2.modSw (fun c => c.emit (.pin "HOLD_WATER_N" 1)))
      else s)

/-- HOLD_WATER_SEEN_HIGH: the line rises. -/
def execHoldWaterSeenHigh (s : State) : Host.Outcome State Fault Refusal :=
  s.act fun s =>
    (if s.sw.inReset || !s.ox.hold.lineLow then s
      else
        (s.modHold (fun h => { h with lineLow := false, seenHigh := some s.sw.stroke })).gwHoldAt false)

/-- HELD_EXIT: at the multiple of 256 after the line was seen high. -/
def execHeldExit (s : State) : Host.Outcome State Fault Refusal :=
  s.act fun s =>
    (match s.ox.hold.seenHigh with
      | some y => if s.at256 && s.ox.eng.state == engHeld && decide (after256 y ≤ s.sw.stroke) then
          (((s.modEng (fun e => { e with state := e.before, held := e.held + s.heldNow })).modHold (fun h => { h with heldAt := none, seenLow := none, seenHigh := none })).modSw
            (fun c => c.count (ob 0x6104 1) 0 64 s.heldNow))
        else s
      | none => s)

/-- HOLD_LIMIT: HELD for HOLD_LIMIT, the crabbing switch abandons the running launch (R262). -/
def execHoldLimit (s : State) : Host.Outcome State Fault Refusal :=
  s.act fun s =>
    (if s.ox.hold.drive && !s.ox.hold.limited && s.ox.eng.state == engHeld && s.ox.eng.running && !s.sw.inReset
        && decide (s.sw.fld (ob 0x6103 0) 0 16 * cclkUs ≤ s.heldNow) then
        ((s.modHold (fun h => { h with limited := true })).modSw (fun c => c.log 0x5002 .uncorrected 0xFF (packArg [(12, s.ox.eng.ctx), (32, s.launchOfKey s.ox.eng.ctx)]))).timeoutLaunch s.ox.eng.ctx true
      else s)

end Sys2Proof.Machine
end

