-- ==== Sys2Proof/Machine/StartLine.lean ====
section
/-!
DEFINITION. START packets and the beginning of a claim for start master (14, R326, R327).
-/
namespace Sys2Proof.Machine

/-! ### START packets (R326) -/

def stHall (p : Packet) : Bool := bitsOf p.w1 3 1 == 1
def stPriority (p : Packet) : Nat := bitsOf p.w1 12 8
def stHsync (p : Packet) : Bool := bitsOf p.w1 20 1 == 1
def stSerial (p : Packet) : Nat := p.w2.toNat
def stValue (p : Packet) : Nat := bitsOf p.w3 0 48

def Common.priority (c : Common) : Nat := c.fld (ob 0xC000 1) 0 8
def Common.serial (c : Common) : Nat := c.fld (ob 0x1000 4) 0 64

/-- A START packet of the switch. -/
def Block.startPacket (s : Block) (kind : Nat) (hall : Bool) (round : Nat) (hsync : Bool) (value dst : Nat) (dstSw : Bool) : Packet :=
  ({ net := 4, opc := 0x38, src := s.swId, srcSw := true, dst := dst, dstSw := dstSw } : Hdr).packet
    (packArg [(3, kind), (1, b2n hall), (8, round), (8, s.sw.priority), (1, b2n hsync)]) s.sw.serial (value % 2 ^ 48) []

/-- Send a START packet on every ACTIVE crew port. -/
def Block.startCrew (s : Block) (kind : Nat) (hall : Bool) (round : Nat) (hsync : Bool) (value : Nat) : Block :=
  ((List.range 72).filter (fun n => s.sw.lstate n == lsActive)).foldl (fun s n =>
    s.unitSend xpCox [n] (s.startPacket kind hall round hsync value (s.endpointId n) false)) s

/-- Send one to the switch of this plane in rack `n`, where R127 has a route. -/
def Block.startRack (s : Block) (kind round : Nat) (value n : Nat) : Block :=
  let p := s.startPacket kind true round false value (n * 16 + s.swPlane) true
  match (s.hallRoute false xpCox n false p).port with
  | some o => s.unitSend xpCox [o] p
  | none => s

/-- The other racks of the hall that are present. -/
def Block.otherRacks (s : Block) : List Nat := (List.range 64).filter (fun n => n != s.swRack && s.sw.bit (ob 0x5202 0) n)

/-! ### Claims (R327) -/

def claimRound : Nat := 16384
def announceLead : Nat := 32768
def checkPeriod : Nat := 2 ^ 18 * 56

def Block.claimOf (s : Block) (hall : Bool) : Claiming := if hall then s.ox.hallClaiming else s.ox.claiming
def Block.setClaim (s : Block) (hall : Bool) (c : Claiming) : Block := s.modOx (fun x => if hall then { x with hallClaiming := c } else { x with claiming := c })

/-- Send CLAIM of a round. -/
def Block.sendClaim (s : Block) (hall : Bool) (round : Nat) : Block :=
  if hall then s.otherRacks.foldl (fun s n => s.startRack 0 round 0 n) s else s.startCrew 0 false round false 0

/-- An eligible switch becomes a claimant. -/
def Block.startClaim (s : Block) (hall : Bool) : Block :=
  if !s.sw.bit (ob 0xC000 1) 8 then s
  else (s.setClaim hall { active := true, round := 1, since := s.sw.stroke, deferred := false }).sendClaim hall 1

/-- The first crew port of a switch that has come out of power-on is ACTIVE: the rack has no start master yet, and an eligible switch claims (R327; 18, R420 step 10). -/
def Block.claimAtStart (s : Block) : Block :=
  if s.ox.claimDue && !s.sw.masterKnown then (s.modOx (fun x => { x with claimDue := false })).startClaim false else s

end Sys2Proof.Machine
end

