-- ==== Sys2Proof/Machine/LinkDown.lean ====
section
/-!
DEFINITION. A link leaving ACTIVE and entering it, with everything that follows at either part (06, R124; 12, R287 to R289, R296; 13, R312, R315; 16, R370 to R375).
-/
namespace Sys2Proof.Machine

def Block.modLink (s : Block) (p : Part) (pp : Nat) (f : Link → Link) : Block := s.modCommon p (fun c => c.modLink pp f)

/-- Is the link enabled: ENABLE, or at a hall port a state other than DISABLED? -/
def Common.linkEnabled (c : Common) (pp : Nat) : Bool :=
  if hallLink c.kind pp then c.hstate (pp - 0x48) != psDisabled else c.bit (ob 0x3000 pp) 0

/-- REPLAY_LIMIT and LANE_ERR_LIMIT; a hall port, which has no such object, keeps the defaults. -/
def Common.replayLimit (c : Common) (pp : Nat) : Nat := if hallLink c.kind pp then 8 else c.fld (ob 0x3004 pp) 48 8
def Common.laneErrLimit (c : Common) (pp : Nat) : Nat := if hallLink c.kind pp then 200000 else c.fld (ob 0x3004 pp) 16 32

/-! ### Mirrored records (R265, R267) -/

/-- What a MIRROR packet that waits for its acknowledgement carries: MKIND and the offset. -/
def MirrorOut.arg (m : MirrorOut) : Nat :=
  match m.offset with
  | none => 0
  | some o => 1 + 4 * o

/-- The far end has acknowledged a MIRROR packet of a context: a checkpoint record counts in SC63, a block of state lets the results that waited for it go. -/
def Block.mirrorAcked (s : Block) (ctx arg : Nat) : Block :=
  let mine := fun (m : MirrorOut) => m.ctx % 4096 == ctx && m.arg == arg
  match s.ox.mirrorsOut.find? mine with
  | none => s
  | some m =>
    let s1 := s.modOx (fun x => { x with mirrorsOut := eraseFirst mine x.mirrorsOut })
    match m.offset with
    | none => (s1.modOx (fun x => { x with ckptWait := x.mirrorsOut.any (fun y => y.offset.isNone) })).ownSignal 63
    | some _ => s1.pumpResults m.g m.ctx (s1.ox.results.length + 1)

/-- Without a bridge nothing is mirrored: what waited for the twin goes on. -/
def Block.mirrorLost (s : Block) : Block :=
  let m := s.ox.mirrorsOut
  let s1 := s.modOx (fun x => { x with mirrorsOut := [], ckptWait := false })
  m.foldl (fun s e => if e.offset.isSome then s.pumpResults e.g e.ctx (s.ox.results.length + 1) else s) s1

/-! ### Fencing (R372) -/

def Block.fenceColl (s : Block) : Block :=
  if s.sw.isFenced then s else s.modSw (fun c => (c.setBit (ob 0x9041 0) 1 true).log 0x900C .uncorrected 0xFF (packArg [(10, s.swId)]))

/-! ### A crew port's packets when it is not ACTIVE (R124, R371) -/

/-- Take a cell out of the VOQ of an output. -/
def Block.unlink (s : Block) (i o net k : Nat) : Block :=
  s.modOx (fun x =>
    let v := x.voq i o net
    (x.setVoq i o net { v with cells := v.cells.filter (fun e => e.1 != k) }).unref k)

/-- Packets that waited for a crew port which has left ACTIVE: requests are answered with NACK, the switch's own COLL packets go over the bridge; the rest wait. -/
def Block.portLost (s : Block) (slot : Nat) (unsent : List Packet) : Block :=
  let s1 := (unsent.filter (fun p => pNet p == 0)).foldl (fun s p => s.sendNack p) s
  let s2 := (unsent.filter (fun p => pNet p == 2)).foldl (fun s p => s.unitSend xpEngine [bridgeOutput p] p) s1
  let qs := s2.ox.voqs.filter (fun v => v.1 / 8 % 128 == slot && (v.1 % 8 == 0 || (v.1 % 8 == 2 && decide (90 ≤ v.1 / 1024))))
  qs.foldl (fun s v =>
    let i := v.1 / 1024
    v.2.cells.foldl (fun s e =>
      match s.ox.cell e.1 with
      | none => s
      | some c =>
        let p := c.pktFor slot
        let s' := (s.unlink i slot (v.1 % 8) e.1).inputCredits i p
        if pNet p == 0 then s'.sendNack p else s'.unitSend i [bridgeOutput p] p) s) s2

/-! ### Leaving ACTIVE (R288, R289) -/

/-- Causes whose LINK_DOWN the end can still send: it has not heard the far end fall silent, and the far end has not left first. -/
def sendsDown (cause : Nat) : Bool := cause != 1 && cause != 3

/-- The link's own part of leaving ACTIVE: the flit, the cause, DETECT, the event; unacknowledged flits, partial packets and packets not sent are discarded. The session stays through DOCK, and at a hall port in the profile. -/
def Common.dropLink (c : Common) (pp cause : Nat) : Common :=
  let l := c.link pp
  let c0 := if sendsDown cause && l.swapRx.isEmpty && !l.swapNak then c.ctrl pp (ctrlFlit ctLinkDown [BitVec.ofNat 8 cause]) else c
  let c1 := ((c0.setFld (ob 0x3001 pp) 25 3 cause).setFld (ob 0x3001 pp) 3 2 0).setLstate pp lsDetect
  let c2 := ({ c1 with txq := c1.txq.filter (fun x => x.1 != pp) } : Common).modLink pp (fun l => { l with
    replayBuf := [], ends := [], partial_ := [], replaying := none, nakHeld := none, waitReplay := none, nakRun := 0, ackOwed := false,
    swapRx := [], swapTx := [], swapAsk := [], swapNak := false, frags := [], sentReceived := false, myPass := none, farPass := none,
    docking := l.docking && cause == 4, session := if l.docking && cause == 4 then l.session else none })
  (c2.setBit (ob 0x8020 pp) 1 false).log 0x1002 .uncorrected pp (packArg [(7, pp), (3, cause)])

/-- A link leaves ACTIVE. -/
def Block.leaveActive (s : Block) (p : Part) (pp cause : Nat) : Block :=
  let c := s.common p
  if c.lstate pp != lsActive then s
  else
    let far := if cause == 3 then (c.link pp).farCause else 7
    let sl := if p == .ox720 then s.landFlights (flightOn pp) else s
    let unsent := ((sl.common p).txq.filter (fun x => x.1 == pp)).map (fun x => x.2)
    let s0 := if hallLink p pp then sl.keepSession (pp - 0x48) else sl
    let s1 := s0.modCommon p (fun c => c.dropLink pp cause)
    match p with
    | .oe36 => s1.planeLost pp cause far
    | .ox720 =>
      if pp < 72 then
        let s2 := ((s1.sendReach pp false).portLost pp unsent).resendLost pp
        if s2.sw.lstate 0x58 != lsActive && !s2.sw.namesSelf then s2.fenceColl else s2
      else if pp = 0x58 then (s1.modOx (fun x => { x with bridgeDownAt := some s1.sw.stroke, twinSeen := false })).mirrorLost
      else
        let k := pp - 0x48
        if s1.sw.hstate k == psActive then (s1.modSw (fun c => c.setSteered k (c.hpos k) false)).toNoLink k else s1

/-! ### Entering ACTIVE (R287, R291) -/

/-- The five numbers of CREDITS in a capability record. -/
def recCredits (r : List Byte) : List Nat := (List.range 5).map (fun n => leAt r (32 + 2 * n) 2)

/-- The counts of a link that starts: flits from 0, the far end's credits, nothing consumed (R284, R286). -/
def Link.start (l : Link) (now : Nat) : Link :=
  { l with txCount := 0, relCount := 0, dlvCount := 0, lastAck := 0, replayBuf := [], ends := [], replaying := none, waitReplay := none,
           nakRun := 0, ackOwed := false, partial_ := [], adv := recCredits (l.farRec.getD []), used := [0, 0, 0, 0, 0], freed := [0, 0, 0, 0, 0],
           swapRx := [], swapTx := [], swapAsk := [], swapNak := false, farCause := 7, docking := false, idleSince := now, lastRx := now, frags := [],
           shortExchange := false, keyStage := 0, keyMsg := [] }

/-- A hall port stops: its link leaves ACTIVE, its peer is no longer steered, no steer remains. -/
def Block.hallStop (s : Block) (k st cause : Nat) : Block :=
  let s1 := s.leaveActive .ox720 (0x48 + k) cause
  (s1.modSw (fun c => ((c.setSteered k (c.hpos k) false).setHstate k st).setLstate (0x48 + k) lsDetect)).modHport k
    (fun h => { h with steer := none, phase := 0, next := [], survey := none, full := false, fast := false, ctlPending := false })

/-- PORT_EN, STEER_MODE and FIXED_POS as applied: a port that is not enabled is DISABLED, an enabled one leaves DISABLED, a FIXED one goes to its position (R311, R316). During a steer this waits for its end (R317). -/
def Block.portCtl (s : Block) (k : Nat) : Block :=
  let en := s.sw.bit (ob 0x4010 k) 0
  let st := s.sw.hstate k
  if (s.ox.hport k).steer.isSome then s.modHport k (fun h => { h with ctlPending := true })
  else if !en then (if st == psDisabled then s else s.hallStop k psDisabled 4)
  else if st == psDisabled then (if s.sw.isDark then s.modSw (fun c => c.setHstate k psDark) else s.surveyStart k)
  else if s.sw.fld (ob 0x4010 k) 1 2 == 2 && s.sw.hpos k != s.sw.fld (ob 0x4010 k) 3 2 then s.orderSteer k ⟨s.sw.fld (ob 0x4010 k) 3 2, false, s.sw.stroke⟩
  else s

/-- A steer of a hall port is over: a change of its control takes effect, then the next steer that was ordered meanwhile begins. -/
def Block.nextSteer (s : Block) (k : Nat) : Block :=
  let h := s.ox.hport k
  let s1 := s.modHport k (fun h => { h with steer := none, phase := 0, ctlPending := false })
  let s2 := if h.ctlPending then s1.portCtl k else s1
  match (s2.ox.hport k).next with
  | [] => s2
  | st :: r => (s2.modHport k (fun h => { h with next := r })).orderSteer k st

/-- A steer of more than 8 µs is logged with its duration (R314). -/
def Common.steerSlow (c : Common) (k : Nat) (st : Steer) (ns : Nat) : Common :=
  if 8000 < ns then c.log 0x2006 .info (0x48 + k) (packArg [(4, k), (2, st.pos), (16, min ns 65535)]) else c

/-- What a hall port does when the link at its position enters ACTIVE: a survey keeps the profile and goes on; otherwise the peer is steered, a steer is complete. -/
def Block.hallUp (s : Block) (k : Nat) : Block :=
  if s.sw.hstate k == psSurvey then
    let pos := s.sw.hpos k
    ((s.saveProfile k).leaveActive .ox720 (0x48 + k) 4).surveyFrom k (pos + 1)
  else
    let s1 := if (s.ox.hport k).steer.isNone && !(s.ox.hport k).fast then s.saveProfile k else s
    let s2 := (s1.modSw (fun c => (c.setHstate k psActive).setSteered k (c.hpos k) true)).modHport k (fun h => { h with full := false, fast := false })
    match (s.ox.hport k).steer with
    | none => s2
    | some st =>
      let ns := s.sw.since st.at_ * 4 / 7
      let s3 := s2.modSw (fun c =>
        let c1 := (c.setFld (ob 0x4011 k) 5 16 (min ns 65535)).setFld (ob 0x4011 k) 21 16 (max (c.fld (ob 0x4011 k) 21 16) (min ns 65535))
        c1.steerSlow k st ns)
      (if st.program then s3.ownSignal 62 else s3).nextSteer k

/-- A link enters ACTIVE; `full`: after a launch from DETECT. -/
def Block.enterActive (s : Block) (p : Part) (pp : Nat) (full : Bool) : Block :=
  let l := (s.common p).link pp
  let far := l.farRec.getD []
  let s1 := s.modCommon p (fun c =>
    let c1 := (c.setLstate pp lsActive).modLink pp (fun l => { l.start c.stroke with fullRec := if full then l.farRec else l.fullRec })
    let c2 := if full then c1.count (ob 0x3007 pp) 0 16 1 else c1
    (c2.setBit (ob 0x8020 pp) 1 l.session.isSome).log 0x1001 .info pp (packArg [(7, pp), (13, leAt far 6 2)]))
  match p with
  | .oe36 => if s1.ep.bit (ob 0x9040 0) pp then s1.planeRestored pp else s1.planesChanged
  | .ox720 =>
    if pp < 72 then (s1.sendReach pp true).claimAtStart
    else if pp = 0x58 then s1.modOx (fun x => { x with bridgeDownAt := none })
    else s1.hallUp (pp - 0x48)

end Sys2Proof.Machine
end

