-- ==== Sys2Proof/Machine/LinkExch.lean ====
section
/-!
DEFINITION. Launch and capability exchange: records, discovery checks, quarantine, the security negotiation, launches that fail (02, R34, R39; 06, R134 to R137; 12, R287, R290, R291, R296, R299; 15, R345, R346).
-/
namespace Sys2Proof.Machine

/-! ### Capability records (R290) -/

def recType (r : List Byte) : Nat := leAt r 0 2
def recMajor (r : List Byte) : Nat := leAt r 5 1
def recCoord (r : List Byte) : Nat := leAt r 6 2
def recSwitch (r : List Byte) : Bool := bitAt (recCoord r) 14
def recHValid (r : List Byte) : Bool := bitAt (recCoord r) 13
/-- The rack and plane of a switch's record; the rack and slot of an endpoint's. -/
def recSwRack (r : List Byte) : Nat := field (recCoord r) 4 6
def recPlane (r : List Byte) : Nat := field (recCoord r) 0 4
def recEpRack (r : List Byte) : Nat := field (recCoord r) 7 6
def recSlot (r : List Byte) : Nat := field (recCoord r) 0 7
def recSerial (r : List Byte) : Nat := leAt r 16 8
def recPort (r : List Byte) : Nat := leAt r 24 1
def recFibre (r : List Byte) : Nat := leAt r 25 1
def recLanes (r : List Byte) : Nat := field (leAt r 26 3) 0 20
def recSec (r : List Byte) : Nat := leAt r 29 1
def recToken (r : List Byte) : Nat := field (leAt r 30 1) 0 2

/-- Do two records agree in every field except CREDITS (R296, R313)? -/
def recSame (a b : List Byte) : Bool := slice a 0 32 == slice b 0 32 && slice a 42 78 == slice b 42 78

/-- Is any tenant's bit of HALL_ENC_TENANTS set? -/
def Common.hallEnc (c : Common) : Bool := (List.range 4).any (fun i => c.fld (ob 0x4040 i) 0 64 != 0)

/-- ENC_REQUIRED of a link at this end (15, SEC; R319). -/
def Common.encRequired (c : Common) (pp : Nat) : Bool := if hallLink c.kind pp then c.hallEnc else c.bit (ob 0x8020 pp) 0

/-- The SEC byte: ENC_CAPABLE, ENC_REQUIRED, SEALED_CAPABLE, SPDM_RESPONDER. -/
def Common.secByte (c : Common) (pp : Nat) : Nat := packArg [(1, 1), (1, b2n (c.encRequired pp)), (1, 1), (1, 1)]

/-- COORD: an endpoint shows no rack until it has taken one. -/
def Block.coord (s : Block) : Part → Nat
  | .oe36 => match s.oe.rackTaken with
    | some _ => s.epId + 2 ^ 13
    | none => s.epId % 128
  | .ox720 => s.swId + 2 ^ 13 + 2 ^ 14

/-- Receive credits still held by packets received (R286, R313). -/
def Link.outstanding (l : Link) (net : Nat) : Nat := (l.taken.getD net 0 + 2 ^ 16 - l.myFreed.getD net 0) % 2 ^ 16

/-- The 120 bytes of the record that a part sends on a link; `credits`: what it advertises. -/
def Block.capRecord (s : Block) (p : Part) (pp : Nat) (credits : List Nat) : List Byte :=
  let c := s.common p
  let id := fun i w => c.fld (ob 0x1000 i) 0 w
  let fibre := if hallLink p pp then fibreOf (pp - 0x48) (c.hpos (pp - 0x48)) else 0xFF
  leBytes 2 (id 0 16) ++ leBytes 2 (id 1 16) ++ leBytes 2 (id 2 16) ++ leBytes 2 (s.coord p) ++ leBytes 8 (id 3 64) ++ leBytes 8 (id 4 64)
    ++ leBytes 1 pp ++ leBytes 1 fibre ++ leBytes 3 (c.fld (ob 0x3001 pp) 5 20) ++ leBytes 1 (c.secByte pp)
    ++ leBytes 1 (if bridgeLink p pp then c.token else 0) ++ leBytes 1 0 ++ (credits.map (leBytes 2)).flatten ++ leBytes 78 0

/-- The credits that the record of a launch advertises: all of R116 for the networks the link carries. -/
def Common.fullCredits (c : Common) (pp : Nat) : List Nat :=
  (List.range 5).map (fun n => if (linkNets c.kind pp).contains n then c.creditsFor pp n else 0)

/-- The credits that the record of a steer advertises: those free at that moment (R313). -/
def Common.freeCredits' (c : Common) (pp : Nat) : List Nat :=
  (List.range 5).map (fun n => if (linkNets c.kind pp).contains n then c.creditsFor pp n - (c.link pp).outstanding n else 0)

/-- The counts of freed credits start again. After a launch those of packets from before it are not reported; after a steer they come back as they free. -/
def Link.creditStart (l : Link) (steer : Bool) : Link :=
  let held := (List.range 5).map l.outstanding
  if steer then { l with taken := held, myFreed := [0, 0, 0, 0, 0], reported := [0, 0, 0, 0, 0] }
  else { l with taken := [0, 0, 0, 0, 0], stale := held, myFreed := [0, 0, 0, 0, 0], reported := [0, 0, 0, 0, 0] }

/-- Send the record in four EXCH flits (R283, R290). -/
def Block.sendRecord (s : Block) (p : Part) (pp : Nat) : Block :=
  let r := s.capRecord p pp ((s.common p).fullCredits pp)
  s.modCommon p (fun c => ((List.range 4).foldl (fun c f => c.ctrl pp (ctrlFlit ctExch (leBytes 1 f ++ slice r (30 * f) 30))) c).modLink pp (fun l => { l with recAt := c.stroke }))

/-- A link enters EXCHANGE: its credits start, its record goes out. -/
def Block.enterExchange (s : Block) (p : Part) (pp : Nat) : Block :=
  let fresh := fun (l : Link) => { l.creditStart false with frags := [], farRec := none, sentReceived := false, myPass := none, farPass := none,
                                                            waits := false, judgeDue := false, keyStage := 0, keyMsg := [] }
  (s.modCommon p (fun c => (c.setLstate pp lsExchange).modLink pp fresh)).sendRecord p pp

/-- Send EXCH_ACK: RECEIVED and PASS. -/
def Block.sendExchAck (s : Block) (p : Part) (pp : Nat) (pass : Bool) : Block :=
  s.modCommon p (fun c => (c.ctrl pp (ctrlFlit ctExchAck [BitVec.ofNat 8 (1 + 2 * b2n pass)])).modLink pp (fun l => { l with sentReceived := true, myPass := some pass }))

/-- Enter ACTIVE once PASS has been sent and received. -/
def Block.tryActive (s : Block) (p : Part) (pp : Nat) : Block :=
  let l := (s.common p).link pp
  if (s.common p).lstate pp == lsExchange && l.myPass == some true && l.farPass == some true then s.enterActive p pp (!l.shortExchange) else s

/-! ### Launches that fail -/

/-- Forget what a link had agreed, in DETECT. -/
def Block.toDetect (s : Block) (p : Part) (pp : Nat) : Block :=
  let reset := fun (l : Link) => { l with session := none, docking := false, shortExchange := false, waits := false, judgeDue := false, keyStage := 0, keyMsg := [], frags := [],
                                           sentReceived := false, myPass := none, farPass := none }
  s.modCommon p (fun c => (c.setLstate pp lsDetect).modLink pp reset)

/-- Back to DETECT. After DOCK, the session is gone and a full launch follows (R296). -/
def Block.launchFail (s : Block) (p : Part) (pp : Nat) : Block :=
  let st := (s.common p).lstate pp
  let reset := fun (l : Link) => { l with session := none, shortExchange := false, docking := false, keyStage := 0, keyMsg := [], waits := false, judgeDue := false,
                                           frags := [], sentReceived := false, myPass := none, farPass := none }
  let s1 := s.modCommon p (fun c => (((c.setLstate pp lsDetect).modLink pp reset).count (ob 0x3007 pp) 16 16 1).log 0x1003 .uncorrected pp (packArg [(7, pp), (3, st)]))
  if hallLink p pp then s1.hallFailed (pp - 0x48) else s1

/-! ### Discovery (R24, R39, R134 to R136) -/

inductive Discovery where
  | pass
  | mismatch (expected : Nat)
deriving DecidableEq, Repr

/-- R39: an Octeagan part of the same PERNYX_MAJOR. -/
def Block.levelOk (s : Block) (p : Part) (r : List Byte) : Bool :=
  (recType r == 0x0720 || recType r == 0x0036) && recMajor r == (s.common p).fld (ob 0x1000 2) 8 8

/-- The checks of fibre `n` of a switch for a far record (R136). -/
def Block.fibreOk (s : Block) (n : Nat) (r : List Byte) : Bool :=
  recType r == 0x0720 && recSwRack r == n && recPlane r == s.swPlane && recFibre r == s.swRack

/-- The discovery checks of a link for a far record, in the order of R291. -/
def Block.discover (s : Block) (p : Part) (pp : Nat) (r : List Byte) : Discovery :=
  let check := fun (expected : Nat) (ok : Bool) => if s.levelOk p r && ok then Discovery.pass else .mismatch expected
  match p with
  | .oe36 =>
    let rack := s.oe.rackTaken.getD (recSwRack r)
    check (rack * 16 + pp) (recType r == 0x0720 && recPlane r == pp && recSwRack r == rack)
  | .ox720 =>
    if pp < 72 then check (s.swRack * 128 + pp) (recType r == 0x0036 && recSlot r == pp && (!recHValid r || recEpRack r == s.swRack))
    else if pp = 0x58 then check s.twinId (recType r == 0x0720 && recSwitch r && field (recCoord r) 0 10 == s.twinId && recPort r == 0x58 && recFibre r == 0xFF)
    else
      let n := fibreOf (pp - 0x48) (s.sw.hpos (pp - 0x48))
      check (n * 16 + s.swPlane) (s.fibreOk n r)

/-- A port, or the fibre of a hall port's position, enters or leaves quarantine; crew ports and fibres show it in 0x5203 and 0x5204. -/
def Block.setQuarantined (s : Block) (p : Part) (pp : Nat) (b : Bool) : Block :=
  if hallLink p pp then s.modSw (fun c => c.setBit (ob 0x5204 0) (fibreOf (pp - 0x48) (c.hpos (pp - 0x48))) b)
  else
    let s1 := s.modLink p pp (fun l => { l with quar := b })
    if p == .ox720 && pp < 72 then s1.modSw (fun c => c.setBit (ob 0x5203 (pp / 64)) (pp % 64) b) else s1

/-- Is a port, or the fibre of a hall port's position, quarantined? -/
def Block.isQuarantined (s : Block) (p : Part) (pp : Nat) : Bool :=
  if hallLink p pp then s.sw.bit (ob 0x5204 0) (fibreOf (pp - 0x48) (s.sw.hpos (pp - 0x48))) else ((s.common p).link pp).quar

/-- The port or fibre number of the quarantine events. -/
def Block.quarArg (s : Block) (p : Part) (pp : Nat) : Nat := if hallLink p pp then fibreOf (pp - 0x48) (s.sw.hpos (pp - 0x48)) else pp

/-- The links of a part. -/
def linksOf : Part → List Nat
  | .oe36 => List.range 16
  | .ox720 => List.range 0x59

/-- ID_VALID after a change: 1 when a link has passed, 0 while every link is quarantined (R34). -/
def Block.idAfter (s : Block) (p : Part) (passed : Bool) : Block :=
  if passed then s.modCommon p (fun c => c.setBit (ob 0x1000 5) 15 true)
  else if (linksOf p).all (fun k => s.isQuarantined p k) then s.modCommon p (fun c => c.setBit (ob 0x1000 5) 15 false)
  else s

/-- A link stays in EXCHANGE, carries no packet and is checked again later (R137, R345). -/
def Block.holdBack (s : Block) (p : Part) (pp : Nat) : Block := s.modLink p pp (fun l => { l with waits := true })

/-- The launch of a hall fibre ends here: a survey goes on to its next position. -/
def Block.hallRefused (s : Block) (p : Part) (pp : Nat) : Block := if hallLink p pp then s.hallFailed (pp - 0x48) else s

/-- Discovery failed: PASS = 0, quarantine, the event (R137). A refusal of R39, for DEVICE_TYPE or PERNYX_MAJOR, is treated alike: R39 names neither its event nor its bit (DESIGN CHOICE, log). A switch keeps the record of a fibre for the checks at a catch. -/
def Block.quarantine (s : Block) (p : Part) (pp expected : Nat) (r : List Byte) : Block :=
  let s0 := if hallLink p pp then s.modOx (fun x => { x with fibreRec := SMap.insert x.fibreRec (s.quarArg p pp) r }) else s
  let s1 := (((s0.sendExchAck p pp false).setQuarantined p pp true).holdBack p pp).idAfter p false
  (s1.modCommon p (fun c => c.log 0x1040 .uncorrected pp (packArg [(7, s.quarArg p pp), (13, expected), (13, field (recCoord r) 0 13)]))).hallRefused p pp

/-- The OE36 takes its rack from the first switch that passes (R135). -/
def Block.takeRack (s : Block) (p : Part) (r : List Byte) : Block :=
  match p with
  | .ox720 => s
  | .oe36 =>
    if s.oe.rackTaken.isSome then s
    else (s.modOe (fun o => { o with rackTaken := some (recSwRack r) })).modEp (fun c => c.setFld (ob 0x1000 5) 0 13 (recSwRack r * 128 + s.epSlot))

/-- The token views at the bridge's EXCHANGE (R299). -/
def Block.exchangeToken (s : Block) (r : List Byte) : Block :=
  s.modSw (fun c =>
    if c.token == tkNone then c.setToken (if recToken r == tkNone then tkBow else recToken r) 2
    else if c.token == tkBow && recToken r == tkStern then c.setToken tkStern 2
    else c)

/-! ### Security negotiation (R345, R346) -/

/-- SPDM request codes; each response has bit 7 clear (PRESUMED: SPDM 1.3). -/
def spdmGetDigests : Nat := 0x81
def spdmGetCertificate : Nat := 0x82
def spdmKeyExchange : Nat := 0xE4
def spdmFinish : Nat := 0xE5

/-- Send one SPDM message in KEYX flits of up to 30 bytes. -/
def Block.sendKeyx (s : Block) (p : Part) (pp code : Nat) : Block :=
  let m := [0x13#8, BitVec.ofNat 8 code] ++ Config.spdmBody p code s.free
  let n := (m.length + 29) / 30
  (s.modCommon p (fun c => (List.range n).foldl (fun c i =>
    c.ctrl pp (ctrlFlit ctKeyx (leBytes 1 (i % 128 + 128 * b2n (i + 1 == n)) ++ (m.drop (30 * i)).take 30))) c)).tick

/-- Is this end the requester of the negotiation? -/
def Block.keyRequester (s : Block) (p : Part) (pp : Nat) (r : List Byte) : Bool :=
  match p with
  | .oe36 => false
  | .ox720 => if pp < 72 then true else if pp = 0x58 then s.sw.isBow else decide (s.swRack < recSwRack r)

/-- The keys are agreed: a new session, and PASS. -/
def Block.keysAgreed (s : Block) (p : Part) (pp : Nat) : Block :=
  ((((s.modLink p pp (fun l => { l with session := some ⟨s.free, 0, 0, 0, 0⟩, keyStage := 0 })).tick).sendExchAck p pp true)).tryActive p pp

/-- A port or fibre leaves quarantine, and that is logged (R137). -/
def Block.leaveQuarantine (s : Block) (p : Part) (pp : Nat) : Block :=
  if s.isQuarantined p pp then (s.setQuarantined p pp false).modCommon p (fun c => c.log 0x1041 .info pp (packArg [(7, s.quarArg p pp)])) else s

/-- The discovery checks have passed: rack, token, ID_VALID, then the security negotiation; a refused one stays in EXCHANGE. -/
def Block.discovered (s : Block) (p : Part) (pp : Nat) (r : List Byte) : Block :=
  let s0 := ((s.takeRack p r).idAfter p true).leaveQuarantine p pp
  let s1 := if bridgeLink p pp then s0.exchangeToken r else s0
  let required := (s1.common p).encRequired pp || bitAt (recSec r) 1
  if !required then (s1.sendExchAck p pp true).tryActive p pp
  else if !bitAt (recSec r) 0 then
    let s2 := ((s1.sendExchAck p pp false).holdBack p pp).modCommon p (fun c =>
      if hallLink p pp then c.log 0x2007 .uncorrected pp (packArg [(4, pp - 0x48), (6, s.quarArg p pp), (8, recSec r)])
      else c.log 0x8006 .uncorrected pp (packArg [(7, pp), (8, recSec r)]))
    s2.hallRefused p pp
  else
    let s2 := s1.modCommon p (fun c => c.modLink pp (fun l => { l with keyStage := 1, keyMsg := [], since := c.stroke }))
    if s2.keyRequester p pp r then s2.sendKeyx p pp spdmGetDigests else s2

/-- The far record is here: the checks of R291; after DOCK it need only equal the one of the last full launch (R296). -/
def Block.judge (s : Block) (p : Part) (pp : Nat) (r : List Byte) : Block :=
  let l := (s.common p).link pp
  let s1 := s.modLink p pp (fun l => { l with farRec := some r, judgeDue := false })
  if l.shortExchange then
    (if recSame r (l.fullRec.getD []) then (s1.sendExchAck p pp true).tryActive p pp else s1.toDetect p pp)
  else match s1.discover p pp r with
    | .mismatch e => s1.quarantine p pp e r
    | .pass => s1.discovered p pp r

/-- The record is complete: it is checked at once, or after the catch that is due in this CCLK, with the values that the catch leaves (R137). -/
def Block.recordHere (s : Block) (p : Part) (pp : Nat) (r : List Byte) : Block :=
  if (s.common p).catchDue then s.modLink p pp (fun l => { l with farRec := some r, judgeDue := true }) else s.judge p pp r

/-- A fragment of the far record; the fourth completes it. One that is here already is answered again; a link that waits in EXCHANGE looks at a record that differs afresh (R345). -/
def Block.exchFrag (s : Block) (p : Part) (pp f : Nat) (bytes : List Byte) : Block :=
  let c := s.common p
  let l := c.link pp
  let fr := SMap.insert l.frags (f % 4) (slice bytes 0 30)
  if c.lstate pp != lsExchange then s
  else if fr.length < 4 then s.modLink p pp (fun l => { l with frags := fr })
  else
    let r := ((List.range 4).map (fun i => SMap.get [] fr i)).flatten
    let s1 := s.modLink p pp (fun l => { l with frags := [] })
    match l.farRec with
    | none => s1.recordHere p pp r
    | some r0 =>
      if l.waits && r != r0 then (s1.modLink p pp (fun l => { l with waits := false })).recordHere p pp r
      else match l.myPass with
      | some b => s1.sendExchAck p pp b
      | none => s1

/-- EXCH_ACK of the far end. -/
def Block.exchAcked (s : Block) (p : Part) (pp : Nat) (received pass : Bool) : Block :=
  if (s.common p).lstate pp != lsExchange || !received then s
  else (s.modLink p pp (fun l => { l with farPass := some pass })).tryActive p pp

/-- Does the far end still lack this end's record? -/
def Link.unheard (l : Link) : Bool := l.farPass.isNone

/-- One SPDM message of the negotiation is complete. The messages that carry an ephemeral key wait for the DRBG. The requester fetches the far chain first, then answers the other end's fetch, then sends KEY_EXCHANGE and FINISH. -/
def Block.keyMessage (s : Block) (p : Part) (pp : Nat) (m : List Byte) : Block :=
  let r := ((s.common p).link pp).farRec.getD []
  let req := s.keyRequester p pp r
  let code := leAt m 1 1
  if !Config.spdmAccept p (recSerial r) m then s.launchFail p pp
  else if code == spdmGetDigests then s.sendKeyx p pp 0x01
  else if code == 0x01 then s.sendKeyx p pp spdmGetCertificate
  else if code == spdmGetCertificate then (let s1 := s.sendKeyx p pp 0x02
     if req then s1.modCommon p (fun c => c.wantEntropy 1 pp) else s1.sendKeyx p pp spdmGetDigests)
  else if code == 0x02 then s
  else if code == spdmKeyExchange && !req then s.modCommon p (fun c => c.wantEntropy 1 pp)
  else if code == 0x64 && req then s.sendKeyx p pp spdmFinish
  else if code == spdmFinish && !req then (s.sendKeyx p pp 0x65).keysAgreed p pp
  else if code == 0x65 && req then s.keysAgreed p pp
  else s.launchFail p pp

/-- The DRBG has served a link: the message that carries this end's ephemeral key goes out. -/
def Block.serveLink (s : Block) (p : Part) (pp : Nat) : Block :=
  let l := (s.common p).link pp
  if (s.common p).lstate pp != lsExchange || l.keyStage == 0 then s
  else s.sendKeyx p pp (if s.keyRequester p pp (l.farRec.getD []) then spdmKeyExchange else 0x64)

/-- A fragment of an SPDM message (R346). -/
def Block.keyFrag (s : Block) (p : Part) (pp f : Nat) (last : Bool) (bytes : List Byte) : Block :=
  let l := (s.common p).link pp
  if (s.common p).lstate pp != lsExchange || l.keyStage == 0 then s
  else
    let m := (if f = 0 then [] else l.keyMsg) ++ bytes
    if last then (s.modLink p pp (fun l => { l with keyMsg := [] })).keyMessage p pp m
    else s.modLink p pp (fun l => { l with keyMsg := m })

/-! ### Checking again (R137, R345) -/

/-- A link that waits in EXCHANGE is checked again, with its far record and the values that a catch has left; its own record, which they may have changed, goes out again. -/
def Block.recheck (s : Block) (p : Part) (pp : Nat) : Block :=
  let l := (s.common p).link pp
  match l.farRec with
  | none => s
  | some r =>
    if (s.common p).lstate pp != lsExchange || !l.waits then s
    else
      let s1 := s.sendRecord p pp
      match s1.discover p pp r with
      | .mismatch _ => s1
      | .pass => (s1.modLink p pp (fun l => { l with waits := false })).discovered p pp r

/-- A quarantined fibre that no port waits at is checked again with the record that it showed in its survey. -/
def Block.recheckFibre (s : Block) (n : Nat) : Block :=
  match (s.ox.fibreRec.find? (fun e => e.1 == n)).map (fun e => e.2) with
  | none => s
  | some r =>
    if s.sw.bit (ob 0x5204 0) n && s.levelOk .ox720 r && s.fibreOk n r then
      s.modSw (fun c => (c.setBit (ob 0x5204 0) n false).log 0x1041 .info (0x48 + n / 4) (packArg [(7, n)]))
    else s

def Block.recheckAll (s : Block) (p : Part) : Block :=
  let s1 := (linksOf p).foldl (fun s k => s.recheck p k) s
  if p == .ox720 then (List.range 64).foldl (fun s n => s.recheckFibre n) s1 else s1

/-- After a catch: the records that came in its CCLK are checked. -/
def Block.judgeDue (s : Block) (p : Part) : Block :=
  (linksOf p).foldl (fun s k =>
    let l := (s.common p).link k
    match l.farRec with
    | some r => if l.judgeDue && (s.common p).lstate k == lsExchange then s.judge p k r else s
    | none => s) s

end Sys2Proof.Machine
end

