-- ==== Sys2Proof/Machine/Wire.lean ====
section
/-!
DEFINITION. From flits to the wire: the flit group and its CRC, FEC parity, symbols and lanes, PAM4 levels, the scrambler, stuffing and lane markers (12, R274 to R282; 13, R304).
-/
namespace Sys2Proof.Machine

/-! ### Flit groups (R282) -/

/-- One bit of CRC-32C, reflected. -/
def crcBit (r : BitVec 32) : BitVec 32 := if r.getLsbD 0 then (r >>> 1) ^^^ 0x82F63B78#32 else r >>> 1

/-- One byte of CRC-32C. -/
def crcByte (r : BitVec 32) (b : Byte) : BitVec 32 := (List.range 8).foldl (fun r _ => crcBit r) (r ^^^ b.setWidth 32)

/-- CRC-32C of RFC 3720. -/
def crc32c (l : List Byte) : BitVec 32 := ~~~ (l.foldl crcByte 0xFFFFFFFF#32)

/-- The 260 bytes of a group of eight flits as sent. -/
def groupBytes (flits : List (List Byte)) : List Byte :=
  let d := slice flits.flatten 0 256
  d ++ leBytes 4 (crc32c d).toNat

/-- Does a group's CRC agree? -/
def groupOk (g : List Byte) : Bool := leAt g 256 4 == (crc32c (slice g 0 256)).toNat

/-- The flits of a group. -/
def groupFlits (d : List Byte) (n : Nat) : List (List Byte) := (List.range n).map (fun i => slice d (32 * i) 32)

/-! ### Codewords (R274, R278) -/

/-- Symbol `i` of a byte list read as a bit stream, ten bits to a symbol. -/
def symbolAt (l : List Byte) (i : Nat) : BitVec 10 := BitVec.ofNat 10 (leAt l (10 * i / 8) 3 / 2 ^ (10 * i % 8))

/-- Times x in GF(2^10), whose polynomial is x^10 + x^3 + 1. -/
def gfX (a : BitVec 10) : BitVec 10 := if a.getLsbD 9 then (a <<< 1) ^^^ 9#10 else a <<< 1

def gfMul (a b : BitVec 10) : BitVec 10 := (List.range 10).foldl (fun acc i => (gfX acc) ^^^ (if b.getLsbD (9 - i) then a else 0)) 0

/-- α^i. -/
def gfAlpha (i : Nat) : BitVec 10 := (List.range i).foldl (fun a _ => gfX a) 1

/-- A polynomial, highest coefficient first, times (x − α^i). -/
def polyRoot (g : List (BitVec 10)) (i : Nat) : List (BitVec 10) :=
  List.zipWith (fun a b => a ^^^ b) (g ++ [0]) (0 :: g.map (fun c => gfMul c (gfAlpha i)))

/-- The generator: its 33 coefficients, highest first. -/
def rsGenerator : List (BitVec 10) := (List.range 32).foldl polyRoot [1]

/-- The 32 parity symbols of 544 data symbols; symbol 0 is the highest coefficient (PRESUMED). -/
def rsParity (g data : List (BitVec 10)) : List (BitVec 10) :=
  data.foldl (fun r d =>
    let f := d ^^^ r.headD 0
    List.zipWith (fun a c => a ^^^ gfMul f c) (r.drop 1 ++ [0]) (g.drop 1)) (List.replicate 32 0)

/-- The 576 symbols of a codeword with 680 data bytes. -/
def codeword (bytes : List Byte) : List (BitVec 10) :=
  let d := (List.range 544).map (symbolAt bytes)
  d ++ rsParity rsGenerator d

/-- The symbols that logical lane `l` of `w` carries, in their order (R275). -/
def laneSymbols (w l : Nat) (cw : List (BitVec 10)) : List (BitVec 10) := ((List.range (cw.length / w)).map (fun i => cw.getD (w * i + l) 0))

/-! ### Scrambler, PAM4 levels, stuffing (R275 to R277) -/

/-- The scrambler register at the first bit after a marker. -/
def scramSeed (phys : Nat) : BitVec 31 := 0x2B5F1E00#31 ||| BitVec.ofNat 31 phys

/-- The scrambled bits of a physical lane, and the register after them. -/
def scramble : BitVec 31 → List Bool → List Bool × BitVec 31
  | r, [] => ([], r)
  | r, d :: t =>
    let b := (r.getLsbD 30) ^^ (r.getLsbD 27)
    let rest := scramble ((r <<< 1) ||| BitVec.ofNat 31 (b2n b)) t
    ((d ^^ b) :: rest.1, rest.2)

/-- The bits of symbols, bit 0 first. -/
def symbolBits (l : List (BitVec 10)) : List Bool := (l.map (fun s => (List.range 10).map (fun i => s.getLsbD i))).flatten

/-- The Gray-coded level of a UI from its bits 2j and 2j + 1. -/
def pamLevel (lo hi : Bool) : Nat :=
  match hi, lo with
  | false, false => 0
  | false, true => 1
  | true, true => 2
  | true, false => 3

/-- The levels of a bit stream, two bits to a UI. -/
def pamLevels : List Bool → List Nat
  | lo :: hi :: t => pamLevel lo hi :: pamLevels t
  | _ => []

/-- Insert the pair (3 − L, L) after 64 UI of equal level L; `last` and `run` describe the UI sent before. -/
def stuff (last run : Nat) : List Nat → List Nat
  | [] => []
  | x :: t =>
    let n := if x = last then run + 1 else 1
    if n = 64 then x :: (3 - x) :: x :: stuff x 1 t else x :: stuff x n t

/-- Remove the two UI after 64 equal ones. -/
def unstuff (last run skip : Nat) : List Nat → List Nat
  | [] => []
  | x :: t =>
    match skip with
    | 0 =>
      let n := if x = last then run + 1 else 1
      x :: unstuff x n (if n = 64 then 2 else 0) t
    | k + 1 => unstuff x 1 k t

/-! ### Lane markers (R280) -/

/-- The 128 bits of marker content. -/
def markerContent (phys logical link mcount groupOffset : Nat) (wake : Bool) : BitVec 128 :=
  BitVec.ofNat 128 (packArg [(5, phys), (5, logical), (7, link), (16, mcount), (9, groupOffset), (1, b2n wake)])

/-- A marker of 320 bits. -/
def marker (content : BitVec 128) : BitVec 320 := ((~~~ content) ++ content) ++ 0xC3A55A3C0FF096E1#64

def markerSync (m : BitVec 320) : Bool := bitsOf m 0 64 == 0xC3A55A3C0FF096E1
/-- Do the two copies agree? -/
def markerAgrees (m : BitVec 320) : Bool := m.extractLsb' 64 128 == ~~~ (m.extractLsb' 192 128)
def mkPhys (m : BitVec 320) : Nat := bitsOf m 64 5
def mkLogical (m : BitVec 320) : Nat := bitsOf m 69 5
def mkLink (m : BitVec 320) : Nat := bitsOf m 74 7
def mkCount (m : BitVec 320) : Nat := bitsOf m 81 16
def mkWake (m : BitVec 320) : Bool := bitsOf m 106 1 == 1

end Sys2Proof.Machine
end

