-- ==== Sys2Proof/Machine/Link.lean ====
section
/-!
DEFINITION. The commands of the link layer, launch first (12; 15, R346 to R348). A command that finds its link in another state changes nothing.
-/
namespace Sys2Proof.Machine

/-- Set bits of a mask of `n` lanes. -/
def popcount (n x : Nat) : Nat := ((List.range n).filter (bitAt x)).length

/-- Is a part's link layer at work: firmware runs, and no reset is held? -/
def Block.linkUp (s : Block) (p : Part) : Bool := (s.common p).up

/-- Does an injection of `point` land on this link (R361)? -/
def Common.lands (c : Common) (point pp : Nat) : Bool := c.injects point && c.fld (ob 0x9010 1) 0 8 == pp

/-- Is a hall port steering? Its relock is no launch (R313). -/
def Common.steering (c : Common) (pp : Nat) : Bool := hallLink c.kind pp && c.hstate (pp - 0x48) == psSteering

/-! ### Launch (R287) -/

/-- PRESENCE_PULSE: a link in DETECT sends presence pulses, one every 100 µs. -/
def execPresencePulse (part : Part) (pp : BitVec 7) (s : State) : Host.Outcome State Fault Refusal :=
  s.act fun s =>
    let c := s.common part
    let due := match (c.link pp.toNat).pulseAt with
      | some t => decide (100 * cclkUs ≤ c.since t)
      | none => true
    (if s.linkUp part && c.lstate pp.toNat == lsDetect && c.linkEnabled pp.toNat && due then
      s.modCommon part (fun c => (c.modLink pp.toNat (fun l => { l with pulseAt := some c.stroke })).emit (.linkSignal pp.toNat "PRESENCE" 0)) else s)

/-- Does a reset hold a link: a plane reset all of them, a block reset of the link its own (R417, R418)? -/
def Common.linkHeld (c : Common) (pp : Nat) : Bool :=
  match c.resetRunning with
  | none => false
  | some r => decide (r.kind ≤ 1) || (r.kind == 3 && ((r.unitKind == 0 && r.unit == pp) || (r.unitKind == 1 && 0x48 + r.unit == pp)))

/-- May a link leave DETECT: enabled and not held in reset; at an endpoint whose COORD_T strap is below 9 (R430); at a crew port of a slot that is present (R134); at a hall port in a survey or a full launch? -/
def Block.mayLaunch (s : Block) (p : Part) (pp : Nat) : Bool :=
  let c := s.common p
  c.linkEnabled pp && !c.linkHeld pp &&
    (match p with
     | .oe36 => decide (c.straps / 8 < 9)
     | .ox720 =>
       if pp < 72 then c.bit (ob 0x5201 (pp / 64)) (pp % 64)
       else if pp = 0x58 then true
       else c.hstate (pp - 0x48) == psSurvey || (c.hstate (pp - 0x48) == psNoLink && (s.ox.hport (pp - 0x48)).full))

/-- FAR_END_PRESENT: the far end is present on at least W lanes. -/
def execFarEndPresent (part : Part) (pp : BitVec 7) (lanes : BitVec 20) (s : State) : Host.Outcome State Fault Refusal :=
  s.act fun s =>
    let k := pp.toNat
    (if s.linkUp part && (s.common part).lstate k == lsDetect && s.mayLaunch part k && decide (laneCount part k ≤ popcount (physLanes part k) lanes.toNat) then
      s.modCommon part (fun c => c.setLstate k lsTrain) else s)

/-- The lane map of the usable lanes: ascending, what is left over stands by. -/
def Common.setLanes (c : Common) (pp lanes : Nat) : Common :=
  let usable := (List.range (physLanes c.kind pp)).filter (bitAt lanes)
  let w := laneCount c.kind pp
  let c1 := (c.setFld (ob 0x3001 pp) 5 20 lanes).setReg (ob 0x3002 pp) (BitVec.ofNat 128 (packArg ((usable.take w).map (fun l => (5, l)))))
  c1.modLink pp (fun l => { l with standby := usable.drop w, outLanes := (List.range (physLanes c.kind pp)).filter (fun i => !bitAt lanes i),
                                   txMap := usable.take w, symErrors := [] })

/-- TRAIN_COMPLETE: at least W lanes are usable. A full launch of a hall port takes its wavelengths back into service (R310). -/
def execTrainComplete (part : Part) (pp : BitVec 7) (lanes : BitVec 20) (s : State) : Host.Outcome State Fault Refusal :=
  s.act fun s =>
    let k := pp.toNat
    (if s.linkUp part && (s.common part).lstate k == lsTrain && decide (laneCount part k ≤ popcount (physLanes part k) lanes.toNat) then
      s.modCommon part (fun c =>
        let c1 := (c.setLanes k lanes.toNat).setLstate k lsLock
        if hallLink part k then c1.setFld (ob 0x4012 (k - 0x48)) 36 18 0 else c1)
      else s)

/-- Lane-to-lane skew that a link absorbs, in ns (R273, R303). -/
def skewLimit (p : Part) (pp : Nat) : Nat := if laneCount p pp = 4 then 40 else 80

/-- LOCK_COMPLETE: 4,096 codewords have decoded cleanly; a skew beyond the limit fails LOCK (R281). -/
def execLockComplete (part : Part) (pp : BitVec 7) (skewNs : BitVec 16) (s : State) : Host.Outcome State Fault Refusal :=
  s.act fun s =>
    let k := pp.toNat
    (if !s.linkUp part || (s.common part).lstate k != lsLock || (s.common part).steering k then s
      else if skewLimit part k < skewNs.toNat then s.launchFail part k
      else s.enterExchange part k)

/-- The time limit of a launch state, in CCLK; none where the state has none. -/
def Common.launchLimit (c : Common) (pp : Nat) : Option Nat :=
  let l := c.link pp
  let st := c.lstate pp
  if st = lsTrain then some (10 * cclkMs)
  else if st = lsLock then some (500 * cclkUs)
  else if st = lsExchange then
    (if l.keyStage ≠ 0 then some (5 * cclkMs) else if l.waits || (l.farRec.isSome && !l.unheard) then none else some (100 * cclkUs))
  else none

/-- LAUNCH_TIMEOUT: a launch state has lasted its time. -/
def execLaunchTimeout (part : Part) (pp : BitVec 7) (s : State) : Host.Outcome State Fault Refusal :=
  s.act fun s =>
    let k := pp.toNat
    let c := s.common part
    (match c.launchLimit k with
      | some n => if s.linkUp part && !c.steering k && decide (n ≤ c.since (c.link k).since) then s.launchFail part k else s
      | none => s)

def execExch (part : Part) (pp : BitVec 7) (frag : BitVec 2) (bytes : List Byte) (s : State) : Host.Outcome State Fault Refusal :=
  s.act fun s =>
    (if s.linkUp part then s.exchFrag part pp.toNat frag.toNat bytes else s)

def execExchAck (part : Part) (pp : BitVec 7) (received pass : Bool) (s : State) : Host.Outcome State Fault Refusal :=
  s.act fun s =>
    (if s.linkUp part then s.exchAcked part pp.toNat received pass else s)

/-- EXCH_RESEND: 1 µs after the record went out the far end has not acknowledged it. -/
def execExchResend (part : Part) (pp : BitVec 7) (s : State) : Host.Outcome State Fault Refusal :=
  s.act fun s =>
    let c := s.common part
    (if s.linkUp part && c.lstate pp.toNat == lsExchange && (c.link pp.toNat).unheard && decide (cclkUs ≤ c.since (c.link pp.toNat).recAt) then s.sendRecord part pp.toNat else s)

def execKeyx (part : Part) (pp : BitVec 7) (frag : BitVec 7) (last : Bool) (bytes : List Byte) (s : State) : Host.Outcome State Fault Refusal :=
  s.act fun s =>
    (if s.linkUp part then s.keyFrag part pp.toNat frag.toNat last bytes else s)

/-! ### Acknowledgement and replay (R284, R285) -/

/-- ACK with the count of packet flits delivered. -/
def Common.sendAck (c : Common) (pp : Nat) : Common :=
  (c.ctrl pp (wordFlit ctAck [(c.link pp).dlvCount])).modLink pp (fun l => { l with ackOwed := false, lastAck := l.dlvCount })

/-- Flits between two counts. -/
def countDiff (a b : Nat) : Nat := (a + 2 ^ 16 - b % 2 ^ 16) % 2 ^ 16

/-- What the release of a RESULT or MIRROR packet means to its sender. -/
def Block.packetAcked (s : Block) (e : Nat × Nat × Nat) : Block :=
  if 8192 ≤ e.2.1 then s.mirrorAcked (e.2.1 - 8192) e.2.2 else s.modSL e.2.1 (fun l => { l with unacked := l.unacked.erase e.2.2 })

/-- ACK: the replay buffer is released up to ACK_COUNT. A count outside it is ignored. -/
def Block.acked (s : Block) (p : Part) (pp count : Nat) : Block :=
  let c := s.common p
  let l := c.link pp
  let n := countDiff count l.relCount
  if c.lstate pp != lsActive || decide (l.replayBuf.length < n) then s
  else
    let passed := fun (e : Nat × Nat × Nat) => decide (countDiff e.1 l.relCount ≤ n)
    let s1 := s.modLink p pp (fun l => { l with relCount := count % 2 ^ 16, replayBuf := l.replayBuf.drop n, ends := l.ends.filter (fun e => !passed e),
                                                   idleSince := if n = 0 then l.idleSince else c.stroke })
    if p == .ox720 then (l.ends.filter passed).foldl (fun s e => s.packetAcked e) s1 else s1

def execAckFlit (part : Part) (pp : BitVec 7) (count : BitVec 16) (s : State) : Host.Outcome State Fault Refusal :=
  s.act fun s =>
    (if s.linkUp part then s.acked part pp.toNat count.toNat else s)

/-- REPLAY is logged at most once per 1 ms for each port, with the replays since the last event (R302). -/
def Common.logReplay (c : Common) (pp : Nat) : Common :=
  match c.rates.find? (fun r => r.code == 0x1006 && r.unit == pp) with
  | some r =>
    if c.since r.last < cclkMs then { c with rates := replaceFirst (fun x => x == r) (fun x => { x with suppressed := x.suppressed + 1 }) c.rates }
    else ({ c with rates := replaceFirst (fun x => x == r) (fun x => { x with last := c.stroke, suppressed := 0 }) c.rates } : Common).log
      0x1006 .corrected pp (packArg [(7, pp), (32, r.suppressed + 1)])
  | none => ({ c with rates := c.rates ++ [Rate.mk 0x1006 pp c.stroke 0] } : Common).log 0x1006 .corrected pp (packArg [(7, pp), (32, 1)])

/-- A replay on a crew port or the bridge while a launch is under way is a disturbance, and an input that Griward records (R333, R335). -/
def Block.disturbed (s : Block) (p : Part) (pp : Nat) : Block :=
  if p == .oe36 || hallLink p pp || !s.ox.launches.any (fun l => !l.ended) then s
  else (s.modSw (fun c => c.count (ob 0xC010 1) 0 64 1)).gwRetryAt pp 1

/-- NAK: REPLAY with FIRST = NEXT, and every flit from there again. A NAK for the count being replayed in this CCLK, or for flits not in the buffer, is ignored. While an FCI pin holds the reads of a switch's replay buffer, it waits (R165). -/
def Block.naked (s : Block) (p : Part) (pp next : Nat) : Block :=
  let c := s.common p
  let l := c.link pp
  let n := countDiff next l.relCount
  if c.lstate pp != lsActive || l.replaying == some (next % 2 ^ 16, c.stroke) || decide (l.replayBuf.length < n) then s
  else if p == .ox720 && s.fciHolds pp then s.modLink p pp (fun l => { l with nakHeld := some next })
  else
    let fl := l.replayBuf.drop n
    let s1 := s.modCommon p (fun c =>
      let c1 := (c.ctrl pp (wordFlit ctReplay [next])).modLink pp (fun l => { l with
        replaying := some (next % 2 ^ 16, c.stroke), session := l.session.map (fun x => x.sent (groupsOf true (fl.length + 1))) })
      (((c1.emit (.flits pp fl)).count (ob 0x3006 pp) 32 32 1).logReplay pp))
    s1.disturbed p pp

def execNak (part : Part) (pp : BitVec 7) (next : BitVec 16) (s : State) : Host.Outcome State Fault Refusal :=
  s.act fun s =>
    (if s.linkUp part then s.naked part pp.toNat next.toNat else s)

/-- REPLAY: the receiver resumes when FIRST is the count it waits for. -/
def Block.replayed (s : Block) (p : Part) (pp first : Nat) : Block :=
  s.modLink p pp (fun l => if l.waitReplay == some (first % 2 ^ 16) then { l with waitReplay := none, partial_ := [] } else l)

def execReplay (part : Part) (pp : BitVec 7) (first : BitVec 16) (s : State) : Host.Outcome State Fault Refusal :=
  s.act fun s =>
    (if s.linkUp part && (s.common part).lstate pp.toNat == lsActive then s.replayed part pp.toNat first.toNat else s)

/-- CREDIT: the far end's cumulative counts (R286). -/
def Block.credited (s : Block) (p : Part) (pp : Nat) (counts : List Nat) : Block :=
  if (s.common p).lstate pp != lsActive then s else s.modLink p pp (fun l => { l with freed := (List.range 5).map (fun n => counts.getD n 0 % 2 ^ 16) })

def execCredit (part : Part) (pp : BitVec 7) (counts : List (BitVec 16)) (s : State) : Host.Outcome State Fault Refusal :=
  s.act fun s =>
    (if s.linkUp part then s.credited part pp.toNat (counts.map (fun c => c.toNat)) else s)

/-- ACK_TIMER: a delivery is owed its ACK. -/
def execAckTimer (part : Part) (pp : BitVec 7) (s : State) : Host.Outcome State Fault Refusal :=
  s.act fun s =>
    let c := s.common part
    (if s.linkUp part && c.lstate pp.toNat == lsActive && (c.link pp.toNat).ackOwed then s.modCommon part (fun c => c.sendAck pp.toNat) else s)

/-- CREDIT_TIMER: freed credits are unreported. -/
def execCreditTimer (part : Part) (pp : BitVec 7) (s : State) : Host.Outcome State Fault Refusal :=
  s.act fun s =>
    let c := s.common part
    (if s.linkUp part && c.lstate pp.toNat == lsActive && decide (0 < (c.link pp.toNat).unreported) then s.modCommon part (fun c => c.sendCredit pp.toNat) else s)

/-! ### Spare lanes (R292 to R294, R310) -/

/-- Receive lane map: the physical lane of logical lane `i`. -/
def Common.laneOf (c : Common) (pp i : Nat) : Nat := c.fld (ob 0x3002 pp) (5 * i) 5
/-- The logical lane that a physical lane carries. -/
def Common.logicalOf (c : Common) (pp lane : Nat) : Option Nat := (List.range (laneCount c.kind pp)).find? (fun i => c.laneOf pp i == lane)

/-- Standby spares that no pending swap has taken, the lowest first. -/
def Link.spares (l : Link) : List Nat := l.standby.filter (fun x => !(l.swapRx.any (fun e => e.2.1 == x)))

/-- A wavelength out of service shows in WL_OUT. -/
def Common.wlOut (c : Common) (pp lane : Nat) : Common := if hallLink c.kind pp then c.setBit (ob 0x4012 (pp - 0x48)) (36 + lane) true else c

/-- A carried lane is swapped for the lowest standby spare; without one the link goes down if the lane was lost (R293, R294). -/
def Block.beginSwap (s : Block) (p : Part) (pp g : Nat) (lost : Bool) : Block :=
  match ((s.common p).link pp).spares with
  | sp :: _ =>
    s.modCommon p (fun c => (c.modLink pp (fun l => { l with swapRx := l.swapRx ++ [(g, sp, none)], nakRun := 0 })).ctrl pp
      (ctrlFlit ctSwap [BitVec.ofNat 8 g, BitVec.ofNat 8 sp]))
  | [] =>
    let s1 := s.modCommon p (fun c => c.log 0x1005 .uncorrected pp (packArg [(7, pp), (5, g)]))
    if lost then s1.leaveActive p pp 0 else s1

/-- The end of a CCLK: the lanes that asked for the last spare are served in ascending logical lane (R300). -/
def Block.swapsAsked (s : Block) (p : Part) (pp : Nat) : Block :=
  let asks := ((s.common p).link pp).swapAsk
  let s1 := s.modLink p pp (fun l => { l with swapAsk := [] })
  ((List.range (laneCount p pp)).filterMap (fun g => asks.find? (fun a => a.1 == g))).foldl (fun s a =>
    if (s.common p).lstate pp == lsActive then s.beginSwap p pp a.1 a.2.2 else s) s1

/-- A lane must be swapped: it was lost, or it exceeded its error limit. A lost spare stands by no longer; during a steer the swap waits until the port is ACTIVE (R317). While one spare is left the request waits for the end of the CCLK, where another lane may go before it. -/
def Block.swapLane (s : Block) (p : Part) (pp lane : Nat) (lost : Bool) : Block :=
  let c := s.common p
  let l := c.link pp
  let out := fun (l : Link) => { l with standby := l.standby.filter (fun x => x != lane), outLanes := insertNat l.outLanes lane }
  if c.lstate pp != lsActive then
    (if lost && hallLink p pp then s.modLink p pp out else s)
  else match c.logicalOf pp lane with
    | none => if lost then s.modCommon p (fun c => (c.modLink pp out).wlOut pp lane) else s
    | some g =>
      if l.swapRx.any (fun e => e.1 == g) || l.swapAsk.any (fun e => e.1 == g && (e.2.2 || !lost)) then s
      else if l.spares.length = 1 then s.modLink p pp (fun l => { l with swapAsk := l.swapAsk.filter (fun e => e.1 != g) ++ [(g, lane, lost)] })
      else s.beginSwap p pp g lost

/-- LANE_LOSS_OF_LOCK of a physical lane. -/
def execLaneLossOfLock (part : Part) (pp : BitVec 7) (lane : BitVec 5) (inj : Bool) (s : State) : Host.Outcome State Fault Refusal :=
  s.act fun s =>
    let k := pp.toNat
    (if !s.linkUp part then s
      else if !(s.common part).detects 0x01 16 (k + 256 * lane.toNat) inj then s.modCommon part (fun c => c.undetected 0x01 16 (k + 256 * lane.toNat) inj)
      else (s.when inj (fun s => s.modCommon part (fun c => c.injected 0x01))).swapLane part k lane.toNat true)

/-- LANE_ERROR_LIMIT: the corrected symbols of a lane in the last 1 ms; past the limit a swap is asked for. -/
def execLaneErrorLimit (part : Part) (pp : BitVec 7) (lane : BitVec 5) (symbols : BitVec 32) (inj : Bool) (s : State) : Host.Outcome State Fault Refusal :=
  s.act fun s =>
    let k := pp.toNat
    (if !s.linkUp part then s
      else if !(s.common part).detects 0x02 16 (k + 256 * lane.toNat) inj then s.modCommon part (fun c => c.undetected 0x02 16 (k + 256 * lane.toNat) inj)
      else
        let s1 := (s.when inj (fun s => s.modCommon part (fun c => c.injected 0x02))).modLink part k (fun l => { l with symErrors := SMap.set 0 l.symErrors lane.toNat symbols.toNat })
        if (s.common part).laneErrLimit k < symbols.toNat then s1.swapLane part k lane.toNat false else s1)

/-- SPARE_SWAP at the transmitter: it names a codeword at least 1 µs later, which the spec does not fix; both numbers are free. -/
def Block.swapAsked (s : Block) (p : Part) (pp logical phys : Nat) : Block :=
  if (s.common p).lstate pp != lsActive || decide (laneCount p pp ≤ logical) || decide (physLanes p pp ≤ phys) then s
  else
    let cw := (Config.freeWord s.free).toNat % 16384
    let m := (Config.freeWord (s.free + 1)).toNat % 65536
    let s1 := s.modCommon p (fun c => (c.modLink pp (fun l => { l with swapTx := l.swapTx ++ [(logical, phys, cw, m)] })).ctrl pp
      (ctrlFlit ctSwapAck ([BitVec.ofNat 8 logical, BitVec.ofNat 8 phys] ++ leBytes 2 cw ++ leBytes 2 m)))
    s1.tick.tick

def execSpareSwap (part : Part) (pp : BitVec 7) (logical phys : BitVec 5) (s : State) : Host.Outcome State Fault Refusal :=
  s.act fun s =>
    (if s.linkUp part then s.swapAsked part pp.toNat logical.toNat phys.toNat else s)

/-- SPARE_SWAP_ACK: the receiver learns the codeword. -/
def Block.swapAnswered (s : Block) (p : Part) (pp logical phys cw mcount : Nat) : Block :=
  s.modLink p pp (fun l => { l with swapRx := replaceFirst (fun e => e.1 == logical && e.2.1 == phys) (fun e => (e.1, e.2.1, some (cw, mcount))) l.swapRx })

def execSpareSwapAck (part : Part) (pp : BitVec 7) (logical phys : BitVec 5) (cw mcount : BitVec 16) (s : State) : Host.Outcome State Fault Refusal :=
  s.act fun s =>
    (if s.linkUp part then s.swapAnswered part pp.toNat logical.toNat phys.toNat cw.toNat mcount.toNat else s)

/-- A swap is counted and logged: direction 0 at the transmitter, 1 at the receiver. -/
def Common.logSwap (c : Common) (pp dir logical phys : Nat) : Common :=
  (c.count (ob 0x3007 pp) 32 16 1).log 0x1004 .corrected pp (packArg [(7, pp), (1, dir), (5, logical), (5, phys)])

/-- SPARE_SWAP_CODEWORD: the named codeword is here. The receiver takes the lane from the spare and owes one NAK after its next passing group; the keepalive's microsecond starts again there (DEDUCED, log). -/
def execSpareSwapCodeword (part : Part) (pp : BitVec 7) (receiver : Bool) (s : State) : Host.Outcome State Fault Refusal :=
  s.act fun s =>
    let k := pp.toNat
    let l := (s.common part).link k
    (if !s.linkUp part || (s.common part).lstate k != lsActive then s
      else if receiver then
        (match l.swapRx.find? (fun e => e.2.2.isSome) with
         | none => s
         | some e =>
           s.modCommon part (fun c =>
             let old := c.laneOf k e.1
             let c1 := (c.setFld (ob 0x3002 k) (5 * e.1) 5 e.2.1).modLink k (fun l => { l with
               swapRx := eraseFirst (fun x => x == e) l.swapRx, standby := l.standby.filter (fun x => x != e.2.1), outLanes := insertNat l.outLanes old,
               swapNak := true, nakRun := 0, lastRx := c.stroke })
             (c1.wlOut k old).logSwap k 1 e.1 e.2.1))
      else
        (match l.swapTx with
         | [] => s
         | e :: r => s.modCommon part (fun c => (c.modLink k (fun l => { l with swapTx := r, txMap := l.txMap.set e.1 e.2.1 })).logSwap k 0 e.1 e.2.1)))

/-! ### Markers, silence (R280, R281, R288) -/

/-- LANE_MARKER: a marker whose copies disagree is ignored; one off its place on an ACTIVE link is a loss of lock for its lane; WAKE ends FEATHER of the receive direction; during LOCK the LOGICAL_LANE of a marker confirms the lane map. -/
def execLaneMarker (part : Part) (pp : BitVec 7) (lane : BitVec 5) (marker : BitVec 320) (onTime : Bool) (s : State) : Host.Outcome State Fault Refusal :=
  s.act fun s =>
    let k := pp.toNat
    let c := s.common part
    (if !s.linkUp part || !markerSync marker || !markerAgrees marker then s
      else if c.lstate k == lsActive && !onTime then s.swapLane part k lane.toNat true
      else if c.lstate k == lsActive || c.lstate k == lsLock then
        s.modCommon part (fun c =>
          let c1 := if mkWake marker then c.setBit (ob 0x3001 k) 4 false else c.modLink k (fun l => { l with mcount := mkCount marker })
          let c2 := if mkWake marker then c1.modLink k (fun l => { l with lastRx := c.stroke }) else c1
          if c.lstate k == lsLock && decide (mkLogical marker < laneCount part k) then c2.setFld (ob 0x3002 k) (5 * mkLogical marker) 5 lane.toNat else c2)
      else s)

/-- KEEPALIVE: no passing group for 1 µs, outside FEATHER and outside a pending swap; injected silence acts alike (points 0x04, 0x91), and silence of the switch (0x90) stops every link of it as a reset does. -/
def execKeepalive (part : Part) (pp : BitVec 7) (inj : Bool) (s : State) : Host.Outcome State Fault Refusal :=
  s.act fun s =>
    let k := pp.toNat
    let c := s.common part
    let l := c.link k
    let point := if bridgeLink part k && c.fld (ob 0x9010 0) 0 8 == 0x91 then 0x91 else 0x04
    let here := inj && (point == 0x91 || c.fld (ob 0x9010 1) 0 8 == k)
    (if !s.linkUp part then s
      else if inj && part == .ox720 && c.injects 0x90 then
        (List.range 89).foldl (fun s k => s.leaveActive part k 5) (s.modCommon part (fun c => c.injected 0x90))
      else if c.lstate k != lsActive then s.modCommon part (fun c => if part == .ox720 then c.passed 0x90 inj else c)
      else if here && c.injects point then (s.modCommon part (fun c => c.injected point)).leaveActive part k 1
      else if !inj && !c.bit (ob 0x3001 k) 4 && l.swapRx.isEmpty && decide (cclkUs ≤ c.since l.lastRx) then s.leaveActive part k 1
      else s.modCommon part (fun c => (c.passed point here).passed 0x90 (inj && part == .ox720)))

/-- LINK_DOWN: the far end has left ACTIVE. -/
def Block.farDown (s : Block) (p : Part) (pp cause : Nat) : Block := (s.modLink p pp (fun l => { l with farCause := cause % 8 })).leaveActive p pp 3

def execLinkDown (part : Part) (pp : BitVec 7) (cause : BitVec 3) (s : State) : Host.Outcome State Fault Refusal :=
  s.act fun s =>
    (if s.linkUp part then s.farDown part pp.toNat cause.toNat else s)

/-! ### FEATHER (R295) -/

/-- FEATHER_ENTRY: a transmit direction that has been idle for FEATHER_IDLE sends FEATHER. Hall ports do not offer it (R304). -/
def execFeatherEntry (part : Part) (pp : BitVec 7) (s : State) : Host.Outcome State Fault Refusal :=
  s.act fun s =>
    let k := pp.toNat
    let c := s.common part
    let l := c.link k
    (if s.linkUp part && c.lstate k == lsActive && !hallLink part k && c.bit (ob 0x3000 k) 1 && !c.bit (ob 0x3001 k) 3
        && !c.txq.any (fun x => x.1 == k) && l.replayBuf.isEmpty && !l.ackOwed && l.unreported == 0
        && decide (c.fld (ob 0x3004 k) 0 16 * 7 ≤ c.since l.idleSince * 4) then
      s.modCommon part (fun c => (c.emit (.ctrl k (ctrlFlit ctFeather []))).setBit (ob 0x3001 k) 3 true)
      else s)

/-- FEATHER: the receiver keeps lock, which stands in for the keepalive. -/
def Block.feathered (s : Block) (p : Part) (pp : Nat) : Block :=
  if (s.common p).lstate pp == lsActive && !hallLink p pp then s.modCommon p (fun c => c.setBit (ob 0x3001 pp) 4 true) else s

def execFeather (part : Part) (pp : BitVec 7) (s : State) : Host.Outcome State Fault Refusal :=
  s.act fun s =>
    (if s.linkUp part then s.feathered part pp.toNat else s)

/-- FEATHER_EXIT: demand to send. -/
def execFeatherExit (part : Part) (pp : BitVec 7) (s : State) : Host.Outcome State Fault Refusal :=
  s.act fun s =>
    (if s.linkUp part && (s.common part).lstate pp.toNat == lsActive then s.modCommon part (fun c => (c.wake pp.toNat).modLink pp.toNat (fun l => { l with idleSince := c.stroke })) else s)

/-! ### DOCK and ergo modes (R296, R297, R300) -/

/-- Is `pp` the last ACTIVE crew link of the OE36? -/
def Block.lastLink (s : Block) (p : Part) (pp : Nat) : Bool :=
  p == .oe36 && s.ep.lstate pp == lsActive && (List.range 16).all (fun k => k == pp || s.ep.lstate k != lsActive)

/-- The link enters DOCK; a pending swap is abandoned. -/
def Block.enterDock (s : Block) (p : Part) (pp : Nat) : Block :=
  let s1 := s.modLink p pp (fun l => { l with docking := true, swapRx := [], swapTx := [], swapNak := false })
  (s1.leaveActive p pp 4).modCommon p (fun c => c.setLstate pp lsDock)

/-- The catch that sets DOCK: a link that is ACTIVE offers it to the far end. -/
def Block.dockStart (s : Block) (p : Part) (pp : Nat) : Block :=
  if s.lastLink p pp then s.modCommon p (fun c => c.log 0x1009 .info pp (packArg [(7, pp)]))
  else if (s.common p).lstate pp != lsActive then s
  else s.modCommon p (fun c => (c.modLink pp (fun l => { l with docking := true, since := c.stroke, swapRx := [], swapTx := [], swapNak := false })).ctrl pp (ctrlFlit ctDock [0]))

/-- The catch that clears DOCK: the link resumes through LOCK and a short EXCHANGE. -/
def Block.dockEnd (s : Block) (p : Part) (pp : Nat) : Block :=
  s.modCommon p (fun c =>
    if c.lstate pp == lsDock then (c.setLstate pp lsLock).modLink pp (fun l => { l with shortExchange := true })
    else c.modLink pp (fun l => { l with docking := false }))

/-- Objects 0x3000 exist for crew links, crew ports and the bridge. -/
def hasCtl (p : Part) (pp : Nat) : Bool := !hallLink p pp

def execDock (part : Part) (pp : BitVec 7) (s : State) : Host.Outcome State Fault Refusal :=
  s.act fun s =>
    (if s.linkUp part && hasCtl part pp.toNat then (s.modCommon part (fun c => c.setBit (ob 0x3000 pp.toNat) 2 true)).dockStart part pp.toNat else s)

/-- DOCK flit: a request is acknowledged and followed; an acknowledgement ends the exchange. -/
def Block.dockFlit (s : Block) (p : Part) (pp : Nat) (ack : Bool) : Block :=
  let c := s.common p
  if c.lstate pp != lsActive || !hasCtl p pp then s
  else if ack then (if (c.link pp).docking then s.enterDock p pp else s)
  else if s.lastLink p pp then s.modCommon p (fun c => c.log 0x1009 .info pp (packArg [(7, pp)]))
  else (s.modCommon p (fun c => c.ctrl pp (ctrlFlit ctDock [1]))).enterDock p pp

def execDockFlit (part : Part) (pp : BitVec 7) (ackn : Bool) (s : State) : Host.Outcome State Fault Refusal :=
  s.act fun s =>
    (if s.linkUp part then s.dockFlit part pp.toNat ackn else s)

/-- DOCK_TIMEOUT: 2 µs have passed since DOCK was set. -/
def execDockTimeout (part : Part) (pp : BitVec 7) (s : State) : Host.Outcome State Fault Refusal :=
  s.act fun s =>
    let c := s.common part
    let l := c.link pp.toNat
    (if s.linkUp part && c.lstate pp.toNat == lsActive && l.docking && decide (2 * cclkUs ≤ c.since l.since) then s.enterDock part pp.toNat else s)

def execDockClear (part : Part) (pp : BitVec 7) (s : State) : Host.Outcome State Fault Refusal :=
  s.act fun s =>
    (if s.linkUp part && hasCtl part pp.toNat then (s.modCommon part (fun c => c.setBit (ob 0x3000 pp.toNat) 2 false)).dockEnd part pp.toNat else s)

/-- An ergo test ends: what the checker counted, ERGO_DONE, a launch from DETECT. -/
def Block.ergoEnd (s : Block) (p : Part) (pp mode bits errors : Nat) : Block :=
  (s.modCommon p (fun c => ((c.count (ob 0x3009 pp) 0 64 bits).count (ob 0x300A pp) 0 64 errors).log 0x1007 .info pp (packArg [(7, pp), (2, mode), (64, errors)]))).toDetect p pp

/-- An ergo mode begins: the link leaves ACTIVE, every lane sends PRBS31. -/
def Block.ergoStart (s : Block) (p : Part) (pp : Nat) : Block :=
  let s1 := (s.modLink p pp (fun l => { l with docking := false, swapRx := [], swapTx := [], swapNak := false })).leaveActive p pp 4
  (s1.toDetect p pp).modCommon p (fun c => c.setLstate pp lsErgo)

/-- ERGO: the catch that writes the field; 0 ends a test. -/
def execErgo (part : Part) (pp : BitVec 7) (mode : BitVec 2) (s : State) : Host.Outcome State Fault Refusal :=
  s.act fun s =>
    let k := pp.toNat
    let old := (s.common part).fld (ob 0x3000 k) 3 2
    (if !s.linkUp part || !hasCtl part k then s
      else
        let s1 := s.modCommon part (fun c => c.setFld (ob 0x3000 k) 3 2 mode.toNat)
        if mode.toNat ≠ 0 then s1.ergoStart part k else if (s.common part).lstate k == lsErgo then s1.ergoEnd part k old 0 0 else s1)

/-- ERGO_DONE: the catch that writes ERGO to 0, with the bits and errors that the checker has counted. -/
def execErgoDone (part : Part) (pp : BitVec 7) (bits errors : BitVec 64) (s : State) : Host.Outcome State Fault Refusal :=
  s.act fun s =>
    let k := pp.toNat
    let old := (s.common part).fld (ob 0x3000 k) 3 2
    (if s.linkUp part && (s.common part).lstate k == lsErgo then (s.modCommon part (fun c => c.setFld (ob 0x3000 k) 3 2 0)).ergoEnd part k old bits.toNat errors.toNat else s)

/-- A relaunch (R300: not of a link whose DOCK is set): it leaves ACTIVE and launches from DETECT, with any W usable lanes. -/
def Block.relaunch (s : Block) (p : Part) (pp : Nat) : Block :=
  if (s.common p).bit (ob 0x3000 pp) 2 || (s.common p).lstate pp == lsErgo then s
  else ((s.modLink p pp (fun l => { l with swapRx := [], swapTx := [], swapNak := false })).leaveActive p pp 4).toDetect p pp

def execRelaunch (part : Part) (pp : BitVec 7) (s : State) : Host.Outcome State Fault Refusal :=
  s.act fun s =>
    (if s.linkUp part && hasCtl part pp.toNat then s.relaunch part pp.toNat else s)

/-! ### The bridge token (R299) -/

/-- YIELD: the stern takes STERN. -/
def Block.tokenYield (s : Block) : Block := if s.sw.isBow then s else s.modSw (fun c => c.setToken tkStern 0)
/-- GIVE: the bow takes BOW. -/
def Block.tokenGive (s : Block) : Block := if s.sw.isBow then s.modSw (fun c => c.setToken tkBow 3) else s

def execTokenYield (s : State) : Host.Outcome State Fault Refusal :=
  s.act fun s => (if s.linkUp .ox720 then s.tokenYield else s)
def execTokenGive (s : State) : Host.Outcome State Fault Refusal :=
  s.act fun s => (if s.linkUp .ox720 then s.tokenGive else s)

/-- The catch that sets PEER_FAILED at a stern. -/
def Block.peerFailed (s : Block) : Block := if s.sw.isBow then s else s.modSw (fun c => (c.setBit (ob 0x3010 0) 2 true).setToken tkStern 1)

/-- The catch that sets TOKEN_RETURN at a stern while the bridge is ACTIVE. -/
def Block.tokenReturn (s : Block) : Block :=
  if s.sw.isBow || s.sw.lstate 0x58 != lsActive then s
  else s.modSw (fun c => ((c.ctrl 0x58 (ctrlFlit ctToken [2])).setBit (ob 0x3010 0) 2 false).setToken tkBow 3)

def execPeerFailed (s : State) : Host.Outcome State Fault Refusal :=
  s.act fun s => (if s.linkUp .ox720 then s.peerFailed else s)
def execTokenReturn (s : State) : Host.Outcome State Fault Refusal :=
  s.act fun s => (if s.linkUp .ox720 then s.tokenReturn else s)

/-! ### Groups received (R282 to R285, R347, R348) -/

/-- A control flit acts as its command. -/
def Block.ctrlIn (s : Block) (p : Part) (pp : Nat) (f : List Byte) : Block :=
  let t := leAt f 0 1 / 8
  let w := fun i => leAt f i 2
  if t = ctAck then s.acked p pp (w 2)
  else if t = ctNak then s.naked p pp (w 2)
  else if t = ctReplay then s.replayed p pp (w 2)
  else if t = ctCredit then s.credited p pp ((List.range 5).map (fun n => w (2 + 2 * n)))
  else if t = ctExch then s.exchFrag p pp (leAt f 1 1 % 4) (slice f 2 30)
  else if t = ctExchAck then s.exchAcked p pp (bitAt (leAt f 1 1) 0) (bitAt (leAt f 1 1) 1)
  else if t = ctSwap then s.swapAsked p pp (leAt f 1 1 % 32) (leAt f 2 1 % 32)
  else if t = ctSwapAck then s.swapAnswered p pp (leAt f 1 1 % 32) (leAt f 2 1 % 32) (w 3) (w 5)
  else if t = ctFeather then s.feathered p pp
  else if t = ctDock then s.dockFlit p pp (leAt f 1 1 == 1)
  else if t = ctToken then (if p == .ox720 && pp == 0x58 then (if leAt f 1 1 = 1 then s.tokenYield else if leAt f 1 1 = 2 then s.tokenGive else s) else s)
  else if t = ctLinkDown then s.farDown p pp (leAt f 1 1)
  else if t = ctKeyx then s.keyFrag p pp (leAt f 1 1 % 128) (bitAt (leAt f 1 1) 7) (slice f 2 30)
  else s

/-- Every flit of a packet has arrived: it is delivered; after 64 flits ACK goes out (R284). -/
def Common.deliver (c : Common) (pp : Nat) (fl : List (List Byte)) : Common :=
  let pk := flitsPacket fl
  let c1 := ({ c with rx := c.rx ++ [(pp, pk)] } : Common).modLink pp (fun l => { l with
    dlvCount := (l.dlvCount + fl.length) % 2 ^ 16, partial_ := [], ackOwed := true, nakRun := 0,
    taken := if pNet pk < 5 then bump l.taken (pNet pk) fl.length else l.taken })
  if 64 ≤ countDiff (c1.link pp).dlvCount (c1.link pp).lastAck then c1.sendAck pp else c1

/-- SKIND of a START packet (R326). -/
def stKind (p : Packet) : Nat := bitsOf p.w1 0 3

/-- An OE36 relays a packet of one crew link to its other ACTIVE crew links, unchanged (R132, the start line, R397). -/
def Common.relay (c : Common) (from_ : Nat) (p : Packet) : Common :=
  ((List.range 16).filter (fun k => k != from_ && c.lstate k == lsActive)).foldl (fun c k => c.queueTx k p) c

/-- A packet is delivered. At an endpoint, one that fails its checks goes no further, and a START packet that is no ANNOUNCE is of no use but to relay it. -/
def Block.deliverPacket (s : Block) (p : Part) (pp : Nat) (fl : List (List Byte)) : Block :=
  let s1 := s.modCommon p (fun c => c.deliver pp fl)
  let k := flitsPacket fl
  if p == .oe36 && classBad k (linkNets .oe36 pp) then s1.modEp (fun c => c.refuseHere pp k)
  else if p == .oe36 && pOpc k == 0x38 && stKind k != 1 then s1.modEp (fun c => (c.takeRx pp k).relay pp k) else s1

/-- One flit of a passing group. -/
def Block.flitIn (s : Block) (p : Part) (pp : Nat) (f : List Byte) : Block :=
  let l := (s.common p).link pp
  let b := leAt f 0 1
  if l.partial_.isEmpty && b % 8 == 7 then s.ctrlIn p pp f
  else if (s.common p).lstate pp != lsActive then s
  else
    let fl := l.partial_ ++ [f]
    if fl.length = (if bitAt (leAt (fl.headD []) 0 1) 3 then 9 else 1) then s.deliverPacket p pp fl
    else s.modLink p pp (fun l => { l with partial_ := fl })

/-- NAK with the count expected next; REPLAY_LIMIT of them for one count take the link down (R285, R288), which the one after a swap never does (R293). -/
def Block.nakOut (s : Block) (p : Part) (pp : Nat) : Block :=
  let next := ((s.common p).link pp).dlvCount
  s.modCommon p (fun c => (c.ctrl pp (wordFlit ctNak [next])).modLink pp (fun l => { l with waitReplay := some next, partial_ := [], nakRun := l.nakRun + 1 }))

def Block.sendNak (s : Block) (p : Part) (pp : Nat) : Block :=
  let s1 := s.nakOut p pp
  if (s1.common p).replayLimit pp ≤ ((s1.common p).link pp).nakRun then s1.leaveActive p pp 2 else s1

/-- A group fails: NAK, unless one is out already or a swap is under way. -/
def Block.groupFailed (s : Block) (p : Part) (pp : Nat) : Block :=
  let l := (s.common p).link pp
  if (s.common p).lstate pp != lsActive || l.waitReplay.isSome || !l.swapRx.isEmpty || l.swapNak then s else s.sendNak p pp

/-- Is a flit REPLAY with FIRST = `n`? -/
def isReplay (n : Nat) (f : List Byte) : Bool := leAt f 0 1 == 7 + 8 * ctReplay && leAt f 2 2 == n

/-- A group passes. While REPLAY is awaited it is discarded up to the REPLAY it holds; the first one after a swap is answered with NAK. -/
def Block.groupPassed (s : Block) (p : Part) (pp : Nat) (fl : List (List Byte)) : Block :=
  let s0 := s.modCommon p (fun c => c.modLink pp (fun l => { l with lastRx := c.stroke }))
  let l := (s0.common p).link pp
  if l.swapNak then (s0.modLink p pp (fun l => { l with swapNak := false })).nakOut p pp
  else
    let fl' := match l.waitReplay with
      | some n => fl.dropWhile (fun f => !isReplay n f)
      | none => fl
    fl'.foldl (fun s f => s.flitIn p pp f) s0

/-- The nonce of a group: the IV XOR the group sequence, in the low 64 bits (PRESUMED). -/
def groupNonce (iv : List Byte) (seq : Nat) : List Byte := leBytes 12 (Nat.xor (leNat (slice iv 0 12)) (seq % 2 ^ 64))

/-- Open the flits of an encrypted group: seven flits and the tag of slot 7. -/
def Session.open_ (x : Session) (g : List Byte) : Option (List Byte) :=
  Config.gcmOpen (Config.linkKey x.id false x.rxUpdates) (groupNonce (Config.linkIv x.id false) x.rxSeq) [] (slice g 0 224) (slice g 224 16)

/-- Corrected symbols of one lane, counted in windows of 1 ms. -/
def Link.countSymbol (now : Nat) (l : Link) (lane : Nat) : Link :=
  if (now + 2 ^ 48 - l.symSince) % 2 ^ 48 < cclkMs then { l with symErrors := SMap.modify 0 l.symErrors lane (fun n => n + 1) }
  else { l with symErrors := [(lane, 1)], symSince := now }

/-- The verdicts of the codewords decoded with a group (R279): none for an uncorrectable one, else the physical lanes of its corrected symbols. -/
def Common.fecCount (c : Common) (pp : Nat) (cws : List (Option (List (BitVec 5)))) : Common :=
  let lanes := (cws.filterMap (fun w => w)).flatten
  let c1 := (c.count (ob 0x3005 pp) 0 64 (cws.filter (fun w => (w.getD []).length ≠ 0)).length).count (ob 0x3006 pp) 0 32 (cws.filter (fun w => w.isNone)).length
  c1.modLink pp (fun l => lanes.foldl (fun l i => l.countSymbol c.stroke i.toNat) l)

/-- FLIT_GROUP: the FEC's verdict, then CRC and tag, then the flits. `codewords`: those decoded with this group; `uncorrectable`: the group overlaps an uncorrectable one that was decoded before. Before the link is ACTIVE groups carry control flits in clear. -/
def execFlitGroup (part : Part) (pp : BitVec 7) (bytes : List Byte) (codewords : List (Option (List (BitVec 5)))) (uncorrectable inj : Bool) (s : State) : Host.Outcome State Fault Refusal :=
  s.act fun s =>
    let k := pp.toNat
    let c := s.common part
    let sess := if c.lstate k == lsActive then (c.link k).session else none
    let tagHit := inj && sess.isSome && c.lands 0x05 k
    let crcHit := inj && !tagHit && c.lands 0x03 k
    (if !s.linkUp part || (c.lstate k != lsActive && c.lstate k != lsExchange) then s
      else
        let count := fun (c : Common) =>
          let c1 := (c.fecCount k codewords).modLink k (fun l => { l with session := l.session.map (fun x => if sess.isSome then x.received 1 else x) })
          let here := inj && c.fld (ob 0x9010 1) 0 8 == k
          if tagHit then c1.injected 0x05 else if crcHit then c1.injected 0x03 else (c1.passed 0x05 (here && sess.isSome)).passed 0x03 here
        let s1 := s.modCommon part count
        if uncorrectable || codewords.contains none || crcHit || !groupOk bytes then s1.groupFailed part k
        else match sess with
          | none => s1.groupPassed part k (groupFlits bytes 8)
          | some x =>
            match (if tagHit then none else x.open_ bytes) with
            | some d => s1.groupPassed part k (groupFlits d 7)
            | none =>
              (s1.modCommon part (fun c => (c.count (ob 0x8021 k) 0 32 1).logLimited 0x8005 .corrected k k (packArg [(7, k)]))).groupFailed part k)

/-! ### Flow-control pins (R165) -/

/-- Replays that an FCI pin held back go out once no pin holds them. -/
def Block.nakRelease (s : Block) : Block :=
  (linksOf .ox720).foldl (fun s k =>
    match (s.sw.link k).nakHeld with
    | some n => if s.fciHolds k then s else (s.modLink .ox720 k (fun l => { l with nakHeld := none })).naked .ox720 k n
    | none => s) s

/-- FCI_CHANGE: the level of an FCI pin; the instances bound to it return EMPTY while it is high. -/
def execFciChange (k : BitVec 3) (high : Bool) (s : State) : Host.Outcome State Fault Refusal :=
  s.act fun s =>
    let s1 := s.modSw (fun c => ({ c with fci := if bitAt c.fci k.toNat then (if high then c.fci else c.fci - 2 ^ k.toNat) else (if high then c.fci + 2 ^ k.toNat else c.fci) } : Common).pumpLog)
    s1.nakRelease

end Sys2Proof.Machine
end

