-- ==== Sys2Proof/Machine/Optical.lean ====
section
/-!
DEFINITION. The optical hall ports: the comb module, rings and their locking, spare wavelengths, port states, steering (13).
-/
namespace Sys2Proof.Machine

/-! ### The comb module (R306, R307) -/

def Common.combHost (c : Common) : Bool := c.bit (ob 0x4000 0) 0

/-- The light has changed: a switch that it leaves dark stops its enabled hall ports. A port that was steering goes on at the new position (R317). -/
def Block.lightChanged (s : Block) (wasDark : Bool) : Block :=
  if !s.sw.isDark || wasDark then s
  else
    let s1 := s.modSw (fun c => c.log 0x2001 .uncorrected 0xFF (packArg [(5, linesIn c.linesOk), (1, b2n (c.bit (ob 0x4000 0) 1))]))
    (List.range 16).foldl (fun s k =>
      if s.sw.hstate k == psDisabled then s
      else
        let pos := match (s.ox.hport k).steer with
          | some st => st.pos
          | none => s.sw.hpos k
        let s2 := (s.hallStop k psDark 0).modSw (fun c => c.setHpos k pos)
        if (s.ox.hport k).ctlPending then s2.portCtl k else s2) s1

/-- LINE_POWER_MEASURE: the power of every line, in 0.01 dBm; an injected low line (point 0x11) is read below the threshold. -/
def execLinePowerMeasure (powers : List (BitVec 16)) (inj : Bool) (s : State) : Host.Outcome State Fault Refusal :=
  s.act fun s =>
    let min_ := toSigned 16 (s.sw.fld (ob 0x4000 1) 16 16)
    let hit := fun (i : Nat) => inj && s.sw.injects 0x11 && s.sw.fld (ob 0x9010 1) 0 8 == i
    let ok := fun (i : Nat) => decide (min_ ≤ toSigned 16 (powers.getD i 0).toNat) && !hit i
    (if !s.sw.up then s
      else if inj && !s.sw.injects 0x11 then s.modSw (fun c => c.passed 0x11 true)
      else
        let dark := s.sw.isDark
        let s0 := s.when inj (fun s => s.modSw (fun c => c.injected 0x11))
        let s1 := (List.range 18).foldl (fun s i =>
          s.modSw (fun c =>
            let p := (powers.getD i 0).toNat
            let c1 := c.setFld (ob 0x4001 i) 0 16 p
            if !ok i && c.bit (ob 0x4000 0) (3 + i) then
              (List.range 16).foldl (fun c k => c.setBit (ob 0x4012 k) (36 + i) true) ((c1.setBit (ob 0x4000 0) (3 + i) false).log 0x2002 .corrected 0xFF (packArg [(5, i), (16, p)]))
            else c1.setBit (ob 0x4000 0) (3 + i) (ok i))) s0
        s1.lightChanged dark)

/-- COMB_PRESENCE_CHANGE: the level of COMB_PRS_N. The host reads identity and advertised lines of a module that has come; one that lacks a line stays in low-power mode. -/
def execCombPresenceChange (present : Bool) (advertised : BitVec 18) (s : State) : Host.Outcome State Fault Refusal :=
  s.act fun s =>
    (if !s.sw.up then s
      else
        let dark := s.sw.isDark
        let s1 := (s.modSw (fun c => c.setFld (ob 0x4000 0) 1 2 (b2n present))).modOx (fun x => { x with combSuitable := false })
        let s2 := if !present || !s.sw.combHost then s1
          else if advertised.toNat = 2 ^ 18 - 1 then
            (s1.modOx (fun x => { x with combSuitable := true })).modSw (fun c => if c.bit (ob 0x4000 1) 0 then c.emit (.pin "CMIS_MODULE_READY" 1) else c)
          else s1.modSw (fun c => (c.emit (.pin "CMIS_LOW_POWER" 1)).log 0x2003 .uncorrected 0xFF (packArg [(18, advertised.toNat)]))
        s2.lightChanged dark)

/-- COMB_INT: COMB_INT_N has fallen; the host reads the alarm flags. -/
def execCombInt (flags : BitVec 64) (s : State) : Host.Outcome State Fault Refusal :=
  s.act fun s =>
    (if s.sw.up && s.sw.combHost && s.sw.bit (ob 0x4000 0) 1 then s.modOx (fun x => { x with combFlags := flags.toNat }) else s)

/-- COMB_POLL: the host reads flags and module state at least every 100 ms. -/
def execCombPoll (flags : BitVec 64) (ready : Bool) (s : State) : Host.Outcome State Fault Refusal :=
  s.act fun s =>
    (if s.sw.up && s.sw.combHost && s.sw.bit (ob 0x4000 0) 1 then
      (s.modOx (fun x => { x with combFlags := flags.toNat })).modSw (fun c => c.setBit (ob 0x4000 0) 2 (ready && s.ox.combSuitable && c.bit (ob 0x4000 1) 0))
      else s)

/-- The catch that writes COMB_RESET at the host: COMB_RST_N is low for 10 µs, which CCLKs count down. -/
def Block.combReset (s : Block) : Block :=
  if !s.sw.combHost then s
  else (s.modSw (fun c => (c.emit (.pin "COMB_RST_N" 0)).setBit (ob 0x4000 0) 2 false)).modOx (fun x => { x with combRst := 10 * cclkUs })

def execCombReset (s : State) : Host.Outcome State Fault Refusal :=
  s.act fun s => (if s.sw.up then s.combReset else s)

/-! ### Rings (R308, R310) -/

/-- RING_ACQUISITION_DONE: the rings that acquisition has placed. A DARK port whose light is back, every usable line's rings locked, surveys, or relocks where it has a valid profile; a FIXED one then goes to its position (R316). -/
def execRingAcquisitionDone (kk : BitVec 4) (tx rx : BitVec 18) (s : State) : Host.Outcome State Fault Refusal :=
  s.act fun s =>
    let k := kk.toNat
    let all := fun (m : Nat) => (List.range 18).all (fun i => !bitAt s.sw.linesOk i || bitAt m i)
    (if !s.sw.up then s
      else
        let s1 := (s.modSw (fun c => (c.setFld (ob 0x4012 k) 0 18 tx.toNat).setFld (ob 0x4012 k) 18 18 rx.toNat)).modHport k (fun h => { h with badRead := [] })
        if s.sw.hstate k != psDark || s.sw.isDark || !all tx.toNat || !all rx.toNat then s1
        else if (List.range 4).any (fun p => s.sw.profileValid k p) then (s1.toNoLink k).portCtl k
        else s1.surveyStart k)

/-- TRACK_INT and REPORT_INT in ns (R309). -/
def intNs (code : Nat) : Nat := [10, 100, 1000, 10000, 100000].getD code 0

/-- Have `n` CCLK passed since a port's last reading of a kind, or is it the first? -/
def Common.dueAfter (c : Common) (at_ : Option Nat) (n : Nat) : Bool :=
  match at_ with
  | some t => decide (n ≤ c.since t)
  | none => true

/-- RING_TRACK: once every max(8 µs, 8 × TRACK_INT) the heaters move towards zero error, measured over TRACK_INT; no object shows them. -/
def execRingTrack (kk : BitVec 4) (s : State) : Host.Outcome State Fault Refusal :=
  s.act fun s =>
    let k := kk.toNat
    let period := max (8 * cclkUs) (8 * intNs (s.sw.fld (ob 0x4002 0) 0 3) * 7 / 4)
    (if s.sw.up && s.sw.hstate k != psDisabled && s.sw.dueAfter (s.ox.hport k).trackAt period then
      (s.modHport k (fun h => { h with trackAt := some s.sw.stroke })).modSw (fun c => c.emit (.linkSignal (0x48 + k) "RING_TRACK" (c.fld (ob 0x4002 0) 0 3))) else s)

/-- A ring has lost lock: its bit, the count, the event; acquisition follows. A drop ring's wavelength is swapped where it is carried. Direction 0 is transmit, 1 receive. -/
def Block.ringLost (s : Block) (k dir ring : Nat) : Block :=
  let pp := 0x48 + k
  let s1 := s.modSw (fun c =>
    (((c.setBit (ob 0x4012 k) (18 * dir + ring) false).count (ob 0x4013 k) 32 16 1).logLimited 0x2004 .corrected pp k (packArg [(4, k), (1, dir), (5, ring)])).emit
      (.linkSignal pp "ACQUIRE" (18 * dir + ring)))
  if dir = 1 then s1.swapLane .ox720 pp ring true else s1.modSw (fun c => c.wlOut pp ring)

/-- RING_WATCHDOG: once every 1 µs, the rings whose reading is bad; a second bad reading in a row is a loss of lock. An injected unlock (point 0x10) counts as two. -/
def execRingWatchdog (kk : BitVec 4) (txBad rxBad : BitVec 18) (inj : Bool) (s : State) : Host.Outcome State Fault Refusal :=
  s.act fun s =>
    let k := kk.toNat
    let hit := inj && s.sw.lands 0x10 (0x48 + k)
    let arg := fun lo w => s.sw.fld (ob 0x9010 1) lo w
    (if !s.sw.up || (!inj && !s.sw.dueAfter (s.ox.hport k).watchAt cclkUs) then s
      else if inj && !hit then s.modSw (fun c => c.undetected 0x10 8 (0x48 + k) true)
      else
        let bad := ((List.range 18).filter (bitAt txBad.toNat)).map (fun i => (true, i)) ++ ((List.range 18).filter (bitAt rxBad.toNat)).map (fun i => (false, i))
        let two := bad.filter (fun b => (s.ox.hport k).badRead.contains b)
        let s0 := s.when hit (fun s => (s.modSw (fun c => c.injected 0x10)).ringLost k (arg 8 1) (arg 9 8))
        let s1 := s0.modHport k (fun h => { h with badRead := bad, watchAt := some s.sw.stroke })
        (two.filter (fun b => s.sw.bit (ob 0x4012 k) (18 * b2n (!b.1) + b.2))).foldl (fun s b => s.ringLost k (b2n (!b.1)) b.2) s1)

/-- The catch that writes WL_RESTORE: wavelengths of the ports named whose lines are usable are in service again; one that carries no lane stands by. -/
def Block.wlRestore (s : Block) (ports : Nat) : Block :=
  ((List.range 16).filter (bitAt ports)).foldl (fun s k =>
    let back := (List.range 18).filter (fun i => s.sw.bit (ob 0x4012 k) (36 + i) && s.sw.bit (ob 0x4000 0) (3 + i))
    back.foldl (fun s i =>
      let idle := (s.sw.logicalOf (0x48 + k) i).isNone
      s.modSw (fun c => (c.setBit (ob 0x4012 k) (36 + i) false).modLink (0x48 + k) (fun l => { l with
        outLanes := l.outLanes.filter (fun x => x != i), standby := if idle && l.outLanes.contains i then insertNat l.standby i else l.standby }))) s) s

def execWlRestore (ports : BitVec 16) (s : State) : Host.Outcome State Fault Refusal :=
  s.act fun s => (if s.sw.up then s.wlRestore ports.toNat else s)

/-! ### Relaunch and encryption (R311, R312, R320) -/

/-- The catch that writes RELAUNCH: the port's profiles are invalid, an enabled port with light surveys. -/
def Block.hallRelaunch (s : Block) (k : Nat) : Block :=
  let s1 := (List.range 4).foldl (fun s p => s.dropProfile k p) s
  if s.sw.hstate k == psDisabled || s.sw.hstate k == psDark then s1 else (s1.hallStop k psSurvey 4).surveyStart k

def execHallRelaunch (kk : BitVec 4) (s : State) : Host.Outcome State Fault Refusal :=
  s.act fun s => (if s.sw.up then s.hallRelaunch kk.toNat else s)

/-- HALL_ENC_TENANTS has become non-zero: every profile is invalid, every enabled port surveys. -/
def Block.hallEncOn (s : Block) : Block := (List.range 16).foldl (fun s k => s.hallRelaunch k) s

/-! ### Steering (R313 to R317) -/

/-- ROTA_STEER: at each change of e a port in ROTA mode steers to (e − h) mod 4. -/
def execRotaSteer (kk : BitVec 4) (s : State) : Host.Outcome State Fault Refusal :=
  s.act fun s =>
    let k := kk.toNat
    (if !s.sw.up || s.sw.fld (ob 0x4010 k) 1 2 != 0 || (s.ox.hport k).rotaE == some s.rotaE then s
      else
        let s1 := s.modHport k (fun h => { h with rotaE := some s.rotaE })
        if s.namedPos k = s.sw.hpos k && (s.ox.hport k).steer.isNone then s1 else s1.orderSteer k ⟨s.namedPos k, false, s.sw.stroke⟩)

/-- STEER_DRAIN_DONE: nothing is left to send or to be acknowledged. Where the link was lost meanwhile, what its egress lists hold is lost with it. -/
def execSteerDrainDone (kk : BitVec 4) (s : State) : Host.Outcome State Fault Refusal :=
  s.act fun s =>
    let k := kk.toNat
    let pp := 0x48 + k
    let h := s.ox.hport k
    let up := s.sw.lstate pp == lsActive
    (if !s.sw.up || h.steer.isNone || h.phase != 1 then s
      else if up && (!(s.sw.link pp).replayBuf.isEmpty || !(s.ox.egressAll k).isEmpty || s.sw.txq.any (fun x => x.1 == pp)) then s
      else
        let s1 := s.keepSession k
        let s2 := s1.modOx (fun x => { (x.egressAll k).foldl (fun x c => x.unref c) x with egress := x.egress.filter (fun e => e.1 / 256 != k) })
        (s2.modSw (fun c => c.setLstate pp lsLock)).modHport k (fun h => { h with phase := 2 }))

/-- The port rests at the new position without a link; a further steer may follow (R315). -/
def Block.steerFails (s : Block) (k : Nat) (st : Steer) : Block :=
  let ns := s.sw.since st.at_ * 4 / 7
  ((((s.leaveActive .ox720 (0x48 + k) 4).modSw (fun c => ((c.setHpos k st.pos).setLstate (0x48 + k) lsDetect).steerSlow k st ns)).toNoLink k)).nextSteer k

/-- SELECTOR_MOVED: both selectors stand at the new position, whose profile sets the lane map and the session, and four markers with WAKE go out on every wavelength; without a valid profile the steer fails. -/
def execSelectorMoved (kk : BitVec 4) (s : State) : Host.Outcome State Fault Refusal :=
  s.act fun s =>
    let k := kk.toNat
    let h := s.ox.hport k
    (match h.steer with
      | none => s
      | some st =>
        if !s.sw.up || h.phase != 2 then s
        else if !s.sw.profileValid k st.pos then s.steerFails k st
        else
          let s1 := (s.modSw (fun c => (c.setHpos k st.pos).emit (.linkSignal (0x48 + k) "WAKE_MARKERS" 4))).useProfile k
          s1.modHport k (fun h => { h with phase := 3 }))

/-- A fast relock at the port's position: the records are exchanged once. It passes when the far record is the profile's in every field except CREDITS; wavelengths out of service are then swapped (R317). -/
def Block.relock (s : Block) (k : Nat) (far : List Byte) : Block :=
  let pp := 0x48 + k
  let p := SMap.get {} (s.ox.hport k).profiles (s.sw.hpos k)
  let mine := s.capRecord .ox720 pp (s.sw.freeCredits' pp)
  let pass := recSame far p.farRec
  let s1 := s.modSw (fun c =>
    let c1 := (List.range 4).foldl (fun c f => c.ctrl pp (ctrlFlit ctExch (leBytes 1 f ++ slice mine (30 * f) 30))) c
    (c1.ctrl pp (ctrlFlit ctExchAck [BitVec.ofNat 8 (1 + 2 * b2n pass)])).modLink pp (fun l => { l.creditStart true with farRec := some far, session := p.session }))
  if !pass then s1
  else
    let s2 := s1.enterActive .ox720 pp false
    ((List.range 16).map (fun i => s2.sw.laneOf pp i)).foldl (fun s lane => if (s.sw.link pp).outLanes.contains lane then s.swapLane .ox720 pp lane true else s) s2

/-- STEER_RELOCK_DONE: clock, rings and markers are locked, the far record is here and the far end has passed this one's, in a steer or in NO_LINK at a position with a valid profile (R312). -/
def execSteerRelockDone (kk : BitVec 4) (far : List Byte) (s : State) : Host.Outcome State Fault Refusal :=
  s.act fun s =>
    let k := kk.toNat
    let h := s.ox.hport k
    (if !s.sw.up || !s.sw.profileValid k (s.sw.hpos k) then s
      else if s.sw.hstate k == psSteering && h.phase == 3 then s.relock k far
      else if s.sw.hstate k == psNoLink && !h.full && h.steer.isNone then (s.modHport k (fun h => { h with fast := true })).relock k far
      else s)

/-- STEER_RELOCK_TIMEOUT: no fast relock within 100 µs of the order. -/
def execSteerRelockTimeout (kk : BitVec 4) (s : State) : Host.Outcome State Fault Refusal :=
  s.act fun s =>
    let k := kk.toNat
    (match (s.ox.hport k).steer with
      | some st => if s.sw.up && decide (100 * cclkUs ≤ s.sw.since st.at_) then s.steerFails k st else s
      | none => s)

/-- NO_LINK_FULL_LAUNCH: the light has been present for 1 ms without a relock. -/
def execNoLinkFullLaunch (kk : BitVec 4) (s : State) : Host.Outcome State Fault Refusal :=
  s.act fun s =>
    let k := kk.toNat
    let h := s.ox.hport k
    (if s.sw.up && s.sw.hstate k == psNoLink && !h.full && h.steer.isNone && decide (cclkMs ≤ s.sw.since h.noLinkSince) then
      (s.modSw (fun c => c.setLstate (0x48 + k) lsDetect)).modHport k (fun h => { h with full := true, fast := false })
      else s)

end Sys2Proof.Machine
end

