-- ==== Sys2Proof/Machine/Recovery.lean ====
section
/-!
DEFINITION. SRAM, configuration and boathouse errors, and the loss of the twin: standing in, fencing, the end of a stand-in (16, R361 to R365, R370 to R375; 17, R389).
-/
namespace Sys2Proof.Machine

/-! ### SRAM (R363) -/

/-- Does an injected fault of a point that names a unit and a word land there? -/
def Common.strikesWord (c : Common) (point unit word : Nat) (inj : Bool) : Bool := c.detects point 40 (unit + 256 * word) inj

/-- SRAM_CORRECTED: counted and logged. -/
def execSramCorrected (part : Part) (unit : BitVec 8) (word : BitVec 32) (inj : Bool) (s : State) : Host.Outcome State Fault Refusal :=
  s.act fun s =>
    let c := s.common part
    (if c.inReset then s
      else if !c.strikesWord 0x20 unit.toNat word.toNat inj then s.modCommon part (fun c => c.undetected 0x20 40 (unit.toNat + 256 * word.toNat) inj)
      else s.modCommon part (fun c =>
        let c1 := if inj then c.injected 0x20 else c
        (c1.count (ob 0x9021 2) 0 64 1).logLimited 0x9001 .corrected 0xFF 0 (packArg [(8, unit.toNat), (32, word.toNat)])))

/-- A packet whose header is lost goes: from every list that holds its cell; its credits return, the cell is free. -/
def Block.dropCell (s : Block) (k : Nat) : Block :=
  match s.ox.cell k with
  | none => s
  | some c =>
    let vs := s.ox.voqs.filter (fun v => v.2.cells.any (fun e => e.1 == k))
    let es := s.ox.egress.filter (fun e => e.2.contains k)
    let fs := s.ox.flight.filter (fun f => f.cell == k)
    let s0 := fs.foldl (fun s f => s.modOx (fun x => { x.unref k with flight := x.flight.erase f })) s
    let s1 := vs.foldl (fun s v => s.unlink (v.1 / 1024) (v.1 / 8 % 128) (v.1 % 8) k) s0
    let s2 := es.foldl (fun s e => s.modOx (fun x => { x.unref k with egress := SMap.set [] x.egress e.1 (e.2.filter (fun y => y != k)) })) s1
    if vs.isEmpty && fs.isEmpty then s2 else s2.inputCredits c.input c.pkt

/-- The response of the structure that an uncorrectable error strikes. A block whose result is not written yet is recomputed once it is. -/
def Block.struck (s : Block) (p : Part) (at_ : Struck) : Block :=
  match at_, p with
  | .cellPayload k, .ox720 => s.modOx (fun x =>
      match x.cell k.toNat with
      | none => x
      | some c => { x with cells := SMap.set none x.cells k.toNat (some { c with pkt := setPoison c.pkt true, copies := c.copies.map (fun y => (y.1, setPoison y.2 true)) }) })
  | .cellHeader k, .ox720 => s.dropCell k.toNat
  | .tileMemory g b, .ox720 =>
    (match s.ox.results.find? (fun r => r.g == g.toNat && r.block == b.toNat && !r.released) with
     | some r =>
       if s.ox.recomps.any (fun x => x.g == g.toNat && x.ctx == r.ctx && x.block == b.toNat) then s
       else s.recompute g.toNat r.ctx b.toNat (6 * g.toNat) (s.sw.physical (6 * g.toNat)) 0
     | none => match (s.ox.group g.toNat).bound with
       | some key => s.modGroup g.toNat (fun q => { q with badMem := q.badMem ++ [(key, b.toNat)] })
       | none => s)
  | .replayWord pp, _ => s.leaveActive p pp.toNat 5
  | .tlbEntry ctx gr, .oe36 => s.tlbDrop (fun e => e.covers ctx.toNat (gr.toNat * 2 ^ 29))
  | .dirEntry line, .oe36 => (s.setDir line.toNat 0 0).snoopAll none true line.toNat (List.range 8)
  | .control, _ => s.modCommon p (fun c => { c with failed := true })
  | _, _ => s

/-- SRAM_UNCORRECTED: counted, logged, and answered by the structure that is struck; control state that is lost stops the part. -/
def execSramUncorrected (part : Part) (unit : BitVec 8) (word : BitVec 32) (at_ : Struck) (inj : Bool) (s : State) : Host.Outcome State Fault Refusal :=
  s.act fun s =>
    let c := s.common part
    (if c.inReset then s
      else if !c.strikesWord 0x21 unit.toNat word.toNat inj then s.modCommon part (fun c => c.undetected 0x21 40 (unit.toNat + 256 * word.toNat) inj)
      else (s.modCommon part (fun c =>
        let c1 := if inj then c.injected 0x21 else c
        (c1.count (ob 0x9021 3) 0 32 1).log 0x9002 (if at_ == .control then .fatal else .uncorrected) 0xFF (packArg [(8, unit.toNat), (32, word.toNat)]))).struck part at_)

/-! ### Configuration parity (R363, R389) -/

/-- PARITY_SWEEP: a word of an object that holds fields applied at catch. A mismatch stops the block of its index range and is logged once; a shadow in error fails the next commit. -/
def execParitySweep (part : Part) (key : BitVec 24) (word : BitVec 2) (mismatch shadow inj : Bool) (s : State) : Host.Outcome State Fault Refusal :=
  let staged := (s.mg part).shadow.any (fun x => x.1 == key.toNat)
  s.act fun s =>
    let k := key.toNat
    let c := s.common part
    let held := match findRow part k with
      | some r => r.staged part && decide (32 * word.toNat < r.width)
      | none => false
    (if c.inReset || !held then s
      else if !c.detects 0x22 24 k inj then s.modCommon part (fun c => c.undetected 0x22 24 k inj)
      else s.modCommon part (fun c =>
        let c1 := if inj then c.injected 0x22 else c
        let c2 := if mismatch && !c1.parityErr.contains (k, word.toNat) then
            ((({ c1 with parityErr := c1.parityErr ++ [(k, word.toNat)] } : Common).setBit (ob 0x9023 0) (k / 2 ^ 20) true).log 0x9003 .uncorrected 0xFF (packArg [(24, k)]))
          else c1
        if shadow && staged && !c2.shadowErr.contains k then { c2 with shadowErr := c2.shadowErr ++ [k] } else c2))

/-- A catch has rewritten objects: their words are sound again; a block without words in error admits work. -/
def Common.parityRestore (c : Common) (keys : List Nat) : Common :=
  let left := c.parityErr.filter (fun e => !keys.contains e.1)
  let c1 : Common := { c with parityErr := left }
  (List.range 16).foldl (fun c k => if c.bit (ob 0x9023 0) k && !left.any (fun e => e.1 / 2 ^ 20 == k) then c.setBit (ob 0x9023 0) k false else c) c1

/-! ### The patrol scrubber (R364) -/

/-- 256-byte blocks of the boathouse: 192 GB (00, HBM capacity in decimal gigabytes). -/
def bhBlocks : Nat := 750000000

/-- PATROL_SCRUB: the next block is read; a correctable error is corrected, an uncorrectable one poisons the block in place and is reported once. -/
def execPatrolScrub (correctable uncorrectable inj : Bool) (s : State) : Host.Outcome State Fault Refusal :=
  s.act fun s =>
    let pos := s.sw.fld (ob 0x9020 1) 0 30
    let point := if uncorrectable then 0x32 else 0x30
    let lands := s.sw.detects point 32 pos inj
    (if s.sw.inReset || !s.sw.secureReady then s
      else
        let hit := lands
        let s0 := if inj && lands then s.modSw (fun c => c.injected point) else s.modSw (fun c => c.undetected point 32 pos inj)
        let s1 := if uncorrectable && hit && !s.ox.bhPoison.contains pos then
            (let t := (SMap.get ((256 : Nat), (0 : Nat)) s.ox.bhOwner pos).1
             (s0.modOx (fun x => { x with bhPoison := insertNat x.bhPoison pos })).modSw (fun c =>
               ((c.count (ob 0x9021 1) 0 32 1).setReg (ob 0x9022 0) (BitVec.ofNat 128 (packArg [(30, pos), (8, t)]))).log 0x9005 .deferred 0xFF (packArg [(8, t), (30, pos)])))
          else if correctable && !uncorrectable && hit then
            s0.modSw (fun c => (c.count (ob 0x9021 0) 0 64 1).logLimited 0x9004 .corrected 0xFF 0 (packArg [(30, pos)]))
          else s0
        s1.modSw (fun c =>
          if pos + 1 < bhBlocks then c.setFld (ob 0x9020 1) 0 30 (pos + 1) else (c.setFld (ob 0x9020 1) 0 30 0).count (ob 0x9020 2) 0 32 1))

/-! ### Checkpoint records of the twin (R265, R373) -/

/-- The latest record of a context of the twin, unless none was written or it came back poisoned. -/
def Block.twinRecord (s : Block) (ctx : Nat) : Option (List Byte) :=
  let d := s.ox.bhRead (s.sw.fld (ob 0x6103 1) 0 20 * 2 ^ 20 + 256 * ctx) 256
  if s.sw.fld (ob 0x6103 1) 20 20 = 0 ∨ !s.sw.secureReady ∨ d.2 ∨ leAt d.1 56 8 = 0 then none else some d.1

/-- Is a record of a launch that neither finished nor was abandoned? -/
def recordOpen (r : List Byte) : Bool := !bitAt (leAt r 2 1) 1 && !bitAt (leAt r 2 1) 2

/-- A catch that changes a context clears the twin's record of it. -/
def Block.clearTwinRecord (s : Block) (ctx : Nat) : Block :=
  match s.twinRecord ctx with
  | none => s
  | some _ => s.modOx (fun x => x.bhWrite (s.sw.fld (ob 0x6103 1) 0 20 * 2 ^ 20 + 256 * ctx) (List.replicate 256 0) false 0 (SMap.get 0 x.keyGen 0))

/-! ### Standing in (R372, R373) -/

/-- STAND_IN_BEGIN: the view names this switch, the bridge has been down for TAKEOVER_WAIT, and COLL for the twin has come. -/
def execStandInBegin (s : State) : Host.Outcome State Fault Refusal :=
  s.act fun s =>
    let down := match s.ox.bridgeDownAt with
      | some t => decide (s.sw.fld (ob 0x9041 0) 3 16 * cclkUs ≤ s.sw.since t)
      | none => false
    (if s.linkUp .ox720 && s.sw.namesSelf && s.sw.lstate 0x58 != lsActive && down && s.ox.twinSeen && !s.sw.standIn && !s.sw.isFenced then
        (let n := ((List.range 4096).filterMap (fun c => s.twinRecord c)).filter recordOpen
         (((s.modSw (fun c => (c.setBit (ob 0x9041 0) 0 true).log 0x900A .corrected 0xFF (packArg [(10, s.twinId), (32, n.length)]))).modHold
           (fun h => { h with standFrom := some s.sw.stroke, standEnd := false })).modOx (fun x => { x with standAt := some s.sw.stroke, standResumed := [] })))
      else s)

/-- The line goes high where nothing of this switch drives it; at a stroke count that is no multiple of 256 it waits for one (R260). -/
def Block.standRaise (s : Block) : Block :=
  if s.ox.hold.standDrive.isSome && !s.at256 then s.modHold (fun h => { h with standEnd := true })
  else
  let s1 := s.standRelease
  if s.ox.hold.standDrive.isSome && !s.ox.hold.drive then s1.modSw (fun c => c.emit (.pin "HOLD_WATER_N" 1)) else s1

/-- STAND_IN_HOLD_EXPIRY: at the last multiple of 256 within 200 µs of its start, the stand-in releases the line. -/
def execStandInHoldExpiry (s : State) : Host.Outcome State Fault Refusal :=
  s.act fun s =>
    (match s.ox.hold.standDrive with
      | some t => if s.at256 && decide (200 * cclkUs < s.sw.since t + 256) then s.standRaise else s
      | none => s)

/-- A launch of the twin that cannot be served ends with COMPLETE TIMEOUT at each member that had joined. -/
def Block.refuseTwin (s : Block) (ctx launch tenant : Nat) (slots : List Nat) : Block :=
  let key := ctx + 4096
  let s1 := slots.foldl (fun s slot =>
    (s.sendSlots xpEngine [(slot, s.completePacket key (s.endpointId slot) slot stTimeout 0 0 0 false tenant)]).sendSlots xpEngine [(slot, s.releasePacket key (s.endpointId slot) slot tenant)]) s
  s1.modOx (fun x => { x with twinLaunch := SMap.set 0 x.twinLaunch ctx ((launch + 1) % 2 ^ 32),
                              timedOut := (x.timedOut.filter (fun t => t != (key, launch % 16))) ++ [(key, launch % 16)] })

/-- A stand-in entry takes up its context: an open record's launch resumes, and its joined members are asked to send again from RESUME_BLOCK on; later launches count on from the record. -/
def Block.standResume (s : Block) (e : Entry) : Block :=
  let ctx := e.ctx
  let key := ctx + 4096
  let s0 := s.modOx (fun x => { x with standResumed := x.standResumed ++ [ctx] })
  match s.twinRecord ctx with
  | none => s0
  | some r =>
    let n := leAt r 4 4
    if !recordOpen r then s0.modOx (fun x => { x with twinLaunch := SMap.set 0 x.twinLaunch ctx ((n + 1) % 2 ^ 32) })
    else
      let cfg := s.sw.cfg ctx
      let per := grpPerRack cfg.grp
      let slots := ((List.range per).filter (fun j => bitAt (leAt r 40 16) j)).map (fun j => grpSlot cfg.grp j)
      if s.twinRefused ctx cfg then s0.refuseTwin ctx n cfg.tenant slots
      else
        let rb := leAt r 24 4
        let mode := s.sw.modeFor cfg
        let f := cfg.sendForm (s.sw.isLatency cfg) mode
        let chunk := rb / 16 * chunksPerSeg f.1 f.2 + rb % 16 / max 1 (chunkBlocks f.1 f.2)
        let l : SLaunch := { ctx := ctx, launch := n, twin := true, firstAt := s.sw.stroke, heldCclk := s.sw.fld (ob 0x6104 1) 0 64 + s.heldNow,
                             cfg := cfg, entry := e, image := s.ox.imageNo, lo := leAt r 32 4, hi := leAt r 36 4, hallStep := leAt r 3 1 % 64, resume := rb }
        let s1 := s0.modOx (fun x => { x with launches := x.launches ++ [l], twinLaunch := SMap.set 0 x.twinLaunch ctx n })
        slots.foldl (fun s slot =>
          let ask := fun (pre : Bool) (first : Nat) (s : Block) => s.sendSlots xpEngine [(slot, s.resendPacket key (s.endpointId slot) slot cfg.tenant first 0 pre)]
          ask false chunk (if s.sw.prepassFor cfg then ask true (rb / 256) s else s)) s1

/-- The catch that activates stand-in entries: recovery is over, the line is released, the contexts named resume. -/
def Block.standEntries (s : Block) : Block :=
  if !s.sw.standIn then s
  else
    let s1 := s.modOx (fun x => { x with standAt := none })
    let s2 := s1.standRaise
    let es := (s2.sw.regs.filter (fun r => r.1 / 256 == 0x9042)).filterMap (fun r => standEntry (BitVec.ofNat 64 r.2.toNat))
    (es.filter (fun e => !s2.ox.standResumed.contains e.ctx)).foldl (fun s e => s.standResume e) s2

/-- A stand-in ends: its twin's ID is given up, its twin's launches go. -/
def Block.standEnd (s : Block) : Block :=
  if !s.sw.standIn then s
  else
    let keys := (s.ox.launches.filter (fun l => l.twin)).map (fun l => l.key)
    let mine := (s.ox.eng.running || s.ox.eng.inner == engDispatch) && keys.contains s.ox.eng.ctx
    let s1 := keys.foldl (fun s k => s.dropLaunchData k) s
    let s2 := s1.modOx (fun x => { x with launches := x.launches.filter (fun l => !l.twin), heldResults := x.heldResults.filter (fun r => decide (r.key < 4096)),
                                          timedOut := x.timedOut.filter (fun t => decide (t.1 < 4096)), twinLaunch := [], standResumed := [], standAt := none })
    let s3 := s2.modSw (fun c => (c.setBit (ob 0x9041 0) 0 false).log 0x900B .info 0xFF (packArg [(10, s.twinId)]))
    if mine then s3.standRaise.engineFree else s3.standRaise

/-- END_STAND_IN at a catch. -/
def execEndStandIn (s : State) : Host.Outcome State Fault Refusal :=
  s.act fun s => (if s.linkUp .ox720 then s.standEnd else s)

/-- FENCED is cleared: with an ACTIVE bridge the collectives go on. -/
def Block.unfence (s : Block) : Block :=
  if s.sw.isFenced && s.sw.lstate 0x58 == lsActive then (s.modSw (fun c => c.setBit (ob 0x9041 0) 1 false)).engineKick else s

/-- FENCED at a catch: 1 fences the collectives, 0 ends it. -/
def execFenced (set : Bool) (s : State) : Host.Outcome State Fault Refusal :=
  s.act fun s =>
    (if !s.linkUp .ox720 then s else if set then s.fenceColl else s.unfence)

/-- COLL_VIA_TWIN at a catch: each bit set in the mask clears its bit. -/
def Common.collViaTwin (c : Common) (mask : Nat) : Common :=
  c.setFld (ob 0x9040 0) 0 16 (Nat.land (c.fld (ob 0x9040 0) 0 16) (65535 - mask % 65536))

def execCollViaTwin (mask : BitVec 16) (s : State) : Host.Outcome State Fault Refusal :=
  s.act fun s =>
    (if s.linkUp .oe36 then s.modEp (fun c => c.collViaTwin mask.toNat) else s)

end Sys2Proof.Machine
end

