-- ==== Sys2Proof/Machine/Share.lean ====
section
/-!
DEFINITION. What a member sends to a switch: the payload of a chunk from the bytes read, the package stage with the partner die's share (10, R226, R229, R230, R233; 08, R183 to R190).
-/
namespace Sys2Proof.Machine

/-- A block of a contribution: its 32 element codes, its scale byte. -/
structure ShareBlk where
  elems : List Nat
  scale : Nat
deriving DecidableEq, Repr

/-- Element `e` of `w` bits of buffer `b`, of what has been read. -/
def Run.elem (r : Run) (b w e : Nat) : Nat := leNat (r.bytesAt (b * 2 ^ 40 + e * w / 8) 9) / 2 ^ (e * w % 8) % 2 ^ w

/-- Elements of a piece that hold data: SCOUNTS cuts those of ALL_TO_ALL_V short (R216). -/
def MLaunch.pieceFill (l : MLaunch) (r : Run) (piece : Nat) : Nat :=
  if l.cfg.op = opAllToAllV then min l.cfg.count (leNat (r.bytesAt (6 * 2 ^ 40 + 4 * (piece % max 1 (grpN l.cfg.grp))) 4)) else l.cfg.count

/-- A block of the member's own contribution: elements beyond the end of its piece are zero (R226). -/
def MLaunch.ownBlock (l : MLaunch) (r : Run) (x : Option (Nat × Nat)) : ShareBlk :=
  match x with
  | none => ⟨List.replicate 32 0, 0⟩
  | some (piece, off) =>
    ⟨(List.range 32).map (fun j => if off + j < l.pieceFill r piece then r.elem 1 (codeWidth l.cfg.inFmt) (l.cfg.elemNo piece off + j) else 0),
     (r.byteAt (3 * 2 ^ 40 + l.cfg.scaleNo piece off)).toNat⟩

/-- A block of the weight input (R209): in OUT_FMT; where OUT_FMT has scale bytes no field names their buffer, and they are free values (log). -/
def MLaunch.weightBlock (l : MLaunch) (r : Run) (free : Nat) (x : Option (Nat × Nat)) : ShareBlk :=
  match x with
  | none => ⟨List.replicate 32 0, 0⟩
  | some (_, off) => ⟨(List.range 32).map (fun j => if off + j < l.cfg.count then r.elem 5 (codeWidth l.cfg.outFmt) (off + j) else 0),
                      (Config.freeWord (free + off / 32)).toNat % 256⟩

/-- Block `i` of `n` of the partner die's share as it crosses the bridge: the element bytes of the chunk's blocks, then their scale bytes (the spec gives the crossing no layout: DESIGN CHOICE, log). -/
def partnerBlock (c : Cfg) (data : List Byte) (n i : Nat) : ShareBlk :=
  let w := codeWidth c.inFmt
  ⟨(List.range 32).map (bitElem data (32 * w * i) w), leAt data (4 * w * n + i) 1⟩

/-- The values of a block. -/
def ShareBlk.vals (b : ShareBlk) (code : Nat) (scaled : Bool) : List Val := b.elems.map (elemVal code scaled b.scale)

/-- The wire of a chunk's blocks: element bytes from byte 0, then a scale byte per block, then zeros (R226). -/
def packBlocks (w : Nat) (scale : Bool) (bs : List ShareBlk) : List Byte :=
  slice (packElems w (bs.flatMap ShareBlk.elems) ++ (if scale then bs.map (fun b => BitVec.ofNat 8 b.scale) else [])) 0 256

/-! ### The package stage (R229, R230) -/

/-- The maximum P that a die puts under an AX64 block: its package's own, raised to that of the whole collective. No packet brings a member that maximum: a free value of the launch and the block (log). -/
def MLaunch.anchorP (l : MLaunch) (plane block : Nat) : Nat :=
  max ((SMap.get [] l.pre plane).getD block 0) (Config.anchorMax l.ctx l.order plane block % 256)

/-- Fold one block of the two dies in ascending member index (R184): `p` is the block's P. -/
def MLaunch.foldBlock (l : MLaunch) (p : Nat) (a b : ShareBlk) : ShareBlk × List LaneRes :=
  let c := l.cfg
  let va := a.vals c.inFmt c.inScaled
  let vb := b.vals c.inFmt c.inScaled
  let at_ := fun (v : List Val) (j : Nat) => v.getD j .zero
  let code := c.partialCode l.mode
  let lanes := fun (f : Nat → LaneRes) =>
    let x := (List.range 32).map f
    ((⟨x.map (fun y => y.w.toNat), 0⟩ : ShareBlk), x)
  let float := fun (op : Val → Val → Val) => lanes (fun j =>
    let one := fun (v : Val) => decodeElem code (encodeElem code v rne 0).bits
    { w := BitVec.ofNat 64 (encodeElem code (op (one (at_ va j)) (one (at_ vb j))) rne 0).bits })
  let pick := fun (op : Val → Val → Val) =>
    let e := encodeLanes c.inFmt c.inScaled rne (fun _ => 0) ((List.range 32).map (fun j => op (at_ va j) (at_ vb j)))
    ((⟨e.2.map Enc.bits, e.1⟩ : ShareBlk), e.2.map (fun x => { sat := x.sat, nanZero := x.nanZero : LaneRes }))
  let bits := fun (op : BitVec 64 → BitVec 64 → BitVec 64) => lanes (fun j => { w := op (BitVec.ofNat 64 (a.elems.getD j 0)) (BitVec.ofNat 64 (b.elems.getD j 0)) })
  match c.rop with
  | 0 =>
    if code = 16 then lanes (fun j =>
      let x := axOf p (grpN c.grp) (at_ va j)
      let y := axOf p (grpN c.grp) (at_ vb j)
      { w := axWire (x.w + y.w) (Nat.lor x.flags y.flags), breach := x.breach || y.breach })
    else if code = 17 then lanes (fun j => { w := laneInt (at_ va j) + laneInt (at_ vb j) })
    else float addVal
  | 3 => float mulVal
  | 1 => pick maxVal
  | 2 => pick minVal
  | 4 => bits (fun x y => x &&& y)
  | 5 => bits (fun x y => x ||| y)
  | _ => bits (fun x y => x ^^^ y)

/-- The blocks of chunk `i` as this die sends them, and what the arithmetic of the package stage counted. `data`: the partner die's share of the same blocks. -/
def MLaunch.chunkBlks (l : MLaunch) (r : Run) (plane : Nat) (i : Nat) (data : List Byte) : List ShareBlk × List (List LaneRes) :=
  let parts := l.chunkParts plane false i
  if l.cfg.pkgStage l.latency then
    let f := l.cfg.sendForm l.latency l.mode
    let b0 := (blocksOfChunk f.1 f.2 (l.chunkNo plane false i)).headD 0
    let x := (List.range parts.length).map (fun k =>
      let own := l.ownBlock r (parts.getD k none)
      let other := partnerBlock l.cfg data parts.length k
      if (parts.getD k none).isNone then ((⟨List.replicate 32 0, 0⟩ : ShareBlk), ([] : List LaneRes))
      else if l.slot % 2 = 0 then l.foldBlock (l.anchorP plane (b0 + k)) own other else l.foldBlock (l.anchorP plane (b0 + k)) other own)
    (x.map (fun y => y.1), x.map (fun y => y.2))
  else (parts.map (l.ownBlock r), [])

/-- The bytes P of PREPASS chunk `i` (R186): of a package stage the greater of the two dies'. -/
def MLaunch.prepassBytes (l : MLaunch) (r : Run) (plane i : Nat) (data : List Byte) : List Nat :=
  let parts := l.chunkParts plane true i
  (List.range parts.length).map (fun k =>
    match parts.getD k none with
    | none => 0
    | some x =>
      let own := blockP ((l.ownBlock r (some x)).vals l.cfg.inFmt l.cfg.inScaled)
      if l.cfg.pkgStage l.latency then max own (leAt data k 1) else own)

/-- The payload of chunk `i`. -/
def MLaunch.chunkPayload (l : MLaunch) (r : Run) (free plane : Nat) (pre : Bool) (i : Nat) (data : List Byte) : List Byte :=
  match l.chunkIs plane pre i with
  | 0 => (l.prepassBytes r plane i data).map (fun x => BitVec.ofNat 8 x)
  | 1 => slice (slice r.list 64 64) 0 256
  | 2 => packBlocks (codeWidth l.cfg.outFmt) (hasScale l.cfg.outFmt l.cfg.outScaled) ((l.chunkParts plane pre i).map (l.weightBlock r free))
  | 3 => []
  | _ =>
    let f := l.cfg.sendForm l.latency l.mode
    packBlocks f.1 f.2 (l.chunkBlks r plane i data).1

/-- Count what the package stage of a chunk met, and log an ANCHOR_BREACH for its first block with one (R189, R192). -/
def Block.shareCounts (s : Block) (l : MLaunch) (b0 : Nat) (res : List (List LaneRes)) : Block :=
  let n := fun (f : LaneRes → Bool) => (res.map (fun x => x.countP f)).foldl (· + ·) 0
  let br := n LaneRes.breach
  let blk := (res.findIdx? (fun x => x.any LaneRes.breach)).getD 0
  let s1 := s.modEp (fun c => ((c.count (ob 0xB400 1) 0 64 br).count (ob 0xB400 2) 0 64 (n LaneRes.nanZero)).count (ob 0xB400 3) 0 64 (n LaneRes.sat))
  if br = 0 then s1 else s1.modEp (fun c => c.logLimited 0x4080 .uncorrected 0xFF 0 (packArg [(12, l.ctx), (32, b0 + blk)]))

end Sys2Proof.Machine
end

