-- ==== Sys2Proof/Machine/Member.lean ====
section
/-!
DEFINITION. Collectives at a member (05, R108; 10, R222 to R227, R233, R239; 16, R370; R443, R444), and DECRYPT_COPY (05, R104; 15, R351, R352, R357).
-/
namespace Sys2Proof.Machine

/-! ### COLLECTIVE_LAUNCH (R222 to R224) -/

/-- COLLECTIVE_LAUNCH. It waits at issue while COLL_PAUSE is set (R374), the context's launch is under way (R222) or no mark is left (R108). The context's values and launch number are those at issue. With an extension record, that is translated and read first, and the checks that need it are made then. -/
def execCollectiveLaunch (q : BitVec 10) (_ : List Byte) (s : State) : Host.Outcome State Fault Refusal :=
  s.act fun s =>
    let q := q.toNat
    (s.issue q (fun ws => dKind ws == 4) (fun s n ws =>
      let ctx := bitsOf (dw ws 0) 27 12
      let cfg := s.ep.cfg ctx
      match s.launchCheck cfg (s.ep.qTenant q) ws none with
        | some d => s.issueError q n ws d
        | none =>
          let gs := bufGrans (if bitsOf (dw ws 0) 57 1 = 1 then [extBuf ws] else launchBufs cfg (s.memberOf cfg ws) ws none)
          let r : Run := { s.runOf q n ws with grans := gs.map (fun g => g.2), bufs := gs.map (fun g => g.1), cfg := some cfg,
                                               no := s.ep.launchNo ctx, order := s.oe.launchOrder }
          ((((s.taken q n).addRun r).modOe (fun o => { o with launchOrder := o.launchOrder + 1 })).runTranslate q n 80).headPump q 9))

/-! ### Chunks of a member (R226, R229, R233) -/

/-- The chunk packet number `i` of a stream to a plane (R113, R233). -/
def Block.chunkPacket (s : Block) (l : MLaunch) (plane : Nat) (pre : Bool) (i : Nat) (data : List Byte) (poison : Bool) : Packet :=
  let h : Hdr := { net := 2, long := true, opc := if pre then 0x21 else 0x20, src := s.epId, dst := s.epRack * 16 + plane, dstSw := true,
                   tenant := l.cfg.tenant, poison := poison }
  let stage := if l.latency then 2 else if l.cfg.pkgStage l.latency then 0 else 1
  let is_ := l.chunkIs plane pre i
  let last := if pre then decide (i + 1 = l.preChunks plane) else decide (i + 1 = l.allChunks plane)
  h.packet (collWord l.ctx l.slot stage l.backup last (l.chunkNo plane pre i) l.cfg.inFmt) 0
    (packArg [(13, l.rctr), (1, b2n l.rcEn), (40, if pre then 0 else l.dstFpa), (4, l.lseq), (1, b2n (is_ == 2)), (1, b2n (is_ == 1)), (1, b2n (is_ == 3))])
    data

/-- The crew link that COLL packets for a plane take (R370): its own, or its twin's while the bit of COLL_VIA_TWIN is set. -/
def Common.collLink (c : Common) (plane : Nat) : Nat := if c.bit (ob 0x9040 0) plane then Nat.xor plane 1 else plane

def modLaunch (ctx : Nat) (f : MLaunch → MLaunch) (o : Oe) : Oe := { o with launches := replaceFirst (fun l => l.ctx == ctx) f o.launches }

/-- The chunk that a stream sends next: the first asked for again, else the next one; and whether it is sent again. -/
def MLaunch.nextChunk (l : MLaunch) (plane : Nat) (pre : Bool) : Option (Nat × Bool) :=
  match l.todo.find? (fun t => t.1 == plane && t.2.1 == pre) with
  | some t => some (t.2.2, true)
  | none =>
    let sent := SMap.get 0 (if pre then l.sentPre else l.sentData) plane
    if (if pre then l.preChunks plane else l.allChunks plane) ≤ sent then none else some (sent, false)

/-- The launch after chunk `i` of a stream left. -/
def MLaunch.chunkSent (l : MLaunch) (r : Run) (plane : Nat) (pre : Bool) (i : Nat) (again : Bool) (data : List Byte) : MLaunch :=
  let old := SMap.get [] l.pre plane
  let l1 : MLaunch := { l with want := none,
                               pre := if pre then SMap.set [] l.pre plane (old.take (256 * i) ++ l.prepassBytes r plane i data ++ old.drop (256 * i + 256)) else l.pre }
  if again then { l1 with todo := eraseFirst (fun x => x == (plane, pre, i)) l.todo }
  else if pre then { l1 with sentPre := SMap.set 0 l.sentPre plane (i + 1) }
  else { l1 with sentData := SMap.set 0 l.sentData plane (i + 1) }

/-- Chunk `i` leaves: its payload is built of the bytes read, and of a package stage of the partner's. A byte that was read poisoned or came without data poisons it (R365; a lost byte is sent as zero: DESIGN CHOICE, log). -/
def Block.sendChunk (s : Block) (l : MLaunch) (r : Run) (plane : Nat) (pre : Bool) (i : Nat) (again : Bool) (data : List Byte) (poison : Bool) : Block :=
  let bad := (l.needs plane pre i).any (fun x => r.anyLost (x.1 * 2 ^ 40 + x.2.1) x.2.2 || r.anyPoison (x.1 * 2 ^ 40 + x.2.1) x.2.2)
  let pkg := l.cfg.pkgStage l.latency && (pre || l.chunkIs plane pre i == 4)
  let p := s.chunkPacket l plane pre i (l.chunkPayload r s.free plane pre i data) (bad || (pkg && poison))
  let s1 := (s.modEp (fun c => c.queueTx (s.ep.collLink plane) p)).modOe (modLaunch l.ctx (fun l => l.chunkSent r plane pre i again data))
  let counts := if l.cfg.op = opAllToAllV ∧ r.hasBytes (6 * 2 ^ 40) (4 * grpN l.cfg.grp) then r.bytesAt (6 * 2 ^ 40) (4 * grpN l.cfg.grp) else r.header
  let s2 := s1.modRun r.q r.n (fun r => { r with pieces := [], srcPos := 0, header := counts })
  let f := l.cfg.sendForm l.latency l.mode
  let s3 : Block := if l.chunkIs plane pre i = 2 then { s2 with free := s2.free + (l.cfg.count + 31) / 32 } else s2
  if pkg && !pre then s3.shareCounts l ((blocksOfChunk f.1 f.2 (l.chunkNo plane pre i)).headD 0) (l.chunkBlks r plane i data).2 else s3

/-- COLL_CHUNK_SEND: the next chunk asked for again, else the next of the stream. What it needs is read from the buffers first (TILE_BURST_ISSUE sends the reads); once that has come the chunk leaves for the plane's switch. `data` and `poison` are the partner die's share of its blocks as it came over the package's bridge, which a package stage folds in (R108, R229). -/
def execCollChunkSend (ctx : BitVec 12) (plane : BitVec 4) (pre : Bool) (data : List Byte) (poison : Bool) (s : State) : Host.Outcome State Fault Refusal :=
  s.act fun s =>
    let p := plane.toNat
    (match s.oe.launches.find? (fun l => l.ctx == ctx.toNat) with
      | none => s
      | some l =>
        if s.ep.inReset || !(l.planes.contains p) || !(s.ep.active (s.ep.collLink p)) then s
        else match s.run? l.q l.n, l.nextChunk p pre with
          | some r, some (i, again) =>
            let needs := l.needs p pre i
            if needs.isEmpty || (l.want == some (p, pre, i) && decide (needBytes needs ≤ r.srcPos) && r.outstanding == 0) then
              s.sendChunk l r p pre i again data poison
            else if l.want != some (p, pre, i) && r.outstanding == 0 then
              (s.modOe (modLaunch l.ctx (fun l => { l with want := some (p, pre, i) }))).modRun l.q l.n (fun r => { r with pieces := [], srcPos := 0 })
            else s
          | _, _ => s)

/-! ### What the switches send a member (R239, R443, R444) -/

/-- A COLL packet for the member: discarded, and counted, when no launch of its context is under way or its switch is not on the launch's path (R444). -/
def Block.collIn (s : Block) (opc : Nat) (plane : BitVec 4) (p : Packet) (f : Block → MLaunch → Block) : Block :=
  s.atEp opc (.plane plane) p fun s =>
    let s0 := s.takeIn (.plane plane) p
    match s0.oe.launches.find? (fun l => l.ctx == cCtx p) with
    | some l =>
      if pSrcSw p && pSrc p % 1024 / 16 == s.epRack && l.planes.contains (pSrc p % 16) then f s0 l
      else s0.modEp (fun c => c.count (ob 0x7500 2) 0 32 1)
    | none => s0.modEp (fun c => c.count (ob 0x7500 2) 0 32 1)

/-- A write of result bytes at the home, one access per block: packets of opcode RESULT that keep the switch, tenant, context and poison. -/
def resultWrites (p : Packet) (off : Nat) (bytes : List Byte) : Nat → List Packet
  | 0 => []
  | k + 1 =>
    if bytes.isEmpty then []
    else
      let n := min bytes.length (256 - off % 256)
      let w : Packet := { w0 := p.w0, w1 := BitVec.ofNat 64 (packArg [(12, cCtx p), (28, 0), (8, n - 1)]), w2 := BitVec.ofNat 64 off, w3 := 0,
                          payload := slice (List.replicate (off % 256) 0 ++ bytes.take n) 0 256 }
      w :: resultWrites p (off + n) (bytes.drop n) k

/-- RESULT (R233, R443): its element bytes at its FPA and its scale bytes in the scale buffer, nothing beyond the end of a piece. -/
def Block.takeResult (s : Block) (p : Packet) (l : MLaunch) : Block :=
  let w := codeWidth l.cfg.outFmt
  let scale := hasScale l.cfg.outFmt l.cfg.outScaled
  let off := pFpa p % 2 ^ 40
  let first := (off - l.dstFpa) * 8 / w
  let kk := chunksPerSeg w scale
  let bb := chunkBlocks w scale
  let c := cChunk p % kk
  let blocks := min 16 (bb * (c + 1)) - bb * c
  let len := max 1 l.cfg.resPieceLen
  let stop := min (l.cfg.resultOf l.index) ((first / len + 1) * len)
  let n := min (blocks * 32) (stop - first)
  let bytes := slice p.payload 0 ((n * w + 7) / 8)
  let scales := if scale then slice p.payload (blocks * 4 * w) ((n + 31) / 32) else []
  let scaleOff := l.dstScale + first / len * ((len + 31) / 32) + first % len / 32
  let ops := resultWrites p off bytes 3 ++ resultWrites p scaleOff scales 2
  (ops.foldl (fun s w => s.accept ⟨0, 0, .selfServed, w, none, .queued⟩) s).homePump

def execResult (plane : BitVec 4) (p : Packet) (s : State) : Host.Outcome State Fault Refusal :=
  s.act fun s =>
    (s.collIn 0x22 plane p (fun s l => s.takeResult p l))

/-- COMPLETE takes its place behind the results of its switch. -/
def execComplete (plane : BitVec 4) (p : Packet) (s : State) : Host.Outcome State Fault Refusal :=
  s.act fun s =>
    (s.collIn 0x23 plane p (fun s _ => (s.accept ⟨0, 0, .selfServed, p, none, .queued⟩).homePump))

/-- RESEND_REQ (R108): the chunks asked for go out again while the mark is held. -/
def execResendReq (plane : BitVec 4) (p : Packet) (s : State) : Host.Outcome State Fault Refusal :=
  s.act fun s =>
    (s.collIn 0x24 plane p (fun s l =>
      let k := pSrc p % 16
      if l.released.contains k then s
      else
        let pre := cPre p
        let lead := if pre then 0 else l.leadChunks k
        let sent := SMap.get 0 (if pre then l.sentPre else l.sentData) k
        let number := fun (i : Nat) => if pre then i else (l.dataList k).getD (i - lead) 0
        let again := ((List.range sent).filter (fun i => decide (lead ≤ i) && decide (cFirst p ≤ number i) &&
          (cNchunk p == 0 || decide (number i < cFirst p + cNchunk p)))).map (fun i => (k, pre, i))
        (s.modEp (fun c => c.count (ob 0xB042 3) 0 32 1)).modOe (modLaunch l.ctx (fun l => { l with todo := l.todo ++ again }))))

/-- RELEASE of a switch's share of the mark. -/
def execRelease (plane : BitVec 4) (p : Packet) (s : State) : Host.Outcome State Fault Refusal :=
  s.act fun s =>
    (s.collIn 0x25 plane p (fun s l =>
      let k := pSrc p % 16
      s.modOe (modLaunch l.ctx (fun l => { l with released := if l.released.contains k then l.released else l.released ++ [k], todo := l.todo.filter (fun t => t.1 != k) }))))

/-- MEMBER_COLL_TIMEOUT (R370): switches that neither plane of their pair reaches are taken as TIMEOUT, COLL_TIMEOUT after the launch's issue. -/
def execMemberCollTimeout (ctx : BitVec 12) (s : State) : Host.Outcome State Fault Refusal :=
  s.act fun s =>
    (match s.oe.launches.find? (fun l => l.ctx == ctx.toNat) with
      | none => s
      | some l =>
        if s.ep.inReset || decide (s.ep.since l.issuedAt < s.ep.collTimeout) then s
        else
          let dead := l.planes.filter (fun p => !(l.completed.any (fun c => c.1 == p)) && !(s.ep.active p) && !(s.ep.active (Nat.xor p 1)))
          s.modOe (modLaunch l.ctx (fun l => { l with
            completed := l.completed ++ dead.map (fun p => (p, stTimeout, 0)), released := l.released ++ dead })))

/-! ### DECRYPT_COPY (R104, R351, R352, R357) -/

def wkKey (slot : Nat) : Nat := ob 0x8040 slot

/-- DECRYPT_COPY: the key is captured at issue (R352); the blob's source is translated, to be read. -/
def execDecryptCopy (q : BitVec 10) (_ : List Byte) (s : State) : Host.Outcome State Fault Refusal :=
  s.act fun s =>
    let q := q.toNat
    (s.issue q (fun ws => dKind ws == 8) (fun s n ws =>
      let len := bitsOf (dw ws 6) 0 32
      let src : Int := bitsOf (dw ws 4) 0 52
      let rs := (src, src + ((len - 1 : Nat) : Int))
      let slot := bitsOf (dw ws 6) 32 8
      let e := s.ep.reg (wkKey slot)
      if footprintBad rs then s.issueError q n ws 5
      else if len < 81 then s.issueError q n ws 6
      else
        let r : Run := { s.runOf q n ws with grans := sideGranules false 0 rs, keyOk := bitsOf e 0 1 == 1 && bitsOf e 1 8 == s.ep.qTenant q,
                                             keyBytes := SMap.get [] s.oe.weightKeys slot, keyId := bitsOf e 9 32, keyAt := s.ep.stroke }
        (((s.taken q n).addRun r).runTranslate q n 80).headPump q 9))

/-- The place of sealed segment `i` in a blob: its offset, and its bytes without the tag (R351). -/
def Run.segAt (r : Run) : Nat × Nat :=
  (64 + r.segment * (blobSeg r.header + 16), min (blobSeg r.header) (blobPlain r.header - r.segment * blobSeg r.header))

/-- DECRYPT_SEGMENT: the next sealed segment, once it is read and the plaintext of the one before is on its way. Its plaintext is to be written once its tag has verified; a failure leaves it and every later one unwritten; the last one extends the weight measurement. A segment that came without data ends the descriptor with the status of its read. -/
def execDecryptSegment (q : BitVec 10) (n : BitVec 16) (_ : List Byte) (s : State) : Host.Outcome State Fault Refusal :=
  s.act fun s =>
    (match s.run? q.toNat n.toNat with
      | none => s
      | some r =>
        let at_ := r.segAt.1
        let size := r.segAt.2
        if s.ep.inReset || !r.started || r.finished || dKind r.words != 8 || !r.list.isEmpty || !(r.hasBytes at_ (size + 16)) then s
        else if r.anyLost at_ (size + 16) then s.modRun r.q r.n (fun r => { r with finished := true })
        else
          let blob := r.bytesAt at_ (size + 16)
          let nonce := slice r.header 24 8 ++ leBytes 4 r.segment
          match Config.gcmOpen r.keyBytes nonce r.header (blob.take size) (blob.drop size) with
          | none =>
            (s.modEp (fun c => c.log 0x8020 .uncorrected 0xFF (packArg [(10, r.q), (16, r.n), (8, bitsOf (dw r.words 6) 32 8)]))).modRun r.q r.n
              (fun r => { r with finished := true, status := r.status ++ [stAborted], detail := 3 })
          | some plain =>
            let input := r.digestInput ++ blob
            let last := decide (r.segment + 1 = blobSegs r.header)
            let rest := r.pieces.filter (fun p => decide (at_ + size + 16 < p.pos + p.len))
            let s1 := s.modRun r.q r.n (fun r => { r with segment := r.segment + 1, digestInput := input, finished := last, list := slice plain 0 size,
                                                          poisoned := r.poisoned || r.anyPoison at_ (size + 16), pieces := rest })
            if last then s1.modOe (fun o => { o with weightMeas := digestVal (sha384 (leBytes 48 o.weightMeas.toNat ++ sha384 input ++ leBytes 4 r.keyId
                ++ leBytes 1 (bitsOf (dw r.words 6) 32 8))) })
            else s1)

end Sys2Proof.Machine
end

