-- ==== Sys2Proof/Machine/Security.lean ====
section
/-!
DEFINITION. Attestation, keys, entropy and the debug unlock (15, R340 to R360; 16, R362). SPDM message layouts beyond the fields that the spec names are those of SPDM 1.3 (PRESUMED).
-/
namespace Sys2Proof.Machine

/-! ### Measurements (R356, R357) -/

/-- Every object of a row in a part, ascending. -/
def ObjRow.keys (r : ObjRow) (p : Part) : List Nat :=
  ((List.range (r.i1 - r.i0 + 1)).map (fun i => ((r.subs p).map (fun s => (List.range (s.2 - s.1 + 1)).map (fun j => ob (r.i0 + i) (s.1 + j)))).flatten)).flatten

/-- Has an object a readable and writable field applied at catch? -/
def ObjRow.measured (r : ObjRow) (p : Part) : Bool := r.flds.any (fun f => f.atCatch && f.accIn p == .rw)

/-- The objects of measurement block 4: KEY_RETIRE, KEY_ERASE and the mailbox are left out. -/
def measuredKeys (p : Part) : List Nat :=
  (((objRows.filter (fun r => r.measured p)).map (fun r => r.keys p)).flatten).filter (fun k =>
    k / 256 != 0x8050 && k / 256 != 0x8041 && !(decide (0x8100 ≤ k / 256) && decide (k / 256 ≤ 0x8102)))

/-- Objects as bytes, 16 each. -/
def Common.objBytes (c : Common) (keys : List Nat) : List Byte := (keys.map (fun k => leBytes 16 (c.reg k).toNat)).flatten

/-- The digest of a measurement block; none where the part does not hold the block. -/
def Block.measurement (s : Block) (p : Part) (i : Nat) : Option (List Byte) :=
  let c := s.common p
  match i, p with
  | 1, _ => some (leBytes 48 c.fwDigest.toNat)
  | 2, .ox720 => some (((List.range 6).map (fun k => leBytes 8 (c.fld (ob 0x6101 k) 0 64))).flatten)
  | 3, .oe36 => some (leBytes 48 s.oe.weightMeas.toNat)
  | 4, _ => some (sha384 (c.objBytes (measuredKeys p)))
  | 5, .ox720 => some (sha384 (c.objBytes ((List.range 72).map (fun t => ob 0x8010 t) ++ (List.range 4).map (fun t => ob 0x8012 t))))
  | 5, .oe36 => some (sha384 (c.objBytes (ob 0x8001 0 :: ((List.range 3).map (fun w => (List.range 256).map (fun t => ob (0x8030 + w) t))).flatten)))
  | 6, _ => some (sha384 (leBytes 1 (c.fld (ob 0x9000 0) 0 1)))
  | _, _ => none

/-- The DMTF value type of a block. -/
def measType : Nat → Nat
  | 1 => 0x01
  | 2 => 0x03
  | 3 => 0x08
  | 6 => 0x05
  | _ => 0x02

/-- A measurement block in DMTF format. -/
def measBlock (i : Nat) (d : List Byte) : List Byte := leBytes 1 i ++ leBytes 1 1 ++ leBytes 2 51 ++ leBytes 1 (measType i) ++ leBytes 2 48 ++ d

/-! ### Mailbox responses (R354, R355) -/

def spdmHead (code p1 p2 : Nat) : List Byte := leBytes 1 0x13 ++ leBytes 1 code ++ leBytes 1 p1 ++ leBytes 1 p2
def spdmError (e : Nat) : List Byte := spdmHead 0x7F e 0
def errInvalid : Nat := 0x01
def errUnspecified : Nat := 0x05
def errDecrypt : Nat := 0x06
def errUnsupported : Nat := 0x07
def errSessions : Nat := 0x0A

/-- A request is in the mailbox: GO stands until its response is ready. One request is answered at a time. -/
def Block.spdm (s : Block) (p : Part) (f : Block → Block) : Block :=
  if !(s.common p).up || (s.common p).spdmBusy.isSome then s
  else f (s.modCommon p (fun c => c.setBit (ob 0x8102 0) 13 true))

/-- The response of the request in progress. -/
def Block.spdmRespond (s : Block) (p : Part) (r : List Byte) : Block := s.modCommon p (fun c => { c with spdmBusy := some r })

/-- The response waits for random bytes at `at_`, and is signed when it has them. -/
def Block.spdmRandom (s : Block) (p : Part) (r : List Byte) (at_ : Nat) : Block := (s.spdmRespond p r).modCommon p (fun c => c.wantEntropy 0 at_)

def execGetDigests (part : Part) (s : State) : Host.Outcome State Fault Refusal :=
  s.act fun s =>
    (s.spdm part (fun s => s.spdmRespond part (spdmHead 0x01 1 1 ++ sha384 (Config.certChain part))))

/-- GET_CERTIFICATE: a portion of the chain in slot 0; slots 1 to 7 are empty. -/
def execGetCertificate (part : Part) (slot : BitVec 4) (offset length : BitVec 16) (s : State) : Host.Outcome State Fault Refusal :=
  s.act fun s =>
    (s.spdm part (fun s =>
      let chain := Config.certChain part
      if slot.toNat ≠ 0 ∨ chain.length ≤ offset.toNat then s.spdmRespond part (spdmError errInvalid)
      else
        let portion := (chain.drop offset.toNat).take (min length.toNat 4088)
        s.spdmRespond part (spdmHead 0x02 0 0 ++ leBytes 2 portion.length ++ leBytes 2 (chain.length - offset.toNat - portion.length) ++ portion)))

/-- CHALLENGE: the chain's hash and a fresh nonce, signed with the DIK. -/
def execChallenge (part : Part) (slot : BitVec 4) (nonce : BitVec 256) (s : State) : Host.Outcome State Fault Refusal :=
  s.act fun s =>
    (s.spdm part (fun s =>
      if slot.toNat ≠ 0 then s.spdmRespond part (spdmError errInvalid)
      else s.spdmRandom part (spdmHead 0x03 0 1 ++ sha384 (Config.certChain part) ++ leBytes 32 0 ++ leBytes 2 0 ++ leBytes 32 nonce.toNat) 52))

/-- GET_MEASUREMENTS: the count, one block, or all that the part holds, taken together. -/
def execGetMeasurements (part : Part) (index : BitVec 8) (nonce : BitVec 256) (sign : Bool) (s : State) : Host.Outcome State Fault Refusal :=
  s.act fun s =>
    (s.spdm part (fun s =>
      let held := (List.range 6).filterMap (fun i => (s.measurement part (i + 1)).map (fun d => measBlock (i + 1) d))
      let blocks := if index.toNat = 0 then [] else if index.toNat = 0xFF then held else ((s.measurement part index.toNat).map (fun d => measBlock index.toNat d)).toList
      let head := spdmHead 0x60 (if index.toNat = 0 then held.length else 0) 0 ++ leBytes 1 blocks.length ++ leBytes 3 blocks.flatten.length ++ blocks.flatten
      if index.toNat ≠ 0 ∧ blocks.isEmpty then s.spdmRespond part (spdmError errInvalid)
      else if sign then s.spdmRandom part (head ++ leBytes 32 0 ++ leBytes 2 0 ++ leBytes 32 nonce.toNat) head.length
      else s.spdmRespond part (head ++ leBytes 32 0 ++ leBytes 2 0)))

/-- KEY_EXCHANGE: a new session, at most four. -/
def execKeyExchange (part : Part) (requesterTenant : BitVec 8) (pubKeyDigest : BitVec 384) (mutualAuth : Bool) (ecdhe : List Byte) (s : State) : Host.Outcome State Fault Refusal :=
  s.act fun s =>
    (s.spdm part (fun s =>
      let c := s.common part
      if 4 ≤ c.sessions.length then s.spdmRespond part (spdmError errSessions)
      else
        let id := c.nextSession
        let s1 := s.modCommon part (fun c => { c with nextSession := id % 65535 + 1, sessions := c.sessions ++ [⟨id, requesterTenant.toNat, pubKeyDigest, mutualAuth, false⟩] })
        (s1.spdmRandom part (spdmHead 0x64 0 0 ++ leBytes 2 id ++ leBytes 1 (b2n mutualAuth) ++ leBytes 1 0 ++ leBytes 32 0 ++ slice (Config.drbg s.free (leNat ecdhe)) 0 96 ++ leBytes 2 0) 8).tick))

/-- FINISH: the handshake is complete when its verification succeeds; otherwise the session is gone. -/
def execSpdmFinish (part : Part) (session : BitVec 16) (verified : Bool) (s : State) : Host.Outcome State Fault Refusal :=
  s.act fun s =>
    (s.spdm part (fun s =>
      if !(s.common part).sessions.any (fun x => x.id == session.toNat) then s.spdmRespond part (spdmError errInvalid)
      else if verified then
        (s.modCommon part (fun c => { c with sessions := replaceFirst (fun x => x.id == session.toNat) (fun x => { x with finished := true }) c.sessions })).spdmRespond part (spdmHead 0x65 0 0)
      else (s.modCommon part (fun c => { c with sessions := c.sessions.filter (fun x => x.id != session.toNat) })).spdmRespond part (spdmError errDecrypt)))

/-- END_SESSION: the session and its keys are gone. -/
def execEndSession (part : Part) (session : BitVec 16) (s : State) : Host.Outcome State Fault Refusal :=
  s.act fun s =>
    (s.spdm part (fun s =>
      if !(s.common part).sessions.any (fun x => x.id == session.toNat) then s.spdmRespond part (spdmError errInvalid)
      else (s.modCommon part (fun c => { c with sessions := c.sessions.filter (fun x => x.id != session.toNat) })).spdmRespond part (spdmHead 0x6C 0 0)))

/-! ### Weight keys (R353) -/

/-- BROKER_DIGEST of a tenant. -/
def Common.brokerDigest (c : Common) (t : Nat) : Nat := leNat (((List.range 3).map (fun w => leBytes 16 (c.reg (ob (0x8030 + w) t)).toNat)).flatten)

def Common.assignedTenant (c : Common) : Nat := c.fld (ob 0x8001 0) 0 8

/-- Empty a key slot. An erase in the CCLK of an issue takes effect first (R352). -/
def Block.eraseKey (s : Block) (slot cause : Nat) : Block :=
  ((s.modOe (fun o => { o with
      weightKeys := SMap.set [] o.weightKeys slot [],
      runs := o.runs.map (fun r => if dKind r.words == 8 && r.keyAt == s.ep.stroke && bitsOf (dw r.words 6) 32 8 == slot then { r with keyOk := false, keyBytes := [] } else r) })).modEp (fun c =>
    (c.setReg (wkKey slot) 0).log 0x8008 .info 0xFF (packArg [(8, slot), (2, cause)])))

/-- The status byte of a weight-key request. -/
def Block.vendorStatus (s : Block) (x : Spdm) (payload : List Byte) (set : Bool) : Nat :=
  let t := leAt payload 2 1
  if !s.ep.bit (ob 0x8000 0) 0 then 3
  else if t ≠ s.ep.assignedTenant ∨ x.pubDigest.toNat ≠ s.ep.brokerDigest t then 2
  else if set && s.ep.bit (wkKey (leAt payload 1 1)) 0 then 1
  else 0

/-- A vendor-defined request, inside a finished session with mutual authentication. -/
def Block.vendor (s : Block) (session opcode : Nat) (payload : List Byte) : Block :=
  s.spdm .oe36 (fun s =>
    match s.ep.sessions.find? (fun x => x.id == session && x.finished && x.mutualAuth) with
    | none => s.spdmRespond .oe36 (spdmError errInvalid)
    | some x =>
      let slot := leAt payload 1 1
      let t := leAt payload 2 1
      let id := leAt payload 4 4
      if leAt payload 0 1 ≠ opcode then s.spdmRespond .oe36 (spdmError errUnsupported)
      else
        let st := s.vendorStatus x payload (opcode == 1)
        let s1 := if st ≠ 0 then s
          else if opcode = 1 then
            (s.modOe (fun o => { o with weightKeys := SMap.set [] o.weightKeys slot (slice payload 8 32) })).modEp (fun c =>
              (c.setReg (wkKey slot) (BitVec.ofNat 128 (packArg [(1, 1), (8, t), (32, id)]))).log 0x8007 .info 0xFF (packArg [(8, slot), (8, t), (32, id)]))
          else s.eraseKey slot 0
        s1.spdmRespond .oe36 (spdmHead 0x7E 0 0 ++ leBytes 1 st))

def execSetWeightKey (session : BitVec 16) (payload : List Byte) (s : State) : Host.Outcome State Fault Refusal :=
  s.act fun s => (s.vendor session.toNat 1 payload)
def execEraseWeightKey (session : BitVec 16) (payload : List Byte) (s : State) : Host.Outcome State Fault Refusal :=
  s.act fun s => (s.vendor session.toNat 2 payload)

/-- SPDM_RESPONSE_READY: the response stands in RSP_BUF with its length, GO is clear. -/
def execSpdmResponseReady (part : Part) (s : State) : Host.Outcome State Fault Refusal :=
  s.act fun s =>
    (match (s.common part).spdmBusy with
      | none => s
      | some r =>
        if !(s.common part).up || (s.common part).waiters.any (fun w => w.consumer == 0) then s
        else s.modCommon part (fun c =>
          let n := min r.length 4096
          let c1 := (List.range 256).foldl (fun c i => if 16 * i < n then c.setReg (ob 0x8101 i) (BitVec.ofNat 128 (leAt r (16 * i) 16)) else c) c
          ({ c1 with spdmBusy := none } : Common).setFld (ob 0x8102 0) 13 14 (2 * n)))

/-- KEY_ERASE: a management write empties the slots named, without a session. -/
def Block.keyErase (s : Block) (slots : Nat) : Block :=
  ((List.range 256).filter (fun i => bitAt slots i && s.ep.bit (wkKey i) 0)).foldl (fun s i => s.eraseKey i 1) s

def execKeyErase (m : Master) (slots : BitVec 256) (s : State) : Host.Outcome State Fault Refusal :=
  s.act fun s =>
    (if !s.ep.up then s else s.mgmtWrite .oe36 m (ob 0x8041 0) (fun s => s.keyErase slots.toNat))

/-- The catch that changes ASSIGNED_TENANT (R344). -/
def Block.tenantAssigned (s : Block) (old new : Nat) : Block :=
  let s1 := ((List.range 256).filter (fun i => s.ep.bit (wkKey i) 0 && s.ep.fld (wkKey i) 1 8 == old)).foldl (fun s i => s.eraseKey i 2) s
  s1.modEp (fun c => ({ c with sessions := c.sessions.filter (fun x => x.tenant != old) } : Common).log 0x8009 .info 0xFF (packArg [(8, old), (8, new)]))

/-! ### Boathouse keys (R350) -/

/-- The catch that retires tenants' keys: the old key is gone, the generation moves on, the new key waits for the DRBG; until it is here the tenant's blocks read as poisoned. -/
def Block.keyRetire (s : Block) (tenants : Nat) : Block :=
  ((List.range 256).filter (bitAt tenants)).foldl (fun s t =>
    (s.modOx (fun x => { x with keyGen := SMap.modify 0 x.keyGen t (fun g => (g + 1) % 256), keyless := insertNat x.keyless t })).modSw (fun c =>
      (c.setBit (ob 0x8051 (t / 64)) (t % 64) false).wantEntropy 2 t)) s

def execKeyRetire (tenants : BitVec 256) (s : State) : Host.Outcome State Fault Refusal :=
  s.act fun s => (if s.sw.up then s.keyRetire tenants.toNat else s)

/-- The DRBG's output for boathouse keys: of all tenants, then SECURE_READY; or of one. -/
def Common.keysReady (c : Common) (arg : Nat) : Common :=
  if arg = 256 then ((List.range 4).foldl (fun c i => c.setFld (ob 0x8051 i) 0 64 (2 ^ 64 - 1)) c).setBit (ob 0x8000 0) 0 true
  else c.setBit (ob 0x8051 (arg / 64)) (arg % 64) true

/-! ### The entropy source (R358) -/

def Common.setEntropy (c : Common) (v : Nat) : Common := c.setFld (ob 0x8000 0) 1 2 v

/-- A test has failed. -/
def Common.entropyFail (c : Common) (test : Nat) : Common :=
  let c1 := if test < 2 then c.count (ob 0x8000 2) (16 * test) 16 1 else c
  (({ c1 with failedAt := c.stroke } : Common).setEntropy enFailed).log 0x8001 .uncorrected 0xFF (packArg [(2, test)])

/-- ENTROPY_TEST_FAIL of a continuous test (0 repetition, 1 proportion), real or injected (point 0x80). -/
def execEntropyTestFail (part : Part) (test : BitVec 2) (inj : Bool) (s : State) : Host.Outcome State Fault Refusal :=
  s.act fun s =>
    let c := s.common part
    (if !c.up || c.entropy != enOk then s
      else if !c.detects 0x80 2 test.toNat inj then s.modCommon part (fun c => c.undetected 0x80 2 test.toNat inj)
      else s.modCommon part (fun c => (if inj then c.injected 0x80 else c).entropyFail test.toNat))

/-- ENTROPY_AUTO_RESTART: 1 ms after FAILED, once. -/
def execEntropyAutoRestart (part : Part) (s : State) : Host.Outcome State Fault Refusal :=
  s.act fun s =>
    let c := s.common part
    (if c.up && c.entropy == enFailed && !c.autoRestarted && decide (cclkMs ≤ c.since c.failedAt) then
      s.modCommon part (fun c => ({ c with autoRestarted := true } : Common).setEntropy enRestart) else s)

/-- ENTROPY_RESTART: a write while FAILED; in any other state it is ignored. -/
def Common.entropyRestart (c : Common) : Common := if c.booted && c.entropy == enFailed then c.setEntropy enRestart else c

def execEntropyRestart (part : Part) (m : Master) (s : State) : Host.Outcome State Fault Refusal :=
  s.act fun s =>
    (s.mgmtWrite part m (ob 0x8000 1) (fun s => s.modCommon part (fun c => c.entropyRestart)))

/-- A consumer is released with an error. -/
def Block.releaseWaiter (s : Block) (p : Part) (w : Waiter) : Block :=
  let kind := if w.consumer = 3 then 0 else w.consumer
  let s1 := s.modCommon p (fun c => ({ c with waiters := c.waiters.erase w } : Common).count (ob 0x8000 3) 0 32 1 |>.logLimited 0x8003 .uncorrected 0xFF 0 (packArg [(2, kind)]))
  match w.consumer with
  | 0 => s1.modCommon p (fun c =>
      let r := c.spdmBusy.getD []
      { c with spdmBusy := some (spdmError errUnspecified),
               sessions := if leAt r 1 1 = 0x64 then c.sessions.filter (fun x => x.id != leAt r 4 2) else c.sessions })
  | 1 => if (s1.common p).lstate w.arg == lsExchange then s1.launchFail p w.arg else s1
  | _ => s1

/-- Whoever has waited 10 ms is released. -/
def Block.releaseLate (s : Block) (p : Part) : Block :=
  ((s.common p).waiters.filter (fun w => decide (10 * cclkMs ≤ (s.common p).since w.since))).foldl (fun s w => s.releaseWaiter p w) s

/-- ENTROPY_TEST_DONE: the start-up or restart test. Whoever has waited 10 ms by then is released (R358). After the start-up test of a power-on the switch generates its boathouse keys; an endpoint, which has none, is ready. -/
def execEntropyTestDone (part : Part) (pass : Bool) (test : BitVec 2) (s : State) : Host.Outcome State Fault Refusal :=
  s.act fun s =>
    let c := s.common part
    (if !c.up || (c.entropy != enStartup && c.entropy != enRestart) then s
      else if !pass then s.modCommon part (fun c => c.entropyFail test.toNat)
      else (s.releaseLate part).modCommon part (fun c =>
        let c1 := ({ c with autoRestarted := false } : Common).setEntropy enOk
        let c2 := if c.entropy == enRestart then c1.log 0x8002 .info 0xFF (packArg [(32, c.since c.failedAt / cclkUs)]) else c1
        if c2.bit (ob 0x8000 0) 0 then c2
        else if part == .oe36 then c2.setBit (ob 0x8000 0) 0 true
        else if c2.waiters.any (fun w => w.consumer == 2 && w.arg == 256) then c2 else c2.wantEntropy 2 256))

/-- A consumer receives the DRBG's output. -/
def Block.serveEntropy (s : Block) (p : Part) (w : Waiter) (out : List Byte) : Block :=
  match w.consumer with
  | 0 => s.modCommon p (fun c =>
      let r := patch (c.spdmBusy.getD []) w.arg (slice out 0 32)
      { c with spdmBusy := some (r ++ slice (Config.dikSign p r) 0 96) })
  | 1 => s.serveLink p w.arg
  | 2 => (s.modCommon p (fun c => c.keysReady w.arg)).modOx (fun x => { x with keyless := if w.arg = 256 then [] else x.keyless.filter (fun t => t != w.arg) })
  | _ => s.modCommon p (fun c =>
      ((List.range 6).foldl (fun c i => c.setFld (ob 0x9000 (i + 1)) 0 64 (leAt out (8 * i) 8)) c).setBit (ob 0x9000 0) 1 true)

/-- DRBG_RESEED: the reseed of the consumer that has waited longest is complete; with a test failure in its CCLK, or outside OK, it is discarded. -/
def execDrbgReseed (part : Part) (testFailed : Bool) (out : List Byte) (s : State) : Host.Outcome State Fault Refusal :=
  s.act fun s =>
    let c := s.common part
    (match c.waiters with
      | [] => s
      | w :: r => if !c.up || testFailed || c.entropy != enOk then s else (s.modCommon part (fun c => { c with waiters := r })).serveEntropy part w out)

/-- ENTROPY_WAIT_EXPIRY: outside OK, whoever has waited 10 ms is released. -/
def execEntropyWaitExpiry (part : Part) (s : State) : Host.Outcome State Fault Refusal :=
  s.act fun s =>
    let c := s.common part
    (if !c.up || c.entropy == enOk then s else s.releaseLate part)

/-! ### Debug unlock (R362) -/

/-- UNLOCK_REQ: a fresh nonce is asked of the DRBG. -/
def Common.unlockReq (c : Common) : Common := if c.up then (c.setBit (ob 0x9000 0) 1 false).wantEntropy 3 0 else c

def execUnlockReq (part : Part) (m : Master) (s : State) : Host.Outcome State Fault Refusal :=
  s.act fun s =>
    (s.mgmtWrite part m (ob 0x9000 0) (fun s => s.modCommon part (fun c => c.unlockReq)))

/-- UNLOCK_DATA and UNLOCK_NONCE as bytes. -/
def Common.unlockData (c : Common) : List Byte := ((List.range 24).map (fun i => leBytes 8 (c.fld (ob 0x9001 i) 0 64))).flatten
def Common.unlockNonce (c : Common) : List Byte := ((List.range 6).map (fun i => leBytes 8 (c.fld (ob 0x9000 (i + 1)) 0 64))).flatten
def Common.debugDigest (c : Common) : List Byte := ((List.range 6).map (fun i => leBytes 8 (c.fld (ob 0x9002 i) 0 64))).flatten

/-- The outcome of an attempt: none when it unlocks, else the argument of DEBUG_UNLOCK_FAILED. -/
def Common.unlockError (c : Common) : Option Nat :=
  let key := slice c.unlockData 0 96
  if !c.bit (ob 0x9000 0) 1 then some 2
  else if !Config.ecdsaVerify key (sha384 (leBytes 8 (c.fld (ob 0x1000 4) 0 64) ++ c.unlockNonce)) (slice c.unlockData 96 96) then some 0
  else if c.debugDigest.all (fun b => b == 0) || sha384 key != c.debugDigest then some 1
  else none

/-- UNLOCK_GO: one attempt for a nonce. -/
def Common.unlockGo (c : Common) : Common :=
  if !c.up then c
  else match c.unlockError with
    | some e => (c.setBit (ob 0x9000 0) 1 false).log 0x900F .uncorrected 0xFF (packArg [(2, e)])
    | none => ((c.setFld (ob 0x9000 0) 0 2 1).log 0x900E .info 0xFF (packArg [(32, leAt (sha384 (slice c.unlockData 0 96)) 0 4)]))

def execUnlockGo (part : Part) (m : Master) (s : State) : Host.Outcome State Fault Refusal :=
  s.act fun s =>
    (s.mgmtWrite part m (ob 0x9000 0) (fun s => s.modCommon part (fun c => c.unlockGo)))

/-- The unlock ends: injection stops with it. -/
def Common.relock (c : Common) : Common := ((c.setBit (ob 0x9000 0) 0 false).setFld (ob 0x9010 0) 8 2 0)

def execLock (part : Part) (m : Master) (s : State) : Host.Outcome State Fault Refusal :=
  s.act fun s =>
    (s.mgmtWrite part m (ob 0x9000 0) (fun s => s.modCommon part (fun c => c.relock)))

end Sys2Proof.Machine
end

