-- ==== Sys2Proof/Machine/Power.lean ====
section
/-!
DEFINITION. Rails, temperatures, resets, firmware and bring-up (18, R407 to R423).
-/
namespace Sys2Proof.Machine

/-! ### Rails and PLLs (R407 to R409, R423) -/

/-- The rails that a part uses, in the order of R407. -/
def railsUsed : Part → Nat
  | .ox720 => 0x3FF
  | .oe36 => 0x30F

abbrev railVopt : Nat := 7

/-- PLL lock bits of a part: CCLK, management, PCIe, and of an OX720 the four HBM stacks. -/
def locksUsed : Part → Nat
  | .ox720 => 0x7F
  | .oe36 => 7

/-! ### What a reset leaves (R417) -/

/-- LAST_RESET and RESET_COUNT. -/
def Common.noteReset (c : Common) (cause : Nat) : Common := (c.setFld (ob 0xA004 1) 0 3 cause).count (ob 0xA004 1) 16 16 1

/-- FABRIC_ID after a reset: an OE36 takes T, P and D from its straps (R34). -/
def Common.strapId (c : Common) : Common :=
  match c.kind with
  | .oe36 => c.setFld (ob 0x1000 5) 0 13 (c.straps % 128)
  | .ox720 => c

/-- The pins that a reset lets go: LOAD_ANN reads 0 (R411), the line is released, FCO is low. -/
def Block.releasePins (s : Block) : Block :=
  let s1 := s.driveAnn 0
  let s2 := if s.ox.hold.drive || s.ox.hold.standDrive.isSome then s1.modSw (fun c => c.emit (.pin "HOLD_WATER_N" 1)) else s1
  (List.range 8).foldl (fun s k => if s.sw.fcoLevel k then s.modSw (fun c => c.emit (.pin ("FCO" ++ toString k) 0)) else s) s2

/-- A power-on reset: everything at its default, the straps sampled, the rails good and the PLLs locked. The comb module stays as it is (R306). -/
def Block.powerOn (s : Block) (p : Part) (straps : Nat) : Block :=
  let fresh := fun (c : Common) =>
    ((({ Common.atReset p with straps := straps, out := c.out, fci := c.fci }.setFld (ob 0xA001 0) 0 10 (railsUsed p)).setFld (ob 0xA003 0) 0 7 (locksUsed p)).strapId)
  match p with
  | .oe36 => { s with ep := fresh s.ep, oe := {} }
  | .ox720 => let s1 := s.releasePins
              { s1 with sw := (fresh s1.sw).setFld (ob 0x4000 0) 1 2 (s1.sw.fld (ob 0x4000 0) 1 2),
                        ox := { combSuitable := s1.ox.combSuitable, combFlags := s1.ox.combFlags, combRst := s1.ox.combRst, ssyncLow := s1.ox.ssyncLow } }

/-- PORST_N is asserted and released. -/
def execPorstN (part : Part) (straps : BitVec 8) (s : State) : Host.Outcome State Fault Refusal :=
  s.actReset part (true) fun s =>
    (s.powerOn part (straps.toNat % (match part with
      | .oe36 => 128
      | .ox720 => 32)))

/-- What a warm reset keeps of a part, over the defaults: straps, firmware and its digest, rails and locks, LAST_RESET and RESET_COUNT; of an OX720 the token view, the comb module and the boathouse keys. -/
def Common.warm (c : Common) (cause : Nat) : Common :=
  let keep := fun (b : Common) (key lo w : Nat) => b.setFld key lo w (c.fld key lo w)
  let base : Common := { Common.atReset c.kind with straps := c.straps, out := c.out, fci := c.fci, fwDigest := c.fwDigest, voptBad := c.voptBad, inReset := true }
  let b1 := (keep (keep base (ob 0xA001 0) 0 10) (ob 0xA003 0) 0 7).setFld (ob 0xA005 0) 0 2 (if c.fwState = 2 then 2 else 0)
  let b2 := (((keep b1 (ob 0xA004 1) 0 32).noteReset cause).strapId)
  match c.kind with
  | .oe36 => b2
  | .ox720 => keep (keep (keep (keep (keep (keep (keep b2 (ob 0x3010 0) 0 2) (ob 0x4000 0) 1 2) (ob 0x8000 0) 0 1) (ob 0x8051 0) 0 64) (ob 0x8051 1) 0 64) (ob 0x8051 2) 0 64) (ob 0x8051 3) 0 64

/-- Fenced tiles stay fenced; the logical tiles, ascending, take the lowest tiles that are not (R193). A group that none is left for is withdrawn. -/
def Block.rebuildTiles (s : Block) (fenced : List Nat) : Block :=
  let free := (List.range 104).filter (fun p => !fenced.contains p)
  let s1 := s.modSw (fun c =>
    let c1 := fenced.foldl (fun c p => c.setTile p 3 0x7F) c
    let c2 := (List.range free.length).foldl (fun c i =>
      let p := free.getD i 0
      if i < 96 then (c.setTile p 0 i).setFld (ob 0x6001 i) 0 7 p else c.setTile p 1 0x7F) c1
    c2)
  ((List.range 16).filter (fun g => decide (free.length < 6 * g + 6))).foldl (fun s g => s.withdraw g) s1

/-- Every link of a part that is ACTIVE leaves with cause RESET. -/
def Block.dropLinks (s : Block) (p : Part) : Block := (linksOf p).foldl (fun s pp => s.leaveActive p pp 5) s

/-- A warm reset takes effect. -/
def Block.warmReset (s : Block) (p : Part) (cause : Nat) : Block :=
  let s1 := s.dropLinks p
  match p with
  | .oe36 => { s1 with ep := s1.ep.warm cause, oe := {} }
  | .ox720 =>
    let s2 := s1.releasePins
    let fenced := (List.range 104).filter (fun q => s2.sw.tileState q == 3)
    let x := s2.ox
    let s3 : Block := { s2 with sw := s2.sw.warm cause,
                                ox := { bh := x.bh, bhPoison := x.bhPoison, bhOwner := x.bhOwner, keyGen := x.keyGen, keyless := x.keyless, gwWp := x.gwWp, combSuitable := x.combSuitable, combFlags := x.combFlags, combRst := x.combRst, ssyncLow := x.ssyncLow } }
    s3.rebuildTiles fenced

/-- Every launch under way ends as for a timeout; no ABANDON bundle runs. -/
def Block.endLaunches (s : Block) : Block := (s.ox.launches.map (fun l => l.key)).foldl (fun s k => s.timeoutLaunch k false) s

/-- The stroke engine loses its launches, its loop stack, the arrival registers and the signal counters, and drives nothing; a rack that holds water keeps it suspended, and a line that it drives it releases at a multiple of 256 (R260). -/
def Block.clearEngine (s : Block) (st : Nat) : Block :=
  let s0 := s.driveAnn 0
  s0.modOx (fun x => { x with
    eng := { state := if x.eng.state = engHeld then engHeld else st, before := st },
    hold := { x.hold with crabAt := none, crabbed := false, limited := x.hold.drive },
    sc := [], scPend := [], arv := [], arvPend := [], ready := [], hallHeld := [], ckptWait := false, retiring := [] })

def Block.idleState (s : Block) : Nat := if s.ox.imageOn then engIdle else engNoImage

/-- A stroke-engine reset takes effect; until RESET_DONE the engine is in NO_IMAGE (R246). -/
def Block.strokeReset (s : Block) : Block := s.endLaunches.clearEngine engNoImage

/-- A plane reset takes effect: links and fibre profiles, cells, VOQs, contents of queue instances, launches and landing go; the tiles keep their registers. -/
def Block.planeReset (s : Block) : Block :=
  let s1 := (s.endLaunches.dropLinks .ox720).clearEngine s.idleState
  let s2 := (linksOf .ox720).foldl (fun s pp => s.toDetect .ox720 pp) s1
  let s3 := (List.range 16).foldl (fun s k => (List.range 4).foldl (fun s pos => s.dropProfile k pos) s) s2
  let s4 := s3.modOx (fun x => { x with
    cells := [], freed := (List.range x.fresh).filter (fun k => !x.retired.contains k), voqs := [], egress := [], egressLast := [], flight := [], withheld := [], fullWaiting := [], shapers := [], unitQ := [], gptr := [], aptr := [],
    groups := x.groups.map (fun q => (q.1, { regs := q.2.regs, mask := q.2.mask, ksel := q.2.ksel })), recomps := [], landed := [], results := [], stateWrites := [], launches := [], heldResults := [], lateSlots := [], answered := [], timedOut := [],
    mirrorsOut := [], gwHeld := [], bridgeDownAt := some s.sw.stroke })
  let s5 := ((List.range 16).map (fun g => 0xA0 + g) ++ (List.range 64).map (fun f => 0x60 + f)).foldl (fun (s : Block) (ii : Nat) => s.instClear ii) s4
  s5.modSw (fun c => (({ c with txq := [], rx := [] } : Common).evtClear.setAbove false).drain c.evtPending.length)

/-- Issued descriptors of copy engine `e` complete with ABORTED, detail RESET; its queues keep running (R418). -/
def Block.resetCopyEngine (s : Block) (e : Nat) : Block :=
  (s.oe.runs.filter (fun r => r.engine == e)).foldl (fun s r =>
    let mine := s.oe.txns.filter (fun t => match t.owner.desc with
      | some d => d.1 == r.q && d.2 == r.n
      | none => false)
    (mine.foldl (fun s t => s.dropTxn t true) s).completeDesc r.q r.n r.words stAborted 2 r.retries) s

/-- Has a part the unit that a block reset names (R418)? Replay buffers are not allowed. -/
def blockUnitOk (p : Part) (unitKind unit : Nat) : Bool :=
  match unitKind, p with
  | 0, .oe36 => decide (unit < 16)
  | 0, .ox720 => decide (unit < 72) || unit == 0x58
  | 1, .ox720 => decide (unit < 16)
  | 2, .ox720 => decide (0x60 ≤ unit) && decide (unit ≤ 0xB0)
  | 3, .ox720 => decide (unit < 16)
  | 4, .oe36 => decide (unit < 16)
  | _, _ => false

/-- Which tile groups a launch uses. -/
def SLaunch.uses (l : SLaunch) (g : Nat) : Bool := (List.range l.entry.ngroups).any (fun i => (l.entry.group0 + i) % 16 == g)

/-- A block reset takes effect (R418). -/
def Block.blockReset (s : Block) (p : Part) (unitKind unit : Nat) : Block :=
  match unitKind with
  | 0 => (s.leaveActive p unit 5).toDetect p unit
  | 1 => (s.leaveActive p (0x48 + unit) 5).toDetect p (0x48 + unit)
  | 2 =>
    if unit = 0xB0 then s.modSw (fun c => (c.evtClear.setAbove false).drain c.evtPending.length)
    else s.instClear unit
  | 3 =>
    let s1 := ((s.ox.launches.filter (fun l => l.uses unit)).map (fun l => l.key)).foldl (fun s k => s.timeoutLaunch k true) s
    s1.modOx (fun x => { x with groups := SMap.drop x.groups unit, landed := x.landed.filter (fun e => e.g != unit),
                                results := x.results.filter (fun r => r.g != unit), stateWrites := x.stateWrites.filter (fun w => w.g != unit) })
  | _ => s.resetCopyEngine unit

/-! ### Requests, ballast, completion (R419) -/

/-- A reset takes effect. -/
def Block.takeReset (s : Block) (p : Part) (r : PendingReset) : Block :=
  let s0 := s.modCommon p (fun c => { c with resetPending := none })
  if r.kind = 0 then (s0.warmReset p r.cause).modCommon p (fun c => { c with resetRunning := some r })
  else
    let s1 := s0.modCommon p (fun c => ({ c with resetRunning := some r } : Common).noteReset r.cause)
    if r.kind = 1 then s1.planeReset else if r.kind = 2 then s1.strokeReset else s1.blockReset p r.unitKind r.unit

/-- A reset is requested: a bow gives up the token before a warm, plane or stroke-engine reset; of two that wait the wider one stays, of two equally wide the first. -/
def Block.requestReset (s : Block) (p : Part) (r : PendingReset) : Block :=
  s.modCommon p (fun c =>
    if c.inReset then c
    else
      let c1 := if r.kind ≤ 2 then c.yieldToken else c
      match c1.resetPending with
      | none => { c1 with resetPending := some r }
      | some o => if r.kind < min 2 o.kind then { c1 with resetPending := some r } else c1)

/-- WRST_N low for 1 µs. -/
def execWrstN (part : Part) (s : State) : Host.Outcome State Fault Refusal :=
  s.act fun s => (s.requestReset part ⟨0, 1, 0, 0⟩)

/-- WARM_RESET, PLANE_RESET, STROKE_RESET and BLOCK_RESET at a catch. -/
def execWarmReset (part : Part) (s : State) : Host.Outcome State Fault Refusal :=
  s.act fun s => (s.requestReset part ⟨0, 2, 0, 0⟩)
def execPlaneReset (s : State) : Host.Outcome State Fault Refusal :=
  s.act fun s => (s.requestReset .ox720 ⟨1, 4, 0, 0⟩)
def execStrokeReset (s : State) : Host.Outcome State Fault Refusal :=
  s.act fun s => (s.requestReset .ox720 ⟨2, 5, 0, 0⟩)
def execBlockReset (part : Part) (unitKind : BitVec 3) (unit : BitVec 8) (s : State) : Host.Outcome State Fault Refusal :=
  s.act fun s =>
    (if blockUnitOk part unitKind.toNat unit.toNat then s.requestReset part ⟨3, 6, unitKind.toNat, unit.toNat⟩ else s)

/-- RESET_BALLAST_DONE: ballast has brought VCORE down; the requested reset takes effect. -/
def execResetBallastDone (part : Part) (s : State) : Host.Outcome State Fault Refusal :=
  s.actReset part ((match (s.common part).resetPending with
    | some r => r.kind == 0
    | none => false)) fun s =>
    (match (s.common part).resetPending with
      | none => s
      | some r => s.takeReset part r)

/-- Links may launch from now on: a switch that rejoins a rack does not claim, and the bridge has been down since now at the latest. -/
def Block.linksReady (s : Block) (p : Part) : Block :=
  match p with
  | .oe36 => s
  | .ox720 => s.modOx (fun x => { x with bridgeDownAt := some s.sw.stroke })

/-- RESET_DONE: the unit is ready again. -/
def execResetDone (part : Part) (s : State) : Host.Outcome State Fault Refusal :=
  s.act fun s =>
    (match (s.common part).resetRunning with
      | none => s
      | some r =>
        if 4 ≤ r.kind then s
        else
          let s0 := s.modCommon part (fun c => { c with resetRunning := none })
          let s1 :=
            if r.kind = 0 then (s0.modCommon part (fun c => { c with inReset := false, booted := c.fwState == 2 })).linksReady part
            else if r.kind = 1 then (List.range 16).foldl (fun s k => s.hallRelaunch k) s0
            else if r.kind = 2 then (s0.modEng (fun e => e.to s0.idleState)).engineKick
            else if r.unitKind = 1 && s0.sw.hstate r.unit != psDisabled && !s0.sw.isDark then s0.surveyStart r.unit
            else s0
          s1.modCommon part (fun c => c.log 0xA004 .info 0xFF (packArg [(3, r.cause)])))

/-! ### Rails, temperatures and PLLs -/

/-- RAIL_FAULT: VOPT leaves the hall ports dark; any other rail holds the part in reset until PORST_N. -/
def execRailFault (part : Part) (rail : BitVec 4) (s : State) : Host.Outcome State Fault Refusal :=
  s.act fun s =>
    let r := rail.toNat
    (if !bitAt (railsUsed part) r then s
      else
        let bad := fun (sev : Sev) (s : Block) => s.modCommon part (fun c => (c.setBit (ob 0xA001 0) r false).log 0xA001 sev 0xFF (packArg [(4, r)]))
        if r = railVopt then
          (let was := s.sw.isDark
           ((bad .uncorrected s).modSw (fun c => { c with voptBad := true })).lightChanged was)
        else
          (bad .fatal (s.dropLinks part)).modCommon part (fun c => { c with inReset := true, booted := false, resetRunning := some ⟨4, 0, 0, 0⟩ }))

/-- RAIL_GOOD: the rail is back within tolerance; with VOPT the hall ports leave DARK as their rings acquire (R311). -/
def execRailGood (part : Part) (rail : BitVec 4) (s : State) : Host.Outcome State Fault Refusal :=
  s.act fun s =>
    let r := rail.toNat
    (if !bitAt (railsUsed part) r then s
      else s.modCommon part (fun c =>
        let c1 := c.setBit (ob 0xA001 0) r true
        if r = railVopt then { c1 with voptBad := false } else c1))

/-- A temperature in 0.1 °C as the object holds it. -/
def tempOf (w : Nat) : Int := toSigned 16 w
def Common.throttleC (c : Common) : Int := tempOf (c.fld (ob 0xA002 0x10) 0 16)
def Common.tripC (c : Common) : Int := tempOf (c.fld (ob 0xA002 0x10) 16 16)

/-- What the limits of a sensor are less by: an OX720's HBM stacks act at 10 °C below the dies (R437). -/
def Common.cooler (c : Common) (sensor : Nat) : Int := if c.kind == .ox720 && decide (12 ≤ sensor) then 100 else 0

/-- The sensors that a part has (R437). -/
def Common.sensors (c : Common) : Nat := match c.kind with
  | .oe36 => 8
  | .ox720 => 16

/-- Does a temperature reading act: a real one, or an injected one of the sensor that ARG names (point 0xA0)? -/
def Common.heats (c : Common) (sensor : Nat) (inj : Bool) : Bool := !inj || (c.injects 0xA0 && c.fld (ob 0x9010 1) 0 4 == sensor)

/-- Has a sensor reached a limit? -/
def Common.reaches (c : Common) (limit : Int) (sensor temp : Nat) : Bool := decide (limit - c.cooler sensor ≤ tempOf temp)

/-- TEMP_THROTTLE: a sensor reads a temperature; at THROTTLE_C the part throttles. -/
def execTempThrottle (part : Part) (sensor : BitVec 4) (temp : BitVec 16) (inj : Bool) (s : State) : Host.Outcome State Fault Refusal :=
  s.act fun s =>
    let c := s.common part
    (if c.inReset || decide (c.sensors ≤ sensor.toNat) then s
      else if !c.heats sensor.toNat inj then s.modCommon part (fun c => c.undetected 0xA0 4 sensor.toNat inj)
      else s.modCommon part (fun c =>
        let c1 := (if inj then c.injected 0xA0 else c).setFld (ob 0xA002 sensor.toNat) 0 16 temp.toNat
        if c.reaches c.throttleC sensor.toNat temp.toNat ∧ !c.bit (ob 0xA001 0) 10 then
          (c1.setBit (ob 0xA001 0) 10 true).log 0xA002 .corrected 0xFF (packArg [(4, sensor.toNat), (16, temp.toNat)])
        else c1))

/-- THROTTLE_RELEASE: every sensor's reading; 5 °C below THROTTLE_C the cap returns. -/
def execThrottleRelease (part : Part) (temps : List (BitVec 16)) (s : State) : Host.Outcome State Fault Refusal :=
  s.act fun s =>
    (if (s.common part).inReset then s
      else s.modCommon part (fun c =>
        let c1 := (List.range (min c.sensors temps.length)).foldl (fun c i => c.setFld (ob 0xA002 i) 0 16 (temps.getD i 0).toNat) c
        let cool := (List.range c.sensors).all (fun i => decide (tempOf (c1.fld (ob 0xA002 i) 0 16) + 50 ≤ c.throttleC - c.cooler i))
        if cool then c1.setBit (ob 0xA001 0) 10 false else c1))

/-- Does a reading trip the part? -/
def Common.trips (c : Common) (sensor temp : Nat) (inj : Bool) : Bool :=
  !c.inReset && decide (sensor < c.sensors) && c.heats sensor inj && c.reaches c.tripC sensor temp

/-- TEMP_TRIP: at TRIP_C a warm reset with cause trip, held until PORST_N. -/
def execTempTrip (part : Part) (sensor : BitVec 4) (temp : BitVec 16) (inj : Bool) (s : State) : Host.Outcome State Fault Refusal :=
  s.actReset part ((s.common part).trips sensor.toNat temp.toNat inj) fun s =>
    let c := s.common part
    (if c.inReset || decide (c.sensors ≤ sensor.toNat) then s
      else if !c.heats sensor.toNat inj then s.modCommon part (fun c => c.undetected 0xA0 4 sensor.toNat inj)
      else
        let s1 := s.modCommon part (fun c => (if inj then c.injected 0xA0 else c).setFld (ob 0xA002 sensor.toNat) 0 16 temp.toNat)
        if c.trips sensor.toNat temp.toNat inj then
          (let s2 := s1.modCommon part (fun c => (c.log 0xA003 .fatal 0xFF (packArg [(4, sensor.toNat), (16, temp.toNat)])).yieldToken)
           (s2.takeReset part ⟨0, 3, 0, 0⟩).modCommon part (fun c => { c with resetRunning := some ⟨4, 3, 0, 0⟩ }))
        else s1)

/-- PLL_UNLOCK: 0 management, 1 PCIe, 2 to 5 an HBM stack. -/
def execPllUnlock (part : Part) (which : BitVec 3) (s : State) : Host.Outcome State Fault Refusal :=
  s.act fun s =>
    let w := which.toNat
    (if !bitAt (locksUsed part) (w + 1) then s
      else s.modCommon part (fun c => (c.setBit (ob 0xA003 0) (w + 1) false).log 0xA005 .fatal 0xFF (packArg [(3, w)])))

/-- ANNOUNCE_EFFECT: 3,500 CCLK after a value was first driven, it applies (R411). -/
def execAnnounceEffect (s : State) : Host.Outcome State Fault Refusal :=
  s.act fun s =>
    (match s.ox.annPend with
      | [] => s
      | e :: r => if s.sw.inReset || decide (s.sw.since e.2.1 < 3500) then s
        else s.modOx (fun x => { x with annEffect := e.1, annBase := e.2.2, annPend := r }))

/-! ### Firmware and bring-up (R420, R421) -/

/-- A write of FW_GO with FW_LEN set while the part waits for an image. -/
def Block.fwGo (s : Block) (p : Part) : Block :=
  s.modCommon p (fun c => if c.fwState = 0 ∧ c.fld (ob 0xA005 0) 32 24 ≠ 0 then c.setFld (ob 0xA005 0) 0 2 1 else c)

def execFwGo (part : Part) (m : Master) (s : State) : Host.Outcome State Fault Refusal :=
  s.act fun s =>
    (s.mgmtWrite part m (ob 0xA005 0) (fun s => s.fwGo part))

/-- FW_CHECK_DONE: an image that passes runs and is measured; one that fails is rejected. -/
def execFwCheckDone (part : Part) (pass : Bool) (digest : BitVec 384) (s : State) : Host.Outcome State Fault Refusal :=
  s.act fun s =>
    (if (s.common part).inReset || (s.common part).fwState != 1 then s
      else s.modCommon part (fun c =>
        if pass then ({ c with fwDigest := digest } : Common).setFld (ob 0xA005 0) 0 2 2
        else (c.setFld (ob 0xA005 0) 0 2 0).log 0xA006 .uncorrected 0xFF (packArg [(24, c.fld (ob 0xA005 0) 32 24)])))

/-- BRINGUP_DONE: tiles that failed their self-test are fenced, links may launch; a switch will claim for start master when its first crew port is ACTIVE. -/
def execBringupDone (part : Part) (fencedTiles : BitVec 104) (s : State) : Host.Outcome State Fault Refusal :=
  s.act fun s =>
    let c := s.common part
    (if c.inReset || c.booted || c.fwState != 2 then s
      else
        let bad := match part with
          | .oe36 => []
          | .ox720 => (List.range 104).filter (fun p => bitAt fencedTiles.toNat p)
        let s1 := bad.foldl (fun s p => s.fenceTile p) s
        let s2 := (s1.modCommon part (fun c => ({ c with booted := true } : Common).log 0xA007 .info 0xFF (packArg [(7, bad.length)]))).linksReady part
        match part with
        | .oe36 => s2
        | .ox720 => s2.modOx (fun x => { x with claimDue := true }))

end Sys2Proof.Machine
end

