-- ==== Sys2Proof/Machine/Catch.lean ====
section
/-!
DEFINITION. The catch (17, R397): every staged value takes effect, then what the owning chapters make of it.
-/
namespace Sys2Proof.Machine

/-! ### Values -/

/-- Bits of fields applied at catch that the common rule does not store: the clear mask COLL_VIA_TWIN, and FENCED, which its own operation sets and clears. -/
def ownRule (key : Nat) : Nat := if key = ob 0x9040 0 then 65535 else if key = ob 0x9041 0 then 2 else 0

/-- Bits that a catch stores: those applied at catch, but for actions and fields with a rule of their own. -/
def ObjRow.storeMask (r : ObjRow) (p : Part) (key : Nat) : Obj := r.catchMask p &&& ~~~ r.hiddenMask p &&& ~~~ (BitVec.ofNat 128 (ownRule key))

/-- A shadow becomes the applied value. -/
def Common.applyShadow (c : Common) (e : Nat × Obj) : Common :=
  match findRow c.kind e.1 with
  | none => c
  | some r => let m := r.storeMask c.kind e.1
              c.setReg e.1 ((c.reg e.1 &&& ~~~ m) ||| (e.2 &&& m))

def Common.applyShadows (c : Common) (l : List (Nat × Obj)) : Common := l.foldl Common.applyShadow c

/-- Bit or field of the old and of the new applied value of an object. -/
def rose (c old : Common) (key lo : Nat) : Bool := c.bit key lo && !old.bit key lo
def fell (c old : Common) (key lo : Nat) : Bool := !c.bit key lo && old.bit key lo
def Common.changed (c old : Common) (key : Nat) : Bool := c.reg key != old.reg key

/-! ### Links and hall ports (12, 13) -/

/-- LINK_CTL: ENABLE, DOCK, ERGO and RELAUNCH (R296, R297, R300), from the value `old` and the staged value `x`. A catch leaves them to the end of its CCLK, since a cause of R288 goes before them. The counts of an ergo test that the catch ends come from the lanes: free values. -/
def Block.linkCaught (s : Block) (p : Part) (pp old x : Nat) : Block :=
  let k := ob 0x3000 pp
  let c := s.common p
  let rose := fun i => c.bit k i && !bitAt old i
  let fell := fun i => !c.bit k i && bitAt old i
  if fell 0 then (s.leaveActive p pp 4).toDetect p pp
  else
    let s1 := if rose 2 then s.dockStart p pp else if fell 2 then s.dockEnd p pp else s
    let mode := c.fld k 3 2
    let was := field old 3 2
    let s2 :=
      if mode = was then s1
      else if mode ≠ 0 then s1.ergoStart p pp
      else if (s1.common p).lstate pp == lsErgo then
        ((s1.ergoEnd p pp was (Config.freeWord s1.free).toNat (Config.freeWord (s1.free + 1)).toNat).tick).tick
      else s1
    let s3 := if rose 1 then s2.modLink p pp (fun l => { l with idleSince := c.stroke }) else s2
    if bitAt x 6 then s3.relaunch p pp else s3

/-- The bridge token: PEER_FAILED and TOKEN_RETURN (R299). -/
def Block.tokenCaught (s : Block) (old : Common) (x : Obj) : Block :=
  let s1 := if rose s.sw old (ob 0x3010 0) 2 then s.peerFailed else s
  if bitsOf x 3 1 = 1 then s1.tokenReturn else s1

/-- COMB_EN and COMB_RESET of the CMIS host (R306). -/
def Block.combCaught (s : Block) (old : Common) (x : Obj) : Block :=
  let en := s.sw.bit (ob 0x4000 1) 0
  let s1 := if s.sw.combHost && s.ox.combSuitable && en != old.bit (ob 0x4000 1) 0 then
      s.modSw (fun c => if en then c.emit (.pin "CMIS_MODULE_READY" 1) else (c.emit (.pin "CMIS_LOW_POWER" 1)).setBit (ob 0x4000 0) 2 false)
    else s
  if bitsOf x 1 1 = 1 then s1.combReset else s1

/-- A hall port's control (R311, R316): a port that comes to ROTA waits for the next change of e. -/
def Block.portCaught (s : Block) (old : Common) (k : Nat) (x : Obj) : Block :=
  let s0 := if s.sw.fld (ob 0x4010 k) 1 2 != old.fld (ob 0x4010 k) 1 2 then s.modHport k (fun h => { h with rotaE := some s.rotaE }) else s
  let s1 := s0.portCtl k
  if bitsOf x 5 1 = 1 then s1.hallRelaunch k else s1

/-- Coordinates (R34): an OX720 takes its ID. -/
def Common.takePlace (c : Common) : Common := c.setFld (ob 0x1000 5) 0 13 (c.fld (ob 0x5200 0) 4 6 * 16 + c.fld (ob 0x5200 0) 0 4)

/-! ### Queue instances (07) -/

/-- A catch changes a queue instance: it is empty again (R160); a replay buffer has no flit left to send again. -/
def Block.instCaught (s : Block) (old : Common) (ii : Nat) : Block :=
  if !([0x5301, 0x5302, 0x5303, 0x5305].any (fun i => s.sw.changed old (ob i ii))) then s
  else if ii < 0x60 then s.modSw (fun c => c.modLink ii (fun l => { l with relCount := l.txCount, replayBuf := [], ends := [] }))
  else if ii = 0xB0 then s.modSw (fun c => ((c.evtClear.setAbove false).drain c.evtPending.length).pumpLog)
  else s.instClear ii

/-! ### The sweep array and images (09, 11) -/

/-- The rotation table that every tile group copies (R212): 32 KiB of ROT_REGION, and the matrices that a poisoned block leaves unusable. -/
def Block.readRotation (s : Block) : Block :=
  let a := s.sw.fld (ob 0x6010 1) 0 20 * 2 ^ 20
  if s.sw.fld (ob 0x6010 1) 20 20 = 0 ∨ !s.sw.secureReady then s.modOx (fun x => { x with rotTable := [], rotPoison := List.range 16 })
  else s.modOx (fun x => { x with rotTable := (x.bhRead a 32768).1, rotPoison := (List.range 16).filter (fun i => (x.bhRead (a + 2048 * i) 2048).2) })

/-- The ranges and the arrival map of the image that the objects give. -/
def Common.image (c : Common) : Image :=
  { bundleBase := c.fld (ob 0x6100 0) 0 16, bundleCount := c.fld (ob 0x6100 0) 16 17, patBase := c.fld (ob 0x6100 1) 0 12,
    patCount := c.fld (ob 0x6100 1) 12 13, arv := (List.range 64).map c.arvEntry }

/-- The bytes of the DIGEST (R270). -/
def Common.imageBytes (c : Common) : List Byte :=
  let w := fun (k : Nat) => leBytes 8 (c.fld k 0 64)
  let i := c.image
  ((List.range 3).map (fun j => w (ob 0x6100 j))).flatten
    ++ ((List.range 256).map (fun e => w (ob 0x6110 e) ++ w (ob 0x6111 e))).flatten
    ++ ((List.range 64).map (fun a => w (ob 0x6120 a))).flatten
    ++ ((List.range i.patCount).map (fun n => (List.range 128).map (fun j => BitVec.ofNat 8 (c.patByte (i.patBase + n) j)))).flatten
    ++ ((List.range i.bundleCount).map (fun n => leBytes 64 (c.bundle (i.bundleBase + n)))).flatten

/-- The committed image becomes active, the previous one retires (R270); an engine without an image is IDLE (R246). Launches that have begun go on under the previous one (R40). -/
def Block.activateImage (s : Block) (old : Common) : Block :=
  let d := sha384 s.sw.imageBytes
  let s1 := s.modOx (fun x => { x with
    retiring := if x.imageOn then x.retiring ++ [(x.imageNo, old.image)] else x.retiring, imageOn := true, imageNo := x.imageNo + 1 })
  let s2 := s1.pruneImages.modSw (fun c =>
    ((List.range 6).foldl (fun c i => c.setReg (ob 0x6101 i) (BitVec.ofNat 128 (leAt d (8 * i) 8))) c).log 0x5004 .info 0xFF (packArg [(32, leAt d 0 4)]))
  (s2.modEng (fun e => if e.inner = engNoImage then e.to engIdle else e)).engineKick

/-! ### Contexts (10) -/

/-- The residual array of a context becomes zero. -/
def Block.clearResidual (s : Block) (ctx : Nat) : Block :=
  let cfg := s.sw.cfg ctx
  if !cfg.residual then s
  else
    let a := (s.sw.optRegion false).1 + (cfg.areaBase + cfg.resOff) * 2 ^ 20
    let b := (s.sw.optRegion false).1 + (cfg.areaBase + cfg.areaSize) * 2 ^ 20
    s.modOx (fun x => { x with
      bh := x.bh.filter (fun e => decide (e.1 < a) || decide (b ≤ e.1)),
      bhPoison := x.bhPoison.filter (fun k => decide (k < a / 256) || decide (b / 256 ≤ k)),
      bhOwner := x.bhOwner.filter (fun e => decide (e.1 < a / 256) || decide (b / 256 ≤ e.1)) })

/-- A catch changes a context (R221, R222, R373): the part's count is 0, launches under way keep the old values and number. -/
def Block.contextCaught (s : Block) (p : Part) (ctx : Nat) : Block :=
  match p with
  | .oe36 => s.modEp (fun c => c.setLaunchNo ctx 0)
  | .ox720 =>
    let s1 := (s.modSw (fun c => c.setLaunchNo ctx 0)).modOx (fun x => { x with
      launches := x.launches.map (fun l => if l.ctx = ctx then { l with stale := true } else l),
      timedOut := x.timedOut.filter (fun t => t.1 % 4096 != ctx), answered := x.answered.filter (fun t => t.1 % 4096 != ctx),
      lateSlots := x.lateSlots.filter (fun e => e.key % 4096 != ctx), twinLaunch := SMap.drop x.twinLaunch ctx })
    (s1.clearTwinRecord ctx).clearResidual ctx

/-- The context of an object of a context's ranges. -/
def contextOf (key : Nat) : Option Nat :=
  let i := key / 256
  if 0x7100 ≤ i ∧ i ≤ 0x713F then some ((i % 16) * 256 + key % 256) else none

/-! ### Translation and deduplication at the OE36 (03, 16) -/

/-- A catch changes a translation context (R46): its entries go, its walks in flight install nothing, what still waits is translated under the new values. -/
def Block.xlatCaught (s : Block) (ctx : Nat) : Block :=
  let s1 := (s.tlbDrop (fun e => e.ctx == ctx)).modOe (fun o => { o with
    misses := o.misses.map (fun m => if m.walking && m.ctx == ctx then { m with stale := true } else m) })
  if s1.ep.ctxEn ctx then s1
  else
    let gone := s1.oe.misses.filter (fun m => m.ctx == ctx && !m.walking)
    let s2 := s1.modOe (fun o => { o with misses := o.misses.filter (fun m => !(m.ctx == ctx && !m.walking)) })
    (gone.foldl (fun s m => m.clients.foldl (fun s c => s.deliver (.fail causeDisabled 0 0) c) s) s2).runsPump.lsPump

/-- DEDUP_EN is set, or DEDUP_BASE changes under it: the home clears the region (R368). -/
def Block.dedupCaught (s : Block) (old : Common) : Block :=
  if s.ep.dedupEn && (!old.dedupEn || s.ep.dedupBase != old.dedupBase) then s.modOe (fun o => { o with clearing := true, dedup := [] }) else s

/-! ### What a staged value makes happen -/

/-- The objects of one index range, by key. -/
def Block.caughtOe (s : Block) (old : Common) (key : Nat) (x : Obj) : Block :=
  let i := key / 256
  let sub := key % 256
  if i = 0x8001 then (if s.ep.changed old key then s.tenantAssigned (old.fld key 0 8) (s.ep.fld key 0 8) else s)
  else if key = ob 0x9030 1 then s.dedupCaught old
  else if i = 0x9040 then s.modEp (fun c => c.collViaTwin (bitsOf x 0 16))
  else if i = 0xB100 ∨ i = 0xB101 then (if s.ep.changed old key then s.xlatCaught sub else s)
  else if 0xB000 ≤ i ∧ i ≤ 0xB003 then
    let q := (i - 0xB000) * 256 + sub
    if rose s.ep old key 0 then s.queueOn q else if fell s.ep old key 0 then s.queueOff q else s
  else if i = 0x2102 then s.modEp (fun c => c.pumpLog)
  else s

def Block.caughtOx (s : Block) (old : Common) (key : Nat) (x : Obj) : Block :=
  let i := key / 256
  let sub := key % 256
  if i = 0x3010 then s.tokenCaught old x
  else if key = ob 0x4000 1 then s.combCaught old x
  else if i = 0x4002 then s.wlRestore (bitsOf x 22 16)
  else if i = 0x4010 then s.portCaught old sub x
  else if i = 0x5200 then s.modSw (fun c => c.takePlace)
  else if i = 0x5301 ∨ i = 0x5302 ∨ i = 0x5303 then s.instCaught old sub
  else if i = 0x5410 then (if s.sw.changed old key then s.policeCaught sub else s)
  else if i = 0x5305 then (s.instCaught old sub).modSw (fun c => c.fcoDrive { c with regs := old.regs })
  else if i = 0x6002 then ((List.range 64).filter (fun j => bitsOf x j 1 == 1)).foldl (fun s j => s.fenceTile (64 * sub + j)) s
  else if key = ob 0x6010 1 then (if s.sw.changed old key then s.readRotation else s)
  else if i = 0x8050 then s.keyRetire (bitsOf x 0 64 * 2 ^ (64 * sub))
  else if i = 0x9041 then
    let s1 := if bitsOf x 2 1 = 1 then s.standEnd else s
    if bitsOf x 1 1 = 1 then s1.fenceColl else s1.unfence
  else if key = ob 0xC020 0 then (if s.sw.gwMode != old.fld key 0 2 then s.gwSelect else s)
  else s

def Block.caught (s : Block) (p : Part) (old : Common) (e : Nat × Obj) : Block :=
  let key := e.1
  if key / 256 = 0x3000 then s.modCommon p (fun c => { c with ctlDue := c.ctlDue ++ [(key % 256, old.fld key 0 64, bitsOf e.2 0 64)] })
  else if key / 256 = 0x9010 then s.modCommon p (fun c => { c with injDone := false, injSeen := 0 })
  else
    match contextOf key with
    | some ctx => if (s.common p).changed old key then s.contextCaught p ctx else s
    | none => match p with
      | .oe36 => s.caughtOe old key e.2
      | .ox720 => s.caughtOx old key e.2

/-- What several staged objects make happen together: checks again of held links (R137, R345), a first encrypted tenant of the hall (R320), stand-in entries (R373), the image (R270), plane change (R374). -/
def Block.caughtTogether (s : Block) (p : Part) (old : Common) (keys : List Nat) : Block :=
  let has := fun (i : Nat) => keys.any (fun k => k / 256 == i)
  let changed := fun (i : Nat) => keys.any (fun k => k / 256 == i && (s.common p).changed old k)
  let rack := (s.common p).fld (ob 0x5200 0) 4 6 != old.fld (ob 0x5200 0) 4 6
  let s1 := if changed 0x5201 || changed 0x5202 || rack || changed 0x8020 then s.recheckAll p else s
  let s1 := s1.judgeDue p
  let s2 := if !old.hallEnc && (s1.common p).hallEnc && p == .ox720 then s1.hallEncOn else s1
  match p with
  | .oe36 => s2
  | .ox720 =>
    let s3 := if has 0x6100 then s2.activateImage old else s2
    let s4 := (if has 0x9042 then s3.standEntries else s3).when (has 0x5305) Block.nakRelease
    s4.gwCatchAt (keys.filter (fun k => s.sw.changed old k))

/-- The reset that A004 requests, after every other value (R419). -/
def resetAsked (x : Obj) : Option PendingReset :=
  if bitsOf x 0 1 = 1 then some ⟨0, 2, 0, 0⟩
  else if bitsOf x 1 1 = 1 then some ⟨1, 4, 0, 0⟩
  else if bitsOf x 2 1 = 1 then some ⟨2, 5, 0, 0⟩
  else if bitsOf x 3 1 = 1 then some ⟨3, 6, bitsOf x 4 3, bitsOf x 7 8⟩
  else none

/-! ### The catch -/

/-- The catch in the units: the shadows `l` are applied, COMMIT_SEQ and LAST_CATCH, the event, then the effects in ascending index.sub. -/
def Block.doCatch (s : Block) (p : Part) (l : List (Nat × Obj)) : Block :=
  let old := s.common p
  let keys := l.map (fun e => e.1)
  let s1 := s.modCommon p (fun c =>
    let c1 := ({ c.applyShadows l with shadowErr := [], armedAt := none, scheduled := false } : Common).setCommitState csOpen
    let c2 := (c1.count (ob 0x2000 3) 0 32 1).setFld (ob 0x2000 4) 0 48 c.stroke
    (c2.parityRestore keys).log 0xB004 .info 0xFF (packArg [(32, c2.fld (ob 0x2000 3) 0 32), (14, l.length)]))
  let s2 := (l.foldl (fun s e => s.caught p old e) s1).caughtTogether p old keys
  match (l.find? (fun e => e.1 == ob 0xA004 0)).bind (fun e => resetAsked e.2) with
  | some r => s2.requestReset p r
  | none => s2

/-- The catch: every staged value takes effect, and staging is empty. -/
def State.doCatch (s : State) (p : Part) : State :=
  (s.on (fun b => b.doCatch p (s.mg p).shadow)).modMg p (fun m => { m with shadow := [] })

/-- The catch of a part, where it is due: the stroke count has reached the armed one. -/
def State.catchNow (s : State) (p : Part) : State :=
  let c := s.common p
  if !c.inReset && c.commitState == csArmed && c.armedAt == some c.stroke then s.doCatch p else s

/-- CATCH: the stroke count has reached the armed catch. -/
def execCatch (part : Part) (s : State) : Host.Outcome State Fault Refusal := .next (s.catchNow part)

/-- The end of a CCLK at a catch's links. -/
def Block.ctlEnd (s : Block) (p : Part) : Block :=
  ((s.common p).ctlDue).foldl (fun s e => s.linkCaught p e.1 e.2.1 e.2.2) (s.modCommon p (fun c => { c with ctlDue := [] }))

end Sys2Proof.Machine
end

