-- ==== Sys2Proof/Machine/Check.lean ====
section
/-!
DEFINITION. The consistency check (17, R396) with the rules of every chapter: each failing check answers the lowest index.sub that takes part in it.
-/
namespace Sys2Proof.Machine

/-- What the check looks at: the values applied, the state that the catch would leave, the shadows. -/
structure Chk where
  p : Part
  old : Common
  new : Common
  shadow : List (Nat × Obj)

def Chk.staged (k : Chk) (i : Nat) : List (Nat × Obj) := k.shadow.filter (fun e => e.1 / 256 == i)
def Chk.has (k : Chk) (i : Nat) : Bool := k.shadow.any (fun e => e.1 / 256 == i)
def Chk.shadowOf (k : Chk) (key : Nat) : Option Obj := (k.shadow.find? (fun e => e.1 == key)).map (fun e => e.2)

/-- Keys of an index range that the state lists; an unlisted object holds its default, which passes. -/
def Common.keysIn (c : Common) (lo hi : Nat) : List Nat := (c.regs.filter (fun e => decide (lo ≤ e.1 / 256) && decide (e.1 / 256 ≤ hi))).map (fun e => e.1)

/-- A check that fails when `b`, with the objects that take part. -/
def failsAt (b : Bool) (key : Nat) : List Nat := if b then [key] else []

def outside (x lo hi : Nat) : Bool := decide (x < lo) || decide (hi < x)

/-- Every unordered pair of a list. -/
def pairs {α : Type} : List α → List (α × α)
  | [] => []
  | a :: r => r.map (fun b => (a, b)) ++ pairs r

/-- Do the ranges of `n` from `a` and of `m` from `b` overlap? An empty one overlaps nothing. -/
def overlap (a n b m : Nat) : Bool := decide (0 < n) && decide (0 < m) && decide (a < b + m) && decide (b < a + n)

/-! ### Checks of both parts -/

/-- Reserved bits, shadows in error, and the ranges of R405. -/
def Chk.general (k : Chk) : List Nat :=
  (k.shadow.filter (fun e => match findRow k.p e.1 with
    | some r => e.2 &&& r.reservedMask k.p != 0
    | none => false)).map (fun e => e.1)
  ++ k.old.shadowErr.filter (fun e => k.shadow.any (fun x => x.1 == e))
  ++ failsAt (outside k.new.catchGuard 4096 16777216) (ob 0x2000 5)
  ++ failsAt (k.new.fld (ob 0x2000 0x10) 2 16 == 0) (ob 0x2000 0x10)
  ++ failsAt (k.p == .oe36 && decide (1750 < k.new.fld (ob 0x2102 0) 0 16)) (ob 0x2102 0)

/-- Links (12, R301). -/
def Chk.links (k : Chk) : List Nat :=
  let c := k.new
  (c.keysIn 0x3000 0x3000).filter (fun key => c.bit key 2 && c.fld key 3 2 != 0)
  ++ (c.keysIn 0x3004 0x3004).filter (fun key => decide (c.fld key 0 16 < 100) || c.fld key 48 8 == 0)
  ++ failsAt (decide (physLanes k.p 0x48 < c.fld (ob 0x300C 0) 0 5)) (ob 0x300C 0)

/-- Racks, trays and packages of a group: the largest coordinate of each. -/
def grpTop (g : BitVec 64) : Nat × Nat × Nat :=
  (grpRack g (grpHExt g - 1), bitsOf g 18 4 + (grpTExt g - 1) * bitsOf g 26 4, bitsOf g 30 2 + (grpPExt g - 1) * bitsOf g 34 2)

/-- R220 for a group descriptor; on a switch its racks and the slots of the switch's own rack are present. The objects of SLOT_PRESENT and RACK_PRESENT take part. A descriptor with VALID = 0 passes whatever its other bits, reserved ones included: R220 fails it only with VALID = 1, and it is stored and reads back as written (DESIGN CHOICE, log). -/
def Chk.group (k : Chk) (key : Nat) : List Nat :=
  let g := k.new.word key
  let t := grpTop g
  if !grpValid g then []
  else
    failsAt (bitsOf g 38 25 != 0 || (bitsOf g 12 6 == 0 && decide (1 < grpHExt g)) || (bitsOf g 26 4 == 0 && decide (1 < grpTExt g))
      || (bitsOf g 34 2 == 0 && decide (1 < grpPExt g)) || (grpDExt g == 2 && bitsOf g 36 1 == 1)
      || decide (63 < t.1) || decide (8 < t.2.1) || decide (3 < t.2.2) || grpN g == 1) key
    ++ (match k.p with
      | .oe36 => []
      | .ox720 =>
        let own := k.new.fld (ob 0x5200 0) 4 6
        let racks := (List.range (grpHExt g)).map (grpRack g)
        let slots := if racks.contains own then (List.range (grpPerRack g)).map (grpSlot g) else []
        failsAt (slots.any (fun s => !k.new.bit (ob 0x5201 (s / 64)) (s % 64))) (ob 0x5200 0)
        ++ failsAt (racks.any (fun r => !k.new.bit (ob 0x5202 0) r)) (ob 0x5202 0))

/-- Repechage entries (R20, R235). -/
def Chk.repechage (k : Chk) : List Nat :=
  let c := k.new
  let l := (c.keysIn 0x7300 0x7300).filter (fun key => c.bit key 38)
  let ctx := fun (key : Nat) => c.fld key 0 12
  let grp := fun (key : Nat) => grpKey (c.cfg (ctx key)).gid
  ((k.staged 0x7300).filter (fun e => decide (72 ≤ bitsOf e.2 25 7))).map (fun e => e.1)
  ++ (l.filter (fun key =>
      let g := (c.cfg (ctx key)).grp
      let b := c.fld key 25 13
      (grpIndexOf g b).isSome || grpMember g (c.fld key 12 13) / 128 != b / 128)).map grp
  ++ ((pairs l).filter (fun x => c.fld x.1 0 25 == c.fld x.2 0 25)).map (fun x => min x.1 x.2)
  ++ l.filter (fun key => decide (8 < (l.filter (fun j => ctx j == ctx key)).length))

/-- Contexts (R243): whatever their EN, and those that are enabled. -/
def Chk.context (k : Chk) (key : Nat) : List Nat :=
  let c := k.new
  let ctx := (key / 256 - 0x7100) * 256 + key % 256
  let g := c.cfg ctx
  failsAt (decide (12 ≤ g.op) || g.rop == 7 || g.rnd == 3 || g.path == 3 || fmtReserved g.inFmt || fmtReserved g.outFmt) key
  ++ (if !g.en then []
      else
        failsAt (!grpValid g.grp || decide (grpN g.grp ≤ g.root)) (grpKey g.gid)
        ++ failsAt (g.count == 0 && g.op != 7) key
        ++ (match k.p with
          | .oe36 => []
          | .ox720 =>
            failsAt (g.areaSize != 0 && decide (c.fld (ob 0x6010 0) 20 20 < g.areaBase + g.areaSize)) (ob 0x6010 0)
            ++ failsAt ((g.areaSize != 0 || g.resOff != 0) && decide (g.areaSize ≤ g.resOff)) key
            ++ failsAt (g.op == opRotateReduce && g.rot != 0 && c.fld (ob 0x6010 1) 20 20 == 0) (ob 0x6010 1)))

def Chk.collectives (k : Chk) : List Nat :=
  let c := k.new
  ((List.range 16).map (fun i => (k.staged (0x7010 + i)).map (fun e => k.group e.1))).flatten.flatten
  ++ k.repechage
  ++ ((c.keysIn 0x7100 0x710F).map k.context).flatten
  ++ failsAt (c.fld (ob 0x7000 3) 8 2 == 3) (ob 0x7000 3)
  ++ failsAt (decide (c.fld (ob 0x7000 4) 0 32 < 100)) (ob 0x7000 4)

/-- The injection points of a part (16, R361). -/
def injPoints : Part → List Nat
  | .oe36 => [0x01, 0x02, 0x03, 0x04, 0x05, 0x20, 0x21, 0x22, 0x61, 0x62, 0x70, 0x71, 0x72, 0x80, 0xA0, 0xA1]
  | .ox720 => [0x01, 0x02, 0x03, 0x04, 0x05, 0x10, 0x11, 0x20, 0x21, 0x22, 0x30, 0x31, 0x32, 0x33, 0x40, 0x41, 0x50, 0x60, 0x80, 0x90, 0x91, 0xA0, 0xA1]

/-- Injection (R362, R379). An unreachable home (point 0x62) names a destination slot (R20). -/
def Chk.injection (k : Chk) : List Nat :=
  let c := k.new
  let key := ob 0x9010 0
  let mode := c.fld key 8 2
  let point := c.fld key 0 8
  failsAt (mode != 0 && !c.bit (ob 0x9000 0) 0) (ob 0x9000 0)
  ++ failsAt ((mode != 0 || point != 0) && !(injPoints k.p).contains point) key
  ++ failsAt (c.fld key 10 16 == 0) key
  ++ failsAt (k.p == .oe36 && point == 0x62 && decide (71 < c.fld (ob 0x9010 1) 0 8)) (ob 0x9010 1)

/-- Power and resets (18, R422). -/
def Chk.power (k : Chk) : List Nat :=
  let c := k.new
  let cap := c.fld (ob 0xA000 1) 0 16
  let most := match k.p with
    | .oe36 => 150
    | .ox720 => 1100
  let asked := ((k.shadowOf (ob 0xA004 0)).map (fun x => (List.range 4).filter (fun i => bitsOf x i 1 == 1))).getD []
  failsAt (decide (most < cap) || decide (cap < c.fld (ob 0xA002 0x10) 32 16)) (ob 0xA000 1)
  ++ failsAt (decide (c.tripC < c.throttleC + 50)) (ob 0xA002 0x10)
  ++ failsAt (decide (1 < asked.length) || !blockUnitOk k.p (c.fld (ob 0xA004 0) 4 3) (c.fld (ob 0xA004 0) 7 8)) (ob 0xA004 0)

/-! ### Checks of the OE36 -/

/-- Translation contexts and the home window (03, R47). -/
def Chk.translation (k : Chk) : List Nat :=
  let c := k.new
  ((k.staged 0xB100).filter (fun e => c.fld e.1 8 8 != 0 && c.fld e.1 8 8 != c.assignedTenant)).map (fun _ => ob 0x8001 0)
  ++ failsAt (decide (2048 < c.fld (ob 0xB104 1) 0 12)) (ob 0xB104 1)
  ++ failsAt (decide (2 ^ 52 < c.fld (ob 0xB104 0) 29 23 * 2 ^ 29 + c.fld (ob 0xB104 1) 0 12 * 2 ^ 29)) (ob 0xB104 0)

/-- Ownership regions (04, R77). -/
def Chk.regions (k : Chk) : List Nat :=
  ((List.range 8).map (fun i => (k.staged (0xB110 + i)).map (fun e =>
    let f := fun lo w => k.new.fld e.1 lo w
    failsAt (decide (71 < f 9 7) || f 7 2 == 3 || (f 6 1 == 1 && f 7 2 != 2)) e.1
    ++ failsAt (decide (k.new.fld (ob 0xB104 1) 0 12 ≤ i * 256 + e.1 % 256)) (ob 0xB104 1)))).flatten.flatten

/-- Queues and injection shapers (R109, R172). -/
def Chk.queues (k : Chk) : List Nat :=
  let c := k.new
  (c.keysIn 0xB000 0xB007).filter (fun key => decide (11 < c.fld key 8 4))
  ++ (c.keysIn 0xB300 0xB300).filter (fun key => c.fld key 0 16 != 0 && c.fld key 16 16 == 0)

/-- ASSIGNED_TENANT (15, R344). -/
def Chk.assigned (k : Chk) : List Nat :=
  let c := k.new
  let bad := fun (t : Nat) => t != 0 && t != c.assignedTenant
  failsAt (k.has 0x8001 && ((c.keysIn 0xB100 0xB100).any (fun key => c.bit key 0 && bad (c.fld key 8 8))
    || (c.keysIn 0xB000 0xB003).any (fun key => c.bit key 0 && bad (c.fld key 56 8)))) (ob 0x8001 0)

/-- End-to-end recovery (16, R379). A change of deduplication is judged on the values applied before the catch. -/
def Chk.recovery (k : Chk) : List Nat :=
  let c := k.new
  let dedup := c.dedupEn != k.old.dedupEn || c.dedupBase != k.old.dedupBase
  failsAt (outside (c.fld (ob 0x9030 0) 0 16) 10 10000) (ob 0x9030 0)
  ++ (if dedup then (k.old.keysIn 0x7100 0x710F).filter (fun key => k.old.bit key 38)
        ++ failsAt ((k.old.keysIn 0xB100 0xB100).any (fun key => k.old.bit key 0)) (ob 0x9030 1) else [])

/-! ### Checks of the OX720 -/

/-- The hall routing table (06, R129), when one of its entries is staged. -/
def Chk.routing (k : Chk) : List Nat :=
  let c := k.new
  let own := c.fld (ob 0x5200 0) 4 6
  if !k.has 0x5210 then []
  else (List.range 64).flatMap (fun n =>
    let key := ob 0x5210 n
    let mode := c.fld key 0 2
    let via := c.fld key 3 6
    failsAt ((n == own && mode != 1) || (n != own && mode == 1)) (ob 0x5200 0)
    ++ failsAt (mode == 3) key
    ++ failsAt (mode == 2 && !c.bit (ob 0x5202 0) n) (ob 0x5202 0)
    ++ failsAt (c.bit key 2 && via == own) (ob 0x5200 0)
    ++ failsAt (c.bit key 2 && via == n) key
    ++ failsAt (c.bit key 2 && c.fld (ob 0x5210 via) 0 2 != 2) (min key (ob 0x5210 via)))

/-- Credits (R138) and the shared pool (R152). -/
def Chk.credits (k : Chk) : List Nat :=
  let c := k.new
  (List.range 5).flatMap (fun n =>
    [(0, 0), (16, 0x48), (32, 0x58)].flatMap (fun l =>
      let v := c.fld (ob 0x5230 n) l.1 16
      let carried := (linkNets .ox720 l.2).contains n
      failsAt ((v % 9 != 0 && !(n == 4 && v == 36)) || (carried && v == 0) || (!carried && v != 0)) (ob 0x5230 n)))
  ++ failsAt (decide (numCells < c.reserveTotal + 16384)) (ob 0x5230 0)

/-- The regions of the boathouse: object, base and size in MiB (R157). -/
def Common.bhRegions (c : Common) : List (Nat × Nat × Nat) :=
  (([ob 0x6010 0, ob 0x6010 1, ob 0x6103 1, ob 0xC020 1] ++ c.keysIn 0x5302 0x5302).map (fun key => (key, c.fld key 0 20, c.fld key 20 20))).filter (fun r => r.2.2 != 0)

def Chk.boathouse (k : Chk) : List Nat :=
  let l := k.new.bhRegions
  (l.filter (fun r => decide (183105 < r.2.1 + r.2.2))).map (fun r => r.1)
  ++ ((pairs l).filter (fun x => overlap x.1.2.1 x.1.2.2 x.2.2.1 x.2.2.2)).map (fun x => min x.1.1 x.2.1)
  ++ failsAt (decide (1 < k.new.fld (ob 0x6010 1) 20 20)) (ob 0x6010 1)

/-- Queue instances and the switch core (07, R164, R172). -/
def Chk.core (k : Chk) (occ : Nat → Nat) : List Nat :=
  let c := k.new
  failsAt (decide (c.fld (ob 0x5100 0) 0 16 < 10)) (ob 0x5100 0)
  ++ failsAt (decide (c.fld (ob 0x5100 1) 0 16 < 25)) (ob 0x5100 1)
  ++ ((List.range 81).map (fun i => 0x60 + i)).flatMap (fun ii =>
      let hi := c.fld (ob 0x5301 ii) 0 32
      let lo := c.fld (ob 0x5301 ii) 32 32
      failsAt (decide (hi ≤ lo) || decide ((if ii = 0xB0 then c.evtCapacity else c.instCapacity ii) < hi)) (ob 0x5301 ii))
  ++ (c.keysIn 0x5302 0x5302).filter (fun key => !instSpill (key % 256) && c.fld key 20 20 != 0)
  ++ ((k.staged 0x5302).filter (fun e => c.changed k.old e.1 && occ (e.1 % 256) != 0)).map (fun e => e.1)
  ++ (c.keysIn 0x5303 0x5303).filter (fun key => (!bitAt (instFeatures (key % 256)) 3 && c.fld key 0 16 != 0) || (key == ob 0x5303 0xB0 && decide (1750 < c.fld key 0 16)))
  ++ failsAt (decide (c.fld (ob 0x5430 0) 0 12 < c.fld (ob 0x5430 0) 12 12)) (ob 0x5430 0)
  ++ (c.keysIn 0x5400 0x5400 ++ c.keysIn 0x5410 0x5410).filter (fun key => c.fld key 0 16 != 0 && c.fld key 16 16 == 0)

/-- Two state areas overlap (09, R211). -/
def Chk.areas (k : Chk) : List Nat :=
  let l := (k.new.keysIn 0x7130 0x713F).map (fun key => (key, k.new.fld key 0 20, k.new.fld key 20 20))
  ((pairs l).filter (fun x => overlap x.1.2.1 x.1.2.2 x.2.2.1 x.2.2.2)).map (fun x => min x.1.1 x.2.1)

/-- The valid entries of the entry table and of the stand-in table, each with its object. -/
def Common.entries (c : Common) : List (Nat × Entry) :=
  (c.keysIn 0x6110 0x6110).filterMap (fun key => (entryOfWords (c.word key) (c.word (ob 0x6111 (key % 256)))).map (fun e => (key, e)))
def Common.standIns (c : Common) : List (Nat × Entry) := (c.keysIn 0x9042 0x9042).filterMap (fun key => (standEntry (c.word key)).map (fun e => (key, e)))

/-- The landing ring of an entry, in bytes of block memory (R251): where it starts, what it occupies. -/
def Common.ring (c : Common) (e : Entry) : Nat × Nat :=
  let g := c.cfg e.ctx
  let own := if (grpRackIndex g.grp (c.fld (ob 0x5200 0) 4 6)).isSome then grpPerRack g.grp else 0
  (e.landBase * 1024, if g.en then e.landBlocks * max own (grpHExt g.grp) * 256 else 0)

def Entry.shares (a b : Entry) : Bool := (List.range a.ngroups).any (fun i => (List.range b.ngroups).any (fun j => (a.group0 + i) % 16 == (b.group0 + j) % 16))

/-- Landing rings (R269, R379): of a pair, an entry object or a group descriptor is the lowest object. -/
def Chk.rings (k : Chk) : List Nat :=
  let c := k.new
  let l := c.entries ++ c.standIns
  let low := fun (x : Nat × Entry) => min x.1 (grpKey (c.cfg x.2.ctx).gid)
  (l.filter (fun x => (c.ring x.2).2 != 0 && decide (1536 * 1024 < (c.ring x.2).1 + (c.ring x.2).2))).map low
  ++ ((pairs l).filter (fun x => x.1.2.shares x.2.2 && overlap (c.ring x.1.2).1 (c.ring x.1.2).2 (c.ring x.2.2).1 (c.ring x.2.2).2)).map (fun x => min (low x.1) (low x.2))

/-- Contexts that appear twice among entries, and NGROUPS. -/
def entryFaults (l : List (Nat × Entry)) : List Nat :=
  (l.filter (fun x => x.2.ngroups == 0 || decide (16 < x.2.ngroups))).map (fun x => x.1)
  ++ ((pairs l).filter (fun x => x.1.2.ctx == x.2.2.ctx)).map (fun x => min x.1.1 x.2.1)

/-- Is a bundle address in the image's range? -/
def Common.inImage (c : Common) (a : Nat) : Bool := decide (c.fld (ob 0x6100 0) 0 16 ≤ a) && decide (a < c.fld (ob 0x6100 0) 0 16 + c.fld (ob 0x6100 0) 16 17)

/-- Does a GOP break R195 or R249: its code, SUB, LN, the roles of the ports? -/
def gopBad (o : Nat) : Bool :=
  let vop := gVop o
  let sub := gSub o
  let r := opReads vop
  let src := (if r.1 then [gA o] else []) ++ (if r.2.1 then [gB o] else [])
  let wr := vop != 0 && vop != 0x06
  !([0, 1, 2, 3, 4, 5, 6, 7, 8, 9, 0x0A, 0x0B, 0x0C, 0x10, 0x11, 0x12, 0x13, 0x14, 0x18].contains vop)
  || (vop != 0x08 && gLn o == 3)
  || (match vop with
      | 0x06 | 0x0C => decide (2 < sub)
      | 0x07 | 0x08 => false
      | 0x18 => decide (1 < sub)
      | _ => sub != 0)
  || src.contains 29
  || decide (1 < (src.filter (fun x => decide (28 ≤ x))).length)
  || (r.2.2 && decide (28 ≤ gD o))
  || (wr && (gD o == 28 || gD o == 31))

/-- The first of a bundle's four words that holds a field that breaks R269 by itself. -/
def bundleBad (b : Nat) : Option Nat :=
  let late := decide (6 ≤ bLop b) || (bSen b && decide (62 ≤ bSid b))
    || (bGctl b && ((bGopc b == 0 && decide (4096 ≤ bGarg b)) || (bGopc b == 3 && (decide (16 ≤ bGarg b) || decide (14 ≤ bGarg b % 16)))))
  ((List.range 16).find? (fun g => gopBad (bGop b g))).map (fun g => 24 * g / 128) <|> (if late then some 3 else none)

def bundleKey (a w : Nat) : Nat := ob (0x6400 + a / 64) (a % 64 * 4 + w)

/-- Loop nesting in address order: the depth after each bundle, none once it is broken. -/
def nesting (l : List Nat) : Option Nat :=
  l.foldl (fun d b => d.bind (fun n => if b = 1 then (if n < 4 then some (n + 1) else none) else if b = 2 then (if 0 < n then some (n - 1) else none) else some n)) (some 0)

/-- The commit of an image (R269): its ranges against those in use, its bundles and patterns. -/
def Chk.imageCommit (k : Chk) (inUse : List Image) : List Nat :=
  let c := k.new
  let i := c.image
  let addrs := (List.range i.bundleCount).map (fun n => i.bundleBase + n)
  failsAt (inUse.any (fun u => overlap i.bundleBase i.bundleCount u.bundleBase u.bundleCount) || decide (65536 < i.bundleBase + i.bundleCount)) (ob 0x6100 0)
  ++ failsAt (inUse.any (fun u => overlap i.patBase i.patCount u.patBase u.patCount) || decide (4096 < i.patBase + i.patCount) || (i.patBase == 0 && i.patCount != 0)) (ob 0x6100 1)
  ++ failsAt (c.fld (ob 0x6100 2) 0 16 != c.fld (ob 0x7000 0) 0 16) (ob 0x6100 2)
  ++ addrs.flatMap (fun a =>
      let b := c.bundle a
      (match bundleBad b with
        | some w => [bundleKey a w]
        | none => [])
      ++ failsAt (bPat b != 0 && (decide (bPat b < i.patBase) || decide (i.patBase + i.patCount ≤ bPat b))) (ob 0x6100 1)
      ++ failsAt (bLop b == 3 && !c.inImage (bLarg b)) (ob 0x6100 0))
  ++ failsAt (nesting (addrs.map (fun a => bLop (c.bundle a))) != some 0) (ob 0x6100 0)
  ++ ((List.range i.patCount).map (fun n => i.patBase + n)).flatMap (fun p =>
      ((List.range 128).filter (fun o => match c.reserved p o with
        | some inp => decide (124 ≤ o) || decide (124 ≤ inp)
        | none => false)).map (fun o => ob (0x6200 + p / 32) (p % 32 * 8 + o / 16)))

/-- The program (11, R269, R271). -/
def Chk.program (k : Chk) (imageOn : Bool) (retiring : List Image) : List Nat :=
  let c := k.new
  let inUse := (if imageOn then [k.old.image] else []) ++ retiring
  (if k.has 0x6100 then k.imageCommit inUse else [])
  ++ (if k.has 0x6100 || k.has 0x6110 then
        (c.entries.filter (fun x => !c.inImage x.2.entry || !c.inImage x.2.abandon)).map (fun _ => ob 0x6100 0) ++ entryFaults c.entries
      else [])
  ++ k.rings
  ++ (c.standIns.filter (fun x => !(imageOn || k.has 0x6100) || !c.inImage x.2.entry)).map (fun _ => ob 0x6100 0)
  ++ entryFaults c.standIns
  ++ failsAt (outside (c.fld (ob 0x6103 0) 0 16) 10 1000) (ob 0x6103 0)

/-- Hall ports and comb (13, R321), the bridge token (R301). -/
def Chk.optics (k : Chk) : List Nat :=
  let c := k.new
  let low := toSigned 16 (c.fld (ob 0x4000 1) 16 16)
  let tok := (k.shadowOf (ob 0x3010 0)).getD 0
  failsAt ((c.isBow && (c.bit (ob 0x3010 0) 2 || bitsOf tok 3 1 == 1)) || (!k.old.bit (ob 0x3010 0) 2 && bitsOf tok 2 2 == 3)) (ob 0x3010 0)
  ++ failsAt (decide (low < 1000) || decide (1800 < low)) (ob 0x4000 1)
  ++ failsAt (!c.combHost && (c.bit (ob 0x4000 1) 0 != k.old.bit (ob 0x4000 1) 0 || bitsOf ((k.shadowOf (ob 0x4000 1)).getD 0) 1 1 == 1)) (ob 0x4000 0)
  ++ failsAt (decide (4 < c.fld (ob 0x4002 0) 0 3) || decide (4 < c.fld (ob 0x4002 0) 3 3) || decide (c.fld (ob 0x4002 0) 6 16 < 20)) (ob 0x4002 0)
  ++ (c.keysIn 0x4010 0x4010).filter (fun key => c.fld key 1 2 == 3)

/-- Tenants and keys of a switch (15, R350, R359). -/
def Chk.tenants (k : Chk) (recorded : Nat → Bool) : List Nat :=
  let c := k.new
  let retired := (k.staged 0x8050).flatMap (fun e => ((List.range 64).filter (fun j => bitsOf e.2 j 1 == 1)).map (fun j => e.1 % 256 * 64 + j))
  let ctxOf := fun (key : Nat) => key / 256 % 16 * 256 + key % 256
  failsAt (!c.bit (ob 0x8012 0) 0) (ob 0x8012 0)
  ++ ((k.staged 0x8020).filter (fun e => hallLink .ox720 (e.1 % 256))).map (fun e => e.1)
  ++ (if retired.isEmpty then []
      else (c.keysIn 0x7100 0x710F).filter (fun key => c.bit key 38 && retired.contains (c.cfg (ctxOf key)).tenant)
        ++ ((List.range 4096).filter (fun ctx => recorded ctx && retired.contains (c.cfg ctx).tenant)).map (cxKey 0x7110))

/-- Recovery of a switch (R379), Griward (R338), its plane (R428). -/
def Chk.switchRest (k : Chk) (marker : Bool) : List Nat :=
  let c := k.new
  let gw := c.fld (ob 0xC020 0) 0 2
  failsAt (outside (c.fld (ob 0x9020 0) 0 8) 1 168) (ob 0x9020 0)
  ++ failsAt (outside (c.fld (ob 0x9041 0) 3 16) 5 1000) (ob 0x9041 0)
  ++ failsAt (k.old.isFenced && (k.staged 0x9041).any (fun e => bitsOf e.2 1 1 == 0) && c.lstate 0x58 != lsActive) (ob 0x3001 0x58)
  ++ failsAt (gw == 3 || (gw != 0 && c.fld (ob 0xC020 1) 20 20 == 0) || (gw == 2 && !marker)) (ob 0xC020 0)
  ++ failsAt (c.fld (ob 0x5200 0) 0 4 != k.old.plane && (k.has 0x5200 || c.fld (ob 0x5200 0) 0 4 != 0)) (ob 0x5200 0)

/-! ### The check -/

/-- FAIL_OBJECT of every failing check of a part. -/
def Block.checkFails (s : Block) (p : Part) (shadow : List (Nat × Obj)) : List Nat :=
  let c := s.common p
  let k : Chk := { p := p, old := c, new := c.applyShadows shadow, shadow := shadow }
  k.general ++ k.links ++ k.collectives ++ k.injection ++ k.power
  ++ (match p with
    | .oe36 => k.translation ++ k.regions ++ k.queues ++ k.assigned ++ k.recovery
    | .ox720 => k.routing ++ k.credits ++ k.boathouse ++ k.core s.occupancy ++ k.areas
        ++ k.program s.ox.imageOn (s.ox.retiring.map (fun i => i.2)) ++ k.optics
        ++ k.tenants (fun ctx => (s.twinRecord ctx).isSome) ++ k.switchRest s.gwFirstMarker.isSome)

def minOf : List Nat → Option Nat
  | [] => none
  | a :: r => match minOf r with
    | none => some a
    | some b => some (min a b)

/-- FAIL_OBJECT: the lowest index.sub that takes part in a failing check; none when the check passes (R396). -/
def State.checkFail (s : State) (p : Part) : Option Nat := minOf (s.blk.checkFails p (s.mg p).shadow)

end Sys2Proof.Machine
end

