-- ==== Sys2Proof/Machine/Time.lean ====
section
/-!
DEFINITION. The start line and the stroke count: claims, announcements, pulses, hall alignment, loss of the clock (14, R325 to R332).
-/
namespace Sys2Proof.Machine

/-! ### Claims (R327) -/

/-- Is a claim of (PRIORITY, SERIAL) lower than this switch's pair? -/
def Block.lowerClaim (s : Block) (p : Packet) : Bool :=
  decide (stPriority p < s.sw.priority) || (stPriority p == s.sw.priority && decide (stSerial p < s.sw.serial))

/-- CLAIM: a claimant that hears a lower pair defers. -/
def execClaim (p : Packet) (s : State) : Host.Outcome State Fault Refusal :=
  s.act fun s =>
    (if !s.sw.up || pOpc p != 0x38 || stKind p != 0 then s
      else
        let s1 := s.modSw (fun c => c.rxDrop (unitRx xpCox) p)
        let c := s.claimOf (stHall p)
        if c.active && s.lowerClaim p then s1.setClaim (stHall p) { c with active := false, deferred := true } else s1)

/-- Has the hall a start master: has one pinged this rack within three check periods (R327)? -/
def Block.hallLed (s : Block) : Bool :=
  match s.ox.pinged with
  | some (_, t) => decide (s.sw.since t < 3 * checkPeriod)
  | none => false

/-- The switch is start master no longer, of the rack and so of the hall. -/
def Block.yieldMaster (s : Block) : Block :=
  ((s.setClaim false { s.ox.claiming with active := false }).modOx (fun x => { x with hallMaster := false, hallClaiming := { x.hallClaiming with active := false } })).modSw
    (fun c => c.setBit (ob 0xC000 2) 1 false)

/-- Become start master: of a new rack the count will start at 0; of a rack that has counted it goes on. A rack start master claims a hall that has no start master. -/
def Block.becomeMaster (s : Block) : Block :=
  let s1 := s.modSw (fun c => (({ c with masterKnown := true, lastPulse := c.stroke } : Common).setFld (ob 0xC000 2) 1 1 1).setFld (ob 0xC000 2) 3 10 s.swId |>.log 0xC002 .info 0xFF (packArg [(10, s.swId), (1, 0)]))
  let s2 := if s1.sw.started then s1
    else ((s1.startCrew 1 false 0 false 0).modSw (fun c => { c with announced := some (0, false, false, s.swId) })).modOx (fun x => { x with pulseDue := some (s.sw.stroke + announceLead) })
  if s2.otherRacks.isEmpty || s2.hallLed then s2 else s2.startClaim true

/-- CLAIM_ROUND_END: the next round, or after round 3 the start master of the rack or of the hall. -/
def execClaimRoundEnd (hall : Bool) (s : State) : Host.Outcome State Fault Refusal :=
  s.act fun s =>
    let c := s.claimOf hall
    (if !s.sw.up || !c.active || decide (s.sw.since c.since < claimRound) then s
      else if c.round < 3 then (s.setClaim hall { c with round := c.round + 1, since := s.sw.stroke }).sendClaim hall (c.round + 1)
      else
        let s1 := s.setClaim hall { active := false, round := 3, since := c.since, deferred := false }
        if hall then ((s1.modOx (fun x => { x with hallMaster := true })).modSw (fun w => (w.setBit (ob 0xC000 2) 2 true).log 0xC002 .info 0xFF (packArg [(10, s.swId), (1, 1)]))).hallSort
        else s1.becomeMaster)

/-- SYNC_PULSE_MISSING: no pulse for three check periods; the rack has no start master, and eligible switches claim. -/
def execSyncPulseMissing (part : Part) (s : State) : Host.Outcome State Fault Refusal :=
  s.act fun s =>
    let c := s.common part
    (if !c.up || decide (c.since c.lastPulse < 3 * checkPeriod) then s
      else
        let s1 := s.modCommon part (fun c => ({ c with masterKnown := false } : Common).setBit (ob 0xC000 2) 1 false)
        match part with
        | .oe36 => s1
        | .ox720 => if s.ox.claiming.active then s1 else s1.startClaim false)

/-! ### Announcements and pulses (R328, R331) -/

/-- What an ANNOUNCE leaves with a part. -/
def Common.heard (c : Common) (p : Packet) : Common :=
  ({ c with announced := some (stValue p, stHsync p, stHall p, pSrc p % 1024), masterKnown := true } : Common).setFld (ob 0xC000 2) 3 10 (pSrc p % 1024)

/-- ANNOUNCE: VALUE and HSYNC of the next pulse. An OE36 relays it; a switch that hears another start master claims no longer. -/
def execAnnounce (part : Part) (link : BitVec 7) (p : Packet) (s : State) : Host.Outcome State Fault Refusal :=
  s.act fun s =>
    (if !(s.common part).up || pOpc p != 0x38 || stKind p != 1 then s
      else match part with
        | .oe36 => s.modEp (fun c => if classBad p (linkNets .oe36 link.toNat) then c.refuseHere link.toNat p else ((c.takeRx link.toNat p).relay link.toNat p).heard p)
        | .ox720 =>
          let s1 := (s.modSw (fun c => (c.rxDrop (unitRx xpCox) p).heard p))
          if pSrc p % 1024 = s.swId then s1
          else s1.yieldMaster)

/-- CHECK_PERIOD_ANNOUNCE: the start master announces the next multiple of the check period that is at least 32,768 CCLK away, less the hall offset when it realigns. A hall start master pings the other racks; another rack's claims the hall when none has pinged for three check periods. -/
def execCheckPeriodAnnounce (s : State) : Host.Outcome State Fault Refusal :=
  s.act fun s =>
    (if !s.sw.up || !s.sw.bit (ob 0xC000 2) 1 || !s.sw.started || s.ox.pulseDue.isSome then s
      else
        let v := ((s.sw.stroke + announceLead + checkPeriod - 1) / checkPeriod) * checkPeriod
        let align := s.ox.hallAlign.isSome
        let value := toUnsigned 48 ((v : Int) - s.ox.hallAlign.getD 0)
        let hs := s.sw.bit (ob 0xC000 2) 2
        let s1 := (s.startCrew 1 align 0 hs value).modSw (fun c => { c with announced := some (value, hs, align, s.swId) })
        let s2 := s1.modOx (fun x => { x with pulseDue := some (v - 68) })
        if s.ox.hallMaster then s2.otherRacks.foldl (fun s n => s.startRack 2 0 s.sw.stroke n) s2
        else if s.otherRacks.isEmpty || s.hallLed || s.ox.hallClaiming.active then s2 else s2.startClaim true)

/-- SSYNC_OUT_DRIVE: SSYNC_OUT rises for one REFCLK period (12 CCLK, R323), which ends one frame before the announced count. -/
def execSsyncOutDrive (s : State) : Host.Outcome State Fault Refusal :=
  s.act fun s =>
    (match s.ox.pulseDue with
      | some t =>
        if s.sw.up && decide (t ≤ s.sw.stroke) then
          (s.modOx (fun x => { x with pulseDue := none, ssyncLow := 12 })).modSw (fun c => c.emit (.pin "SSYNC_OUT" 1))
        else s
      | none => s)

/-- Load the stroke count; a commit that waited for a count now past is dealt with (R398). -/
def Common.loadStroke (c : Common) (v : Nat) : Common :=
  let c1 : Common := { c with stroke := v % 2 ^ 48, lastPulse := v % 2 ^ 48, started := true, announced := none }
  if v % 2 ^ 48 = c.stroke then c1 else c1.loadedPast

/-- SYNC_LOST carries the own count and VALUE or the offset, 28 bits of each. -/
def Common.syncLost (c : Common) (own other : Nat) : Common := c.log 0xC003 .uncorrected 0xFF (packArg [(48, own), (48, other)])

/-- A pulse at a part that has heard its ANNOUNCE. -/
def Common.pulse (c : Common) (v : Nat) (hsync hall : Bool) (master : Nat) (part : Part) : Common :=
  let synced := c.bit (ob 0xC000 2) 0
  let own := c.stroke
  let c1 :=
    if !synced then
      (let c2 := (c.loadStroke v).setBit (ob 0xC000 2) 0 true
       if !c.started && v == 0 then c2.log 0xC001 .info 0xFF (packArg [(48, v), (10, master)]) else c2)
    else if own = v || hall then c.loadStroke v
    else ((c.loadStroke v).setBit (ob 0xC000 2) 0 false).syncLost own v
  if part == .ox720 && c.bit (ob 0xC000 2) 1 then c1 else c1.setBit (ob 0xC000 2) 2 hsync

/-- STROKE_SYNC: a part samples the pulse. Without an ANNOUNCE before it there is no VALUE to compare. -/
def execStrokeSync (part : Part) (s : State) : Host.Outcome State Fault Refusal :=
  s.act fun s =>
    (if !(s.common part).up then s
      else match (s.common part).announced with
        | none => s.modCommon part (fun c => { c with lastPulse := c.stroke })
        | some (v, hsync, hall, master) =>
          let s1 := s.modCommon part (fun c => c.pulse v hsync hall master part)
          match part with
          | .oe36 => s1
          | .ox720 =>
            let s2 := if s.sw.bit (ob 0xC000 2) 1 && hall then (s1.modSw (fun c => c.setBit (ob 0xC000 2) 2 true)).modOx (fun x => { x with hallAlign := none }) else s1
            s2.hallSort.engineKick)

/-! ### The hall (R330, R332) -/

/-- HALL_PING: a rack start master answers with its count; the two stamps of the ping are kept. -/
def execHallPing (p : Packet) (s : State) : Host.Outcome State Fault Refusal :=
  s.act fun s =>
    (if !s.sw.up || pOpc p != 0x38 || stKind p != 2 then s
      else
        let s1 := s.modSw (fun c => c.rxDrop (unitRx xpCox) p)
        if s.sw.bit (ob 0xC000 2) 1 then (s1.modOx (fun x => { x with pinged := some (stValue p, s.sw.stroke) })).startRack 3 0 s.sw.stroke (pSrc p / 16 % 64) else s1)

/-- HALL_ECHO: the hall start master has received the echo at its count `sent`, the fourth stamp, which no rule brings to the rack start master and comes with the command (DEDUCED, log). The rack start master's offset is the mean of the two one-way differences, its own count less the hall's; the hall start master's own is 0. More than 64 CCLK while HALL_SYNCED is lost synchrony; a rack that is not HALL_SYNCED aligns at the next pulse. -/
def execHallEcho (p : Packet) (sent : BitVec 48) (s : State) : Host.Outcome State Fault Refusal :=
  s.act fun s =>
    (if !s.sw.up || pOpc p != 0x38 || stKind p != 3 then s
      else
        let s1 := s.modSw (fun c => c.rxDrop (unitRx xpCox) p)
        if !s.sw.bit (ob 0xC000 2) 1 || s.ox.hallMaster then s1
        else match s.ox.pinged with
        | none => s1
        | some (t1, t2) =>
          let d := fun (a b : Nat) => toSigned 48 (toUnsigned 48 ((a : Int) - (b : Int)))
          let off := (d t2 t1 + d (stValue p) sent.toNat) / 2
          let s2 := s1.modSw (fun c => c.setFld (ob 0xC000 3) 0 32 (toUnsigned 32 off))
          let synced := s.sw.bit (ob 0xC000 2) 2
          if synced && decide (off.natAbs ≤ 64) then s2
          else
            let s3 := s2.modOx (fun x => { x with hallAlign := some off })
            if synced then (s3.modSw (fun c => (c.setBit (ob 0xC000 2) 2 false).syncLost c.stroke (toUnsigned 28 off))).hallSort else s3)

/-! ### The clock (R325) -/

/-- The part stops its stroke count. -/
def Common.clockLost (c : Common) : Common := ({ c with running := false } : Common).log 0xC004 .fatal 0xFF (packArg [(16, c.fld (ob 0x1000 0) 0 16)])

/-- REFCLK_LOSS, real or injected (point 0xA1). -/
def execRefclkLoss (part : Part) (inj : Bool) (s : State) : Host.Outcome State Fault Refusal :=
  s.act fun s =>
    let c := s.common part
    (if !c.running then s
      else if inj && !c.injects 0xA1 then s.modCommon part (fun c => c.passed 0xA1 true)
      else s.modCommon part (fun c => (if inj then c.injected 0xA1 else c).clockLost))

end Sys2Proof.Machine
end

