-- ==== Sys2Proof/Machine/View.lean ====
section
/-!
DEFINITION. What a read of an object returns: the applied value, the values that mirror state which stands elsewhere, the shadows under STAGE_VIEW, and the holding register of the reading master (17, R382, R403; 0x2000.11).
-/
namespace Sys2Proof.Machine

/-- ND_TOTAL: the sum over the part's members of the non-determinism counter set (14, R334), saturating. -/
def Common.ndTotal (c : Common) : Nat :=
  let sum := fun (keys : List Nat) => keys.foldl (fun n k => n + c.fld k 0 64) 0
  let exits := fun (n : Nat) => sum ((List.range n).map (fun pp => ob 0x3008 pp))
  min (2 ^ 64 - 1) (match c.kind with
    | .oe36 => sum [ob 0xB400 0] + exits 16
    | .ox720 => sum [ob 0x5001 3, ob 0x6080 0, ob 0xC010 0, ob 0xC010 1, ob 0xC010 2] + exits 89)

/-- Objects of the OE36 that mirror its state. -/
def Block.viewOe (s : Block) (key : Nat) (v : Obj) : Obj :=
  let sub := key % 256
  match key / 256 with
  | 0x9031 => if sub = 3 then BitVec.ofNat 128 s.oe.quiet.length else v
  | 0xB041 => BitVec.ofNat 128 (s.oe.txns.filter (fun t => engineTag sub t.tag)).length
  | 0xB042 =>
    if sub = 0 then BitVec.ofNat 128 s.oe.ls.length
    else if sub = 2 then BitVec.ofNat 128 (s.oe.launches.filter (fun l => l.planes.any (fun k => !l.released.contains k))).length
    else v
  | 0xB11A => if sub = 0 then BitVec.ofNat 128 s.oe.dir.length else v
  | 0xB200 => BitVec.ofNat 128 (packArg ((List.range 16).map (fun j => (4, indirEntry s.ep.liveMask (16 * sub + j)))))
  | 0xB201 => BitVec.ofNat 128 s.ep.liveMask
  | _ => v

/-- ENGINE_STATE: from the CCLK 4 before the ENTRY bundle on the state is DISPATCH; an engine that took a launch earlier still reads IDLE (R246). -/
def Block.engineCode (s : Block) : Nat :=
  let e := s.ox.eng
  match e.state, e.dispatchAt with
  | 2, some t => if s.sw.stroke + 4 < t then engIdle else engDispatch
  | n, _ => n

/-- A count of CCLK with the time that is still running (R261). -/
def Common.running64 (c : Common) (v : Obj) (since : Option Nat) : Obj :=
  match since with
  | some t => BitVec.ofNat 128 (min (2 ^ 64 - 1) (v.toNat + c.since t))
  | none => v

/-- Objects of the OX720 that mirror its state. -/
def Block.viewOx (s : Block) (key : Nat) (v : Obj) : Obj :=
  let sub := key % 256
  match key / 256 with
  | 0x5100 => if sub = 2 then BitVec.ofNat 128 s.ox.freeCells else v
  | 0x5304 => setBits v 0 32 (s.occupancy sub)
  | 0x6104 => if sub = 1 then s.sw.running64 v s.ox.hold.heldAt else v
  | 0x6102 =>
    if sub = 0 then BitVec.ofNat 128 (packArg [(3, s.engineCode), (16, s.ox.eng.pc), (12, s.ox.eng.ctx), (1, b2n (!s.ox.retiring.isEmpty))])
    else if s.ox.eng.running then BitVec.ofNat 128 (s.lag % 2 ^ 32)
    else v
  | _ => v

/-- The value of an object in force, but for STAGED. -/
def Block.view (s : Block) (p : Part) (key : Nat) : Obj :=
  let c := s.common p
  let sub := key % 256
  let v := c.reg key
  match key / 256 with
  | 0x300B => BitVec.ofNat 128 (SMap.get 0 (c.link sub).symErrors (c.fld (ob 0x300C 0) 0 5))
  | 0x8110 => BitVec.ofNat 128 (leAt ((s.measurement p (sub / 3 + 1)).getD []) (16 * (sub % 3)) 16)
  | 0xA000 => if sub = 0 then BitVec.ofNat 128 (packArg [(16, min c.vcoreEst c.currentCap), (16, c.vcorePeak)]) else v
  | 0xC000 => if sub = 0 then BitVec.ofNat 128 c.stroke else v
  | 0xC010 => if sub = 3 then BitVec.ofNat 128 c.ndTotal else v
  | _ => match p with
    | .oe36 => s.viewOe key v
    | .ox720 => s.viewOx key v

/-- The value of an object in force; COMMIT_STATUS shows how many objects are staged. -/
def State.view (s : State) (p : Part) (key : Nat) : Obj :=
  if key = ob 0x2000 2 then setBits (s.blk.view p key) 3 14 (s.mg p).shadow.length else s.blk.view p key

/-- STAGE_VIEW of a master. -/
def Mgmt.stageView (c : Mgmt) : Master → Bool
  | .fieldBus => c.stageViewF
  | .pcie => c.stageViewP

def Common.holding (c : Common) : Master → Holding
  | .fieldBus => c.holdF
  | .pcie => c.holdP

/-- What a master reads of an object that the part has. -/
def State.readObj (s : State) (p : Part) (m : Master) (key : Nat) : Obj :=
  let c := s.common p
  if key / 256 = 0x2100 ∨ key / 256 = 0x2101 then BitVec.ofNat 128 (c.evtObject (c.holding m) key)
  else if key = ob 0x2000 0x11 then BitVec.ofNat 128 (b2n ((s.mg p).stageView m))
  else
    match findRow p key with
    | none => 0
    | some r =>
      let v := s.view p key &&& ~~~ (r.hiddenMask p)
      match (if (s.mg p).stageView m then (s.mg p).shadow.find? (fun e => e.1 == key) else none) with
      | none => v
      | some (_, x) => (v &&& ~~~ (r.catchMask p)) ||| (x &&& r.catchMask p)

end Sys2Proof.Machine
end

