-- ==== Sys2Proof/Machine/Commit.lean ====
section
/-!
DEFINITION. The commit: its commands, the end of its check, scheduled commits with their announcements, CTRL_LOCK (17, R395, R396, R398, R401).
-/
namespace Sys2Proof.Machine

/-! ### Announcements (R398) -/

/-- The header of a CATCH_ANN from a part over one link: an OX720 names the endpoint, the twin or the switch at the fibre's far end; an OE36 names itself, since the switches to which others relay it unchanged take no packet for another switch (R132; DESIGN CHOICE, log). -/
def Block.annHdr (s : Block) (p : Part) (pp : Nat) : Hdr :=
  match p with
  | .oe36 => { net := 4, opc := 0x39, src := s.epId, dst := s.epId }
  | .ox720 =>
    let dst := if pp < 72 then s.swRack * 128 + pp else if pp < 88 then fibreOf (pp - 72) (s.sw.hpos (pp - 72)) * 16 + s.swPlane else s.twinId
    { net := 4, opc := 0x39, src := s.swId, srcSw := true, dst := dst, dstSw := decide (72 ≤ pp) }

/-- CATCH_ANN: CATCH_AT and COMMIT_GROUP in word 1, ABORT in word 2. -/
def annPacket (h : Hdr) (at_ group : Nat) : Packet := h.packet (packArg [(48, at_), (16, group)]) 1 0 []

/-- Send a packet over one link. -/
def Block.sendMgmt (s : Block) (p : Part) (pp : Nat) (pkt : Packet) : Block :=
  match p with
  | .oe36 => s.modEp (fun c => c.queueTx pp pkt)
  | .ox720 => s.unitSend xpCox [pp] pkt

/-- The ACTIVE links of a part; every one carries MGMT. -/
def Block.activeLinks (s : Block) (p : Part) : List Nat := (linksOf p).filter (fun k => (s.common p).lstate k == lsActive)

/-- The part announces that its scheduled commit is off. Its own announcement, coming back, is a repeat. -/
def State.announceOff (s : State) (p : Part) : State :=
  let c := s.common p
  (s.modMg p (fun m => { m with annRelayed := m.annRelayed ++ [(c.commitGroup, c.catchAt)] })).on (fun b =>
    (b.activeLinks p).foldl (fun b k => b.sendMgmt p k (annPacket (b.annHdr p k) c.catchAt c.commitGroup)) b)

/-! ### The commands (R395) -/

/-- The object that a failure of the schedule names. -/
abbrev catchAtObject : Nat := ob 0x2000 1

/-- The commit ends FAILED. -/
def State.failCommit (s : State) (p : Part) (obj : Nat) : State :=
  let c := s.common p
  let s1 := s.modCommon p (fun c =>
    ((({ c with armedAt := none, scheduled := false } : Common).setCommitState csFailed).setFld (ob 0x2000 2) 17 24 obj).log 0xB003 .uncorrected 0xFF
      (packArg [(24, obj), (1, c.commitMaster)]))
  if c.scheduled then s1.announceOff p else s1

/-- COMMIT_NOW. -/
def State.commitNow (s : State) (p : Part) (m : Master) : State :=
  s.modCommon p (fun c =>
    if c.commitOpen then c
    else ({ c with armedAt := none, scheduled := false, commitMaster := masterCode m - 1 } : Common).setCommitState csChecking)

/-- COMMIT_AT: abandoned when its pair has been announced, failed inside its guard, else checked. -/
def State.commitAt (s : State) (p : Part) (m : Master) : State :=
  let c := s.common p
  if c.commitOpen then s
  else
    let s1 := s.modCommon p (fun c => { c with armedAt := none, scheduled := true, commitMaster := masterCode m - 1 })
    if (s.mg p).annSeen.contains (c.commitGroup, c.catchAt) then s1.modCommon p (fun c => c.abandon 0)
    else if c.catchAt ≤ c.stroke + c.catchGuard then s1.failCommit p catchAtObject
    else s1.modCommon p (fun c => c.setCommitState csChecking)

/-- ABORT: the shadows are discarded; an armed commit is cancelled. A check under way goes on. -/
def State.commitAbort (s : State) (p : Part) : State :=
  let c := s.common p
  if c.commitState == csChecking then s
  else
    let s1 := (s.modCommon p (fun c => ({ c with shadowErr := [], armedAt := none, scheduled := false } : Common).setCommitState csOpen)).modMg p (fun m => { m with shadow := [] })
    if c.commitState == csArmed && c.scheduled then s1.announceOff p else s1

/-! ### The check ends (R396, R398) -/

/-- COMMIT_CHECK_DONE: ARMED, or FAILED with the lowest object of a failing check. -/
def execCommitCheckDone (part : Part) (s : State) : Host.Outcome State Fault Refusal :=
  let c := s.common part
  .next (if c.inReset || c.commitState != csChecking then s
    else if c.scheduled && decide (c.catchAt < c.stroke + c.catchGuard) then s.failCommit part catchAtObject
    else
      let unsynced := if c.scheduled && !c.bit (ob 0xC000 2) 0 then [catchAtObject] else []
      match minOf (unsynced ++ (s.checkFail part).toList) with
      | some obj => s.failCommit part obj
      | none => s.modCommon part (fun c =>
          ({ c with armedAt := some (if c.scheduled then c.catchAt else next64 (c.stroke + 16)) } : Common).setCommitState csArmed))

/-- CATCH_GUARD: CATCH_AT − CATCH_GUARD is reached while the check runs. -/
def execCatchGuard (part : Part) (s : State) : Host.Outcome State Fault Refusal :=
  let c := s.common part
  .next (if !c.inReset && c.commitState == csChecking && c.scheduled && decide (c.catchAt ≤ c.stroke + c.catchGuard) then s.failCommit part catchAtObject else s)

/-! ### CATCH_ANN received (R398) -/

/-- Remember the pair of an announcement among the last 16. -/
def Mgmt.hearAnn (m : Mgmt) (group at_ : Nat) : Mgmt :=
  let seen := m.annSeen.filter (fun e => e != (group, at_)) ++ [(group, at_)]
  { m with annSeen := seen.drop (seen.length - 16) }

/-- Abandon a commit that an announcement matches and that is not at its catch yet. -/
def Common.hearAnn (c : Common) (group at_ : Nat) : Common :=
  if c.scheduled && c.commitOpen && c.catchAt == at_ && c.commitGroup == group && decide (c.stroke < at_) then c.abandon 0 else c

/-- A relayed announcement: an OE36 relays it unchanged; an OX720 sends it on as its own, with its words 1 to 3, since a crew port takes no source of another rack and a hall port none of another plane (R132; DEDUCED, log). -/
def Block.annRelay (s : Block) (part : Part) (k : Nat) (p : Packet) : Packet :=
  match part with
  | .oe36 => p
  | .ox720 => { p with w0 := (s.annHdr .ox720 k).word }

/-- CATCH_ANN: heard, and relayed, once, to every ACTIVE link. -/
def execCatchAnn (part : Part) (link : BitVec 7) (p : Packet) (s : State) : Host.Outcome State Fault Refusal :=
  let c := s.common part
  let at_ := bitsOf p.w1 0 48
  let group := bitsOf p.w1 48 16
  .next (if !c.up || pOpc p != 0x39 then s
    else if part == .oe36 && classBad p (linkNets .oe36 link.toNat) then s.modCommon .oe36 (fun c => c.refuseHere link.toNat p)
    else
      let s1 := match part with
        | .oe36 => s.modCommon .oe36 (fun c => c.takeRx link.toNat p)
        | .ox720 => s.modCommon .ox720 (fun c => c.rxDrop (unitRx xpCox) p)
      let s2 := (s1.modCommon part (fun c => c.hearAnn group at_)).modMg part (fun m => m.hearAnn group at_)
      if (s.mg part).annRelayed.contains (group, at_) then s2
      else (s2.modMg part (fun m => { m with annRelayed := m.annRelayed ++ [(group, at_)] })).on (fun b =>
        (b.activeLinks part).foldl (fun b k => b.sendMgmt part k (b.annRelay part k p)) b))

/-! ### CTRL_LOCK (R401) -/

/-- A management write of an object with a row of its own that concerns the cox core too. -/
def State.mgmtWrite (s : State) (p : Part) (m : Master) (key : Nat) (f : State → State) : State :=
  let c := s.common p
  if c.inReset then s
  else if c.serves key && !c.locked m key then f (s.modCommon p (fun c => c.renew m))
  else s.modCommon p (fun c => c.busError m (slotOffset key) 2)

/-- OWNER changes. -/
def Common.takeOwner (c : Common) (v cause : Nat) : Common :=
  (({ c with ownerWrite := c.stroke } : Common).setFld (ob 0x2000 0x10) 0 2 v).log 0xB007 .info 0xFF (packArg [(2, v), (1, cause)])

/-- May a master write this value to OWNER: its own code while OWNER is 0, and 0 while OWNER is its own? -/
def Common.ownerAllows (c : Common) (m : Master) (v : Nat) : Bool := (v == masterCode m && c.owner == 0) || (v == 0 && c.owner == masterCode m)

/-- OWNER: a write of the lock. -/
def execOwner (part : Part) (m : Master) (v : BitVec 2) (s : State) : Host.Outcome State Fault Refusal :=
  let c := s.common part
  .next (if c.serves (ob 0x2000 0x10) && !c.ownerAllows m v.toNat then s.modCommon part (fun c => c.busError m (slotOffset (ob 0x2000 0x10)) 2)
    else s.mgmtWrite part m (ob 0x2000 0x10) (fun s => s.modCommon part (fun c => c.takeOwner v.toNat 0)))

/-- LOCK_LEASE: the owner has made no write for so long. -/
def execLockLease (part : Part) (s : State) : Host.Outcome State Fault Refusal :=
  let c := s.common part
  .next (if !c.inReset && c.owner != 0 && decide (c.fld (ob 0x2000 0x10) 2 16 * cclkMs ≤ c.since c.ownerWrite) then s.modCommon part (fun c => c.takeOwner 0 1) else s)

end Sys2Proof.Machine
end

