-- ==== Sys2Proof/Machine/Mgmt.lean ====
section
/-!
DEFINITION. Writes of objects and the two management paths: the register window, the bit-alias window, Haoth frames and their relay, takes from the event log (17, R384 to R388, R390 to R395, R400 to R403).
-/
namespace Sys2Proof.Machine

/-! ### Takes (R164, R403) -/

/-- EVT_NEXT: a take begins, unless one of this master is under way. -/
def Common.evtNext (c : Common) (m : Master) : Common :=
  if c.takers.any (fun t => t.m == m && t.read.isNone) then c
  else ({ c with takers := c.takers ++ [⟨m, c.stroke + c.evtLimit, none⟩] } : Common).pumpLog

def execEvtNext (part : Part) (m : Master) (s : State) : Host.Outcome State Fault Refusal :=
  s.act fun s => s.mgmtWrite part m (ob 0x2101 1) (fun s => s.modCommon part (fun c => c.evtNext m))

/-- STALL_LIMIT_EXPIRY: a take that has waited for STALL_LIMIT ends with the records that are there, or EMPTY. -/
def execStallLimitExpiry (part : Part) (inst : BitVec 8) (m : Master) (s : State) : Host.Outcome State Fault Refusal :=
  s.act fun s => s.modCommon part (fun c =>
    match c.takers.find? (fun t => t.m == m) with
    | some t => if !c.inReset && (part == .oe36 || inst.toNat == 0xB0) && decide (t.until_ ≤ c.stroke) && !c.evtWaits then (c.give m).pumpLog else c
    | none => c)

/-! ### A write of an object (R382, R384, R394, R395, R400, R401) -/

/-- The status codes of Haoth. -/
def hsOk : Nat := 0
def hsNoObject : Nat := 1
def hsAccess : Nat := 2
def hsLocked : Nat := 3
def hsBusy : Nat := 4
def hsStageFull : Nat := 5
def hsUnreachable : Nat := 7

def Master.code0 (m : Master) : Nat := masterCode m - 1

/-- The bits of one field. -/
def Fld.mask (f : Fld) : Obj := BitVec.ofNat 128 ((2 ^ f.w - 1) * 2 ^ f.lo)

/-- Does a write with this byte mask cover only a part of an immediate field? -/
def ObjRow.splits (r : ObjRow) (p : Part) (mask : Obj) : Bool :=
  r.flds.any (fun f => !f.atCatch && (f.accIn p == .rw || f.accIn p == .wo) && mask &&& f.mask != 0 && mask &&& f.mask != f.mask)

/-- Bundles and patterns of the active image and of a retiring one are not written (R268). -/
def Block.imageHolds (s : Block) (p : Part) (key : Nat) : Bool :=
  let i := key / 256
  let b := (i - 0x6400) * 64 + key % 256 / 4
  let t := (i - 0x6200) * 32 + key % 256 / 8
  let images := (if s.ox.imageOn then [s.sw.image] else []) ++ s.ox.retiring.map (fun x => x.2)
  p == .ox720 && images.any (fun x =>
    (decide (0x6400 ≤ i) && decide (i < 0x6800) && decide (x.bundleBase ≤ b) && decide (b < x.bundleBase + x.bundleCount))
    || (decide (0x6200 ≤ i) && decide (i < 0x6280) && decide (x.patBase ≤ t) && decide (t < x.patBase + x.patCount)))

/-- The value that an object's bits have for a write that keeps them: the shadow's, or the applied one; actions read 0. -/
def State.baseOf (s : State) (p : Part) (m : Master) (key : Nat) : Obj :=
  let c := s.common p
  if key = ob 0x2000 0x11 then BitVec.ofNat 128 (b2n ((s.mg p).stageView m))
  else match (s.mg p).shadow.find? (fun e => e.1 == key), findRow p key with
    | some e, some r => (e.2 &&& (r.catchMask p ||| r.reservedMask p)) ||| (c.reg key &&& ~~~ (r.catchMask p ||| r.reservedMask p))
    | _, some r => c.reg key &&& ~~~ (r.hiddenMask p)
    | _, _ => 0

/-- The bits that a write stages: fields applied at catch and, in an object that has any, reserved bits (R10). -/
def ObjRow.stageMask (r : ObjRow) (p : Part) : Obj := if r.staged p then r.catchMask p ||| r.reservedMask p else 0

/-- Merge a write into the shadow of an object. It starts from the applied value, a field with a clear mask from 0; a 1 written there stays. -/
def State.stage (s : State) (p : Part) (r : ObjRow) (key : Nat) (mask v : Obj) : State :=
  let clear : Obj := if key = ob 0x9040 0 then BitVec.ofNat 128 65535 else 0
  let x := match (s.mg p).shadow.find? (fun e => e.1 == key) with
    | some e => e.2
    | none => (s.common p).reg key &&& r.catchMask p &&& ~~~ clear
  let w := mask &&& r.stageMask p
  (s.modMg p (fun m => { m with shadow := SMap.insert m.shadow key ((x &&& ~~~ (w &&& ~~~ clear)) ||| (v &&& w)) })).modCommon p (fun c =>
    { c with shadowErr := c.shadowErr.filter (fun k => k != key) })

/-- Immediate fields that a write stores as they are; the others are actions. -/
def storesPlain (key : Nat) : Bool :=
  let i := key / 256
  key == ob 0x2000 1 || i == 0x300C || (decide (0x6200 ≤ i) && decide (i < 0x6800)) || i == 0x8100 || i == 0x8102 || i == 0x9001 || i == 0xA005
    || (decide (0xB020 ≤ i) && decide (i < 0xB040))

/-- What the immediate fields of a write do. -/
def State.immediate (s : State) (p : Part) (m : Master) (r : ObjRow) (key : Nat) (mask v : Obj) : State :=
  let i := key / 256
  let sub := key % 256
  let on := fun (b : Nat) => bitsOf mask b 1 = 1 ∧ bitsOf v b 1 = 1
  let w := mask &&& (if i = 0x8100 then r.immMask p else r.immMask p &&& ~~~ (r.hiddenMask p))
  let s1 := if !storesPlain key || (i == 0x8100 && (s.common p).bit (ob 0x8102 0) 13) then s
    else s.modCommon p (fun c => c.setReg key ((c.reg key &&& ~~~ w) ||| (v &&& w)))
  if mask &&& r.immMask p = 0 then s
  else if key = ob 0x2000 0 then
    match bitsOf v 0 3 with
    | 1 => s.commitNow p m
    | 2 => s.commitAt p m
    | _ => s.commitAbort p
  else if key = ob 0x2000 0x10 then s.modCommon p (fun c => c.takeOwner (bitsOf v 0 2) 0)
  else if key = ob 0x2000 0x11 then
    s.modMg p (fun c => match m with
      | .fieldBus => { c with stageViewF := bitsOf v 0 1 == 1 }
      | .pcie => { c with stageViewP := bitsOf v 0 1 == 1 })
  else if key = ob 0x2101 1 then (if on 0 then s.modCommon p (fun c => c.evtNext m) else s)
  else if key = ob 0x8000 1 then (if on 0 then s.modCommon p (fun c => c.entropyRestart) else s)
  else if i = 0x8041 then (if (s.common .oe36).up then s.on (fun b => b.keyErase (bitsOf v 0 64 * 2 ^ (64 * sub))) else s)
  else if key = ob 0x9000 0 then
    let s2 := if on 2 then s.modCommon p (fun c => c.unlockReq) else s
    let s3 := if on 3 then s2.modCommon p (fun c => c.unlockGo) else s2
    if on 4 then s3.modCommon p (fun c => c.relock) else s3
  else if key = ob 0xA005 0 then (if on 2 then s1.on (fun b => b.fwGo p) else s1)
  else if key = ob 0xB102 0 then s.on (fun b => b.invalidate (BitVec.ofNat 64 v.toNat))
  else if key = ob 0xB103 2 then s.on (fun b => b.setFaultCons (bitsOf v 0 16))
  else if 0xB00C ≤ i ∧ i < 0xB010 then
    match bitsOf v 0 2 with
    | 1 => s.on (fun b => b.restart ((i - 0xB00C) * 256 + sub))
    | 2 => s.on (fun b => b.abortQueue ((i - 0xB00C) * 256 + sub))
    | _ => s
  else if 0xB010 ≤ i ∧ i < 0xB014 then s.on (fun b => b.takeCqCons ((i - 0xB010) * 256 + sub) (bitsOf v 0 16))
  else if 0xB014 ≤ i ∧ i < 0xB018 then s.on (fun b => b.ring ((i - 0xB014) * 256 + sub) (bitsOf v 0 16))
  else s1

/-- Why a write of an object is refused: a status of R391, OK where it is not. -/
def State.writeStatus (s : State) (p : Part) (m : Master) (key : Nat) (mask v : Obj) : Nat :=
  let c := s.common p
  match (if c.serves key then findRow p key else none) with
  | none => hsNoObject
  | some r =>
    let w := mask &&& (r.catchMask p ||| r.immMask p)
    let staging := mask &&& r.stageMask p != 0 && !(w == 0 && r.flds.any (fun f => f.accIn p == .ro))
    if c.locked m key then hsLocked
    else if r.catchMask p ||| r.immMask p = 0 ∨ r.splits p mask ∨ s.blk.imageHolds p key then hsAccess
    else if c.commitOpen && (staging || (key == ob 0x2000 1 && bitsOf mask 0 1 == 1)) then hsBusy
    else if staging && !(s.mg p).shadow.any (fun e => e.1 == key) && decide (8192 ≤ (s.mg p).shadow.length) then hsStageFull
    else if key = ob 0x2000 0 ∧ bitsOf mask 0 1 = 1 ∧ (bitsOf v 0 3 = 0 ∨ 3 < bitsOf v 0 3) then hsAccess
    else if key = ob 0x2000 0x10 ∧ bitsOf mask 0 1 = 1 ∧ c.ownerAllows m (bitsOf v 0 2) = false then hsLocked
    else hsOk

/-- An accepted write: it is staged, or takes effect, or both; a write of nothing but RO and reserved bits beside RO fields is ignored. -/
def State.writeApply (s : State) (p : Part) (m : Master) (key : Nat) (mask v : Obj) : State :=
  match findRow p key with
  | none => s
  | some r =>
    let w := mask &&& (r.catchMask p ||| r.immMask p)
    let staging := mask &&& r.stageMask p != 0 && !(w == 0 && r.flds.any (fun f => f.accIn p == .ro))
    let s1 := (s.modCommon p (fun c => c.renew m)).modMg p (fun g => { g with lastWrite := some ((s.common p).stroke, masterCode m, key, mask.toNat, v.toNat) })
    (if staging then s1.stage p r key mask v else s1).immediate p m r key mask v

/-- Did the other master write this object in this cycle: the bits that both wrote, and its value (R400)? -/
def Mgmt.rival (g : Mgmt) (stroke : Nat) (m : Master) (key : Nat) (mask : Obj) : Option (Obj × Obj) :=
  match g.lastWrite with
  | some (t, w, k, msk, x) => if t = stroke ∧ w ≠ masterCode m ∧ k = key then some (mask &&& BitVec.ofNat 128 msk, BitVec.ofNat 128 x) else none
  | none => none

/-- Two masters wrote one object in one cycle: a difference is counted and logged. -/
def Common.conflict (c : Common) (key : Nat) (both fieldBus pcie : Obj) : Common :=
  if fieldBus &&& both = pcie &&& both then c
  else (c.count (ob 0x2000 0x13) 0 32 1).logLimited 0xB002 .uncorrected 0xFF 0 (packArg [(24, key), (16, bitsOf fieldBus 0 16), (16, bitsOf pcie 0 16)])

/-- A write of an object through the arbiter: its status, and the state after it. A PCIe write that meets one of the field bus is dropped without an error. -/
def State.writeObj (s : State) (p : Part) (m : Master) (key : Nat) (mask v : Obj) : Nat × State :=
  let st := s.writeStatus p m key mask v
  if st ≠ hsOk then (st, s)
  else match (s.mg p).rival (s.common p).stroke m key mask, m with
    | some (both, x), .pcie => (hsOk, s.modCommon p (fun c => c.conflict key both x v))
    | some (both, x), .fieldBus => (hsOk, (s.writeApply p m key mask v).modCommon p (fun c => c.conflict key both v x))
    | none, _ => (hsOk, s.writeApply p m key mask v)

/-! ### The windows (R385 to R388) -/

/-- The bits of `n` bytes from byte `lo` on. -/
def bytesMask (lo n : Nat) : Obj := BitVec.ofNat 128 ((2 ^ (8 * n) - 1) * 2 ^ (8 * lo))

/-- REGISTER_WRITE: a write in BAR0; of the field bus, one of the whole object. -/
def execRegisterWrite (part : Part) (m : Master) (offset : BitVec 28) (width : BitVec 2) (data : BitVec 64) (s : State) : Host.Outcome State Fault Refusal :=
  let key := offset.toNat / 2 ^ 12 * 256 + offset.toNat / 16 % 256
  let lo := offset.toNat % 16
  let n := 2 ^ width.toNat
  let err := s.modCommon part (fun c => c.busError m offset.toNat width.toNat)
  .next (if (s.common part).inReset then s
    else match m with
      | .fieldBus =>
        let r := s.writeObj part m key (BitVec.allOnes 128) (BitVec.ofNat 128 data.toNat)
        if r.1 = hsOk then r.2 else s.modCommon part (fun c => c.busError m (slotOffset key) 4)
      | .pcie =>
        let fits := match findRow part key with
          | some r => decide (8 * (lo + n) ≤ r.width)
          | none => false
        if n < 4 ∨ lo % n ≠ 0 ∨ fits = false then err
        else
          let r := s.writeObj part m key (bytesMask lo n) (BitVec.ofNat 128 (data.toNat * 2 ^ (8 * lo)))
          if r.1 = hsOk then r.2 else err)

/-- ALIAS_WRITE: one bit of an object in the bit-alias window, BAR2 of the PCIe function. -/
def execAliasWrite (part : Part) (m : Master) (offset : BitVec 18) (width : BitVec 2) (data : BitVec 64) (s : State) : Host.Outcome State Fault Refusal :=
  let o := offset.toNat
  let key := ob (if o < 2 ^ 17 then 0x2000 else 0x9000) (o % 2 ^ 17 / 512)
  let b := o / 4 % 128
  let err := s.modCommon part (fun c => c.busError m o width.toNat)
  .next (if (s.common part).inReset || m != .pcie then s
    else match findRow part key with
      | none => err
      | some r =>
        if width.toNat ≠ 2 ∨ o % 4 ≠ 0 ∨ bitsOf (r.catchMask part ||| r.immMask part) b 1 = 0 then err
        else
          let w := s.writeObj part m key (BitVec.allOnes 128) (setBits (s.baseOf part m key) b 1 (bitsOf data 0 1))
          if w.1 = hsOk then w.2 else err)

/-! ### Haoth frames (R390 to R393) -/

/-- A frame with a malformed header: discarded unanswered. -/
def Common.badFrame (c : Common) (mac : Nat) : Common :=
  (c.count (ob 0x2000 0x13) 32 32 1).logLimited 0xB008 .uncorrected 0xFF 0 (packArg [(24, mac)])

def execHaothBadFrame (part : Part) (mac : BitVec 48) (s : State) : Host.Outcome State Fault Refusal :=
  .next (if (s.common part).inReset then s else s.modCommon part (fun c => c.badFrame mac.toNat))

/-- A request as a frame. -/
def requestFrame (op : Nat) (r : HaothReq) (body : List Byte) : List Byte :=
  leBytes 1 1 ++ leBytes 1 op ++ leBytes 2 r.tid.toNat ++ leBytes 2 r.target.toNat ++ leBytes 2 body.length ++ leBytes 1 0 ++ leBytes 1 r.count.toNat
    ++ leBytes 2 0 ++ body

/-- The objects that a body names. -/
def reqNames (r : HaothReq) : List Byte := leBytes 2 r.index.toNat ++ leBytes 1 r.sub.toNat ++ leBytes 1 0

def reqRoute (r : HaothReq) (via : Option Nat) : ReplyTo := { src := r.src.toNat, tid := r.tid.toNat, via := via }

/-- Relay a request to the endpoint of a crew port. -/
def State.relayRequest (s : State) (op n : Nat) (r : HaothReq) (body : List Byte) : State :=
  let ps := mgmtPackets { src := s.blk.swId, srcSw := true, dst := s.blk.swRack * 128 + n } r.src.toNat (requestFrame op r body)
  (s.modMg .ox720 (fun m => { m with relays := m.relays ++ [(r.tid.toNat, r.src.toNat, op, (s.common .ox720).stroke)] })).on (fun b =>
    ps.foldl (fun b p => b.unitSend xpCox [n] p) b)

/-- A request: malformed, answered before, for an endpoint of the rack, for this part, or for a part that cannot be reached. -/
def State.haoth (s : State) (p : Part) (via : Option Nat) (op : Nat) (r : HaothReq) (ok : Bool) (body : List Byte) (f : State → State) : State :=
  let c := s.common p
  let t := r.target.toNat
  let id := t % 2 ^ 13
  let lost := s.modCommon p (fun c => c.reply (reqRoute r via) op hsUnreachable 0 0 [])
  if c.inReset then s
  else if !ok || decide (2 ^ 14 ≤ t) then s.modCommon p (fun c => c.badFrame r.src.toNat)
  else match c.kept.find? (fun e => e.1 == r.src.toNat && e.2.1 == r.tid.toNat) with
    | some e => s.modCommon p (fun c => c.sendReply via e.2.2)
    | none => match p with
      | .oe36 => f s
      | .ox720 =>
        if 2 ^ 13 ≤ t then
          (if id / 128 = s.blk.swRack ∧ id % 128 < 72 ∧ c.lstate (id % 128) = lsActive then s.relayRequest op (id % 128) r body else lost)
        else if id = s.blk.swId then f s else lost

/-- The objects that a READ returns, and its status. -/
def State.readSlots (s : State) (p : Part) (key sub : Nat) : Nat → List Obj × Nat
  | 0 => ([], hsOk)
  | n + 1 =>
    if 255 < sub ∨ (s.common p).serves key = false ∨ (findRow p key).isNone then ([], hsNoObject)
    else ((s.readObj p .fieldBus key :: (s.readSlots p (key + 1) (sub + 1) n).1), (s.readSlots p (key + 1) (sub + 1) n).2)

/-- READ. While a take of the field bus is under way, reads of its holding register wait for its end. -/
def State.haothRead (s : State) (p : Part) (via : Option Nat) (r : HaothReq) : State :=
  let n := r.count.toNat
  s.haoth p via 1 r (decide (1 ≤ n) && decide (n ≤ 64)) (reqNames r) (fun s =>
    let key := ob r.index.toNat r.sub.toNat
    let x := s.readSlots p key r.sub.toNat n
    let s1 := if x.2 = hsOk then s else s.modCommon p (fun c => c.recordError .fieldBus (slotOffset (key + x.1.length) % 2 ^ 28) 4)
    let waits := (r.index.toNat == 0x2100 || r.index.toNat == 0x2101) && (s.common p).takers.any (fun t => t.m == .fieldBus && t.read.isNone)
    if waits && !x.1.isEmpty then s1.modCommon p (fun c => { c with evtReads := c.evtReads ++ [(reqRoute r via, key, x.1.length, x.2)] })
    else s1.modCommon p (fun c => c.reply (reqRoute r via) 1 x.2 x.1.length 0 (x.1.map (fun v => leBytes 16 v.toNat)).flatten))

/-- The objects that a WRITE writes, in ascending order up to the first failure: how many, the status, the state. -/
def State.writeSlots (s : State) (p : Part) (key sub : Nat) : List Obj → Nat × Nat × State
  | [] => (0, hsOk, s)
  | v :: rest =>
    if 255 < sub then (0, hsNoObject, s)
    else
      let w := s.writeObj p .fieldBus key (BitVec.allOnes 128) v
      if w.1 ≠ hsOk then (0, w.1, w.2)
      else
        let t := w.2.writeSlots p (key + 1) (sub + 1) rest
        (t.1 + 1, t.2.1, t.2.2)

/-- WRITE. -/
def State.haothWrite (s : State) (p : Part) (via : Option Nat) (r : HaothReq) (slots : List Obj) : State :=
  let n := r.count.toNat
  s.haoth p via 2 r (decide (1 ≤ n) && decide (n ≤ 64) && slots.length == n) (reqNames r ++ (slots.map (fun v => leBytes 16 v.toNat)).flatten) (fun s =>
    let key := ob r.index.toNat r.sub.toNat
    let t := s.writeSlots p key r.sub.toNat slots
    let s1 := if t.2.1 = hsOk then t.2.2 else t.2.2.modCommon p (fun c => c.recordError .fieldBus (slotOffset (key + t.1) % 2 ^ 28) 4)
    s1.modCommon p (fun c => c.reply (reqRoute r via) 2 t.2.1 t.1 0 []))

/-- EVENT_READ: up to COUNT words. -/
def State.eventRead (s : State) (p : Part) (via : Option Nat) (r : HaothReq) : State :=
  let n := r.count.toNat
  s.haoth p via 4 r (decide (1 ≤ n) && decide (n ≤ 23)) [] (fun s =>
    s.modCommon p (fun c => ({ c with takers := c.takers ++ [⟨.fieldBus, c.stroke + c.evtLimit, some (reqRoute r via, n, [])⟩] } : Common).pumpLog))

/-- COMMIT: the command with its GROUP and CATCH_AT, answered with COMMIT_STATUS. -/
def State.haothCommit (s : State) (p : Part) (via : Option Nat) (r : HaothReq) (cmd group catchAt : Nat) : State :=
  s.haoth p via 3 r (r.count.toNat == 0) (leBytes 1 cmd ++ leBytes 1 0 ++ leBytes 2 group ++ leBytes 6 catchAt) (fun s =>
    let c := s.common p
    let st := if !c.serves (ob 0x2000 0) then hsNoObject
      else if c.locked .fieldBus (ob 0x2000 0) then hsLocked
      else if cmd = 0 ∨ 3 < cmd then hsAccess
      else if cmd = 2 ∧ c.commitOpen then hsBusy else hsOk
    let s1 := if st ≠ hsOk then s
      else
        let s2 := s.modCommon p (fun c => c.renew .fieldBus)
        if cmd = 1 then s2.commitNow p .fieldBus
        else if cmd = 2 then (s2.modCommon p (fun c => (c.setFld (ob 0x2000 1) 0 48 catchAt).setFld (ob 0x2000 1) 48 16 group)).commitAt p .fieldBus
        else s2.commitAbort p
    s1.modCommon p (fun c => c.reply (reqRoute r via) 3 st 0 0 (leBytes 8 (s1.view p (ob 0x2000 2)).toNat)))

def execHaothRead (part : Part) (r : HaothReq) (s : State) : Host.Outcome State Fault Refusal := .next (s.haothRead part none r)
def execHaothWrite (part : Part) (r : HaothReq) (slots : List Obj) (s : State) : Host.Outcome State Fault Refusal := .next (s.haothWrite part none r slots)
def execEventRead (part : Part) (r : HaothReq) (s : State) : Host.Outcome State Fault Refusal := .next (s.eventRead part none r)

/-- A write of COMMIT_CMD over the window, or a COMMIT frame. -/
def State.commitBy (s : State) (p : Part) (via : CommitVia) (cmd : Nat) (f : State → Master → State) : State :=
  match via with
  | .window m => s.mgmtWrite p m (ob 0x2000 0) (fun s => f s m)
  | .frame r group at_ => s.haothCommit p none r cmd group.toNat at_.toNat

def execCommitNow (part : Part) (via : CommitVia) (s : State) : Host.Outcome State Fault Refusal := .next (s.commitBy part via 1 (fun s m => s.commitNow part m))
def execCommitAt (part : Part) (via : CommitVia) (s : State) : Host.Outcome State Fault Refusal := .next (s.commitBy part via 2 (fun s m => s.commitAt part m))
def execCommitAbort (part : Part) (via : CommitVia) (s : State) : Host.Outcome State Fault Refusal := .next (s.commitBy part via 3 (fun s _ => s.commitAbort part))

/-! ### The relay (R392) -/

/-- The fields of word 1 of MGMT_DATA: the requester's address, the number of the piece, LAST. -/
def mgMac (p : Packet) : Nat := bitsOf p.w1 0 48
def mgPiece (p : Packet) : Nat := bitsOf p.w1 48 8
def mgLast (p : Packet) : Bool := bitsOf p.w1 56 1 == 1

/-- A piece of a frame joins those before it; the frame when it was the last. -/
def Mgmt.gather (c : Mgmt) (k : Nat) (p : Packet) : Option (List Byte) × Mgmt :=
  let mac := mgMac p
  let rest := c.relayRx.filter (fun e => !(e.1 == k && e.2.1 == mac))
  let old := match c.relayRx.find? (fun e => e.1 == k && e.2.1 == mac) with
    | some e => e.2.2
    | none => []
  let all := if mgPiece p = 0 then slice p.payload 0 256 else if old.length = 256 * mgPiece p then old ++ slice p.payload 0 256 else []
  if all.isEmpty then (none, { c with relayRx := rest })
  else if mgLast p then (some all, { c with relayRx := rest })
  else (none, { c with relayRx := rest ++ [(k, mac, all)] })

/-- A relayed request at the endpoint: a request of the field bus. -/
def State.relayedRequest (s : State) (link mac : Nat) (b : List Byte) : State :=
  let n := fun (lo k : Nat) => leAt b lo k
  let len := n 6 2
  let r : HaothReq := ⟨BitVec.ofNat 48 mac, BitVec.ofNat 16 (n 2 2), BitVec.ofNat 16 (n 4 2), BitVec.ofNat 16 (n 12 2), BitVec.ofNat 8 (n 14 1), BitVec.ofNat 8 (n 9 1)⟩
  let bad := s.modCommon .oe36 (fun c => c.badFrame mac)
  if n 0 1 ≠ 1 ∨ n 8 1 ≠ 0 then bad
  else if n 1 1 = 1 then (if len = 4 then s.haothRead .oe36 (some link) r else bad)
  else if n 1 1 = 2 then
    (if len = 4 + 16 * r.count.toNat then s.haothWrite .oe36 (some link) r ((List.range r.count.toNat).map (fun i => BitVec.ofNat 128 (n (16 + 16 * i) 16))) else bad)
  else if n 1 1 = 3 then (if len = 10 then s.haothCommit .oe36 (some link) r (n 12 1) (n 14 2) (n 16 6) else bad)
  else if n 1 1 = 4 then (if len = 0 then s.eventRead .oe36 (some link) r else bad)
  else bad

/-- The endpoint's answer at the switch: it goes to the requester, and is kept. -/
def State.relayedReply (s : State) (mac : Nat) (b : List Byte) : State :=
  let tid := leAt b 2 2
  match s.mgSw.relays.find? (fun e => e.1 == tid && e.2.1 == mac) with
  | none => s
  | some e => (s.modMg .ox720 (fun m => { m with relays := m.relays.erase e })).modCommon .ox720 (fun c =>
      c.reply ⟨mac, tid, none⟩ (leAt b 1 1 % 128) (leAt b 8 1) (leAt b 9 1) (leAt b 10 1) (slice b 12 (leAt b 6 2)))

/-- MGMT_DATA: a piece of a relayed request at an endpoint, of a response at a switch. -/
def execMgmtData (part : Part) (link : BitVec 7) (p : Packet) (s : State) : Host.Outcome State Fault Refusal :=
  .next (if !(s.common part).up || pOpc p != 0x3B then s
    else match part with
      | .oe36 =>
        if classBad p (linkNets .oe36 link.toNat) then s.modCommon .oe36 (fun c => c.refuseHere link.toNat p) else
        let g := s.mgEp.gather link.toNat p
        let s1 := (s.modCommon .oe36 (fun c => c.takeRx link.toNat p)).setMg .oe36 g.2
        match g.1 with
        | some b => s1.relayedRequest link.toNat (mgMac p) b
        | none => s1
      | .ox720 =>
        let g := s.mgSw.gather link.toNat p
        let s1 := (s.modCommon .ox720 (fun c => c.rxDrop (unitRx xpCox) p)).setMg .ox720 g.2
        match g.1 with
        | some b => if leAt b 1 1 / 128 = 1 then s1.relayedReply (mgMac p) b else s1
        | none => s1)

/-- RELAY_TIMEOUT: the endpoint has not answered within 1 ms. -/
def execRelayTimeout (tid : BitVec 16) (src : BitVec 48) (s : State) : Host.Outcome State Fault Refusal :=
  .next (match s.mgSw.relays.find? (fun e => e.1 == tid.toNat && e.2.1 == src.toNat) with
    | some e => if cclkMs ≤ (s.common .ox720).since e.2.2.2 then
        (s.modMg .ox720 (fun m => { m with relays := m.relays.erase e })).modCommon .ox720 (fun c => c.reply ⟨src.toNat, tid.toNat, none⟩ e.2.2.1 hsUnreachable 0 0 [])
      else s
    | none => s)

end Sys2Proof.Machine
end

