-- ==== Sys2Proof/Machine/Dispatch.lean ====
section
/-!
DEFINITION. The dispatch: one arm for each command of the table, in its order.
-/
namespace Sys2Proof.Machine

def exec (i : Instr) (s : State) : Host.Outcome State Fault Refusal :=
  match i with
  | .walkReadDone ctx granule value st inj => Sys2Proof.Machine.execWalkReadDone ctx granule value st inj s
  | .invalCmd m v => Sys2Proof.Machine.execInvalCmd m v s
  | .faultCons m v => Sys2Proof.Machine.execFaultCons m v s
  | .ucieRead r => Sys2Proof.Machine.execUcieRead r s
  | .ucieWrite r mask data => Sys2Proof.Machine.execUcieWrite r mask data s
  | .ucieAtomic r op typ operand compare => Sys2Proof.Machine.execUcieAtomic r op typ operand compare s
  | .ucieFence tag => Sys2Proof.Machine.execUcieFence tag s
  | .ucieRdShared r => Sys2Proof.Machine.execUcieRdShared r s
  | .ucieRdOwn r => Sys2Proof.Machine.execUcieRdOwn r s
  | .ucieUpgrade r => Sys2Proof.Machine.execUcieUpgrade r s
  | .ucieWriteback r data poison => Sys2Proof.Machine.execUcieWriteback r data poison s
  | .ucieEvictClean r => Sys2Proof.Machine.execUcieEvictClean r s
  | .ucieSnoopReply home tag dirty data poison => Sys2Proof.Machine.execUcieSnoopReply home tag dirty data poison s
  | .dbWrite q tail => Sys2Proof.Machine.execDbWrite q tail s
  | .doorbell m q tail => Sys2Proof.Machine.execDoorbell m q tail s
  | .ctrRead tag offset size => Sys2Proof.Machine.execCtrRead tag offset size s
  | .memRdResponse id data st inj => Sys2Proof.Machine.execMemRdResponse id data st inj s
  | .memWrAck id => Sys2Proof.Machine.execMemWrAck id s
  | .descriptorFetch q => Sys2Proof.Machine.execDescriptorFetch q s
  | .tileCopy q => Sys2Proof.Machine.execTileCopy q s
  | .fill q => Sys2Proof.Machine.execFill q s
  | .atomicBatch q list => Sys2Proof.Machine.execAtomicBatch q list s
  | .collectiveLaunch q ext => Sys2Proof.Machine.execCollectiveLaunch q ext s
  | .handoffDescriptor q => Sys2Proof.Machine.execHandoffDescriptor q s
  | .queueFence q => Sys2Proof.Machine.execQueueFence q s
  | .endpointFence q => Sys2Proof.Machine.execEndpointFence q s
  | .counterOpAdd q => Sys2Proof.Machine.execCounterOpAdd q s
  | .counterOpSet q => Sys2Proof.Machine.execCounterOpSet q s
  | .remoteAdd q tag => Sys2Proof.Machine.execRemoteAdd q tag s
  | .decryptCopy q header => Sys2Proof.Machine.execDecryptCopy q header s
  | .tileBurstIssue q n tag => Sys2Proof.Machine.execTileBurstIssue q n tag s
  | .decryptSegment q n sealedBytes => Sys2Proof.Machine.execDecryptSegment q n sealedBytes s
  | .handoffRelease q n tag => Sys2Proof.Machine.execHandoffRelease q n tag s
  | .fenceComplete f => Sys2Proof.Machine.execFenceComplete f s
  | .descriptorComplete q n => Sys2Proof.Machine.execDescriptorComplete q n s
  | .restart m q => Sys2Proof.Machine.execRestart m q s
  | .abort m q => Sys2Proof.Machine.execAbort m q s
  | .cqCons m q v => Sys2Proof.Machine.execCqCons m q v s
  | .rd via p => Sys2Proof.Machine.execRd via p s
  | .wr via p => Sys2Proof.Machine.execWr via p s
  | .wrmMask via p => Sys2Proof.Machine.execWrmMask via p s
  | .wrmData via p => Sys2Proof.Machine.execWrmData via p s
  | .atomic via p => Sys2Proof.Machine.execAtomic via p s
  | .atomicCas via p => Sys2Proof.Machine.execAtomicCas via p s
  | .accWr via p => Sys2Proof.Machine.execAccWr via p s
  | .ctrAdd via p => Sys2Proof.Machine.execCtrAdd via p s
  | .handoff via p => Sys2Proof.Machine.execHandoff via p s
  | .handoffApply region => Sys2Proof.Machine.execHandoffApply region s
  | .rdShared via p => Sys2Proof.Machine.execRdShared via p s
  | .rdOwn via p => Sys2Proof.Machine.execRdOwn via p s
  | .upgrade via p => Sys2Proof.Machine.execUpgrade via p s
  | .writeback via p => Sys2Proof.Machine.execWriteback via p s
  | .evictClean via p => Sys2Proof.Machine.execEvictClean via p s
  | .snoopAck via p => Sys2Proof.Machine.execSnoopAck via p s
  | .snoopData via p => Sys2Proof.Machine.execSnoopData via p s
  | .snoopTimeout line member inj => Sys2Proof.Machine.execSnoopTimeout line member inj s
  | .rdData via p => Sys2Proof.Machine.execRdData via p s
  | .ack via p => Sys2Proof.Machine.execAck via p s
  | .atomicResp via p => Sys2Proof.Machine.execAtomicResp via p s
  | .lineData via p => Sys2Proof.Machine.execLineData via p s
  | .snoopInv via p => Sys2Proof.Machine.execSnoopInv via p s
  | .snoopShare via p => Sys2Proof.Machine.execSnoopShare via p s
  | .nack plane p => Sys2Proof.Machine.execNack plane p s
  | .reach plane p => Sys2Proof.Machine.execReach plane p s
  | .channelRepin dst ch tenant => Sys2Proof.Machine.execChannelRepin dst ch tenant s
  | .crewPortIngress port p => Sys2Proof.Machine.execCrewPortIngress port p s
  | .hallPortIngress hp p => Sys2Proof.Machine.execHallPortIngress hp p s
  | .packetTransmit part pp net => Sys2Proof.Machine.execPacketTransmit part pp net s
  | .spillRefill inst => Sys2Proof.Machine.execSpillRefill inst s
  | .stallLimitExpiry part inst m => Sys2Proof.Machine.execStallLimitExpiry part inst m s
  | .fciChange k high => Sys2Proof.Machine.execFciChange k high s
  | .shaperSlot part hp => Sys2Proof.Machine.execShaperSlot part hp s
  | .policerRefill hp => Sys2Proof.Machine.execPolicerRefill hp s
  | .blockRelease g ctx block bad pos inj => Sys2Proof.Machine.execBlockRelease g ctx block bad pos inj s
  | .recomputeDone g ctx block bad => Sys2Proof.Machine.execRecomputeDone g ctx block bad s
  | .fenceMask mask => Sys2Proof.Machine.execFenceMask mask s
  | .collChunkSend ctx plane pre data poison => Sys2Proof.Machine.execCollChunkSend ctx plane pre data poison s
  | .contrib p => Sys2Proof.Machine.execContrib p s
  | .prepass p => Sys2Proof.Machine.execPrepass p s
  | .chunkLand g inj => Sys2Proof.Machine.execChunkLand g inj s
  | .collTimeout ctx => Sys2Proof.Machine.execCollTimeout ctx s
  | .result plane p => Sys2Proof.Machine.execResult plane p s
  | .complete plane p => Sys2Proof.Machine.execComplete plane p s
  | .resendReq plane p => Sys2Proof.Machine.execResendReq plane p s
  | .release plane p => Sys2Proof.Machine.execRelease plane p s
  | .mirror p => Sys2Proof.Machine.execMirror p s
  | .vNop g gop => Sys2Proof.Machine.execVNop g gop s
  | .vAdd g gop => Sys2Proof.Machine.execVAdd g gop s
  | .vMul g gop => Sys2Proof.Machine.execVMul g gop s
  | .vFma g gop => Sys2Proof.Machine.execVFma g gop s
  | .vMin g gop => Sys2Proof.Machine.execVMin g gop s
  | .vMax g gop => Sys2Proof.Machine.execVMax g gop s
  | .vCmp g gop => Sys2Proof.Machine.execVCmp g gop s
  | .vCvt g gop => Sys2Proof.Machine.execVCvt g gop s
  | .vScale g gop => Sys2Proof.Machine.execVScale g gop s
  | .vClamp g gop => Sys2Proof.Machine.execVClamp g gop s
  | .vRsqrt g gop => Sys2Proof.Machine.execVRsqrt g gop s
  | .vSign g gop => Sys2Proof.Machine.execVSign g gop s
  | .vAnd g gop => Sys2Proof.Machine.execVAnd g gop s
  | .vOr g gop => Sys2Proof.Machine.execVOr g gop s
  | .vXor g gop => Sys2Proof.Machine.execVXor g gop s
  | .vExpmax g gop => Sys2Proof.Machine.execVExpmax g gop s
  | .vAxcvt g gop => Sys2Proof.Machine.execVAxcvt g gop s
  | .vAxadd g gop => Sys2Proof.Machine.execVAxadd g gop s
  | .vAxout g gop => Sys2Proof.Machine.execVAxout g gop s
  | .vIsum g gop => Sys2Proof.Machine.execVIsum g gop s
  | .vMma g gop => Sys2Proof.Machine.execVMma g gop s
  | .bind g garg => Sys2Proof.Machine.execBind g garg s
  | .seek g garg => Sys2Proof.Machine.execSeek g garg s
  | .bhptr g garg => Sys2Proof.Machine.execBhptr g garg s
  | .ksel g garg => Sys2Proof.Machine.execKsel g garg s
  | .lopBegin larg => Sys2Proof.Machine.execLopBegin larg s
  | .lopJump larg => Sys2Proof.Machine.execLopJump larg s
  | .steerEn sport spos => Sys2Proof.Machine.execSteerEn sport spos s
  | .annEn ann => Sys2Proof.Machine.execAnnEn ann s
  | .sen sid => Sys2Proof.Machine.execSen sid s
  | .bhFetchDone g uncorrectable inj => Sys2Proof.Machine.execBhFetchDone g uncorrectable inj s
  | .farEndPresent part pp lanes => Sys2Proof.Machine.execFarEndPresent part pp lanes s
  | .presencePulse part pp => Sys2Proof.Machine.execPresencePulse part pp s
  | .trainComplete part pp lanes => Sys2Proof.Machine.execTrainComplete part pp lanes s
  | .lockComplete part pp skewNs => Sys2Proof.Machine.execLockComplete part pp skewNs s
  | .launchTimeout part pp => Sys2Proof.Machine.execLaunchTimeout part pp s
  | .exch part pp frag bytes => Sys2Proof.Machine.execExch part pp frag bytes s
  | .exchAck part pp received pass => Sys2Proof.Machine.execExchAck part pp received pass s
  | .exchResend part pp => Sys2Proof.Machine.execExchResend part pp s
  | .keyx part pp frag last bytes => Sys2Proof.Machine.execKeyx part pp frag last bytes s
  | .flitGroup part pp bytes corrected uncorrectable inj => Sys2Proof.Machine.execFlitGroup part pp bytes corrected uncorrectable inj s
  | .ackFlit part pp count => Sys2Proof.Machine.execAckFlit part pp count s
  | .nak part pp next => Sys2Proof.Machine.execNak part pp next s
  | .replay part pp first => Sys2Proof.Machine.execReplay part pp first s
  | .credit part pp counts => Sys2Proof.Machine.execCredit part pp counts s
  | .ackTimer part pp => Sys2Proof.Machine.execAckTimer part pp s
  | .creditTimer part pp => Sys2Proof.Machine.execCreditTimer part pp s
  | .laneMarker part pp lane marker onTime => Sys2Proof.Machine.execLaneMarker part pp lane marker onTime s
  | .laneLossOfLock part pp lane inj => Sys2Proof.Machine.execLaneLossOfLock part pp lane inj s
  | .laneErrorLimit part pp lane symbols inj => Sys2Proof.Machine.execLaneErrorLimit part pp lane symbols inj s
  | .spareSwap part pp logical phys => Sys2Proof.Machine.execSpareSwap part pp logical phys s
  | .spareSwapAck part pp logical phys cw mcount => Sys2Proof.Machine.execSpareSwapAck part pp logical phys cw mcount s
  | .spareSwapCodeword part pp receiver => Sys2Proof.Machine.execSpareSwapCodeword part pp receiver s
  | .keepalive part pp inj => Sys2Proof.Machine.execKeepalive part pp inj s
  | .linkDown part pp cause => Sys2Proof.Machine.execLinkDown part pp cause s
  | .featherEntry part pp => Sys2Proof.Machine.execFeatherEntry part pp s
  | .feather part pp => Sys2Proof.Machine.execFeather part pp s
  | .featherExit part pp => Sys2Proof.Machine.execFeatherExit part pp s
  | .dock part pp => Sys2Proof.Machine.execDock part pp s
  | .dockFlit part pp ackn => Sys2Proof.Machine.execDockFlit part pp ackn s
  | .dockTimeout part pp => Sys2Proof.Machine.execDockTimeout part pp s
  | .dockClear part pp => Sys2Proof.Machine.execDockClear part pp s
  | .ergo part pp mode => Sys2Proof.Machine.execErgo part pp mode s
  | .ergoDone part pp bits errors => Sys2Proof.Machine.execErgoDone part pp bits errors s
  | .relaunch part pp => Sys2Proof.Machine.execRelaunch part pp s
  | .linePowerMeasure powers inj => Sys2Proof.Machine.execLinePowerMeasure powers inj s
  | .combPresenceChange present advertised => Sys2Proof.Machine.execCombPresenceChange present advertised s
  | .combInt flags => Sys2Proof.Machine.execCombInt flags s
  | .combPoll flags ready => Sys2Proof.Machine.execCombPoll flags ready s
  | .ringAcquisitionDone kk tx rx => Sys2Proof.Machine.execRingAcquisitionDone kk tx rx s
  | .ringTrack kk => Sys2Proof.Machine.execRingTrack kk s
  | .ringWatchdog kk txBad rxBad inj => Sys2Proof.Machine.execRingWatchdog kk txBad rxBad inj s
  | .wlRestore ports => Sys2Proof.Machine.execWlRestore ports s
  | .hallRelaunch kk => Sys2Proof.Machine.execHallRelaunch kk s
  | .rotaSteer kk => Sys2Proof.Machine.execRotaSteer kk s
  | .steerDrainDone kk => Sys2Proof.Machine.execSteerDrainDone kk s
  | .selectorMoved kk => Sys2Proof.Machine.execSelectorMoved kk s
  | .steerRelockDone kk far => Sys2Proof.Machine.execSteerRelockDone kk far s
  | .steerRelockTimeout kk => Sys2Proof.Machine.execSteerRelockTimeout kk s
  | .noLinkFullLaunch kk => Sys2Proof.Machine.execNoLinkFullLaunch kk s
  | .claim p => Sys2Proof.Machine.execClaim p s
  | .claimRoundEnd hall => Sys2Proof.Machine.execClaimRoundEnd hall s
  | .syncPulseMissing part => Sys2Proof.Machine.execSyncPulseMissing part s
  | .announce part link p => Sys2Proof.Machine.execAnnounce part link p s
  | .hallPing p => Sys2Proof.Machine.execHallPing p s
  | .hallEcho p sent => Sys2Proof.Machine.execHallEcho p sent s
  | .strokeSync part => Sys2Proof.Machine.execStrokeSync part s
  | .refclkLoss part inj => Sys2Proof.Machine.execRefclkLoss part inj s
  | .griwardReplayLanding ctx input => Sys2Proof.Machine.execGriwardReplayLanding ctx input s
  | .getDigests part => Sys2Proof.Machine.execGetDigests part s
  | .getCertificate part slot offset length => Sys2Proof.Machine.execGetCertificate part slot offset length s
  | .challenge part slot nonce => Sys2Proof.Machine.execChallenge part slot nonce s
  | .getMeasurements part index nonce sign => Sys2Proof.Machine.execGetMeasurements part index nonce sign s
  | .keyExchange part requesterTenant pubKeyDigest mutualAuth ecdhe => Sys2Proof.Machine.execKeyExchange part requesterTenant pubKeyDigest mutualAuth ecdhe s
  | .spdmFinish part session verified => Sys2Proof.Machine.execSpdmFinish part session verified s
  | .endSession part session => Sys2Proof.Machine.execEndSession part session s
  | .setWeightKey session payload => Sys2Proof.Machine.execSetWeightKey session payload s
  | .eraseWeightKey session payload => Sys2Proof.Machine.execEraseWeightKey session payload s
  | .spdmResponseReady part => Sys2Proof.Machine.execSpdmResponseReady part s
  | .keyErase m slots => Sys2Proof.Machine.execKeyErase m slots s
  | .keyRetire tenants => Sys2Proof.Machine.execKeyRetire tenants s
  | .entropyTestFail part test inj => Sys2Proof.Machine.execEntropyTestFail part test inj s
  | .entropyAutoRestart part => Sys2Proof.Machine.execEntropyAutoRestart part s
  | .entropyRestart part m => Sys2Proof.Machine.execEntropyRestart part m s
  | .entropyTestDone part pass test => Sys2Proof.Machine.execEntropyTestDone part pass test s
  | .entropyWaitExpiry part => Sys2Proof.Machine.execEntropyWaitExpiry part s
  | .unlockReq part m => Sys2Proof.Machine.execUnlockReq part m s
  | .unlockGo part m => Sys2Proof.Machine.execUnlockGo part m s
  | .lock part m => Sys2Proof.Machine.execLock part m s
  | .sramCorrected part unit word inj => Sys2Proof.Machine.execSramCorrected part unit word inj s
  | .sramUncorrected part unit word at_ inj => Sys2Proof.Machine.execSramUncorrected part unit word at_ inj s
  | .paritySweep part key word mismatch shadow inj => Sys2Proof.Machine.execParitySweep part key word mismatch shadow inj s
  | .patrolScrub correctable uncorrectable inj => Sys2Proof.Machine.execPatrolScrub correctable uncorrectable inj s
  | .e2eTimeout tag inj => Sys2Proof.Machine.execE2eTimeout tag inj s
  | .quietTagRelease tag => Sys2Proof.Machine.execQuietTagRelease tag s
  | .fenced set => Sys2Proof.Machine.execFenced set s
  | .collViaTwin mask => Sys2Proof.Machine.execCollViaTwin mask s
  | .haothRead part r => Sys2Proof.Machine.execHaothRead part r s
  | .haothWrite part r slots => Sys2Proof.Machine.execHaothWrite part r slots s
  | .eventRead part r => Sys2Proof.Machine.execEventRead part r s
  | .mgmtData part link p => Sys2Proof.Machine.execMgmtData part link p s
  | .relayTimeout tid src => Sys2Proof.Machine.execRelayTimeout tid src s
  | .registerWrite part m offset width data => Sys2Proof.Machine.execRegisterWrite part m offset width data s
  | .aliasWrite part m offset width data => Sys2Proof.Machine.execAliasWrite part m offset width data s
  | .commitNow part via => Sys2Proof.Machine.execCommitNow part via s
  | .commitAt part via => Sys2Proof.Machine.execCommitAt part via s
  | .commitAbort part via => Sys2Proof.Machine.execCommitAbort part via s
  | .commitCheckDone part => Sys2Proof.Machine.execCommitCheckDone part s
  | .catchGuard part => Sys2Proof.Machine.execCatchGuard part s
  | .catch_ part => Sys2Proof.Machine.execCatch part s
  | .catchAnn part link p => Sys2Proof.Machine.execCatchAnn part link p s
  | .owner part m v => Sys2Proof.Machine.execOwner part m v s
  | .lockLease part => Sys2Proof.Machine.execLockLease part s
  | .evtNext part m => Sys2Proof.Machine.execEvtNext part m s
  | .porstN part straps => Sys2Proof.Machine.execPorstN part straps s
  | .wrstN part => Sys2Proof.Machine.execWrstN part s
  | .warmReset part => Sys2Proof.Machine.execWarmReset part s
  | .blockReset part unitKind unit => Sys2Proof.Machine.execBlockReset part unitKind unit s
  | .resetBallastDone part => Sys2Proof.Machine.execResetBallastDone part s
  | .railFault part rail => Sys2Proof.Machine.execRailFault part rail s
  | .tempThrottle part sensor temp inj => Sys2Proof.Machine.execTempThrottle part sensor temp inj s
  | .throttleRelease part temps => Sys2Proof.Machine.execThrottleRelease part temps s
  | .tempTrip part sensor temp inj => Sys2Proof.Machine.execTempTrip part sensor temp inj s
  | .pllUnlock part which => Sys2Proof.Machine.execPllUnlock part which s
  | .fwGo part m => Sys2Proof.Machine.execFwGo part m s
  | .fwCheckDone part pass digest => Sys2Proof.Machine.execFwCheckDone part pass digest s
  | .bringupDone part fencedTiles => Sys2Proof.Machine.execBringupDone part fencedTiles s
  | .railGood part rail => Sys2Proof.Machine.execRailGood part rail s
  | .memberCollTimeout ctx => Sys2Proof.Machine.execMemberCollTimeout ctx s
  | .resetDone part => Sys2Proof.Machine.execResetDone part s
  | .haothBadFrame part mac => Sys2Proof.Machine.execHaothBadFrame part mac s
  | .drbgReseed part testFailed out => Sys2Proof.Machine.execDrbgReseed part testFailed out s
  | .walkStart => Sys2Proof.Machine.execWalkStart s
  | .invalComplete => Sys2Proof.Machine.execInvalComplete s
  | .slotMatch => Sys2Proof.Machine.execSlotMatch s
  | .headScan => Sys2Proof.Machine.execHeadScan s
  | .auditPass => Sys2Proof.Machine.execAuditPass s
  | .dispatch => Sys2Proof.Machine.execDispatch s
  | .patternLatch => Sys2Proof.Machine.execPatternLatch s
  | .wait => Sys2Proof.Machine.execWait s
  | .lopEnd => Sys2Proof.Machine.execLopEnd s
  | .lopFinish => Sys2Proof.Machine.execLopFinish s
  | .lopDone => Sys2Proof.Machine.execLopDone s
  | .ckpt => Sys2Proof.Machine.execCkpt s
  | .align => Sys2Proof.Machine.execAlign s
  | .crab => Sys2Proof.Machine.execCrab s
  | .holdDriveStart => Sys2Proof.Machine.execHoldDriveStart s
  | .holdWaterSeenLow => Sys2Proof.Machine.execHoldWaterSeenLow s
  | .heldEnter => Sys2Proof.Machine.execHeldEnter s
  | .holdDriveRelease => Sys2Proof.Machine.execHoldDriveRelease s
  | .holdWaterSeenHigh => Sys2Proof.Machine.execHoldWaterSeenHigh s
  | .heldExit => Sys2Proof.Machine.execHeldExit s
  | .holdLimit => Sys2Proof.Machine.execHoldLimit s
  | .tokenYield => Sys2Proof.Machine.execTokenYield s
  | .tokenGive => Sys2Proof.Machine.execTokenGive s
  | .peerFailed => Sys2Proof.Machine.execPeerFailed s
  | .tokenReturn => Sys2Proof.Machine.execTokenReturn s
  | .combReset => Sys2Proof.Machine.execCombReset s
  | .checkPeriodAnnounce => Sys2Proof.Machine.execCheckPeriodAnnounce s
  | .ssyncOutDrive => Sys2Proof.Machine.execSsyncOutDrive s
  | .dedupClearDone => Sys2Proof.Machine.execDedupClearDone s
  | .standInBegin => Sys2Proof.Machine.execStandInBegin s
  | .standInHoldExpiry => Sys2Proof.Machine.execStandInHoldExpiry s
  | .endStandIn => Sys2Proof.Machine.execEndStandIn s
  | .planeReset => Sys2Proof.Machine.execPlaneReset s
  | .strokeReset => Sys2Proof.Machine.execStrokeReset s
  | .announceEffect => Sys2Proof.Machine.execAnnounceEffect s

end Sys2Proof.Machine
end

