-- ==== Sys2Proof/Machine/Tick.lean ====
section
/-!
DEFINITION. One CCLK: what a clock edge does when no command comes (14, R325; 16, R377; 18, R410).
-/
namespace Sys2Proof.Machine

/-- Has a link of the part a replay or a swap in progress? -/
def Common.retrying (c : Common) : Bool :=
  c.links.any (fun e => e.2.replaying.isSome || e.2.waitReplay.isSome || !e.2.swapRx.isEmpty || !e.2.swapTx.isEmpty)

/-- Is HOLD_WATER_N low at the part, and is it recovering from the loss of a plane (R377)? -/
def Block.onHold (s : Block) : Part → Bool
  | .oe36 => false
  | .ox720 => s.ox.hold.lineLow
def Block.recovering (s : Block) : Part → Bool
  | .oe36 =>
    s.oe.chans.any (fun c => c.stopped)
    || (s.ep.bit (ob 0x9040 0) 16 && s.oe.queues.any (fun e => match e.2.fetched with
      | d :: _ => (match d.words with
        | some ws => dKind ws == 4
        | none => false)
      | [] => false))
  | .ox720 => s.ox.standAt.isSome

/-- A CCLK in a part: the stroke count, since the start line the counters of R377, THROTTLE_CCLK. -/
def Block.cclkPart (s : Block) (p : Part) : Block :=
  let hold := s.onHold p
  let rec_ := s.recovering p
  s.modCommon p (fun c =>
    if c.inReset || !c.running then c
    else
      let retry := c.retrying
      let c1 : Common := { c with stroke := (c.stroke + 1) % 2 ^ 48 }
      let plus := fun (c : Common) (b : Bool) (i : Nat) => if b && c.started then c.count (ob 0x9050 i) 0 64 1 else c
      let c4 := plus (plus (plus (plus c1 (!(hold || rec_ || retry)) 0) hold 1) rec_ 2) retry 3
      if c.bit (ob 0xA001 0) 10 then c4.count (ob 0xA000 3) 0 64 1 else c4)

/-! ### The slew limiter (R410, R411, R413) -/

/-- The highest and the lowest scheduled current that one CCLK allows, in 1/1750 A: 60 A/µs, and 360 A/µs as far as the excursion announced, 150 A for each step of LOAD_ANN. -/
def Ox.annTop (x : Ox) (now : Nat) : Nat := max (now + 60) (if x.annEffect = 0 then 0 else min (now + 360) (x.annBase + x.annEffect * 150 * 1750))
def Ox.annBottom (x : Ox) (now : Nat) : Nat := min (now - 60) (if x.annEffect = 0 then now - 60 else max (now - 360) (x.annBase - x.annEffect * 150 * 1750))

/-- What the scheduled domain would draw: the presented bundle's activity, nothing while none executes. -/
def Block.schedWant (s : Block) : Nat := if s.ox.eng.state = engRun then Config.schedLoad s.ox.eng.pc s.ox.eng.rep else 0

/-- The current of a domain that wants `want`, between two limits; without ballast nothing holds up a fall. -/
def slewed (top bottom want : Nat) (ballast : Bool) : Nat := if top < want then top else if want < bottom && ballast then bottom else want

/-- The estimates of the CCLK that begins, and what is deferred in it: a domain that gets less than it wants. The cap binds the sum, the scheduled domain first, whose deferrals depend on its own activity alone. SLEW_DEFERRALS counts the CCLK. -/
def Block.limit (s : Block) : Block :=
  let on := fun (c : Common) => c.running && !c.inReset
  let draw := fun (c : Common) (sched dyn : Nat) (deferred : Bool) =>
    let c1 : Common := { c with schedCur := sched, dynCur := dyn, vcorePeak := max c.vcorePeak ((sched + dyn) / 1750) }
    if deferred then c1.count (ob 0xA000 2) 0 64 1 else c1
  let wantE := Config.dynLoad .oe36 s.free
  let curE := min (slewed (s.ep.dynCur + 25) (s.ep.dynCur - 25) wantE true) (s.ep.currentCap * 1750)
  let wantS := s.schedWant
  let curS := min (slewed (s.ox.annTop s.sw.schedCur) (s.ox.annBottom s.sw.schedCur) wantS (s.sw.bit (ob 0xA000 1) 16)) (s.sw.currentCap * 1750)
  let wantD := Config.dynLoad .ox720 s.free
  let curD := min (slewed (s.sw.dynCur + 40) (s.sw.dynCur - 40) wantD true) (s.sw.currentCap * 1750 - curS)
  let s1 := if on s.ep then s.tick.modEp (fun c => draw c 0 curE (decide (curE < wantE))) else s.tick
  if on s.sw then
    (s1.modSw (fun c => draw c curS curD (decide (curS < wantS) || decide (curD < wantD)))).modOx (fun x =>
      { x with deferScheduled := decide (curS < wantS), deferDynamic := decide (curD < wantD) })
  else s1.modOx (fun x => { x with deferScheduled := false, deferDynamic := false })

/-! ### The buffers of the switch (R145, R160, R161, R167) -/

/-- What the tail buffer of the event log cannot hold moves to the boathouse by whole words (R161). -/
def Block.evtSpill (s : Block) : Block :=
  let c := s.sw
  let tail := c.evtLog.length - c.evtHead - c.evtMid
  if tail ≤ 256 ∨ c.spillWords 0xB0 = 0 then s
  else
    let w := (tail - 256 + 3) / 4
    let first := c.evtHead + c.evtMid
    (s.modOx (fun x => (List.range w).foldl (fun x j =>
      x.bhWrite (c.spillAddr 0xB0 (c.evtRp + first / 4 + j)) (wordBytes ((c.evtLog.drop (first + 4 * j)).take 4)) false 0 (SMap.get 0 x.keyGen 0)) x)).modSw
        (fun c => { c with evtMid := c.evtMid + 4 * w })

/-- The end of a CCLK in the switch's buffers. -/
def Block.buffersEnd (s : Block) : Block := if s.sw.inReset then s else s.evalAll.evtSpill.hallScan

/-- The beginning of one: in the first CCLK of a slot what the last match granted has crossed. -/
def Block.slotBegin (s : Block) : Block := if s.sw.inReset || s.sw.stroke % 2 != 0 then s else s.landFlights (fun _ => true)

/-- What lands at the end of a CCLK: signals (R248) and arrivals (R251); then launches that span racks go where HALL_SYNCED puts them (R242), and tiles that wait to be replaced between blocks move (R194). -/
def Block.signalsEnd (s : Block) : Block :=
  if s.sw.inReset then s
  else
    let plus := fun (m : SMap Nat) (i : Nat) => SMap.modify 0 m i (fun n => (n + 1) % 65536)
    ((s.modOx (fun x => { x with sc := x.scPend.foldl plus x.sc, scPend := [], arv := x.arvPend.foldl plus x.arv, arvPend := [] })).hallSort).moveTiles

/-- The lanes of a part that have asked for their link's last spare in the CCLK that ends (R300). -/
def Block.linksEnd (s : Block) (p : Part) : Block :=
  ((s.common p).links.filter (fun e => !e.2.swapAsk.isEmpty)).foldl (fun s e => s.swapsAsked p e.1) s

/-- COMB_RST_N rises 10 µs after a reset of the module (R306); a reset of the switch leaves it as it is. -/
def Block.combEnd (s : Block) : Block :=
  if s.ox.combRst = 0 || s.sw.inReset || !s.sw.running then s
  else
    let s1 := s.modOx (fun x => { x with combRst := x.combRst - 1 })
    if s.ox.combRst = 1 then s1.modSw (fun c => c.emit (.pin "COMB_RST_N" 1)) else s1

/-- SSYNC_OUT falls one REFCLK period after it rose (R328, R331). -/
def Block.ssyncEnd (s : Block) : Block :=
  if s.ox.ssyncLow = 0 || !s.sw.running then s
  else
    let s1 := s.modOx (fun x => { x with ssyncLow := x.ssyncLow - 1 })
    if s.ox.ssyncLow = 1 then s1.modSw (fun c => c.emit (.pin "SSYNC_OUT" 0)) else s1

/-- The end of a CCLK: what waited for it, the controls of links that its catch has changed (R300), then the next stroke count. -/
def Block.cclkEnd (s : Block) : Block :=
  let s1 := (((s.linksEnd .oe36).linksEnd .ox720).ctlEnd .oe36).ctlEnd .ox720
  ((s1.combEnd.ssyncEnd.signalsEnd.buffersEnd.injScan).cclkPart .oe36).cclkPart .ox720

/-- The beginning of one, after its catch. -/
def Block.cclkBegin (s : Block) : Block := (s.slotBegin.limit).takeLate

/-- A CCLK: the catch that is due in the one that begins goes before everything else that happens in it (R397). One that was due in the CCLK that ends, its count having been loaded there, goes before that end. -/
def State.cclk (s : State) : State :=
  let s1 := ((s.catchNow .oe36).catchNow .ox720).on Block.cclkEnd
  (((s1.catchNow .oe36).catchNow .ox720)).on Block.cclkBegin

end Sys2Proof.Machine
end

