-- ==== Sys2Proof/Safety.lean ====
section
/-!
DEFINITION. The terms that statements use: a command that completes, what a command leaves alone, and the soundness of what the cox cores hold.
-/
namespace Sys2Proof

open Machine

/-- A command completes: it answers a next state, of which `P` holds. -/
def Runs (i : Instr) (s : State) (P : State → Prop) : Prop := ∃ t, exec i s = .next t ∧ P t

/-! ### Frames -/

/-- The cox cores and the queue of `t` are those of `s`. -/
def KeepsMgmt (s t : State) : Prop := t.mgEp = s.mgEp ∧ t.mgSw = s.mgSw ∧ t.pending = s.pending

/-- Nothing of the endpoint differs, nor a cox core, nor the queue. -/
def KeepsEndpoint (s t : State) : Prop := t.blk.ep = s.blk.ep ∧ t.blk.oe = s.blk.oe ∧ KeepsMgmt s t

/-! ### Soundness of the cox cores (17, R394, R398) -/

/-- What holds of a cox core's own state: at most 8,192 objects are staged, each once, each an object of the part with a field applied at catch, and at most 16 announcements are remembered. -/
def Machine.Mgmt.Sound (p : Part) (m : Mgmt) : Prop :=
  m.shadow.length ≤ 8192 ∧ (m.shadow.map (fun e => e.1)).Pairwise (· < ·)
    ∧ (∀ e ∈ m.shadow, ∃ r, findRow p e.1 = some r ∧ r.staged p = true) ∧ m.annSeen.length ≤ 16

/-- Of a state: both cox cores are sound. -/
def Machine.State.Sound (s : State) : Prop := s.mgEp.Sound .oe36 ∧ s.mgSw.Sound .ox720

/-! ### Commands that the units alone decide -/

/-- The units alone decide a command, which takes them from `b` to `b'`; the cox cores and the queue stay. -/
def Acts (i : Instr) (b b' : Block) : Prop := ∀ s : State, s.blk = b → exec i s = .next { s with blk := b' }

end Sys2Proof

namespace Sys2Proof.Machine

/-- May a master write an object now: it is served and not locked? -/
def Common.writable (c : Common) (m : Master) (key : Nat) : Bool := c.serves key && !c.locked m key

/-! #### The home and the load/store path -/

/-- The access that a request is at the home. -/
def Block.hopOf (t : Block) (via : Via) (p : Packet) (mask : Option (List Byte)) (phase : Phase) : HomeOp := ⟨t.oe.arrivals, t.ep.stroke, via, p, mask, phase⟩

/-- A packet that comes by a way in is looked at: the endpoint runs, and over a link the packet passes checks 1 and 2 (R132). -/
abbrev Block.homeHears (b : Block) (via : Via) (p : Packet) : Prop :=
  b.ep.inReset = false ∧ ∀ k, via = .plane k → classBad p (linkNets .oe36 k.toNat) = false

/-- It comes after those of lower planes of its CCLK (R62). -/
abbrev Block.inTurn (b : Block) (via : Via) : Prop := ¬ (b.oe.lastVia.1 = b.ep.stroke ∧ viaRank via < b.oe.lastVia.2)

/-- The units once a request that came in turn is taken in. -/
def Block.arrived (b : Block) (via : Via) (p : Packet) : Block :=
  let t := b.takeIn via p
  { t with oe := { t.oe with lastVia := (b.ep.stroke, viaRank via) } }

/-- A relaxed request of an opcode, taken in, stands before an idle home; it keeps its region's rules and is no duplicate. -/
abbrev Block.homeServes (t : Block) (p : Packet) (opc : Nat) : Prop :=
  pOpc p = opc ∧ pOrd p = false ∧ t.oe.hops = [] ∧ t.oe.snoops = [] ∧ t.oe.wbs = [] ∧ t.oe.clearing = false ∧ t.ep.dedupEn = true
    ∧ t.duplicate? p = none ∧ t.violationOf p = none

/-- The units once the request stands at the home in a phase. -/
def Block.homeHolds (t : Block) (via : Via) (p : Packet) (mask : Option (List Byte)) (phase : Phase) : Block :=
  { t with oe := { t.oe with hops := [t.hopOf via p mask phase], arrivals := t.oe.arrivals + 1 } }

/-- … and asks accelerator memory for bytes. -/
def Block.homeReads (t : Block) (via : Via) (p : Packet) (apa len : Nat) : Block :=
  let u := t.homeHolds via p none (.reading t.oe.nextMem)
  { u with ep := u.ep.emit (.memRd t.oe.nextMem apa len), oe := { u.oe with nextMem := t.oe.nextMem + 1 } }

/-- … and writes bytes of its block. -/
def Block.homeWrites (t : Block) (via : Via) (p : Packet) (half : Option (List Byte)) (mask : BitVec 256) (data : List Byte) : Block :=
  let u := t.homeHolds via p half (.writing t.oe.nextMem 0 (pPoison p))
  { u with ep := u.ep.emit (.memWr t.oe.nextMem (t.ep.homeBase + pBlock p * 256) mask data (pPoison p)), oe := { u.oe with nextMem := t.oe.nextMem + 1 } }

/-- The units once the hit is counted and the request holds its translation. -/
def Block.lsFound (b : Block) (r : LsReq) (e : TlbEnt) : Block :=
  { b with ep := b.ep.count (ob 0xB105 0) 0 64 1
           oe := { b.oe with ls := [{ r with xl := some (.ok e.leaf e.big), waitWalk := false }] } }

/-- A load/store request is the only one, is well formed and finds its translation in the micro-TLB, in entry `e`, with the rights it needs; an ordered one finds its channel open. -/
abbrev Block.lsHit (b : Block) (r : LsReq) (e : TlbEnt) : Prop :=
  b.ep.inReset = false ∧ b.oe.ls = [] ∧ b.tagFree r.tag = true ∧ lsMalformed r.kind r.fva r.size r.op r.typ = false ∧ b.ep.ctxEn r.ctx = true
    ∧ (b.oe.micro.find? (fun p => p.1 == 16 && p.2.covers r.ctx r.fva)).map (fun p => p.2) = some e
    ∧ pteRights e.leaf &&& lsRights r.kind = lsRights r.kind ∧ (b.ep.ctxTenant r.ctx = 0 ∨ pteTenant e.leaf = b.ep.ctxTenant r.ctx)
    ∧ (r.ord = true → leafFpa e.leaf e.big r.fva / 2 ^ 40 = b.epSlot ∨ (b.lsFound r e).chanOpen (leafFpa e.leaf e.big r.fva / 2 ^ 40) r.ch (pteTenant e.leaf) = true)

/-- The units once its packets are on their way: one transaction with the packets of `specs`; a relaxed request moves the rotation pointer; handoffs that waited for its translation wait for its answer (R78). -/
def Block.lsLeft (b : Block) (r : LsReq) (e : TlbEnt) (specs : List ReqSpec) : Block :=
  let f := b.lsFound r e
  let d := leafFpa e.leaf e.big r.fva / 2 ^ 40
  let i := f.issueReq specs (if r.ord then none else (f.relaxedPlane d).1) .ls r.ctx r.fva
  { i with oe := { i.oe with ls := [{ r with xl := some (.ok e.leaf e.big), waitWalk := false, sent := true }]
                             runs := i.oe.runs.map (fun x => if x.waitsXl.contains r.tag then { x with waitsFor := x.waitsFor ++ [r.tag] } else x)
                             rotation := if r.ord || d == b.epSlot then i.oe.rotation else (f.relaxedPlane d).2 } }

/-- The fields that every request of the load/store path has from its leaf (R48, R112). -/
def LsReq.spec (r : LsReq) (e : TlbEnt) (opc : Nat) : ReqSpec :=
  { opc := opc, long := false, tag := r.tag, fpa := leafFpa e.leaf e.big r.fva, tenant := pteTenant e.leaf, ord := r.ord, ch := r.ch,
    own := pteOwn e.leaf, cc := pteCc e.leaf, bytes := r.size }

/-! #### Descriptors -/

/-- It is the turn of descriptor `n` of queue `q`, the only one that the queue holds, with words `ws` of a kind. -/
abbrev Block.turn (b : Block) (q n : Nat) (ws : List (BitVec 64)) (kind : Nat) : Prop :=
  b.issuable q = some (n, ws) ∧ b.nextQueue (b.ep.qEngine q) = some q ∧ b.queue q = { fetched := [⟨n, some ws, true⟩] } ∧ b.run? q n = none ∧ dKind ws = kind

/-- No TLB holds the translation of an address, no walk is out for it, and the miss queue has room. -/
abbrev Block.walkNeeded (b : Block) (unit ctx fva : Nat) : Prop :=
  b.ep.ctxEn ctx = true ∧ b.oe.micro.find? (fun p => p.1 == unit && p.2.covers ctx fva) = none ∧ b.oe.tlb.find? (fun e => e.covers ctx fva) = none
    ∧ b.oe.misses.any (fun m => m.ctx == ctx && m.granule == fva / 2 ^ 29 % 2 ^ 23) = false ∧ (b.oe.misses.filter (fun m => !m.walking)).length < 64

/-- The units once descriptor `n` is issued as run `r`, which waits for the walk of its first granule, `g`. -/
def Block.issued (b : Block) (q n : Nat) (r : Run) (g : Bool × Nat × Nat × Nat) : Block :=
  let t := b.taken q n
  { t with ep := t.ep.count (ob 0xB105 1) 0 64 1
           oe := { t.oe with runs := t.oe.runs ++ [{ r with xl := [none] }]
                             misses := t.oe.misses ++ [⟨dCtx r.words, g.2.1 / 2 ^ 29 % 2 ^ 23, [.desc q n 0], false, 1, 0, false⟩] } }

/-- A burst leaves: one request by a plane for descriptor `n` of queue `q`, whose run goes on as `f` says. -/
def Block.burst (b : Block) (r : Run) (spec : ReqSpec) (plane : Option Nat) (o : Owner) (fva : Nat) (f : Run → Run) : Block :=
  let i := b.issueReq [spec] plane o (dCtx r.words) fva
  { i with oe := { i.oe with runs := replaceFirst (fun x => x.q == r.q && x.n == r.n) f i.oe.runs } }

/-- What every request of an engine's descriptor has from its leaf. -/
def reqOf (opc tag fpa : Nat) (leaf : BitVec 64) (bytes : Nat) : ReqSpec :=
  { opc := opc, long := false, tag := tag, fpa := fpa, tenant := pteTenant leaf, own := pteOwn leaf, cc := pteCc leaf, bytes := bytes }

/-! #### The switch -/

/-- The units once a packet that came over the link of input `i` and took the next unused cell stands in the VOQ of (input, output). -/
def Block.enqueued (b : Block) (i o : Nat) (p : Packet) : Block :=
  let x : Ox := { b.ox with
    fresh := b.ox.fresh + 1
    cells := SMap.set none b.ox.cells b.ox.fresh (some { pkt := p, arrived := b.sw.stroke, refs := 1, input := i, entry := i, pool := !(b.inReserve i (pNet p)) })
    voqs := SMap.set {} b.ox.voqs (voqKey i o (pNet p)) { b.ox.voq i o (pNet p) with cells := (b.ox.voq i o (pNet p)).cells ++ [(b.ox.fresh, b.sw.stroke)] } }
  { b with ox := x, sw := b.sw.setFld (ob 0x5100 3) 0 19 (min (b.sw.fld (ob 0x5100 3) 0 19) x.freeCells) }

/-- An operand that is one of R0 to R27, or a constant K that is not GSCALE. -/
abbrev Block.opReg (b : Block) (g r : Nat) : Prop := r < 28 ∨ (r = 31 ∧ (b.ox.group g).ksel ≠ 0)

/-- Such an operand's value. -/
def Block.opSrc (b : Block) (g key r : Nat) : VReg := if r = 31 then b.readK g key else (b.ox.group g).reg r

/-- A group with nothing under way holds a launch and takes an operation of a code on such operands, for one of R0 to R27: the array runs, its tiles are free and not fenced. -/
abbrev Block.opTakes (b : Block) (g key gop vop : Nat) : Prop :=
  b.sw.inReset = false ∧ b.held = false ∧ b.ox.sweepFailed = false ∧ b.tilesBusy g = false ∧ ((b.ox.group g).computing || !b.fencedWaits g) = true
    ∧ gVop gop = vop ∧ (b.ox.group g).bound = some key ∧ (b.ox.group g).pend = [] ∧ (b.ox.group g).busyUntil ≤ b.sw.stroke ∧ b.opReg g (gA gop) ∧ b.opReg g (gB gop) ∧ gD gop < 28

/-- The lanes on which an operation acts: those of blocks that lie within the stream, by the mask where LN says so; SCALE has its constant in those bits. -/
def Block.opActs (b : Block) (g key gop : Nat) : List Bool :=
  let gr := b.ox.group g
  let ln := if gVop gop = 8 then 0 else gLn gop
  (List.range lanesPerGroup).map (fun i => b.workEnabled key gr (i / 32) && (ln == 0 || (ln == 1 && gr.mask.getD i false) || (ln == 2 && !(gr.mask.getD i false))))

/-- The units once an operation has taken a group: its lanes can be read in register `reg` (32: the mask) after the latency, poisoned where an operand it read is. -/
def Block.opGoes (b : Block) (g key gop reg form code : Nat) (lanes : List LaneRes) (time : Nat × Nat) (read : List VReg) : Block :=
  let gr := b.ox.group g
  let act := b.opActs g key gop
  let u := b.laneCounts key (fun i => gr.sendBlock + i) lanes act
  let v : VReg := { lanes := (List.range lanesPerGroup).map (fun i => let x := lanes.getD i {}; if x.lost then Config.freeWord (b.free + i) else x.w)
                    form := form, code := code
                    flags := if lanes.any (fun x => x.flags != 0) then lanes.map (fun x => x.flags) else []
                    scales := if lanes.any (fun x => x.scale != 256) then (List.range numBlocks).map (fun i => (lanes.getD (32 * i) {}).scale) else []
                    poison := (List.range numBlocks).filter (fun i => read.any (fun r => r.poison.contains i)) }
  { b with
    sw := u.sw
    free := b.free + 2 * lanesPerGroup
    ox := b.ox.setGroup g { gr with busyUntil := b.sw.stroke + time.1, computing := true, pend := [⟨b.sw.stroke + time.2, reg, v, act⟩] } }

/-- The power of line `i` is read as `p`, with the threshold `least` (R307). -/
def lineRead (least : Int) (c : Common) (i p : Nat) : Common :=
  let c1 := c.setFld (ob 0x4001 i) 0 16 p
  if least ≤ toSigned 16 p then c1.setBit (ob 0x4000 0) (3 + i) true
  else if c.bit (ob 0x4000 0) (3 + i) then
    (List.range 16).foldl (fun c k => c.setBit (ob 0x4012 k) (36 + i) true) ((c1.setBit (ob 0x4000 0) (3 + i) false).log 0x2002 .corrected 0xFF (packArg [(5, i), (16, p)]))
  else c1.setBit (ob 0x4000 0) (3 + i) false

/-- The power of every line is read. -/
def linesRead (c : Common) (powers : List (BitVec 16)) : Common :=
  (List.range 18).foldl (fun d i => lineRead (toSigned 16 (c.fld (ob 0x4000 1) 16 16)) d i (powers.getD i 0).toNat) c

/-- The engines once a weight-key slot is empty: a descriptor issued in this CCLK finds it so (R352). -/
def Block.withoutKey (b : Block) (slot : Nat) : Oe :=
  { b.oe with weightKeys := SMap.set [] b.oe.weightKeys slot []
              runs := b.oe.runs.map (fun r => if dKind r.words == 8 && r.keyAt == b.ep.stroke && bitsOf (dw r.words 6) 32 8 == slot then { r with keyOk := false, keyBytes := [] } else r) }

end Sys2Proof.Machine
end

