-- ==== Sys2Proof/Certificates/Slice0/Obligations.lean ====
section
/-!
DEFINITION. The statements for the provers: what each command does, by family, and what every step keeps.
-/
open Sys2Proof Sys2Proof.Machine State

/-! ### The block, its queue and its cox cores -/

/-- A step takes the command at the front of the queue and runs exec on it with the rest of the queue (95). -/
def Obligations.StepRunsFront : Prop := ∀ (c : Instr) (s : State) (rest : List Instr), s.pending = c :: rest → step s = exec c { s with pending := rest }

/-- Every command answers a next state and leaves the queue alone (R361). -/
def Obligations.EveryCommandAnswers : Prop := ∀ (c : Instr) (s : State), ∃ t, exec c s = .next t ∧ t.pending = s.pending

/-- After reset every object reads as its default, the cox cores hold nothing staged, and an idle step is a tick (R383, R417, R34). -/
def Obligations.ResetState : Prop :=
  State.reset.Sound ∧ State.reset.pending = [] ∧ State.reset.mgEp = {} ∧ State.reset.mgSw = {}
  ∧ (∀ p k, (State.reset.common p).reg k = (State.reset.common p).dflt k)
  ∧ (∀ p, (State.reset.common p).stroke = 0 ∧ (State.reset.common p).evtLog = [] ∧ (State.reset.common p).booted = false ∧ (State.reset.common p).links = [])
  ∧ (State.reset.common .ox720).fld (ob 0x1000 0) 0 16 = 0x0720 ∧ (State.reset.common .oe36).fld (ob 0x1000 0) 0 16 = 0x0036
  ∧ (∀ s : State, s.pending = [] → step s = .next s.cclk)
  ∧ (∀ (s : State) (p : Part), (s.common .oe36).commitState ≠ csArmed → (s.common .ox720).commitState ≠ csArmed → (s.common p).running = true → (s.common p).inReset = false →
      (s.cclk.common p).stroke = ((s.common p).stroke + 1) % 2 ^ 48)

/-- Every step keeps both cox cores sound (R394, R384, R398). -/
def Obligations.SoundKept : Prop := ∀ (s t : State), s.Sound → step s = .next t → t.Sound

/-- Staging holds at most 8,192 objects, is one set for both masters, replaces and never overfills (R394). -/
def Obligations.StagingIsBounded : Prop := ∀ (s : State), s.Sound → ∀ (p : Part),
  (∀ t, step s = .next t → (t.mg p).shadow.length ≤ 8192)
  ∧ (∀ (m : Master) (key : Nat) (mask v : Obj) (r : ObjRow), findRow p key = some r → r.staged p = true → mask &&& r.catchMask p ≠ 0 →
      let t := s.writeApply p m key mask v
      let w := mask &&& r.stageMask p
      ((∃ x, (key, x) ∈ (t.mg p).shadow ∧ (key ≠ ob 0x9040 0 → x &&& w = v &&& w)) ∧ (∀ k x, k ≠ key → ((k, x) ∈ (t.mg p).shadow ↔ (k, x) ∈ (s.mg p).shadow)))
      ∧ ((∃ x, (key, x) ∈ (s.mg p).shadow) → (t.mg p).shadow.length = (s.mg p).shadow.length)
      ∧ ((∀ x, (key, x) ∉ (s.mg p).shadow) → (t.mg p).shadow.length = (s.mg p).shadow.length + 1)
      ∧ (∀ m' : Master, ((s.writeApply p m' key mask v).mg p).shadow = (t.mg p).shadow)
      ∧ ((∀ x, (key, x) ∉ (s.mg p).shadow) → (s.mg p).shadow.length = 8192 → s.writeStatus p m key mask v ≠ hsOk ∧ s.writeObj p m key mask v = (s.writeStatus p m key mask v, s)
          ∧ ((s.common p).writable m key = true → (s.common p).commitOpen = false → r.splits p mask = false → s.blk.imageHolds p key = false → s.writeStatus p m key mask v = hsStageFull)))
  ∧ (∀ (m : Master) (key : Nat) (mask v : Obj) (r : ObjRow), findRow p key = some r → r.staged p = true → r.immMask p = 0 → mask &&& r.catchMask p ≠ 0 → key ≠ ob 0x9040 0 →
      let t := s.writeApply p m key mask v
      (∀ k, (t.common p).reg k = (s.common p).reg k)
      ∧ (∀ q, q ≠ p → t.common q = s.common q ∧ t.mg q = s.mg q) ∧ t.blk.oe = s.blk.oe ∧ t.blk.ox = s.blk.ox ∧ t.pending = s.pending)

/-- CTRL_LOCK is taken while free, given back by its owner, refuses the other master, and expires (R401). -/
def Obligations.LockHasOneOwner : Prop := ∀ (s : State) (p : Part) (m : Master),
  let c := s.common p
  let k := ob 0x2000 0x10
  c.serves k = true →
  let take := fun (c : Common) (v cause : Nat) => (({ c with ownerWrite := c.stroke } : Common).setFld k 0 2 v).log 0xB007 .info 0xFF (packArg [(2, v), (1, cause)])
  let may := fun v : Nat => (c.owner = 0 ∧ v = masterCode m) ∨ (c.owner = masterCode m ∧ v = 0)
  (∀ v : BitVec 2,
      (may v.toNat → exec (.owner p m v) s = .next (s.modCommon p (fun _ => take (c.renew m) v.toNat 0)))
      ∧ (¬ may v.toNat → exec (.owner p m v) s = .next (s.modCommon p (fun _ => c.busError m (slotOffset k) 2))))
  ∧ (∀ mask v : Obj, bitsOf mask 0 1 = 1 → ¬ may (bitsOf v 0 2) → s.writeStatus p m k mask v ≠ hsOk)
  ∧ (c.owner ≠ 0 → c.owner ≠ masterCode m → ∀ key mask v, c.serves key = true → (findRow p key).isSome = true →
      key ≠ k → ¬ (0x8100 ≤ key / 256 ∧ key / 256 ≤ 0x8102) → key ≠ ob 0x2101 1 → s.writeStatus p m key mask v = hsLocked ∧ s.writeObj p m key mask v = (hsLocked, s))
  ∧ (c.owner ≠ 0 → c.fld k 2 16 * cclkMs ≤ c.since c.ownerWrite → exec (.lockLease p) s = .next (s.modCommon p (fun c => take c 0 1)))
  ∧ (c.owner ≠ 0 → c.since c.ownerWrite < c.fld k 2 16 * cclkMs → exec (.lockLease p) s = .next s)
  ∧ ((c.renew m).ownerWrite = if c.owner = masterCode m then c.stroke else c.ownerWrite)
  ∧ (p = .oe36 → c.owner = 2 → c.takers = [] → ∀ r : HaothReq, r.target.toNat < 2 ^ 14 → r.count.toNat = 1 →
      c.kept.find? (fun e => e.1 == r.src.toNat && e.2.1 == r.tid.toNat) = none → c.serves (ob r.index.toNat r.sub.toNat) = true →
      (findRow .oe36 (ob r.index.toNat r.sub.toNat)).isSome = true → exec (.haothRead .oe36 r) s = .next (s.modCommon .oe36 (fun c =>
        c.reply ⟨r.src.toNat, r.tid.toNat, none⟩ 1 hsOk 1 0 (leBytes 16 (s.readObj .oe36 .fieldBus (ob r.index.toNat r.sub.toNat)).toNat))))

/-- At most 16 invalidations are pending; one more, or one with a bad field, is discarded and counted (R56). -/
def Obligations.InvalidationLimit : Prop :=
  (∀ (m : Master) (v : BitVec 64) (s t : State), s.blk.oe.invals.length ≤ 16 → exec (.invalCmd m v) s = .next t → t.blk.oe.invals.length ≤ 16)
  ∧ (∀ (b : Block) (m : Master) (v : BitVec 64), b.ep.writable m (ob 0xB102 0) = true → bitsOf v 0 2 = 3 ∨ bitsOf v 41 23 ≠ 0 ∨ 16 ≤ b.oe.invals.length →
      Acts (.invalCmd m v) b { b with ep := ((b.ep.renew m).count (ob 0xB102 3) 0 32 1).log 0x7003 .uncorrected 0xFF (packArg [(6, bitsOf v 2 6)]) })

/-- A descriptor's waits hold just when each enabled counter stands at or above its value modulo 2^32 (R99). -/
def Obligations.WaitComparesModulo : Prop :=
  (∀ (b : Block) (ws : List (BitVec 64)), b.waitsHold ws = true ↔
    ∀ k, k < 4 → dWen ws k = true → ((b.ep.fld (ctrKey (dWaitId ws k)) 0 32 : Int) - (dWaitVal ws k : Int)) % 2 ^ 32 < 2 ^ 31)
  ∧ (∀ v w : Nat, (v : Int) - (w : Int) < 2 ^ 31 → (w : Int) - (v : Int) < 2 ^ 31 →
      ((((v % 2 ^ 32 : Nat) : Int) - ((w % 2 ^ 32 : Nat) : Int)) % 2 ^ 32 < 2 ^ 31 ↔ w ≤ v))

/-- The pinned plane of a channel is the live plane at or cyclically above its indirection entry (R122). -/
def Obligations.PinnedPlane : Prop := ∀ (b : Block) (d ch tenant : Nat),
  let e := indirEntry b.ep.liveMask (channelHash b.epId (b.slotId d) (ch % 16) tenant % 64)
  b.pinnedPlane d ch tenant = ((List.range 16).map (fun i => (e + i) % 16)).find? (fun k => (b.ep.liveFor d).contains k)

/-- Cutting a packet into flits and putting it together again gives the packet, with every header field where it was put (R110, R116, R274, R283). -/
def Obligations.PacketsSurviveFlits : Prop :=
  (∀ p : Packet, p.payload.length = (if pLong p then 256 else 0) →
      flitsPacket (pFlits p) = p ∧ (pFlits p).length = pCredits p ∧ (∀ f ∈ pFlits p, f.length = 32) ∧ 32 * (pFlits p).length = pFrame p
      ∧ (pNet p ≠ 7 → ∃ f r, pFlits p = f :: r ∧ leAt f 0 1 % 8 ≠ 7))
  ∧ (∀ (h : Hdr) (w1 w2 w3 : Nat) (payload : List Byte), h.net < 8 → h.opc < 64 → h.src < 8192 → h.dst < 8192 → h.tenant < 256 → h.ch < 16 → h.epoch < 16 → h.nb < 256 →
      let p := h.packet w1 w2 w3 payload
      pNet p = h.net ∧ pLong p = h.long ∧ pOpc p = h.opc ∧ pSrc p = h.src ∧ pSrcSw p = h.srcSw ∧ pDst p = h.dst ∧ pDstSw p = h.dstSw
      ∧ pTenant p = h.tenant ∧ pOrd p = h.ord ∧ pCh p = h.ch ∧ pEpoch p = h.epoch ∧ pPoison p = h.poison ∧ pStatus p = h.nb
      ∧ p.payload.length = (if pLong p then 256 else 0))

/-- Stuffing, scrambling and the lane marker are undone by the receiver (R276, R277, R280). -/
def Obligations.LanesAreUndone : Prop :=
  (∀ l : List Nat, (∀ x ∈ l, x < 4) → unstuff 4 0 0 (stuff 4 0 l) = l)
  ∧ (∀ (r : BitVec 31) (l : List Bool), (scramble r (scramble r l).1).1 = l)
  ∧ (∀ phys logical link m group : Nat, ∀ wake : Bool, phys < 32 → logical < 32 → link < 128 → m < 65536 → group < 512 →
      let x := marker (markerContent phys logical link m group wake)
      markerSync x = true ∧ markerAgrees x = true ∧ mkPhys x = phys ∧ mkLogical x = logical ∧ mkLink x = link ∧ mkCount x = m ∧ mkWake x = wake)

/-! ### Translation -/

/-- A free walker reads the level-1 entry of the oldest miss, and a pointer leads to the level-2 read (R48, R51, R53). -/
def Obligations.WalkersReadTheTables : Prop :=
  (∀ (b : Block) (m : Miss), (b.oe.misses.filter (fun m => m.walking)).length < 16 → b.oe.misses.find? (fun m => !m.walking) = some m →
    Acts .walkStart b { b with
      ep := (b.ep.emit (.memRd b.oe.nextMem (b.ep.ctxBase m.ctx + 8 * (m.granule / 64)) 8)).count (ob 0xB105 2) 0 64 1
      oe := { b.oe with nextMem := b.oe.nextMem + 1
                        misses := replaceFirst (fun x => x == m) (fun x => { x with walking := true, level := 1, stale := false }) b.oe.misses } })
  ∧ (∀ (b : Block) (m : Miss) (v : BitVec 64) (ctx : BitVec 6) (g : BitVec 23),
      b.oe.misses.find? (fun m => m.ctx == ctx.toNat && m.granule == g.toNat && m.walking) = some m → m.stale = false → m.level = 1 →
      pteV v = true → pteL v = false → pointerInvalid v = false →
      Acts (.walkReadDone ctx g v .ok false) b { b with
        ep := b.ep.emit (.memRd b.oe.nextMem (bitsOf v 9 43 * 2 ^ 9 + 8 * (g.toNat % 64)) 8)
        oe := { b.oe with nextMem := b.oe.nextMem + 1
                          misses := replaceFirst (fun x => x == m) (fun x => { x with level := 2, l1 := v }) b.oe.misses } })

/-- INVAL_CMD drops what it covers and completes in order; FAULT_CONS frees records of the ring (R55, R60). -/
def Obligations.InvalidationsAndFaultRing : Prop :=
  ((∀ (b : Block) (m : Master) (v : BitVec 64), b.ep.writable m (ob 0xB102 0) = true → bitsOf v 0 2 ≠ 3 → bitsOf v 41 23 = 0 → b.oe.invals.length < 16 →
    Acts (.invalCmd m v) b { b with
      ep := (b.ep.renew m).setFld (ob 0xB102 1) 0 16 (b.ep.fld (ob 0xB102 1) 0 16 + 1)
      oe := { b.oe with invals := b.oe.invals ++ [⟨v, b.invalTags v, b.invalDescs v⟩]
                        tlb := b.oe.tlb.filter (fun e => !invalCovers v e)
                        micro := b.oe.micro.filter (fun e => !invalCovers v e.2)
                        misses := b.oe.misses.map (fun x => if x.walking && invalCoversMiss v x then { x with stale := true } else x) } })
  ∧ (∀ (b : Block) (i : Inval) (r : List Inval), b.oe.invals = i :: r → b.invalReady i = true →
    Acts .invalComplete b { b with
      ep := b.ep.setFld (ob 0xB102 2) 0 16 (b.ep.fld (ob 0xB102 2) 0 16 + 1)
      oe := { b.oe with invals := r } }))
  ∧ ((∀ (b : Block) (m : Master) (v : BitVec 16), b.ep.writable m (ob 0xB103 2) = true → (b.ep.fld (ob 0xB103 1) 0 16 + 2 ^ 16 - v.toNat) % 2 ^ 16 ≤ 128 →
    Acts (.faultCons m v) b { b with ep := (b.ep.renew m).setFld (ob 0xB103 2) 0 16 v.toNat }))

/-! ### The home -/

/-- A relaxed request that reads at an idle home asks accelerator memory for exactly its bytes (R62, R74, R82, R105). -/
def Obligations.HomeReads : Prop := ∀ (b : Block) (via : Via) (p : Packet), b.homeHears via p → b.inTurn via →
  let t := b.arrived via p
  let block := t.ep.homeBase + pBlock p * 256
  let line := (t.ep.homeBase + pOffset p) / 128 * 128
  (pCc p = false →
    (t.homeServes p 0x01 → Acts (.rd via p) b (t.homeReads via p (t.ep.homeBase + pOffset p) (pBytes p)))
    ∧ (t.homeServes p 0x05 → Acts (.atomic via p) b (t.homeReads via p block 256))
    ∧ (t.homeServes p 0x06 → Acts (.atomicCas via p) b (t.homeReads via p block 256))
    ∧ (t.homeServes p 0x07 → Acts (.accWr via p) b (t.homeReads via p block 256)))
  ∧ (t.snoopsFor p = [] → t.dirFull p = false →
      (t.homeServes p 0x0A → Acts (.rdShared via p) b (t.homeReads via p line 128))
      ∧ (t.homeServes p 0x0B → Acts (.rdOwn via p) b (t.homeReads via p line 128))
      ∧ (t.homeServes p 0x0C → Acts (.upgrade via p) b (t.homeReads via p line 128)))

/-- A relaxed request that writes at an idle home writes exactly the bytes it enables; EVICT_CLEAN only leaves the directory (R62, R64, R82, R112). -/
def Obligations.HomeWrites : Prop := ∀ (b : Block) (via : Via) (p : Packet), b.homeHears via p → b.inTurn via →
  let t := b.arrived via p
  (pCc p = false ∨ t.snoopsFor p = [] →
    (t.homeServes p 0x02 → Acts (.wr via p) b (t.homeWrites via p none (byteMask (pOffset p % 256) (pBytes p)) p.payload))
    ∧ (∀ m, b.oe.masks.find? (fun m => sameRequest m p) = some m →
        let u : Block := { t with oe := { t.oe with masks := eraseFirst (fun x => x == m) t.oe.masks } }
        u.homeServes p 0x04 → Acts (.wrmData via p) b (u.homeWrites via p (some (slice m.payload 0 32)) (BitVec.ofNat 256 (leAt (slice m.payload 0 32) 0 32)) p.payload))
    ∧ (∀ d, t.dirEnt (pOffset p / 128) = some d → d.st ≠ 1 → bitAt d.vec (memberOf (pSlot p)) = true →
        let o := pOffset p / 128 % 2 * 128
        t.homeServes p 0x0D → Acts (.writeback via p) b (t.homeWrites via p none (byteMask o 128) (List.replicate o 0 ++ slice p.payload 0 128)))
    ∧ (∀ d, t.dirEnt (pOffset p / 128) = some d → d.st ≠ 3 → bitAt d.vec (memberOf (pSlot p)) = true →
        t.homeServes p 0x0E → Acts (.evictClean via p) b
          { t with oe := { t.oe with hops := [], arrivals := t.oe.arrivals + 1
                                     dir := let rest := t.oe.dir.filter (fun e => e.line != pOffset p / 128)
                                            if d.vec - 2 ^ memberOf (pSlot p) = 0 then rest else rest ++ [⟨pOffset p / 128, 1, d.vec - 2 ^ memberOf (pSlot p)⟩] } }))
  ∧ (pOpc p = 0x03 → let t := b.takeIn via p
      Acts (.wrmMask via p) b { t with oe := { t.oe with masks := t.oe.masks.filter (fun m => !(pSrc m == pSrc p && pTag m == pTag p)) ++ [p] } })

/-- Counters, handoffs, snoop replies, snoop timeouts and refused packets at the home (R71, R79, R81, R82, R83, R84, R106, R132, R133, R368). -/
def Obligations.HomeOrders : Prop := ∀ (b : Block),
  (∀ via p, b.homeHears via p →
    (b.inTurn via → let t := b.arrived via p
      (t.homeServes p 0x08 → Acts (.ctrAdd via p) b (((t.homeHolds via p none .queued).ctrAdd (pArrCtr p) (pTenant p) (pSrc p) (bitsOf p.w3 0 32)).finishOp
        (t.hopOf via p none .queued) stOk [] false 0 0))
      ∧ (t.homeServes p 0x09 → Acts (.handoff via p) b { t.homeHolds via p none .queued with ep := t.ep.setBit (regionKey (pRegion p)) 5 true }))
    ∧ (let t := b.takeIn via p
      t.oe.hops = [] → ∀ sn, t.oe.snoops.find? (fun x => x.tag == pTag p && x.member == memberOf (pSlot p)) = some sn →
        (pOpc p = 0x16 → Acts (.snoopAck via p) b (t.snoopReplied sn))
        ∧ (pOpc p = 0x17 → Acts (.snoopData via p) b ((t.writeDirty sn p.payload (pPoison p)).snoopReplied sn)))
    ∧ (¬ b.inTurn via → let t := b.takeIn via p
      ∀ c ∈ [(0x01, Instr.rd via p), (0x02, .wr via p), (0x05, .atomic via p), (0x06, .atomicCas via p), (0x07, .accWr via p), (0x08, .ctrAdd via p), (0x09, .handoff via p),
        (0x0A, .rdShared via p), (0x0B, .rdOwn via p), (0x0C, .upgrade via p), (0x0D, .writeback via p), (0x0E, .evictClean via p)], pOpc p = c.1 →
        Acts c.2 b { t with oe := { t.oe with late := t.oe.late ++ [⟨0, b.ep.stroke, via, p, none, .queued⟩] } }))
  ∧ (∀ (k : BitVec 4) p, b.ep.inReset = false → classBad p (linkNets .oe36 k.toNat) = true →
      ∀ c ∈ [(0x01, Instr.rd (.plane k) p), (0x02, .wr (.plane k) p), (0x03, .wrmMask (.plane k) p), (0x04, .wrmData (.plane k) p), (0x05, .atomic (.plane k) p),
        (0x06, .atomicCas (.plane k) p), (0x07, .accWr (.plane k) p), (0x08, .ctrAdd (.plane k) p), (0x09, .handoff (.plane k) p), (0x0A, .rdShared (.plane k) p),
        (0x0B, .rdOwn (.plane k) p), (0x0C, .upgrade (.plane k) p), (0x0D, .writeback (.plane k) p), (0x0E, .evictClean (.plane k) p), (0x16, .snoopAck (.plane k) p),
        (0x17, .snoopData (.plane k) p)], pOpc p = c.1 → Acts c.2 b { b with ep := b.ep.refuseHere k.toNat p })
  ∧ (∀ (region : BitVec 11) (h : HomeOp), b.oe.hops = [h] → pOpc h.p = 0x09 → pRegion h.p = region.toNat → region.toNat < b.ep.homeGranules →
      (h.at_ = b.ep.stroke ∨ b.ep.catchDue = true → Acts (.handoffApply region) b b)
      ∧ (h.at_ ≠ b.ep.stroke → b.ep.catchDue = false →
        let k := regionKey region.toNat
        let u : Block := { b with ep := b.ep.setBit k 5 false }
        u.duplicate? h.p = none → u.violationOf h.p = none →
        Acts (.handoffApply region) b (({ u with ep := ((u.ep.setFld k 9 7 (bitsOf h.p.w3 0 7)).setFld k 7 2 (bitsOf h.p.w3 7 2)).setFld k 24 8 (u.ep.fld k 24 8 + 1) } : Block).finishOp
          h stOk [] false 0 0)))
  ∧ (b.ep.inReset = false → ∀ (line : BitVec 33) (member : BitVec 3) (sn : Snoop), b.oe.snoops.find? (fun x => x.line == line.toNat && x.member == member.toNat) = some sn →
      b.ep.e2eTimeout ≤ b.ep.since sn.sentAt →
      (sn.tries < b.ep.retryMax → Acts (.snoopTimeout line member false) b
        (({ b with oe := { b.oe with snoops := replaceFirst (fun x => x == sn) (fun x => { x with tries := x.tries + 1, sentAt := b.ep.stroke }) b.oe.snoops } } : Block).respond15
          (b.memberSlot sn.member) (b.ep.rgTenant (sn.line / 2 ^ 22)) (b.snoopPacket sn.inv sn.tag sn.line sn.member)))
      ∧ (b.ep.retryMax ≤ sn.tries → b.oe.hops = [] → ∀ d, b.dirEnt sn.line = some d →
          let w := b.memWrite (b.ep.homeBase + sn.line / 2 * 256) 0 (List.replicate 256 0) true
          let u := (if d.st = 1 then b else { w.1 with oe := { w.1.oe with wbs := w.1.oe.wbs ++ [(w.2, sn.op, sn.line / 2)] } }).snoopReplied { sn with inv := true }
          Acts (.snoopTimeout line member false) b { u with
            ep := (u.ep.count (ob 0xB11A 2) 0 32 1).log 0x7011 .uncorrected 0xFF (packArg [(3, sn.member), (33, sn.line)])
            oe := { u.oe with snoops := eraseFirst (fun x => x == sn) u.oe.snoops } }))
  ∧ (b.ep.inReset = false → b.oe.clearing = true → Acts .dedupClearDone b (b.oe.intake.foldl (fun (u : Block) h => u.sequence h) { b with oe := { b.oe with clearing := false, intake := [] } }).homePump)

/-! ### The load/store path and the doorbells -/

/-- A load/store request that hits the micro-TLB with the rights it needs leaves as the packets of its kind (R88, R89, R90, R92, R110, R112, R119). -/
def Obligations.LoadStoreRequests : Prop :=
  (∀ (b : Block) (u : UReq) (e : TlbEnt) (data : List Byte) (mask : BitVec 256) (op typ : BitVec 4) (operand compare : BitVec 64) (poison : Bool),
  (b.lsHit (lsOf .read u) e → Acts (.ucieRead u) b (b.lsLeft (lsOf .read u) e [(lsOf .read u).spec e 1]))
  ∧ (∀ f n, maskRun (mask &&& byteMask (u.fva.toNat % 256) u.size.toNat) = some (f, n) →
      let r := { lsOf .write u with mask := mask &&& byteMask (u.fva.toNat % 256) u.size.toNat, data := data }
      b.lsHit r e → Acts (.ucieWrite u mask data) b (b.lsLeft r e
        [{ r.spec e 2 with long := true, fpa := leafFpa e.leaf e.big r.fva / 256 * 256 + f, bytes := n, payload := onlyBytes f n data }]))
  ∧ (maskRun (mask &&& byteMask (u.fva.toNat % 256) u.size.toNat) = none →
      let r := { lsOf .write u with mask := mask &&& byteMask (u.fva.toNat % 256) u.size.toNat, data := data }
      b.lsHit r e → Acts (.ucieWrite u mask data) b (b.lsLeft r e
        [{ r.spec e 3 with long := true, payload := leBytes 32 r.mask.toNat }, { r.spec e 4 with long := true, payload := onlyBytes (leafFpa e.leaf e.big r.fva % 256) r.size data }]))
  ∧ (let r := { lsOf .atomic u with op := op.toNat, typ := typ.toNat, operand := operand, compare := compare }
     b.lsHit r e → Acts (.ucieAtomic u op typ operand compare) b (b.lsLeft r e
       (if op = 7 then [{ r.spec e 6 with long := true, aop := 7, atype := typ.toNat, w3 := operand.toNat, payload := leBytes 8 compare.toNat }]
        else [{ r.spec e 5 with aop := op.toNat, atype := typ.toNat, w3 := operand.toNat }])))
  ∧ (pteCc e.leaf = true →
      (b.lsHit (lsOf .rdShared u) e → Acts (.ucieRdShared u) b (b.lsLeft (lsOf .rdShared u) e [(lsOf .rdShared u).spec e 10]))
      ∧ (b.lsHit (lsOf .rdOwn u) e → Acts (.ucieRdOwn u) b (b.lsLeft (lsOf .rdOwn u) e [(lsOf .rdOwn u).spec e 11]))
      ∧ (b.lsHit (lsOf .upgrade u) e → Acts (.ucieUpgrade u) b (b.lsLeft (lsOf .upgrade u) e [(lsOf .upgrade u).spec e 12]))
      ∧ (let r := { lsOf .writeback u with data := data, poison := poison }
         b.lsHit r e → Acts (.ucieWriteback u data poison) b (b.lsLeft r e [{ r.spec e 13 with long := true, payload := slice data 0 128, poison := poison }]))))
  ∧ (∀ (b : Block) (u : UReq) (e : TlbEnt),
  let r := lsOf .evict u
  let d := leafFpa e.leaf e.big r.fva / 2 ^ 40
  b.lsHit r e →
  let f := b.lsFound r e
  (r.ord = true →
    let c := f.chanOf d r.ch (pteTenant e.leaf)
    Acts (.ucieEvictClean u) b (((f.setChan { c with seq := (c.seq + 1) % 2 ^ 16 }).transmit d c.plane [f.reqPacket (r.spec e 14) d c.epoch c.seq]).dropLs r.tag))
  ∧ (r.ord = false →
    let g := f.transmit d (f.relaxedPlane d).1 [f.reqPacket (r.spec e 14) d 0 0]
    Acts (.ucieEvictClean u) b (({ g with oe := { g.oe with rotation := if d == b.epSlot then b.oe.rotation else (f.relaxedPlane d).2 } } : Block).dropLs r.tag)))

/-- Fences, snoop replies and counter reads over UCIe (R88, R90, R91, R73). -/
def Obligations.UcieAnswers : Prop :=
  (∀ (b : Block) (tag : BitVec 13), b.ep.inReset = false → b.oe.ls = [] → b.tagFree tag.toNat = true →
    Acts (.ucieFence tag) b { b with oe := { b.oe with ls := [{ lsOf .fence ⟨tag, 0, 0, 0, false, 0⟩ with waitWalk := false }] } })
  ∧ (∀ (b : Block) (tag : BitVec 13) (r : LsReq), b.oe.ls = [r] → r.kind = .fence → r.tag = tag.toNat →
    Acts (.fenceComplete (.ls tag)) b (({ b with ep := b.ep.emit (.ucieResponse tag.toNat stOk []) } : Block).dropLs tag.toNat))
  ∧ (∀ (b : Block) (home : BitVec 7) (tag : BitVec 14) (dirty poison : Bool) (data : List Byte) (p : Nat), b.ep.inReset = false → home.toNat ≠ b.epSlot →
      b.anyPlane home.toNat = some p →
    Acts (.ucieSnoopReply home tag dirty data poison) b { b with
      free := b.free + 1
      ep := b.ep.queueTx p (({ net := 1, long := dirty, opc := if dirty then 0x17 else 0x16, src := b.epId, dst := b.slotId home.toNat, poison := dirty && poison } : Hdr).packet
        (rspWord tag.toNat 0 0 128) 0 0 (slice data 0 128)) })
  ∧ (∀ (b : Block) (tag : BitVec 13) (off : BitVec 16), b.ep.inReset = false → off.toNat % 8 = 0 →
    Acts (.ctrRead tag off 8) b { b with ep := b.ep.emit (.ucieResponse tag.toNat stOk (leBytes 8 (b.ep.fld (ctrKey (off.toNat / 8)) 0 40))) })
  ∧ (∀ (b : Block) (tag : BitVec 13) (off : BitVec 16) (size : BitVec 9), b.ep.inReset = false → size ≠ 8 ∨ off.toNat % 8 ≠ 0 →
    Acts (.ctrRead tag off size) b { b with ep := (b.ep.emit (.ucieResponse tag.toNat stDescriptor [])).log 0x7023 .uncorrected 0xFF (packArg [(4, 10), (13, tag.toNat)]) })

/-- A doorbell moves TAIL within SIZE or is discarded and counted, whichever way it comes (R93). -/
def Obligations.DoorbellsMoveTail : Prop := ∀ (b : Block) (q : BitVec 10) (tail : BitVec 16),
  let pending := cntDiff (b.ep.qTail q.toNat) (b.ep.qHead q.toNat) + cntDiff tail.toNat (b.ep.qTail q.toNat)
  let rung := fun (c : Common) => if pending ≤ b.ep.qSize q.toNat then c.setFld (qk 0xB008 q.toNat) 16 16 tail.toNat
    else (c.count (ob 0xB042 1) 0 32 1).log 0x7021 .uncorrected 0xFF (packArg [(10, q.toNat), (16, tail.toNat)])
  (b.ep.inReset = false → Acts (.dbWrite q tail) b { b with ep := rung b.ep })
  ∧ (∀ m : Master, b.ep.writable m (qk 0xB014 q.toNat) = true → Acts (.doorbell m q tail) b { b with ep := rung (b.ep.renew m) })

/-- Memory data reach the descriptor fetched or the request at the home; an acknowledged write is answered (R94, R62, R66, R369). -/
def Obligations.MemoryAnswers : Prop :=
  (∀ (b : Block) (id : BitVec 32) (q n : Nat) (data : List Byte), b.ep.inReset = false → b.oe.memRds = [(id.toNat, some (q, n))] →
      b.queue q = { fetched := [⟨n, none, false⟩] } → q < 1024 → b.ep.qHead q = n → b.ep.qState q = qRunning → b.run? q n = none →
      let ws := (List.range 8).map (fun i => BitVec.ofNat 64 (leAt data (8 * i) 8))
      let c := b.ep.setFld (qk 0xB008 q) 0 16 (n + 1)
      b.headCheck q ws = none → 
    Acts (.memRdResponse id data .ok false) b { b with
      ep := c
      oe := { b.oe with memRds := [], queues := SMap.set {} b.oe.queues q { fetched := [⟨n, some ws, true⟩] } } })
  ∧ (∀ (b : Block) (id : BitVec 32) (data : List Byte) (h : HomeOp) (st : MemStatus), b.ep.inReset = false → b.oe.memRds = [] → b.oe.hops = [h] → h.phase = .reading id.toNat → pOpc h.p = 0x01 →
      let bad := st != .ok
    Acts (.memRdResponse id data st false) b (({ b with oe := { b.oe with hops := [] } } : Block).respond (pSlot h.p)
      ((b.rspHdr h.p 0x10 true (if bad then stPoison else stOk) bad).packet (rspWord (pTag h.p) 0 0 (pBytes h.p)) 0 0 (List.replicate (pFpa h.p % 256) 0 ++ data))))
  ∧ (∀ (b : Block) (id : BitVec 32) (h : HomeOp) (old : BitVec 64) (bad : Bool), b.ep.inReset = false → b.oe.hops = [h] → h.phase = .writing id.toNat old bad → pOpc h.p = 0x02 →
      pArrEn h.p = false → pCc h.p = false →
    Acts (.memWrAck id) b ((({ b with oe := { b.oe with hops := [] } } : Block).dedupWrite h.p bad old.toNat).respond (pSlot h.p)
      ((b.rspHdr h.p 0x11 false (if bad then stPoison else stOk) false).packet (rspWord (pTag h.p) 0 0 1) 0 0 [])))

/-! ### Descriptors -/

/-- A descriptor whose turn it is issues, and its first granule waits for a walk (R95, R101, R102, R104, R57, R58, R78, R224). -/
def Obligations.DescriptorsIssue : Prop := ∀ (b : Block) (q : BitVec 10) (n : Nat) (ws : List (BitVec 64)) (g : Bool × Nat × Nat × Nat) (gs : List (Bool × Nat × Nat × Nat)),
  b.walkNeeded (b.ep.qEngine q.toNat) (dCtx ws) g.2.1 →
  (b.turn q.toNat n ws 1 →
    let rs := (tileSide ws false).range (tileDims ws)
    let rd := (tileSide ws true).range (tileDims ws)
    footprintBad rs = false → footprintBad rd = false → accShapeBad ws = false →
    sideGranules false 0 rs ++ sideGranules true (if dAcc ws then 3 else 1) rd = g :: gs →
    Acts (.tileCopy q) b (b.issued q.toNat n { b.runOf q.toNat n ws with grans := g :: gs } g))
  ∧ (b.turn q.toNat n ws 2 →
    let rd := (tileSide ws true).range (tileDims ws)
    footprintBad rd = false → sideGranules true 4 rd = g :: gs →
    Acts (.fill q) b (b.issued q.toNat n { b.runOf q.toNat n ws with grans := g :: gs } g))
  ∧ (b.turn q.toNat n ws 5 → bitsOf (dw ws 5) 0 7 ≤ 71 → bitsOf (dw ws 5) 7 2 ≠ 3 → g = (false, bitsOf (dw ws 4) 0 52, 0, 1) →
    Acts (.handoffDescriptor q) b (b.issued q.toNat n { b.runOf q.toNat n ws with
      grans := [g], waitsFor := b.oe.txns.map (fun t => t.tag), waitsXl := b.oe.ls.map (fun r => r.tag) } g))
  ∧ (b.turn q.toNat n ws 3 → footprintBad (batchList ws) = false → (bitsOf (dw ws 0) 42 1 = 1 → footprintBad (batchArea ws) = false) →
    sideGranules false 0 (batchList ws) = g :: gs →
    ∀ list : List Byte, Acts (.atomicBatch q list) b (b.issued q.toNat n { b.runOf q.toNat n ws with grans := g :: gs } g))
  ∧ (b.turn q.toNat n ws 4 →
    let ctx := bitsOf (dw ws 0) 27 12
    let cfg := b.ep.cfg ctx
    let bufs := bufGrans (if bitsOf (dw ws 0) 57 1 = 1 then [extBuf ws] else launchBufs cfg (b.memberOf cfg ws) ws none)
    b.launchCheck cfg (b.ep.qTenant q.toNat) ws none = none → bufs.map (fun x => x.2) = g :: gs →
    ∀ ext : List Byte, Acts (.collectiveLaunch q ext) b (({ b with oe := { b.oe with launchOrder := b.oe.launchOrder + 1 } } : Block).issued q.toNat n { b.runOf q.toNat n ws with
      grans := g :: gs, bufs := bufs.map (fun x => x.1), cfg := some cfg, no := b.ep.launchNo ctx, order := b.oe.launchOrder } g))
  ∧ (b.turn q.toNat n ws 8 →
    let len := bitsOf (dw ws 6) 0 32
    let slot := bitsOf (dw ws 6) 32 8
    let e := b.ep.reg (wkKey slot)
    let rs : Int × Int := (bitsOf (dw ws 4) 0 52, bitsOf (dw ws 4) 0 52 + ((len - 1 : Nat) : Int))
    footprintBad rs = false → 81 ≤ len → sideGranules false 0 rs = g :: gs →
    ∀ header : List Byte, Acts (.decryptCopy q header) b (b.issued q.toNat n { b.runOf q.toNat n ws with
      grans := g :: gs, keyOk := bitsOf e 0 1 == 1 && bitsOf e 1 8 == b.ep.qTenant q.toNat, keyBytes := SMap.get [] b.oe.weightKeys slot,
      keyId := bitsOf e 9 32, keyAt := b.ep.stroke } g))

/-- Descriptor fetch, the two fences, and the three counter operations (R94, R103, R73). -/
def Obligations.FetchFencesAndCounters : Prop :=
  ((∀ (b : Block) (q : BitVec 10), b.ep.inReset = false → b.ep.qState q.toNat = qRunning → b.ep.qEn q.toNat = true → (b.queue q.toNat).abortTo = none →
      (b.queue q.toNat).fetched.length < 8 → b.nextFetch q.toNat ≠ b.ep.qTail q.toNat →
    let n := b.nextFetch q.toNat
    let x := b.queue q.toNat
    Acts (.descriptorFetch q) b { b with
      ep := b.ep.emit (.memRd b.oe.nextMem (b.ep.qBase q.toNat + 64 * (n % b.ep.qSize q.toNat)) 64)
      oe := { b.oe with nextMem := b.oe.nextMem + 1, memRds := b.oe.memRds ++ [(b.oe.nextMem, some (q.toNat, n))]
                        queues := SMap.set {} b.oe.queues q.toNat { x with fetched := x.fetched ++ [⟨n, none, false⟩], abortAt := (n + 1) % 2 ^ 16 } } })
  ∧ (∀ (b : Block) (q : BitVec 10) (n : Nat) (ws : List (BitVec 64)), b.turn q.toNat n ws 6 → bitsOf (dw ws 0) 27 2 = 0 →
    let t := b.taken q.toNat n
    Acts (.queueFence q) b { t with oe := { t.oe with runs := t.oe.runs ++ [b.runOf q.toNat n ws], queues := SMap.set {} t.oe.queues q.toNat { fence := some n } } })
  ∧ (∀ (b : Block) (q : BitVec 10) (n : Nat) (ws : List (BitVec 64)), b.turn q.toNat n ws 6 → bitsOf (dw ws 0) 27 2 = 1 →
    let t := b.taken q.toNat n
    Acts (.endpointFence q) b { t with oe := { t.oe with queues := SMap.set {} t.oe.queues q.toNat { fence := some n }
                                                         runs := t.oe.runs ++ [{ b.runOf q.toNat n ws with waitsFor := b.oe.txns.map (fun x => x.tag), waitsXl := b.oe.ls.map (fun r => r.tag), waitsRuns := b.oe.runs.map (fun r => (r.q, r.n)) }] } })
  ∧ (∀ (b : Block) (q : BitVec 10) (n : BitVec 16) (r : Run), b.run? q.toNat n.toNat = some r → r.q = q.toNat → r.n = n.toNat → dKind r.words = 6 → r.finished = false → b.oe.runs.any (fun x => x.q == r.q && cntBefore x.n r.n) = false →
      r.waitsFor = [] → b.oe.ls = [] → (∀ k ∈ r.waitsRuns, ∀ x, b.run? k.1 k.2 = some x → b.accessesOver x = true) → (b.queue q.toNat).fetched = [] →
    let x := b.queue q.toNat
    Acts (.fenceComplete (.desc q n)) b { b with oe := { b.oe with
      runs := replaceFirst (fun r => r.q == q.toNat && r.n == n.toNat) (fun r => { r with started := true, finished := true }) b.oe.runs
      queues := SMap.set {} b.oe.queues q.toNat { x with fence := none } } }))
  ∧ (∀ (b : Block) (q : BitVec 10) (n : Nat) (ws : List (BitVec 64)), b.turn q.toNat n ws 7 →
  let t := b.taken q.toNat n
  let ctr := bitsOf (dw ws 4) 32 13
  let v := bitsOf (dw ws 4) 0 32
  (bitsOf (dw ws 0) 27 2 = 0 → b.ep.fld (ctrKey ctr) 40 8 = b.ep.qTenant q.toNat →
    Acts (.counterOpAdd q) b { t with
      ep := b.ep.setFld (ctrKey ctr) 0 32 ((b.ep.fld (ctrKey ctr) 0 32 + v) % 2 ^ 32)
      oe := { t.oe with runs := t.oe.runs ++ [{ b.runOf q.toNat n ws with started := true, finished := true }] } })
  ∧ (bitsOf (dw ws 0) 27 2 = 1 →
    Acts (.counterOpSet q) b { t with
      ep := (b.ep.setFld (ctrKey ctr) 0 32 v).setFld (ctrKey ctr) 32 8 stOk
      oe := { t.oe with runs := t.oe.runs ++ [{ b.runOf q.toNat n ws with started := true, finished := true }] } })
  ∧ (∀ tag : BitVec 14,
      let slot := bitsOf (dw ws 5) 0 7
      let ord := bitsOf (dw ws 0) 29 1 == 1
      let ch := bitsOf (dw ws 0) 30 4
      let tenant := b.ep.ctxTenant (dCtx ws)
      bitsOf (dw ws 0) 27 2 = 2 → slot ≤ 71 → engineTag (b.ep.qEngine q.toNat) tag.toNat = true → b.tagFree tag.toNat = true →
    Acts (.remoteAdd q tag) b
      ((({ t with oe := { t.oe with runs := t.oe.runs ++ [{ b.runOf q.toNat n ws with started := true, outstanding := 1 }] } } : Block).issueReq
        [{ opc := 8, long := false, tag := tag.toNat, fpa := slot * 2 ^ 40, noFpa := true, tenant := tenant, ord := ord, ch := ch, arrCtr := ctr, w3 := v }]
        (b.anyPlane slot) (.counter q.toNat n) (dCtx ws) 0).tick)))

/-- RESTART, ABORT and CQ_CONS of a command queue (R95, R96, R107). -/
def Obligations.QueueControl : Prop := ∀ (b : Block) (m : Master) (q : BitVec 10),
  let k := qk 0xB008 q.toNat
  let st := b.ep.qState q.toNat
  let head := b.ep.qHead q.toNat
  let tail := b.ep.qTail q.toNat
  let x := b.queue q.toNat
  (b.ep.writable m (qk 0xB00C q.toNat) = true →
    (st = qHalted → Acts (.restart m q) b { b with ep := (b.ep.renew m).setFld k 32 2 qRunning })
    ∧ (st ≠ qHalted → Acts (.restart m q) b { b with ep := b.ep.renew m })
    ∧ (st ≠ qHalted → st ≠ qRunning → Acts (.abort m q) b { b with ep := b.ep.renew m })
    ∧ (st = qHalted ∨ st = qRunning → x.fetched = [] → x.abortTo = none → head ≠ tail →
        Acts (.abort m q) b { b with
          ep := ((b.ep.renew m).setFld k 0 16 tail).setFld k 32 2 qRunning
          oe := { b.oe with queues := SMap.set {} b.oe.queues q.toNat { x with abortTo := some tail, abortAt := head } } })
    ∧ (∀ (n : Nat) (ws : List (BitVec 64)) (c : Bool), st = qRunning → x = { fetched := [⟨n, some ws, c⟩] } → cntBefore n head = true → head = tail →
        b.run? q.toNat n = none → dSigEn ws = false → cntDiff (b.ep.cqProd q.toNat) (b.ep.cqCons q.toNat) ≠ b.ep.cqSize q.toNat →
        let prod := b.ep.cqProd q.toNat
        let rec_ := (recordOf q.toNat n (dKind ws) stAborted 1 0 (b.ep.stroke % 2 ^ 40)).toNat + prod / b.ep.cqSize q.toNat % 2 * 2 ^ 127
        let w := ({ b with ep := ((b.ep.renew m).setFld k 0 16 tail).setFld k 32 2 qRunning } : Block).memPost (b.ep.cqBase q.toNat + 16 * (prod % b.ep.cqSize q.toNat)) (leBytes 16 rec_)
        Acts (.abort m q) b { w with
          ep := w.ep.setFld k 48 16 (prod + 1)
          oe := { w.oe with queues := SMap.set {} b.oe.queues q.toNat { abortAt := tail } } }))
  ∧ (∀ v : BitVec 16, b.ep.writable m (qk 0xB010 q.toNat) = true →
      let c := (b.ep.renew m).setFld (qk 0xB010 q.toNat) 0 16 v.toNat
      (x.records = [] → Acts (.cqCons m q v) b { b with ep := c })
      ∧ (∀ r : BitVec 128, x.records = [r] → cntDiff (b.ep.cqProd q.toNat) v.toNat ≠ b.ep.cqSize q.toNat →
          let prod := b.ep.cqProd q.toNat
          let w := ({ b with ep := c } : Block).memPost (b.ep.cqBase q.toNat + 16 * (prod % b.ep.cqSize q.toNat)) (leBytes 16 (r.toNat + prod / b.ep.cqSize q.toNat % 2 * 2 ^ 127))
          Acts (.cqCons m q v) b { w with
            ep := w.ep.setFld k 48 16 (prod + 1)
            oe := { w.oe with queues := SMap.set {} b.oe.queues q.toNat { x with records := [] } } }))

/-- A copy engine's next burst: the bytes, the address, the plane and what the run remembers (R100, R101, R102, R64, R78, R119). -/
def Obligations.EngineBursts : Prop := ∀ (b : Block) (q : BitVec 10) (n : BitVec 16) (tag : BitVec 14) (r : Run) (fpa : Nat),
  b.run? q.toNat n.toNat = some r → engineTag r.engine tag.toNat = true → b.tagFree tag.toNat = true →
  let dims := tileDims r.words
  let total := dims.1 * dims.2.1 * dims.2.2
  let src := ((tileSide r.words false).addr dims r.rdPos).toNat
  let dst := ((tileSide r.words true).addr dims r.wrPos).toNat
  let rlen := min (dims.1 - r.rdPos % dims.1) (256 - src % 256)
  let wlen := min (dims.1 - r.wrPos % dims.1) (256 - dst % 256)
  let live := b.ep.liveFor (fpa / 2 ^ 40)
  (r.stage ≠ 1 → r.started = true → dKind r.words = 1 → r.pieces = [] → 0 < wlen → r.rdPos < total → r.fpa false src = some fpa →
    Acts (.tileBurstIssue q n tag) b ((b.burst r (reqOf 1 tag.toNat fpa (r.leaf false src) rlen) (b.anyPlane (fpa / 2 ^ 40)) (.tileRead r.q r.n r.rdPos rlen) src
      (fun x => { x with rdPos := r.rdPos + rlen, outstanding := x.outstanding + 1 })).tick))
  ∧ (r.stage ≠ 1 → r.started = true → dKind r.words = 2 → r.wrPos < total → r.fpa true dst = some fpa → r.pieces = [] →
    Acts (.tileBurstIssue q n tag) b (b.burst r
      { reqOf 2 tag.toNat fpa (r.leaf true dst) wlen with long := true, arrCtr := dArrCtr r.words, arrEn := dArrEn r.words
                                                          payload := List.replicate (fpa % 256) 0 ++ (List.range wlen).map (fun i => fillByte r.words dims.1 (r.wrPos + i)) }
      (live[((r.q + r.n) % max 1 live.length + r.burst) % max 1 live.length]?) (.tileWrite r.q r.n wlen) dst
      (fun x => { x with wrPos := r.wrPos + wlen, burst := x.burst + 1, pieces := x.pieces.filter (fun p => decide (r.wrPos + wlen < p.pos + p.len)), outstanding := x.outstanding + 1 })))
  ∧ (r.stage ≠ 1 → r.started = true → dKind r.words = 3 → r.rdPos ≤ bitsOf (dw r.words 0) 27 8 → bitsOf (dw r.words 0) 43 1 = 0 → bitsOf (dw r.words 0) 35 4 ≠ 7 →
    let a := leAt r.list (32 * r.rdPos) 8 % 2 ^ 52
    r.fpa true a = some fpa →
    Acts (.tileBurstIssue q n tag) b ((b.burst r
      { reqOf 5 tag.toNat fpa (r.leaf true a) (atomSize (bitsOf (dw r.words 0) 39 3)) with
        aop := bitsOf (dw r.words 0) 35 4, atype := bitsOf (dw r.words 0) 39 3, w3 := leAt r.list (32 * r.rdPos + 8) 8, ch := bitsOf (dw r.words 0) 44 4 }
      (b.anyPlane (fpa / 2 ^ 40)) (.batch r.q r.n r.rdPos) a
      (fun x => { x with rdPos := r.rdPos + 1, outstanding := x.outstanding + 1
                         olds := if x.olds.isEmpty then List.replicate (bitsOf (dw r.words 0) 27 8 + 1) 0 else x.olds })).tick))
  ∧ (let a := bitsOf (dw r.words 4) 0 52
     r.started = true → dKind r.words = 5 → r.rdPos = 0 → r.fpa false a = some fpa → b.handoffHeld r fpa = false →
    Acts (.handoffRelease q n tag) b ((b.burst r { reqOf 9 tag.toNat fpa (r.leaf false a) 1 with w3 := bitsOf (dw r.words 5) 0 9 }
      (b.anyPlane (fpa / 2 ^ 40)) (.handoff r.q r.n) a (fun x => { x with rdPos := 1, outstanding := 1 })).tick))
  ∧ (let a := r.recordAt.1 + r.srcPos
     let len := min (r.recordAt.2 - r.srcPos) (256 - a % 256)
     r.stage = 1 → r.srcPos < r.recordAt.2 → r.fpa false a = some fpa →
    Acts (.tileBurstIssue q n tag) b ((b.burst r (reqOf 1 tag.toNat fpa (r.leaf false a) len) (b.anyPlane (fpa / 2 ^ 40)) (.tileRead r.q r.n r.srcPos len) a
      (fun x => { x with srcPos := x.srcPos + len, outstanding := x.outstanding + 1 })).tick))

/-- A finished descriptor signals, then writes its record; a sealed segment opens only when its tag passes (R104, R107, R70, R72, R351). -/
def Obligations.DescriptorCompletes : Prop :=
  (∀ (b : Block) (q : BitVec 10) (n : BitVec 16) (r : Run), r.q = q.toNat → r.n = n.toNat → b.oe.runs = [r] → r.started = true → r.outstanding = 0 → dKind r.words = 2 →
      (let d := tileDims r.words; d.1 * d.2.1 * d.2.2) ≤ r.wrPos → b.oe.launches = [] → b.queue q.toNat = {} → b.ep.qState q.toNat = qRunning → cntBefore r.n (b.ep.qHead q.toNat) = true →
      dSigEn r.words = true → b.ep.fld (ctrKey (dSigCtr r.words)) 40 8 = b.ep.qTenant q.toNat → dCrec r.words = true → firstStatus r.status ∈ [stOk, stRetried, stTimeout] →
      cntDiff (b.ep.cqProd q.toNat) (b.ep.cqCons q.toNat) ≠ b.ep.cqSize q.toNat →
    let k := ctrKey (dSigCtr r.words)
    let st := firstStatus r.status
    let c := (b.ep.setFld k 0 32 ((b.ep.fld k 0 32 + 1) % 2 ^ 32)).setFld k 32 8 (counterStatus (b.ep.fld k 32 8) st)
    let prod := b.ep.cqProd q.toNat
    let size := b.ep.cqSize q.toNat
    let record := recordOf r.q r.n 2 st 0 r.retries (b.ep.stroke % 2 ^ 40)
    let w := ({ b with ep := c } : Block).memPost (b.ep.cqBase q.toNat + 16 * (prod % size)) (leBytes 16 (record.toNat + prod / size % 2 * 2 ^ 127))
    Acts (.descriptorComplete q n) b { w with
      ep := w.ep.setFld (qk 0xB008 q.toNat) 48 16 (prod + 1)
      oe := { w.oe with runs := [], queues := SMap.drop b.oe.queues q.toNat } })
  ∧ (∀ (b : Block) (q : BitVec 10) (n : BitVec 16) (r : Run), b.run? q.toNat n.toNat = some r → b.ep.inReset = false →
      r.started = true → r.finished = false → dKind r.words = 8 → r.list = [] →
      let at_ := r.segAt.1
      let size := r.segAt.2
      r.hasBytes at_ (size + 16) = true → r.anyLost at_ (size + 16) = false → r.segment + 1 ≠ blobSegs r.header →
      let blob := r.bytesAt at_ (size + 16)
      let goes := fun (w : Block) (f : Run → Run) => { w with oe := { w.oe with runs := replaceFirst (fun x => x.q == r.q && x.n == r.n) f w.oe.runs } }
    ∀ sealedBytes : List Byte, Acts (.decryptSegment q n sealedBytes) b
      (match Config.gcmOpen r.keyBytes (slice r.header 24 8 ++ leBytes 4 r.segment) r.header (blob.take size) (blob.drop size) with
       | none => goes { b with ep := b.ep.log 0x8020 .uncorrected 0xFF (packArg [(10, r.q), (16, r.n), (8, bitsOf (dw r.words 6) 32 8)]) }
           (fun x => { x with finished := true, status := x.status ++ [stAborted], detail := 3 })
       | some plain => goes b (fun x => { x with
           segment := x.segment + 1, digestInput := r.digestInput ++ blob, finished := false, list := slice plain 0 size
           poisoned := x.poisoned || x.anyPoison at_ (size + 16), pieces := r.pieces.filter (fun p => decide (at_ + size + 16 < p.pos + p.len)) })))

/-- A response ends its transaction and answers the load/store request of its tag (R90, R91, R82, R369). -/
def Obligations.ResponsesAnswer : Prop := ∀ (b : Block) (via : Via) (p : Packet) (x : Txn) (r : LsReq),
  b.homeHears via p → b.ep.fld (ob 0x9010 1) 0 8 ≠ pSlot p → pStatus p ≠ stTimeout → pStatus p ≤ 6 →
  let t := b.takeIn via p
  t.oe.txns.find? (fun x => x.tag == pTag p && x.dst == pSlot p && rspOpc x.opc == pOpc p) = some x → x.owner = .ls → x.tries = 0 →
  t.oe.ls = [r] → r.tag = x.tag →
  let u := t.dropTxn x false
  let size := (x.pkts.head?.map pBytes).getD 0
  let answered := fun (d : List Byte) => ({ u with ep := u.ep.emit (.ucieResponse r.tag (pStatus p) d) } : Block).dropLs r.tag
  (pOpc p = 0x10 → r.kind = .read → r.ord = false → Acts (.rdData via p) b (answered (slice p.payload (x.fpa % 256) size)))
  ∧ (pOpc p = 0x11 → r.kind = .write → Acts (.ack via p) b (answered []))
  ∧ (pOpc p = 0x12 → r.kind = .atomic → Acts (.atomicResp via p) b (answered (leBytes size p.w3.toNat)))
  ∧ (pOpc p = 0x13 → r.kind = .rdShared ∨ r.kind = .rdOwn ∨ r.kind = .upgrade →
      Acts (.lineData via p) b (({ u with ep := u.ep.emit (.ucieGrant r.tag (pStatus p) (pGrant p) (slice p.payload 0 128)) } : Block).dropLs r.tag))

/-- Snoops reach the accelerator; lost attempts are sent again or time out; channels re-pin (R366, R367, R123, R124, R125, R132, R133, R90). -/
def Obligations.IssuerKeepsGoing : Prop := ∀ (b : Block), b.ep.inReset = false →
  (∀ via p, b.homeHears via p → let t := b.takeIn via p
    (pOpc p = 0x14 → Acts (.snoopInv via p) b { t with ep := t.ep.emit (.ucieSnoop false (pSlot p) (pTag p) (pFpa p)) })
    ∧ (pOpc p = 0x15 → Acts (.snoopShare via p) b { t with ep := t.ep.emit (.ucieSnoop true (pSlot p) (pTag p) (pFpa p)) }))
  ∧ (∀ (tag : BitVec 14) (x : Txn), b.oe.txns.find? (fun x => x.tag == tag.toNat) = some x → b.ep.e2eTimeout ≤ b.ep.since x.sentAt →
      (x.tries < b.ep.retryMax → Acts (.e2eTimeout tag false) b ((b.resend x).resendLater x))
      ∧ (x.owner ≠ .ls → (b.resend x).resendLater x = b.resend x)
      ∧ (b.ep.retryMax ≤ x.tries → Acts (.e2eTimeout tag false) b
          (({ b with ep := (b.ep.count (ob 0x9031 1) 0 32 1).log 0x9007 .uncorrected 0xFF (packArg [(7, x.dst), (14, x.tag)]) } : Block).endTxn x stTimeout [] false 0 0)))
  ∧ (∀ tag : BitVec 14, Acts (.quietTagRelease tag) b
      { b with oe := { b.oe with quiet := b.oe.quiet.filter (fun q => !(q.1 == tag.toNat && decide (2 * b.ep.dedupLife ≤ b.ep.since q.2))) } })
  ∧ (∀ (k : BitVec 4) (p : Packet), classBad p (linkNets .oe36 k.toNat) = true →
      ∀ c ∈ [(0x10, Instr.rdData (.plane k) p), (0x11, .ack (.plane k) p), (0x12, .atomicResp (.plane k) p), (0x13, .lineData (.plane k) p), (0x14, .snoopInv (.plane k) p),
        (0x15, .snoopShare (.plane k) p), (0x18, .nack k p), (0x3A, .reach k p)], pOpc p = c.1 → Acts c.2 b { b with ep := b.ep.refuseHere k.toNat p })
  ∧ (∀ (k : BitVec 4) (p : Packet), b.homeHears (.plane k) p →
      let t := b.takeIn (.plane k) p
      (pOpc p = 0x18 → ∀ x, t.oe.txns.find? (fun x => x.tag == pTag p) = some x →
        let c := ((t.ep.count (ob 0xB203 0) 0 32 1).setBit (ob 0xB202 x.dst) k.toNat true).log 0x3042 .corrected 0xFF (packArg [(7, x.dst), (4, k.toNat)])
        Acts (.nack k p) b (({ t with ep := c, oe := { t.oe with nacks := t.oe.nacks.filter (fun x => x.1 == b.ep.stroke) ++ [(b.ep.stroke, x.dst, k.toNat)] } } : Block).planesChanged.attemptLost x))
      ∧ (pOpc p = 0x3A →
        Acts (.reach k p) b ({ t with ep := t.ep.setBit (ob 0xB202 (bitsOf p.w1 0 7)) (bitsOf p.w1 8 4) (bitsOf p.w1 7 1 == 0 || b.oe.nacks.contains (b.ep.stroke, bitsOf p.w1 0 7, bitsOf p.w1 8 4)) } : Block).planesChanged))
  ∧ (∀ (dst : BitVec 7) (ch : BitVec 4) (tenant : BitVec 8) (c : Chan) (old new : Nat),
      b.oe.chans.find? (fun c => c.dst == dst.toNat && c.ch == ch.toNat && c.tenant == tenant.toNat) = some c → c.stopped = true → b.chanBusy c = false →
      b.pinnedPlane c.dst c.ch c.tenant = some new → c.plane = some old → b.oe.ls = [] →
      let u := b.setChan { c with plane := some new, stopped := false, epoch := (c.epoch + 1) % 16, seq := 0 }
      Acts (.channelRepin dst ch tenant) b { u with ep := u.ep.count (ob 0xB203 1) 0 32 1 })

/-! ### The switch core -/

/-- A switch port refuses a packet by its first failing check, or queues it in one cell (R124, R126, R128, R131, R132, R142, R151, R171). -/
def Obligations.SwitchIngress : Prop := ∀ (b : Block) (p : Packet), b.sw.inReset = false → b.sw.parityStopped 5 = false →
  (∀ port : BitVec 7, port.toNat < 72 → pNet p ≠ 2 →
    (∀ k, b.crewCause port.toNat p = some k → Acts (.crewPortIngress port p) b (b.refuse port.toNat k p))
    ∧ (b.crewCause port.toNat p = none → b.sw.fld (ob 0x9010 1) 0 8 ≠ pSrc p % 128 → let i := linkInput port.toNat p
        ((b.route false i false p).port = none → Acts (.crewPortIngress port p) b (b.refuse port.toNat noRouteCause p))
        ∧ ∀ o, (b.route false i false p).port = some o →
          (pNet p = 0 → o < 72 → b.sw.lstate o ≠ lsActive → Acts (.crewPortIngress port p) b (({ b with sw := b.sw.takeRx port.toNat p } : Block).sendNack p))
          ∧ (pNet p ≠ 0 ∨ 72 ≤ o ∨ b.sw.lstate o = lsActive → b.poolAllows i (pNet p) true = true → b.ox.fresh < numCells →
              let t := b.enqueued i o p
              Acts (.crewPortIngress port p) b { t with sw := t.sw.rxDrop port.toNat p })))
  ∧ (∀ hp : BitVec 4, let pp := 0x48 + hp.toNat
    let t := pTenant p
    let rate := b.sw.fld (ob 0x5410 t) 0 16
    (∀ k, b.hallCause pp p = some k → Acts (.hallPortIngress hp p) b (b.refuse pp k p))
    ∧ (b.hallCause pp p = none → pNet p = 3 →
        (rate ≠ 0 → b.policeCredit hp.toNat t < pFrame p * 256 → Acts (.hallPortIngress hp p) b
          { b with sw := ((b.sw.takeRx pp p).count (ob 0x5420 t) 0 32 1).logLimited 0x3005 .info pp pp (packArg [(4, hp.toNat), (8, t)]) })
        ∧ (let q : Packet := if pDstSw p = true ∧ pDst p / 16 ≠ b.swRack then { p with w1 := setBits p.w1 31 1 1 } else p
           let i := linkInput pp q
           rate = 0 →
            ((b.route false i true q).port = none → Acts (.hallPortIngress hp p) b (b.refuse pp noRouteCause p))
            ∧ ∀ o, (b.route false i true q).port = some o → b.poolAllows i (pNet q) true = true → b.ox.fresh < numCells →
              let u := b.enqueued i o q
              Acts (.hallPortIngress hp p) b { u with sw := u.sw.rxDrop pp p })))

/-- PACKET_TRANSMIT sends the oldest packet that the far end has credits for, on its network (R112, R116, R118, R169, R170). -/
def Obligations.PacketsLeave : Prop := ∀ (b : Block) (pp : BitVec 7) (net : BitVec 3),
  (∀ x : Nat × Packet, b.sw.inReset = false → hallLink .ox720 pp.toNat = false ∨ net ≠ 3 → b.sw.txq.find? (fun x => x.1 == pp.toNat && pNet x.2 == net.toNat) = some x → b.sw.maySend pp.toNat x.2 = true →
    Acts (.packetTransmit .ox720 pp net) b { b with sw := ({ b.sw with txq := eraseFirst (fun y => y == x) b.sw.txq } : Common).sendPacket pp.toNat x.2, ox := b.ox.fullDone pp.toNat })
  ∧ (∀ x : Nat × Packet, b.ep.inReset = false →
      (b.otherHalf pp.toNat = some x ∧ pNet x.2 = net.toNat
        ∨ b.otherHalf pp.toNat = none ∧ b.ep.txq.find? (fun x => x.1 == pp.toNat && pNet x.2 == net.toNat && b.injOpen x.2) = some x) →
      b.ep.maySend pp.toNat x.2 = true →
      Acts (.packetTransmit .oe36 pp net) b (({ b with
        ep := ({ b.ep with txq := eraseFirst (fun y => y == x) b.ep.txq } : Common).sendPacket pp.toNat x.2
        oe := { b.oe with mid := b.oe.mid.filter (fun m => m.1 != pp.toNat) ++ (if pOpc x.2 = 3 then [x] else []) } } : Block).injSent x.2))
  ∧ (∀ t k r c, b.sw.inReset = false → 0x48 ≤ pp.toNat → hallLink .ox720 pp.toNat = true → net = 3 → b.sw.txq = [] → let hp := pp.toNat - 0x48
      b.egressNext hp = some t → b.ox.egressOf hp t = k :: r → b.ox.cell k = some c → b.sw.maySend pp.toNat c.pkt = true → b.sw.shapeRate t = 0 →
      Acts (.packetTransmit .ox720 pp net) b { b with
        sw := b.sw.sendPacket pp.toNat c.pkt
        ox := { (b.ox.unref k).fullDone pp.toNat with egress := SMap.set [] b.ox.egress (egressKey hp t) r, egressLast := SMap.set 255 b.ox.egressLast hp t } })

/-- Head scan, audit, spill refill, take expiry, FCI, calendar slots and policer credit (R154, R155, R161, R164, R165, R167, R169, R170, R171). -/
def Obligations.CellsAndShapers : Prop := ∀ (b : Block),
  (∀ k t n i o c, b.sw.inReset = false → o < 128 → n < 8 → b.ox.egress = [] → b.ox.voqs = [(voqKey i o n, { cells := [(k, t)], passed := 0 })] → b.ox.cell k = some c → b.tooOld c = true →
    Acts .headScan b ((({ b with ox := b.ox.setVoq i o n { cells := [], passed := 0 } } : Block)).ageDrop k c))
  ∧ (∀ k c, b.sw.inReset = false → b.sw.fld (ob 0x5100 1) 0 16 * cclkMs ≤ b.sw.since b.ox.auditAt → b.sw.fld (ob 0x9010 0) 0 8 ≠ 0x33 → b.ox.cells = [(k, some c)] → b.ox.linked = [] →
      (c.suspect = false → Acts .auditPass b { b with sw := b.sw.count (ob 0x5102 2) 0 32 1, ox := { b.ox with auditAt := b.sw.stroke, cells := SMap.set none b.ox.cells k (some { c with seen := false, suspect := true }) } })
      ∧ (c.suspect = true → Acts .auditPass b { b with
          sw := ((b.sw.count (ob 0x5102 0) 0 32 1).log 0x3002 .corrected 0xFF (packArg [(19, k)])).count (ob 0x5102 2) 0 32 1
          ox := { b.ox with auditAt := b.sw.stroke, cells := [], freed := b.ox.freed ++ [k] } }))
  ∧ (∀ inst : BitVec 8, let ii := inst.toNat
      let q := b.ox.inst ii
      let dest := max q.headEnd (min q.tailStart (q.rp + instHead ii))
      b.sw.inReset = false → instSpill ii = true → ii ≠ 0xB0 → ((List.range (dest - q.headEnd)).any (fun i => (b.ox.bhRead (b.sw.spillAddr ii (q.headEnd + i)) 64).2)) = false →
      Acts (.spillRefill inst) b (({ b with ox := b.ox.setInst ii { q with headEnd := dest } } : Block).settle ii))
  ∧ (∀ inst m t, b.ep.inReset = false → b.ep.takers.find? (fun t => t.m == m) = some t → t.until_ ≤ b.ep.stroke → b.ep.evtWaits = false →
      Acts (.stallLimitExpiry .oe36 inst m) b { b with ep := (b.ep.give m).pumpLog })
  ∧ (∀ k : BitVec 3, bitAt b.sw.fci k.toNat = false → Acts (.fciChange k true) b ({ b with sw := ({ b.sw with fci := b.sw.fci + 2 ^ k.toNat } : Common).pumpLog } : Block).nakRelease)
  ∧ (∀ k : BitVec 3, bitAt b.sw.fci k.toNat = true → Acts (.fciChange k false) b ({ b with sw := ({ b.sw with fci := b.sw.fci - 2 ^ k.toNat } : Common).pumpLog } : Block).nakRelease)
  ∧ (∀ (hp : BitVec 4) t sh d, b.oe.shapers = [(t, sh)] → sh.due = some d → d ≤ b.ep.slotNow →
      Acts (.shaperSlot .oe36 hp) b { b with oe := { b.oe with
        shapers := SMap.set idleShaper b.oe.shapers t ((sh.refill (b.ep.injRate t) (b.ep.injBurst t) b.ep.slotNow).rest (b.injEmpty t)) } })
  ∧ (∀ (hp : BitVec 4) t sh d, t < 256 → b.ox.shapers = [(hp.toNat * 256 + t, sh)] → sh.due = some d → d ≤ b.sw.slotNow →
      Acts (.shaperSlot .ox720 hp) b { b with ox := { b.ox with
        shapers := SMap.set idleShaper b.ox.shapers (hp.toNat * 256 + t)
          ((sh.refill (b.sw.shapeRate t) (b.sw.shapeBurst t) b.sw.slotNow).rest (b.ox.egressOf hp.toNat t).isEmpty) } })
  ∧ (∀ (hp : BitVec 4) t c, t < 256 → b.ox.policers = [(hp.toNat * 256 + t, some c)] → let rate := b.sw.fld (ob 0x5410 t) 0 16
      rate ≠ 0 → SMap.get 0 b.ox.policeAt hp.toNat ≠ b.sw.slotNow + 1 → Acts (.policerRefill hp) b { b with ox := { b.ox with
        policeAt := SMap.set 0 b.ox.policeAt hp.toNat (b.sw.slotNow + 1)
        policers := SMap.set none b.ox.policers (hp.toNat * 256 + t) (some (min (c + rateUnits rate) (burstUnits (b.sw.fld (ob 0x5410 t) 16 16)))) } })

/-- A slot match moves the only eligible packet out of its VOQ and across the core (R143, R144, R145, R153). -/
def Obligations.SlotMatchMoves : Prop := ∀ (s : State) (i o n k t : Nat) (c : Cell),
  s.blk.sw.inReset = false → s.blk.sw.isFenced = false → s.blk.sw.stroke % 2 = 0 → s.blk.ox.unitQ = [] → s.blk.ox.insts = [] → s.blk.ox.pattern = 0 → s.blk.ox.deferDynamic = false → i < 124 → o < 72 → n < 5 →
  s.blk.ox.voqs = [(voqKey i o n, { cells := [(k, t)], passed := 0 })] → s.blk.ox.cell k = some c → c.copies = [] → t < s.blk.sw.stroke →
  s.blk.tooOld c = false → s.blk.outputTakes o c.pkt = true → pFrame c.pkt ≤ 512 →
  Runs .slotMatch s (fun u => u.blk.ox.flight = s.blk.ox.flight ++ [⟨i, o, k⟩] ∧ (u.blk.ox.voq i o n).cells = [] ∧ u.blk.ox.cell k = some c ∧ u.blk.sw.txq = s.blk.sw.txq ∧ KeepsEndpoint s u)

/-! ### The sweep array -/

/-- Lane-wise vector operations compute each lane once and occupy the group as the table says (R183, R184, R195, R196, R249, R250). -/
def Obligations.VectorLanes : Prop := ∀ (b : Block) (g : BitVec 4) (gop : BitVec 24) (key : Nat),
  let q := gop.toNat
  let gr := b.ox.group g.toNat
  let src := b.opSrc g.toNat key
  let x := (src (gA q)).like (src (gB q))
  let y := (src (gB q)).like x
  let z := (gr.reg (gD q)).like x
  let w := (src (gA q)).like {}
  let takes := b.opTakes g.toNat key q
  let goes := fun (reg form code : Nat) (f : Nat → LaneRes) => b.opGoes g.toNat key q reg form code (perLane f)
  let wide := fun (l : List VReg) => if l.any (fun v => v.form == 1) then 1 else 0
  (gVop q = 0x00 → Acts (.vNop g gop) b b)
  ∧ (x.isFloat → y.isFloat →
      let f := wide [x, y]
      (takes 0x01 → Acts (.vAdd g gop) b (goes (gD q) f 1 (fun i => laneRes f (addVal (x.val i) (y.val i))) (timeOf f) [x, y]))
      ∧ (takes 0x02 → Acts (.vMul g gop) b (goes (gD q) f 1 (fun i => laneRes f (mulVal (x.val i) (y.val i))) (timeOf f) [x, y]))
      ∧ (takes 0x03 → z.isFloat →
          let f := wide [x, y, z]
          Acts (.vFma g gop) b (goes (gD q) f 1 (fun i => laneRes f (addVal (mulVal (x.val i) (y.val i)) (z.val i))) (timeOf f) [x, y, z])))
  ∧ (x.isFloat → y.form = x.form →
      (takes 0x04 → Acts (.vMin g gop) b (goes (gD q) x.form x.code (fun i => laneRes x.form (minVal (x.val i) (y.val i))) (timeOf x.form) [x, y]))
      ∧ (takes 0x05 → Acts (.vMax g gop) b (goes (gD q) x.form x.code (fun i => laneRes x.form (maxVal (x.val i) (y.val i))) (timeOf x.form) [x, y]))
      ∧ (takes 0x09 → z.form = x.form → Acts (.vClamp g gop) b (goes (gD q) x.form x.code (fun i => laneRes x.form (minVal (maxVal (x.val i) (y.val i)) (z.val i))) (1, 4) [x, y, z])))
  ∧ (takes 0x06 → Acts (.vCmp g gop) b (goes 32 2 17 (fun i => { w := if cmpVal (gSub q) (x.val i) (y.val i) then 1 else 0 }) (1, 4) [x, y]))
  ∧ (x.form = 2 → y.form = 2 →
      let n := fun (v : VReg) (i : Nat) => (v.at_ i).toInt
      (takes 0x01 → Acts (.vAdd g gop) b (goes (gD q) 2 1 (fun i => { w := BitVec.ofInt 64 (n x i + n y i) }) (1, 4) [x, y]))
      ∧ (takes 0x02 → Acts (.vMul g gop) b (goes (gD q) 2 1 (fun i => intRes (n x i * n y i)) (1, 4) [x, y]))
      ∧ (takes 0x03 → z.form = 2 → Acts (.vFma g gop) b (goes (gD q) 2 1 (fun i => intRes (n x i * n y i + n z i)) (1, 4) [x, y, z]))
      ∧ (takes 0x04 → Acts (.vMin g gop) b (goes (gD q) 2 x.code (fun i => { w := BitVec.ofInt 64 (min (n x i) (n y i)) }) (1, 4) [x, y]))
      ∧ (takes 0x05 → Acts (.vMax g gop) b (goes (gD q) 2 x.code (fun i => { w := BitVec.ofInt 64 (max (n x i) (n y i)) }) (1, 4) [x, y]))
      ∧ (takes 0x09 → z.form = 2 → Acts (.vClamp g gop) b (goes (gD q) 2 x.code (fun i => { w := BitVec.ofInt 64 (min (max (n x i) (n y i)) (n z i)) }) (1, 4) [x, y, z])))
  ∧ (w.isFloat →
      let f := wide [w]
      (takes 0x07 → gSub q = 2 → Acts (.vCvt g gop) b (goes (gD q) 0 1 (fun i => laneRes 0 (w.val i)) (2, 5) [w]))
      ∧ (takes 0x08 → Acts (.vScale g gop) b (goes (gD q) f 1 (fun i => laneRes f ((w.val i).scale (toSigned 9 (gLn q * 128 + gSub q * 32 + gB q)))) (1, 4) [w])))
  ∧ (takes 0x0A → Acts (.vRsqrt g gop) b (goes (gD q) 0 1 (fun i => laneRes 0 (rsqrtVal (w.val i))) (2, 9) [w]))
  ∧ (takes 0x0B → Acts (.vSign g gop) b (goes (gD q) (wide [w]) 1 (fun i => laneRes (wide [w]) (signVal (w.val i))) (1, 4) [w]))
  ∧ (takes 0x0C → gSub q = 0 → Acts (.vAnd g gop) b (goes (gD q) 2 x.code (fun i => { w := x.at_ i &&& y.at_ i }) (1, 4) [x, y]))
  ∧ (takes 0x0C → gSub q = 1 → Acts (.vOr g gop) b (goes (gD q) 2 x.code (fun i => { w := x.at_ i ||| y.at_ i }) (1, 4) [x, y]))
  ∧ (takes 0x0C → gSub q = 2 → Acts (.vXor g gop) b (goes (gD q) 2 x.code (fun i => { w := x.at_ i ^^^ y.at_ i }) (1, 4) [x, y]))
  ∧ (takes 0x14 → Acts (.vIsum g gop) b (goes (gD q) 2 17 (fun i => { w := x.at_ i + y.at_ i }) (1, 4) [x, y]))

/-- Block-wise vector operations: EXPMAX, AXCVT, AXADD, AXOUT, CVT to a format, and MMA (R178, R180, R182, R186, R187, R188, R195, R197, R212, R250). -/
def Obligations.VectorBlocks : Prop := ∀ (b : Block) (g : BitVec 4) (gop : BitVec 24) (key : Nat),
  let q := gop.toNat
  let gr := b.ox.group g.toNat
  let cfg := b.cfgOf key
  let src := b.opSrc g.toNat key
  let x := (src (gA q)).like (src (gB q))
  let y := (src (gB q)).like x
  let z := (gr.reg (gD q)).like x
  let w := (src (gA q)).like {}
  let takes := b.opTakes g.toNat key q
  let goes := fun (form code : Nat) (l : List LaneRes) => b.opGoes g.toNat key q (gD q) form code l
  let p := fun (r : VReg) (blk : Nat) => (r.at_ (32 * blk)).toNat % 256
  let blocks := perBlock (b.opActs g.toNat key q)
  let bits := fun (stream k : Nat) => blockBits cfg.seed.toNat (b.launchOfKey key) stream (b.blockIndex (!gr.sendHall || cfg.reduces) key (gr.sendBlock + k))
  (takes 0x10 → Acts (.vExpmax g gop) b (goes 4 0 (blocks (fun k =>
      List.replicate 32 { w := BitVec.ofNat 64 (max (if x.form == 4 && x.code == 1 then p x k else blockP (x.block k)) (p y k)) })) (1, 4) [x, y]))
  ∧ (takes 0x11 → Acts (.vAxcvt g gop) b (goes 3 0 (perLane (fun i => (if x.fromHall then axBack else axOf) (p y (i / 32)) (grpN cfg.grp) (x.val i))) (1, 4) [x, y]))
  ∧ (takes 0x12 → Acts (.vAxadd g gop) b (goes 3 0 (perLane (fun i => { w := x.at_ i + y.at_ i, flags := Nat.lor (x.flag i) (y.flag i) })) (1, 4) [x, y]))
  ∧ (takes 0x13 → cfg.op ≠ 9 →
      Acts (.vAxout g gop) b (goes (formOf cfg.outFmt cfg.outScaled) cfg.outFmt (blocks (fun k =>
        convertLanes cfg.outFmt cfg.outScaled cfg.rnd (bits 0 k)
          ((List.range 32).map (fun i => axVal (p y k) (grpN cfg.grp) (x.at_ (32 * k + i)) (x.flag (32 * k + i)))))) (timeCvt 3 cfg.outFmt) [x, y]))
  ∧ (takes 0x07 → gSub q = 1 →
      Acts (.vCvt g gop) b (goes (formOf cfg.outFmt cfg.outScaled) cfg.outFmt (blocks (fun k =>
        convertLanes cfg.outFmt cfg.outScaled cfg.rnd (bits (if cfg.op = 11 ∧ cfg.xform = false then 3 else 0) k) (w.block k))) (timeCvt (if w.isFloat && w.form != 1 then 0 else w.form) cfg.outFmt) [w]))
  ∧ (takes 0x07 → gSub q = 0 →
      let f := laneForm cfg.inFmt cfg.inScaled
      Acts (.vCvt g gop) b (goes f (if f = 2 then cfg.inFmt else 1) (perLane (fun i => laneRes f (w.val i))) (timeOf f) [w]))
  ∧ (takes 0x07 → gSub q = 3 →
      let f := (b.areaForm key gr.bhPtr).1
      Acts (.vCvt g gop) b (goes (if f = 1 then 0 else 5) f (blocks (fun k => convertLanes f false cfg.rnd (bits 2 k) (w.block k))) (2, 5) [w]))
  ∧ (takes 0x18 → cfg.op ≠ 11 → x.form = 0 →
      Acts (.vMma g gop) b (goes 0 1 (((List.range 6).map (fun t => (mmaTile x y z (64 * t) (gSub q == 1)).map (fun w => ({ w := w } : LaneRes)))).flatten) (1, 12) [x, y, z]))

/-- Group control operations set the cursors of their group (R250, R252, R253, R261). -/
def Obligations.GroupControls : Prop := ∀ (b : Block) (g : BitVec 4) (arg : BitVec 23), b.sw.inReset = false → b.held = false →
  let k := g.toNat
  let a := arg.toNat
  let gr := b.ox.group k
  let sets := fun (q : Group) => { b with ox := b.ox.setGroup k q }
  Acts (.bind g arg) b (sets { gr with bound := some (a % 4096 + 4096 * b2n b.runTwin) })
  ∧ (a % 128 = 0x7F → Acts (.seek g arg) b (sets { gr with sendBlock := field a 9 14, sendHall := bitAt a 7, work := none }))
  ∧ (a % 128 ≠ 0x7F → Acts (.seek g arg) b (sets { gr with
      rdInput := a % 128, rdHall := bitAt a 7, rdPre := bitAt a 8, rdBlock := field a 9 14
      member := if bitAt a 7 then gr.member else a % 128, work := some (a % 128, bitAt a 7, field a 9 14) }))
  ∧ Acts (.bhptr g arg) b (sets { gr with bhPtr := a * 256, bhReady := false })
  ∧ Acts (.ksel g arg) b (sets { gr with ksel := a % 16 })
  ∧ (gr.bhReady = false → Acts (.bhFetchDone g false false) b (sets { gr with bhReady := true }))
  ∧ (gr.bhReady = false → Acts (.bhFetchDone g true false) b { b with
      sw := b.sw.count (ob 0x9021 1) 0 32 1
      ox := ({ b.ox with bhPoison := insertNat b.ox.bhPoison ((b.areaBase (gr.bound.getD 0) + gr.bhPtr) / 256) } : Ox).setGroup k { gr with bhReady := true } })

/-- A bad block is recomputed on a spare tile from the replayed words; tiles are fenced between blocks (R193, R194, R201, R202, R203, R204, R205, R251). -/
def Obligations.BlocksAndTiles : Prop := ∀ (b : Block), b.sw.inReset = false →
  (∀ (g : BitVec 4) (ctx : BitVec 12) (block : BitVec 32) (pos : BitVec 3) key, b.blockKey g.toNat ctx.toNat block.toNat = some key →
    b.ox.recomps.any (fun r => r.g == g.toNat && r.ctx == key && r.block == block.toNat) = false →
    let l := 6 * b.ox.carrier g.toNat + pos.toNat % 6
    let p := b.sw.physical l
    let gr := b.ox.group g.toNat
    (gr.badMem.contains (key, block.toNat) = false →
      Acts (.blockRelease g ctx block false pos false) b ((b.releaseBlock g.toNat key block.toNat false).closePump key).moveTiles)
    ∧ (gr.badMem.contains (key, block.toNat) = true →
      Acts (.blockRelease g ctx block false pos false) b
        (({ b with ox := b.ox.setGroup g.toNat { gr with badMem := gr.badMem.filter (fun m => m != (key, block.toNat)) } } : Block).recompute g.toNat key block.toNat l p 0))
    ∧ Acts (.blockRelease g ctx block true pos false) b ((b.strike p).recompute g.toNat key block.toNat l p 0)
    ∧ (let c := b.sw.count (ob 0x6004 0) 0 64 1
       let ii := 0xA0 + g.toNat
       ∀ sp, SMap.get [] b.ox.strikes p = [] → b.ox.recomps = [] → c.lowestSpare = some sp →
       Acts (.blockRelease g ctx block true pos false) b { b with
         sw := c.setTile sp 2 0x7F
         ox := { b.ox with
           strikes := SMap.set [] b.ox.strikes p [b.sw.stroke]
           recomps := [{ g := g.toNat, ctx := key, block := block.toNat, logical := l, failedTile := p, tile := sp, borrowed := true, fails := 0, at_ := b.sw.stroke }]
           groups := SMap.set {} b.ox.groups g.toNat { gr with replayTo := max gr.replayTo (b.ox.inst ii).rp }
           insts := SMap.set {} b.ox.insts ii { b.ox.inst ii with rp := (b.ox.inst ii).mp } } }))
  ∧ (∀ (r : Recomp) (g : BitVec 4) (ctx : BitVec 12) (block : BitVec 32), b.replayed? g.toNat = true →
      b.ox.recomps = [r] → r.g = g.toNat → r.ctx % 4096 = ctx.toNat → r.block = block.toNat → r.borrowed = false →
      let t : Block := { b with ox := { b.ox with recomps := [] } }
      Acts (.recomputeDone g ctx block false) b ((({ t with sw := (b.sw.count (ob 0x6004 1) 0 64 1).logLimited 0x4001 .corrected r.failedTile r.failedTile (packArg [(7, r.failedTile), (7, r.logical), (12, r.ctx % 4096), (32, r.block)]) } : Block).releaseBlock r.g r.ctx r.block false).closePump r.ctx).moveTiles
      ∧ (2 ≤ r.fails →
          let u := t.strike r.tile
          Acts (.recomputeDone g ctx block true) b ((({ u with sw := (u.sw.count (ob 0x6004 2) 0 32 1).log 0x4003 .uncorrected 0xFF (packArg [(12, r.ctx % 4096), (32, r.block)]) } : Block).releaseBlock
            r.g r.ctx r.block true).closePump r.ctx).moveTiles)
      ∧ (r.fails < 2 → Acts (.recomputeDone g ctx block true) b ((t.strike r.tile).recompute r.g r.ctx r.block r.logical r.tile (r.fails + 1))))
  ∧ (∀ mask : BitVec 104, Acts (.fenceMask mask) b (((List.range 104).filter (fun p => bitAt mask.toNat p)).foldl (fun (u : Block) p => u.fenceTile p) b))
  ∧ (∀ (mask : BitVec 104) p, (List.range 104).filter (fun p => bitAt mask.toNat p) = [p] → b.sw.tileState p = 1 → b.ox.fencing = [] →
      Acts (.fenceMask mask) b { b with sw := (b.sw.setTile p 3 0x7F).log 0x4002 .corrected p (packArg [(7, p), (7, b.sw.tileLogical p)]) })

/-! ### Collectives and the stroke engine -/

/-- A member sends its chunks in order, resends what is asked, and takes results, COMPLETE and RELEASE (R225, R226, R233, R239, R241, R444, R108, R370). -/
def Obligations.MembersOfLaunches : Prop := ∀ (b : Block) (plane : BitVec 4),
  (∀ (ctx : BitVec 12) (pre : Bool) (data : List Byte) (poison : Bool) (l : MLaunch) (r : Run) i again, b.oe.launches.find? (fun l => l.ctx == ctx.toNat) = some l →
    let p := plane.toNat
    b.ep.inReset = false → l.planes.contains p = true → b.ep.active (b.ep.collLink p) = true → b.run? l.q l.n = some r → l.nextChunk p pre = some (i, again) →
    let read := l.want = some (p, pre, i) ∧ needBytes (l.needs p pre i) ≤ r.srcPos ∧ r.outstanding = 0
    (l.needs p pre i = [] ∨ read → Acts (.collChunkSend ctx plane pre data poison) b (b.sendChunk l r p pre i again data poison))
    ∧ (l.needs p pre i = [] ∨ read → l.cfg.pkgStage l.latency = false → l.chunkIs p pre i ≠ 2 →
        let bad := (l.needs p pre i).any (fun x => r.anyLost (x.1 * 2 ^ 40 + x.2.1) x.2.2 || r.anyPoison (x.1 * 2 ^ 40 + x.2.1) x.2.2)
        ∃ u : Block, Acts (.collChunkSend ctx plane pre data poison) b u
          ∧ u.ep = b.ep.queueTx (b.ep.collLink p) (b.chunkPacket l p pre i (l.chunkPayload r b.free p pre i data) bad)
          ∧ u.oe.launches = replaceFirst (fun l => l.ctx == ctx.toNat) (fun l => l.chunkSent r p pre i again data) b.oe.launches
          ∧ u.sw = b.sw ∧ u.ox = b.ox ∧ u.free = b.free)
    ∧ (l.needs p pre i ≠ [] → l.want ≠ some (p, pre, i) → r.outstanding = 0 → Acts (.collChunkSend ctx plane pre data poison) b { b with oe := { b.oe with
        launches := replaceFirst (fun l => l.ctx == ctx.toNat) (fun l => { l with want := some (p, pre, i) }) b.oe.launches
        runs := replaceFirst (fun r => r.q == l.q && r.n == l.n) (fun r => { r with pieces := [], srcPos := 0 }) b.oe.runs } }))
  ∧ (∀ p : Packet, b.homeHears (.plane plane) p → let t := b.takeIn (.plane plane) p
      let k := pSrc p % 16
      let stray := { t with ep := t.ep.count (ob 0x7500 2) 0 32 1 }
      (t.oe.launches.find? (fun l => l.ctx == cCtx p) = none →
        (pOpc p = 0x22 → Acts (.result plane p) b stray) ∧ (pOpc p = 0x23 → Acts (.complete plane p) b stray)
        ∧ (pOpc p = 0x24 → Acts (.resendReq plane p) b stray) ∧ (pOpc p = 0x25 → Acts (.release plane p) b stray))
      ∧ (∀ l, t.oe.launches.find? (fun l => l.ctx == cCtx p) = some l → pSrcSw p = true → pSrc p % 1024 / 16 = b.epRack → l.planes.contains k = true →
          (pOpc p = 0x22 → Acts (.result plane p) b (t.takeResult p l))
          ∧ (pOpc p = 0x23 → t.oe.hops = [] → t.oe.snoops = [] → t.oe.wbs = [] → l.completed.any (fun c => c.1 == k) = false → l.rcEn = false → Acts (.complete plane p) b { t with
              oe := { t.oe with arrivals := t.oe.arrivals + 1
                                launches := replaceFirst (fun x => x.ctx == l.ctx) (fun x => { x with completed := x.completed ++ [(k, pStatus p, cDetail p)] }) t.oe.launches } })
          ∧ (pOpc p = 0x24 → l.released.contains k = false →
              let lead := if cPre p then 0 else l.leadChunks k
              let number := fun (i : Nat) => if cPre p then i else (l.dataList k).getD (i - lead) 0
              Acts (.resendReq plane p) b { t with
                ep := t.ep.count (ob 0xB042 3) 0 32 1
                oe := modLaunch l.ctx (fun x => { x with todo := x.todo ++ ((List.range (SMap.get 0 (if cPre p then l.sentPre else l.sentData) k)).filter (fun i => decide (lead ≤ i) &&
                  decide (cFirst p ≤ number i) && (cNchunk p == 0 || decide (number i < cFirst p + cNchunk p)))).map (fun i => (k, cPre p, i)) }) t.oe })
          ∧ (pOpc p = 0x25 → Acts (.release plane p) b { t with
              oe := modLaunch l.ctx (fun x => { x with released := if x.released.contains k then x.released else x.released ++ [k], todo := x.todo.filter (fun t => t.1 != k) }) t.oe })))
  ∧ (∀ (ctx : BitVec 12) (l : MLaunch), b.ep.inReset = false → b.oe.launches.find? (fun l => l.ctx == ctx.toNat) = some l → b.ep.collTimeout ≤ b.ep.since l.issuedAt →
      let dead := l.planes.filter (fun p => !(l.completed.any (fun c => c.1 == p)) && !(b.ep.active p) && !(b.ep.active (Nat.xor p 1)))
      Acts (.memberCollTimeout ctx) b { b with
        oe := modLaunch l.ctx (fun l => { l with completed := l.completed ++ dead.map (fun p => (p, stTimeout, 0)), released := l.released ++ dead }) b.oe })

/-- CONTRIB, PREPASS, CHUNK_LAND, COLL_TIMEOUT, MIRROR and GRIWARD_REPLAY_LANDING: chunks are answered, staged and landed (R236, R237, R240, R241, R251, R256, R266, R337, R160, R161). -/
def Obligations.SwitchTakesChunks : Prop := ∀ (b : Block), b.sw.inReset = false →
  (∀ p, pDstSw p = true → pDst p = b.swId → b.sw.isFenced = false →
    let key := cCtx p
    let port := b.consumer false p
    let ii := 0xA0 + (port - xpQueue)
    let t : Block := { b with sw := b.sw.rxDrop (unitRx port) p }
    (b.entryFor false key = none →
      (pOpc p = 0x20 → Acts (.contrib p) b (t.noProgram key p 0x0C)) ∧ (pOpc p = 0x21 → Acts (.prepass p) b (t.noProgram key p 0x0C)))
    ∧ (∀ e, b.entryFor false key = some e → b.slaunch? key = none → (b.sw.cfg key).en = false →
        (pOpc p = 0x20 → Acts (.contrib p) b (t.noProgram key p 0x06)) ∧ (pOpc p = 0x21 → Acts (.prepass p) b (t.noProgram key p 0x06)))
    ∧ (let staged := fun (u : Block) m bk pre =>
          let t : Block := { u with sw := u.sw.rxDrop (unitRx port) p }
          let j := t.joinChunk key m bk pre p
          (if cLast p then j.lastChunk key m bk pre else j).instWrite ii p u.sw.stroke port
       (∀ e l m bk, b.entryFor false key = some e → b.slaunch? key = some l → l.cfg.en = true → b.chunkMember l.cfg p = some (m, bk) → cLseq p = l.launch % 16 →
          (b.instRoom ii p = true →
            (pOpc p = 0x20 → Acts (.contrib p) b (staged b m bk false)) ∧ (pOpc p = 0x21 → Acts (.prepass p) b (staged b m bk true)))
          ∧ (b.instRoom ii p = false →
            (pOpc p = 0x20 → Acts (.contrib p) b (b.fullWait ii)) ∧ (pOpc p = 0x21 → Acts (.prepass p) b (b.fullWait ii))))
       ∧ (∀ e m bk, b.entryFor false key = some e → b.slaunch? key = none → (b.sw.cfg key).en = true → b.chunkMember (b.sw.cfg key) p = some (m, bk) → cLseq p = b.launchCount key % 16 →
          let u := b.newLaunch key e
          u.instRoom ii p = true →
            (pOpc p = 0x20 → Acts (.contrib p) b (staged u m bk false)) ∧ (pOpc p = 0x21 → Acts (.prepass p) b (staged u m bk true)))))
  ∧ (∀ (g : BitVec 4) (it : QItem) (c : Chunk), let ii := 0xA0 + g.toNat
      b.fciHolds ii = false → (b.ox.inst ii).front = some it → (b.ox.group g.toNat).replayTo ≤ it.pos →
      let u := if (b.ox.inst ii).fp = (b.ox.inst ii).rp then b.instMarkHere ii else b
      u.chunkOfPacket it.pkt = some c →
      (u.inSlot c = false ∨ u.winner c = some c.backup →
        (u.slotsFree g.toNat c it.pkt = true →
          let r := u.gwArrive (c.key % 4096) c.input c.hall (u.launchOfKey c.key) it.arrived it.pkt.payload
          (r.1 = none → Acts (.chunkLand g false) b ((r.2.instAdvance ii it).landChunk g.toNat c it.pos it.pkt))
          ∧ (∀ at_, r.1 = some at_ → Acts (.chunkLand g false) b
              ((r.2.instAdvance ii it).modOx (fun x => { x with gwHeld := x.gwHeld ++ [⟨g.toNat, at_, it.pos, it.pkt, it.arrived⟩] }))))
        ∧ (u.slotsFree g.toNat c it.pkt = false → Acts (.chunkLand g false) b (u.writeBack ii it true)))
      ∧ (∀ bk, u.inSlot c = true → u.winner c = some bk → bk ≠ c.backup → Acts (.chunkLand g false) b (((u.instAdvance ii it).discardLoser c it.pkt).stagingRelease g.toNat)))
  ∧ (∀ (ctx : BitVec 12) (l : SLaunch), b.ox.launches.find? (fun l => l.ctx == ctx.toNat && !l.ended && decide (b.sw.collTimeout ≤ b.launchAge l)) = some l →
      Acts (.collTimeout ctx) b (b.timeoutLaunch l.key true))
  ∧ (∀ p, pOpc p = 0x26 → pDstSw p = true → pDst p = b.swId → b.sw.isFenced = false → b.sw.secureReady = true →
      let arg := p.w3.toNat / 2 ^ 14
      let base := b.sw.fld (ob 0x6103 1) 0 20 * 2 ^ 20
      let size := b.sw.fld (ob 0x6103 1) 20 20 * 2 ^ 20
      (field arg 14 2 = 0 → 256 * cCtx p + 256 ≤ size → Acts (.mirror p) b { b with
        sw := b.sw.rxDrop (unitRx xpEngine) p
        ox := b.ox.bhWrite (base + 256 * cCtx p) (slice p.payload 0 256) (pPoison p) 0 (SMap.get 0 b.ox.keyGen 0) })
      ∧ (field arg 14 2 = 1 → 2 ^ 20 + field arg 16 30 * 256 + 256 ≤ size → Acts (.mirror p) b { b with
        sw := b.sw.rxDrop (unitRx xpEngine) p
        ox := b.ox.bhWrite (base + (2 ^ 20 + field arg 16 30 * 256)) (slice p.payload 0 256) (pPoison p) (pTenant p) (SMap.get 0 b.ox.keyGen (pTenant p)) }))
  ∧ (∀ (ctx : BitVec 12) (input : BitVec 7) (h : GwHold) (c : Chunk), b.ox.gwHeld = [h] → h.at_ ≤ b.sw.stroke → b.chunkOfPacket h.pkt = some c → c.key % 4096 = ctx.toNat → c.input = input.toNat →
      let t : Block := { b with ox := { b.ox with gwHeld := [] } }
      b.slotsFree h.g c h.pkt = true →
      Acts (.griwardReplayLanding ctx input) b (t.landChunk h.g c h.pos h.pkt))

/-- The stroke engine takes a ready launch, starts at its entry, latches patterns and steps over a bundle whose wait holds (R242, R246, R254, R256, R257, R258). -/
def Obligations.EngineBundles : Prop := ∀ (b : Block),
  let e := b.ox.eng
  let B := b.presented
  (let u := b.hallSort
   let v := u.ox.eng
   (∀ l d, b.sw.inReset = false → v.state = engDispatch → u.slaunch? v.ctx = some l → v.dispatchAt = some d → d ≤ u.sw.stroke → u.engineOpen = true →
      Acts .dispatch b { u with ox := { u.ox with
        launches := replaceFirst (fun m => m.key == l.key) (fun m => { m with dispatched := true }) u.ox.launches
        eng := { state := engRun, pc := l.entry.entry, ctx := v.ctx, running := true, image := l.image, base := u.sw.stroke, before := v.before } } })
   ∧ (∀ k r l, b.sw.inReset = false → v.state = engIdle → u.ox.ready = k :: r → u.engineOpen = true → u.slaunch? k = some l →
      Acts .dispatch b { u with ox := { u.ox with
        ready := r
        eng := { v with ctx := k, state := engDispatch, dispatchAt := some (max (l.readyAt.getD u.sw.stroke) u.sw.stroke + 4) } } })
   ∧ (b.sw.bit (ob 0xC000 2) 2 = true → b.ox.hallHeld = [] → u = b))
  ∧ (b.sw.inReset = false → b.sw.stroke % 2 = 0 → Acts .patternLatch b { b with ox := { b.ox with
      pattern := if e.state = engRun ∨ e.state = engWait then bPat B else 0 } })
  ∧ (b.sw.inReset = false → e.running = true → e.state = engRun ∨ e.state = engWait → e.lastAct ≠ some b.sw.stroke → b.ox.sweepFailed = false → e.passed = false →
      (b.waitHolds = false → Acts .wait b { b with ox := { b.ox with eng := { e with state := engWait, lastAct := some b.sw.stroke } } })
      ∧ (b.waitHolds = true → b.ox.hold.crabbed = false → e.acted = false → bGctl B = false → bSteer B = false → bAnnEn B = false → bAlign B = false →
          (∀ g, gVop (bGop B g) = 0) → e.rep = 0 → bRepeat B = 0 → bSen B = false → bCkpt B = false → bLop B = 0 →
          Acts .wait b { b with ox := { b.ox with eng := { e with
            state := engRun, lastAct := some b.sw.stroke, executed := e.executed + 1, pc := (e.pc + 1) % 65536, rep := 0, passed := false, acted := false, half := false, gdone := [] } } }))

/-- Loops, jumps, FINISH, DONE, steers, announcements, checkpoints, ALIGN and signals of a bundle (R248, R255, R256, R257, R258, R263, R264, R265, R411). -/
def Obligations.BundleFields : Prop := ∀ (b : Block), b.sw.inReset = false → b.ox.eng.running = true → b.ox.eng.state = engRun →
  let e := b.ox.eng
  let next := (e.pc + 1) % 65536
  let at_ := fun (b : Block) (f : Engine → Engine) (pc : Nat) => { b with ox := { b.ox with eng := { f b.ox.eng with pc := pc, rep := 0, passed := false, acted := false, half := false, gdone := [] } } }
  (∀ n : BitVec 16, e.loops.length < 4 → Acts (.lopBegin n) b (at_ b (fun e => { e with loops := (next, n.toNat + 1) :: e.loops }) next))
  ∧ (∀ n : BitVec 16, 4 ≤ e.loops.length → Acts (.lopBegin n) b (at_ b id next))
  ∧ (∀ top n r, e.loops = (top, n) :: r →
      (1 < n → top < 65536 → Acts .lopEnd b (at_ b (fun e => { e with loops := (top, n - 1) :: r }) top))
      ∧ (n ≤ 1 → Acts .lopEnd b (at_ b (fun e => { e with loops := r }) next)))
  ∧ (e.loops = [] → Acts .lopEnd b (at_ b id next))
  ∧ (∀ n : BitVec 16, Acts (.lopJump n) b (at_ b id n.toNat))
  ∧ (e.finished = false → e.abandoned = false →
      let u : Block := { b with ox := { b.ox with eng := { e with finished := true }, launches := replaceFirst (fun l => l.key == e.ctx) (fun l => { l with finishing := true }) b.ox.launches } }
      Acts .lopFinish b ((u.closePump e.ctx).goto next))
  ∧ (e.abandoned = true → b.ox.ready = [] → Acts .lopDone b (({ b with ox := { b.ox with eng := { e with
      state := engIdle, running := false, finished := false, abandoned := false, loops := [], dispatchAt := none, gdone := [], half := false, acted := false, passed := false, rep := 0 } } } : Block).pruneImages))
  ∧ (∀ l, e.abandoned = false → b.slaunch? e.ctx = some l →
      let f := b.finishLaunch.checkpoint e.ctx true false next
      Acts .lopDone b (((({ f with sw := f.sw.count (ob 0x6080 0) 0 64 (b.arrivalStages l) } : Block).gwDoneAt l.ctx l.launch b.lag).endLaunch e.ctx l).engineFree))
  ∧ (∀ (port : BitVec 4) (pos : BitVec 2), let k := port.toNat
      (b.sw.fld (ob 0x4010 k) 1 2 ≠ 1 → Acts (.steerEn port pos) b { b with sw := b.sw.count (ob 0x4013 k) 48 16 1 })
      ∧ (b.sw.fld (ob 0x4010 k) 1 2 = 1 → (b.ox.hport k).steer = none → b.sw.hstate k = psActive ∨ b.sw.hstate k = psNoLink →
          Acts (.steerEn port pos) b { b with
            sw := ((b.sw.setSteered k (b.sw.hpos k) false).setHstate k psSteering).count (ob 0x4013 k) 0 32 1
            ox := b.ox.setHport k { b.ox.hport k with steer := some ⟨pos.toNat, true, b.sw.stroke⟩, phase := 1 } })
      ∧ (b.sw.fld (ob 0x4010 k) 1 2 = 1 → (b.ox.hport k).steer ≠ none → Acts (.steerEn port pos) b { b with
            ox := b.ox.setHport k { b.ox.hport k with next := (b.ox.hport k).next ++ [⟨pos.toNat, true, b.sw.stroke⟩] } }))
  ∧ (∀ a : BitVec 2, let v := a.toNat
      let drive := fun (x : Ox) => { b with sw := b.sw.emit (.pin "LOAD_ANN" v), ox := x }
      (v = b.ox.ann → Acts (.annEn a) b b)
      ∧ (v = 0 → b.ox.ann ≠ 0 → Acts (.annEn a) b (drive { b.ox with ann := 0, annPend := [], annEffect := 0 }))
      ∧ (b.ox.ann < v → Acts (.annEn a) b (drive { b.ox with ann := v, annPend := b.ox.annPend ++ [(v, b.sw.stroke + 1, b.sw.schedCur)] }))
      ∧ (0 < v → v < b.ox.ann → Acts (.annEn a) b (drive { b.ox with
          ann := v
          annPend := b.ox.annPend.map (fun e => if v < e.1 then (v, e.2.1, b.sw.schedCur) else e)
          annEffect := min v b.ox.annEffect
          annBase := if v < b.ox.annEffect then b.sw.schedCur else b.ox.annBase })))
  ∧ (∀ l, b.ox.ckptWait = false → b.slaunch? e.ctx = some l → l.twin = false → b.sw.lstate 0x58 = lsActive → b.sw.isFenced = false →
      let p := b.mirrorPacket l.ctx l.cfg.tenant 0 0 (b.checkpointBytes l false false next) false
      let u := b.unitSend xpEngine [bridgeOutput p] p
      Acts .ckpt b { u with sw := u.sw.count (ob 0x6104 4) 0 64 1
                            ox := { u.ox with mirrorsOut := u.ox.mirrorsOut ++ [⟨e.ctx, none, 0, 0⟩], ckptWait := true, ckptSeq := u.ox.ckptSeq + 1 } })
  ∧ Acts .align b { b with ox := { b.ox with eng := { e with base := b.sw.stroke, executed := 0, held := 0 } } }
  ∧ (∀ i : BitVec 6, i.toNat < 62 → Acts (.sen i) b { b with ox := { b.ox with scPend := b.ox.scPend ++ [i.toNat] } })

/-- A crab, the hold-water line, HELD and the limit (R259, R260, R261, R262). -/
def Obligations.HoldingWater : Prop := ∀ (b : Block), b.sw.inReset = false →
  let e := b.ox.eng
  let h := b.ox.hold
  let held := fun (c : Common) (x : Hold) => { b with sw := c, ox := { b.ox with hold := x } }
  (e.running = true → e.state = engWait → h.crabbed = false → e.passed = false → b.waitHolds = false → bSlack b.presented ≠ 0xFFFF → bSlack b.presented < b.lag →
    Acts .crab b (held ((b.sw.count (ob 0x6104 0) 0 32 1).logLimited 0x5001 .corrected 0xFF 0
        (packArg [(12, e.ctx), (16, e.pc), (7, bWid b.presented + 64 * b2n (bWsrc b.presented)), (32, b.lag)]))
      { h with crabbed := true, crabAt := some b.sw.stroke, limited := false }))
  ∧ (∀ t, b.sw.stroke % 256 = 0 → h.crabbed = true → h.drive = false → h.crabAt = some t → after256 t ≤ b.sw.stroke → h.standDrive = none → h.standFrom = none →
      Acts .holdDriveStart b (held (b.sw.emit (.pin "HOLD_WATER_N" 0)) { h with drive := true }))
  ∧ (h.lineLow = false → Acts .holdWaterSeenLow b ((held b.sw { h with lineLow := true, seenLow := some b.sw.stroke, seenHigh := none }).gwHoldAt true))
  ∧ (∀ t, b.sw.stroke % 256 = 0 → h.seenLow = some t → after256 t ≤ b.sw.stroke → e.state ≠ engHeld → h.heldAt = none →
      Acts .heldEnter b { b with ox := { b.ox with eng := { e with before := e.state, state := engHeld }, hold := { h with heldAt := some b.sw.stroke } } })
  ∧ (b.sw.stroke % 256 = 0 → h.drive = true → e.state = engHeld → b.waitHolds = true ∨ h.limited = true → h.standDrive = none →
      Acts .holdDriveRelease b (held (b.sw.emit (.pin "HOLD_WATER_N" 1)) { h with drive := false, crabbed := false, crabAt := none, limited := false }))
  ∧ (h.lineLow = true →
      Acts .holdWaterSeenHigh b ((held b.sw { h with lineLow := false, seenHigh := some b.sw.stroke }).gwHoldAt false))
  ∧ (∀ t, b.sw.stroke % 256 = 0 → h.seenHigh = some t → after256 t ≤ b.sw.stroke → e.state = engHeld →
      Acts .heldExit b { b with
        sw := b.sw.count (ob 0x6104 1) 0 64 b.heldNow
        ox := { b.ox with eng := { e with state := e.before, held := e.held + b.heldNow }, hold := { h with heldAt := none, seenLow := none, seenHigh := none } } })
  ∧ (h.drive = true → h.limited = false → e.state = engHeld → e.running = true → b.sw.fld (ob 0x6103 0) 0 16 * cclkUs ≤ b.heldNow →
      Acts .holdLimit b ((held (b.sw.log 0x5002 .uncorrected 0xFF (packArg [(12, e.ctx), (32, b.launchOfKey e.ctx)])) { h with limited := true }).timeoutLaunch e.ctx true))

/-! ### Links -/

/-- A link goes through TRAIN, LOCK and EXCHANGE, or back to DETECT (R281, R287, R290, R291, R346, R137). -/
def Obligations.LinkLaunches : Prop := ∀ (b : Block) (p : Part) (pp : BitVec 7),
  let k := pp.toNat
  let c := b.common p
  let l := c.link k
  let w := laneCount p k
  c.up = true →
  (c.lstate k = lsDetect → c.linkEnabled k = true → (∀ t, l.pulseAt = some t → 100 * cclkUs ≤ c.since t) →
      Acts (.presencePulse p pp) b (b.setCommon p ((c.modLink k (fun l => { l with pulseAt := some c.stroke })).emit (.linkSignal k "PRESENCE" 0))))
  ∧ (∀ lanes : BitVec 20, c.lstate k = lsDetect → b.mayLaunch p k = true → w ≤ popcount (physLanes p k) lanes.toNat →
      Acts (.farEndPresent p pp lanes) b (b.setCommon p (c.setLstate k lsTrain)))
  ∧ (∀ lanes : BitVec 20, c.lstate k = lsTrain → hallLink p k = false → w ≤ popcount (physLanes p k) lanes.toNat →
      Acts (.trainComplete p pp lanes) b (b.setCommon p ((c.setLanes k lanes.toNat).setLstate k lsLock)))
  ∧ (∀ skew : BitVec 16, c.lstate k = lsLock → c.steering k = false → skew.toNat ≤ skewLimit p k →
      let c1 := (c.setLstate k lsExchange).modLink k (fun l =>
        { l.creditStart false with frags := [], farRec := none, sentReceived := false, myPass := none, farPass := none, waits := false, judgeDue := false, keyStage := 0, keyMsg := [] })
      Acts (.lockComplete p pp skew) b ((b.setCommon p c1).sendRecord p k))
  ∧ (∀ skew : BitVec 16, c.lstate k = lsLock → c.steering k = false → skewLimit p k < skew.toNat → Acts (.lockComplete p pp skew) b (b.launchFail p k))
  ∧ (c.steering k = false →
      (c.lstate k = lsTrain → 10 * cclkMs ≤ c.since l.since → Acts (.launchTimeout p pp) b (b.launchFail p k))
      ∧ (c.lstate k = lsLock → 500 * cclkUs ≤ c.since l.since → Acts (.launchTimeout p pp) b (b.launchFail p k))
      ∧ (c.lstate k = lsExchange → l.keyStage ≠ 0 → 5 * cclkMs ≤ c.since l.since → Acts (.launchTimeout p pp) b (b.launchFail p k))
      ∧ (c.lstate k = lsExchange → l.keyStage = 0 → l.waits = false → l.farRec = none ∨ l.farPass = none → 100 * cclkUs ≤ c.since l.since → Acts (.launchTimeout p pp) b (b.launchFail p k)))
  ∧ (∀ (f : BitVec 2) (bytes : List Byte), c.lstate k = lsExchange → l.farRec = none →
      let fr := SMap.insert l.frags f.toNat (slice bytes 0 30)
      let r := ((List.range 4).map (fun i => SMap.get [] fr i)).flatten
      let b1 := fun (due : Bool) => b.setCommon p ((c.modLink k (fun l => { l with frags := [] })).modLink k (fun l => { l with farRec := some r, judgeDue := due }))
      (fr.length < 4 → Acts (.exch p pp f bytes) b (b.setCommon p (c.modLink k (fun l => { l with frags := fr }))))
      ∧ (4 ≤ fr.length → c.catchDue = true → Acts (.exch p pp f bytes) b (b1 true))
      ∧ (4 ≤ fr.length → c.catchDue = false → l.shortExchange = false →
          (∀ e, (b1 false).discover p k r = .mismatch e → Acts (.exch p pp f bytes) b ((b1 false).quarantine p k e r))
          ∧ ((b1 false).discover p k r = .pass → Acts (.exch p pp f bytes) b ((b1 false).discovered p k r))))
  ∧ (c.lstate k = lsExchange → l.myPass ≠ some true →
      ∀ pass, Acts (.exchAck p pp true pass) b (b.setCommon p (c.modLink k (fun l => { l with farPass := some pass }))))
  ∧ (c.lstate k = lsExchange → l.myPass = some true → Acts (.exchAck p pp true true) b
      ((b.setCommon p (c.modLink k (fun l => { l with farPass := some true }))).enterActive p k (!l.shortExchange)))
  ∧ (c.lstate k = lsExchange → l.farPass = none → cclkUs ≤ c.since l.recAt → Acts (.exchResend p pp) b (b.sendRecord p k))
  ∧ (∀ (f : BitVec 7) (bytes : List Byte), c.lstate k = lsExchange → l.keyStage ≠ 0 →
      let m := (if f.toNat = 0 then [] else l.keyMsg) ++ bytes
      Acts (.keyx p pp f false bytes) b (b.setCommon p (c.modLink k (fun l => { l with keyMsg := m })))
      ∧ Acts (.keyx p pp f true bytes) b ((b.setCommon p (c.modLink k (fun l => { l with keyMsg := [] }))).keyMessage p k m))

/-- Groups, acknowledgements, NAK, REPLAY and credits of an ACTIVE link (R279, R282, R284, R285, R286, R293, R165). -/
def Obligations.LinkDelivers : Prop := ∀ (b : Block) (p : Part) (pp : BitVec 7),
  let k := pp.toNat
  let c := b.common p
  let l := c.link k
  c.up = true → c.lstate k = lsActive →
  (l.session = none → l.waitReplay = none → ∀ (bytes : List Byte) (cws : List (Option (List (BitVec 5)))),
      let c1 := (c.fecCount k cws).modLink k (fun l => { l with session := none })
      let c2 := c1.modLink k (fun l => { l with lastRx := c.stroke })
      let nak := fun (c : Common) (l : Link) => (c.ctrl k (wordFlit ctNak [l.dlvCount])).modLink k (fun m => { m with waitReplay := some l.dlvCount, partial_ := [], nakRun := m.nakRun + 1 })
      (groupOk bytes = true → cws.contains none = false →
        (l.swapNak = false → Acts (.flitGroup p pp bytes cws false false) b ((groupFlits bytes 8).foldl (fun s f => s.flitIn p k f) (b.setCommon p c2)))
        ∧ (l.swapNak = true → Acts (.flitGroup p pp bytes cws false false) b (b.setCommon p (nak (c2.modLink k (fun l => { l with swapNak := false })) l))))
      ∧ (∀ unc, unc = true ∨ cws.contains none = true ∨ groupOk bytes = false →
        (l.swapNak = true ∨ l.swapRx ≠ [] → Acts (.flitGroup p pp bytes cws unc false) b (b.setCommon p c1))
        ∧ (l.swapNak = false → l.swapRx = [] →
          (((nak c1 l).link k).nakRun < (nak c1 l).replayLimit k → Acts (.flitGroup p pp bytes cws unc false) b (b.setCommon p (nak c1 l)))
          ∧ ((nak c1 l).replayLimit k ≤ ((nak c1 l).link k).nakRun → Acts (.flitGroup p pp bytes cws unc false) b ((b.setCommon p (nak c1 l)).leaveActive p k 2)))))
  ∧ (∀ count : BitVec 16, let n := countDiff count.toNat l.relCount
      (l.replayBuf.length < n → Acts (.ackFlit p pp count) b b)
      ∧ (n ≤ l.replayBuf.length → p = .oe36 ∨ l.ends = [] → Acts (.ackFlit p pp count) b (b.setCommon p (c.modLink k (fun l =>
          { l with relCount := count.toNat, replayBuf := l.replayBuf.drop n, ends := l.ends.filter (fun e => !decide (countDiff e.1 l.relCount ≤ n)), idleSince := if n = 0 then l.idleSince else c.stroke })))))
  ∧ (∀ next : BitVec 16, let n := countDiff next.toNat l.relCount
      n ≤ l.replayBuf.length → l.replaying ≠ some (next.toNat, c.stroke) →
      (p = .ox720 → b.fciHolds k = true → Acts (.nak p pp next) b (b.setCommon p (c.modLink k (fun l => { l with nakHeld := some next.toNat }))))
      ∧ ((p = .ox720 → b.fciHolds k = false) → (p = .oe36 ∨ hallLink p k = true ∨ b.ox.launches.any (fun l => !l.ended) = false) →
      let fl := l.replayBuf.drop n
      let c1 := (c.ctrl k (wordFlit ctReplay [next.toNat])).modLink k (fun l => { l with
        replaying := some (next.toNat, c.stroke), session := l.session.map (fun x => x.sent (groupsOf true (fl.length + 1))) })
      Acts (.nak p pp next) b (b.setCommon p (((c1.emit (.flits k fl)).count (ob 0x3006 k) 32 32 1).logReplay k))))
  ∧ (∀ first : BitVec 16, l.waitReplay = some first.toNat →
      Acts (.replay p pp first) b (b.setCommon p (c.modLink k (fun l => { l with waitReplay := none, partial_ := [] }))))
  ∧ (∀ c0 c1 c2 c3 c4 : BitVec 16, Acts (.credit p pp [c0, c1, c2, c3, c4]) b
      (b.setCommon p (c.modLink k (fun l => { l with freed := [c0.toNat, c1.toNat, c2.toNat, c3.toNat, c4.toNat] }))))
  ∧ (l.ackOwed = true → Acts (.ackTimer p pp) b
      (b.setCommon p ((c.ctrl k (wordFlit ctAck [l.dlvCount])).modLink k (fun l => { l with ackOwed := false, lastAck := l.dlvCount }))))
  ∧ (0 < l.unreported → Acts (.creditTimer p pp) b
      (b.setCommon p ((c.ctrl k (wordFlit ctCredit l.myFreed)).modLink k (fun l => { l with reported := l.myFreed }))))

/-- Lane markers, lost lanes, the spare swap, keepalive and LINK_DOWN (R280, R288, R292, R293, R294). -/
def Obligations.LanesSwap : Prop := ∀ (b : Block) (p : Part) (pp : BitVec 7),
  let k := pp.toNat
  let c := b.common p
  let l := c.link k
  c.up = true → c.lstate k = lsActive →
  (∀ (lane : BitVec 5) (m : BitVec 320), markerSync m = true → markerAgrees m = true → mkWake m = false →
      Acts (.laneMarker p pp lane m true) b (b.setCommon p (c.modLink k (fun l => { l with mcount := mkCount m }))))
  ∧ (∀ (lane : BitVec 5) (m : BitVec 320), markerSync m = true → markerAgrees m = true → mkWake m = true →
      Acts (.laneMarker p pp lane m true) b (b.setCommon p ((c.setBit (ob 0x3001 k) 4 false).modLink k (fun l => { l with lastRx := c.stroke }))))
  ∧ (∀ (lane : BitVec 5) (g sp : Nat) (r : List Nat), c.logicalOf k lane.toNat = some g → l.swapRx = [] → l.swapAsk = [] → l.standby = sp :: r →
      let wait := fun (c : Common) (lost : Bool) => b.setCommon p (c.modLink k (fun l => { l with swapAsk := l.swapAsk.filter (fun e => e.1 != g) ++ [(g, lane.toNat, lost)] }))
      let asked := fun (c : Common) => b.setCommon p ((c.modLink k (fun l => { l with swapRx := [(g, sp, none)], nakRun := 0 })).ctrl k (ctrlFlit ctSwap [BitVec.ofNat 8 g, BitVec.ofNat 8 sp]))
      (r ≠ [] → Acts (.laneLossOfLock p pp lane false) b (asked c))
      ∧ (r = [] → Acts (.laneLossOfLock p pp lane false) b (wait c true))
      ∧ ∀ n : BitVec 32, let c1 := c.modLink k (fun l => { l with symErrors := SMap.set 0 l.symErrors lane.toNat n.toNat })
        (c.laneErrLimit k < n.toNat → (r ≠ [] → Acts (.laneErrorLimit p pp lane n false) b (asked c1)) ∧ (r = [] → Acts (.laneErrorLimit p pp lane n false) b (wait c1 false)))
        ∧ (n.toNat ≤ c.laneErrLimit k → Acts (.laneErrorLimit p pp lane n false) b (b.setCommon p c1)))
  ∧ (∀ (lane : BitVec 5) (g : Nat), c.logicalOf k lane.toNat = some g → l.swapRx = [] → l.swapAsk = [] → l.standby = [] →
      let b1 := b.setCommon p (c.log 0x1005 .uncorrected k (packArg [(7, k), (5, g)]))
      Acts (.laneLossOfLock p pp lane false) b (b1.leaveActive p k 0))
  ∧ (∀ lane : BitVec 5, c.logicalOf k lane.toNat = none → hallLink c.kind k = false → Acts (.laneLossOfLock p pp lane false) b
      (b.setCommon p (c.modLink k (fun l => { l with standby := l.standby.filter (fun x => x != lane.toNat), outLanes := insertNat l.outLanes lane.toNat }))))
  ∧ (∀ logical phys : BitVec 5, logical.toNat < laneCount p k → phys.toNat < physLanes p k → ∃ cw m : Nat, cw < 16384 ∧ m < 65536 ∧
      Acts (.spareSwap p pp logical phys) b { (b.setCommon p ((c.modLink k (fun l => { l with swapTx := l.swapTx ++ [(logical.toNat, phys.toNat, cw, m)] })).ctrl k
        (ctrlFlit ctSwapAck ([BitVec.ofNat 8 logical.toNat, BitVec.ofNat 8 phys.toNat] ++ leBytes 2 cw ++ leBytes 2 m)))) with free := b.free + 2 })
  ∧ (∀ (logical phys : BitVec 5) (cw m : BitVec 16) (r : List (Nat × Nat × Option (Nat × Nat))), l.swapRx = (logical.toNat, phys.toNat, none) :: r →
      Acts (.spareSwapAck p pp logical phys cw m) b (b.setCommon p (c.modLink k (fun l => { l with swapRx := (logical.toNat, phys.toNat, some (cw.toNat, m.toNat)) :: r }))))
  ∧ (∀ (g sp : Nat) (at_ : Nat × Nat) (r : List (Nat × Nat × Option (Nat × Nat))), l.swapRx = (g, sp, some at_) :: r → hallLink c.kind k = false →
      let c1 := (c.setFld (ob 0x3002 k) (5 * g) 5 sp).modLink k (fun l => { l with
        swapRx := r, standby := l.standby.filter (fun x => x != sp), outLanes := insertNat l.outLanes (c.laneOf k g), swapNak := true, nakRun := 0, lastRx := c.stroke })
      Acts (.spareSwapCodeword p pp true) b (b.setCommon p ((c1.count (ob 0x3007 k) 32 16 1).log 0x1004 .corrected k (packArg [(7, k), (1, 1), (5, g), (5, sp)]))))
  ∧ (∀ (g sp cw m : Nat) (r : List (Nat × Nat × Nat × Nat)), l.swapTx = (g, sp, cw, m) :: r →
      let c1 := c.modLink k (fun l => { l with swapTx := r, txMap := l.txMap.set g sp })
      Acts (.spareSwapCodeword p pp false) b (b.setCommon p ((c1.count (ob 0x3007 k) 32 16 1).log 0x1004 .corrected k (packArg [(7, k), (1, 0), (5, g), (5, sp)]))))
  ∧ (c.bit (ob 0x3001 k) 4 = false → l.swapRx = [] → cclkUs ≤ c.since l.lastRx → Acts (.keepalive p pp false) b (b.leaveActive p k 1))
  ∧ (∀ cause : BitVec 3, Acts (.linkDown p pp cause) b ((b.setCommon p (c.modLink k (fun l => { l with farCause := cause.toNat }))).leaveActive p k 3))

/-- FEATHER, DOCK, the ergo tests, relaunch, and the bridge token (R288, R295, R296, R297, R299). -/
def Obligations.LinkModes : Prop :=
  (∀ (b : Block) (p : Part) (pp : BitVec 7),
  let k := pp.toNat
  let c := b.common p
  let l := c.link k
  c.up = true → hallLink p k = false →
  (c.lstate k = lsActive →
      (c.bit (ob 0x3000 k) 1 = true → c.bit (ob 0x3001 k) 3 = false → (∀ x ∈ c.txq, x.1 ≠ k) → l.replayBuf = [] → l.ackOwed = false → l.unreported = 0 →
        c.fld (ob 0x3004 k) 0 16 * 7 ≤ c.since l.idleSince * 4 → Acts (.featherEntry p pp) b (b.setCommon p ((c.emit (.ctrl k (ctrlFlit ctFeather []))).setBit (ob 0x3001 k) 3 true)))
      ∧ Acts (.feather p pp) b (b.setCommon p (c.setBit (ob 0x3001 k) 4 true))
      ∧ (c.bit (ob 0x3001 k) 3 = true → Acts (.featherExit p pp) b (b.setCommon p
          ((((c.setBit (ob 0x3001 k) 3 false).count (ob 0x3008 k) 0 64 1).emit (.linkSignal k "WAKE" l.mcount)).modLink k (fun l => { l with idleSince := c.stroke }))))
      ∧ (b.lastLink p k = true → Acts (.dockFlit p pp false) b (b.setCommon p (c.log 0x1009 .info k (packArg [(7, k)]))))
      ∧ (b.lastLink p k = false → Acts (.dockFlit p pp false) b ((b.setCommon p (c.ctrl k (ctrlFlit ctDock [1]))).enterDock p k))
      ∧ (l.docking = true → Acts (.dockFlit p pp true) b (b.enterDock p k))
      ∧ (l.docking = true → 2 * cclkUs ≤ c.since l.since → Acts (.dockTimeout p pp) b (b.enterDock p k))
      ∧ (∀ mode : BitVec 2, mode.toNat ≠ 0 → Acts (.ergo p pp mode) b ((b.setCommon p (c.setFld (ob 0x3000 k) 3 2 mode.toNat)).ergoStart p k))
      ∧ (c.bit (ob 0x3000 k) 2 = false → Acts (.relaunch p pp) b
          (((b.setCommon p (c.modLink k (fun l => { l with swapRx := [], swapTx := [], swapNak := false }))).leaveActive p k 4).toDetect p k)))
  ∧ (let b1 := b.setCommon p (c.setBit (ob 0x3000 k) 2 true)
      let c1 := b1.common p;
      (b1.lastLink p k = true → Acts (.dock p pp) b (b1.setCommon p (c1.log 0x1009 .info k (packArg [(7, k)]))))
      ∧ (b1.lastLink p k = false → c1.lstate k = lsActive → Acts (.dock p pp) b (b1.setCommon p
          ((c1.modLink k (fun l => { l with docking := true, since := c.stroke, swapRx := [], swapTx := [], swapNak := false })).ctrl k (ctrlFlit ctDock [0]))))
      ∧ (b1.lastLink p k = false → c1.lstate k ≠ lsActive → Acts (.dock p pp) b b1))
  ∧ (let c1 := c.setBit (ob 0x3000 k) 2 false;
      (c1.lstate k = lsDock → Acts (.dockClear p pp) b (b.setCommon p ((c1.setLstate k lsLock).modLink k (fun l => { l with shortExchange := true }))))
      ∧ (c1.lstate k ≠ lsDock → Acts (.dockClear p pp) b (b.setCommon p (c1.modLink k (fun l => { l with docking := false })))))
  ∧ (c.lstate k = lsErgo → ∀ bits errors : BitVec 64,
      let c1 := ((c.setFld (ob 0x3000 k) 3 2 0).count (ob 0x3009 k) 0 64 bits.toNat).count (ob 0x300A k) 0 64 errors.toNat
      let c2 := c1.log 0x1007 .info k (packArg [(7, k), (2, c.fld (ob 0x3000 k) 3 2), (64, errors.toNat)])
      Acts (.ergoDone p pp bits errors) b ((b.setCommon p c2).toDetect p k))
  ∧ (c.lstate k ≠ lsErgo → Acts (.ergo p pp 0) b (b.setCommon p (c.setFld (ob 0x3000 k) 3 2 0))))
  ∧ (∀ b : Block, b.sw.up = true →
  (b.sw.isBow = false →
      Acts .tokenYield b { b with sw := b.sw.setToken tkStern 0 }
      ∧ Acts .tokenGive b b
      ∧ Acts .peerFailed b { b with sw := (b.sw.setBit (ob 0x3010 0) 2 true).setToken tkStern 1 }
      ∧ (b.sw.lstate 0x58 = lsActive → Acts .tokenReturn b { b with sw := ((b.sw.ctrl 0x58 (ctrlFlit ctToken [2])).setBit (ob 0x3010 0) 2 false).setToken tkBow 3 })
      ∧ (b.sw.lstate 0x58 ≠ lsActive → Acts .tokenReturn b b))
  ∧ (b.sw.isBow = true →
      Acts .tokenGive b { b with sw := b.sw.setToken tkBow 3 } ∧ Acts .tokenYield b b ∧ Acts .peerFailed b b ∧ Acts .tokenReturn b b))

/-! ### Light and time -/

/-- Line power, the comb module, rings and wavelengths (R306, R307, R308, R310, R312). -/
def Obligations.LightAndRings : Prop := ∀ (b : Block), b.sw.up = true →
  (∀ powers : List (BitVec 16), let c := linesRead b.sw powers
      (c.isDark = false ∨ b.sw.isDark = true → Acts (.linePowerMeasure powers false) b { b with sw := c })
      ∧ (c.isDark = true → b.sw.isDark = false → Acts (.linePowerMeasure powers false) b (({ b with sw := c } : Block).lightChanged false)))
  ∧ (b.sw.combHost = false → ∀ (present : Bool) (adv : BitVec 18),
      let u : Block := { b with sw := b.sw.setFld (ob 0x4000 0) 1 2 (b2n present), ox := { b.ox with combSuitable := false } };
      Acts (.combPresenceChange present adv) b (u.lightChanged b.sw.isDark) ∧ Acts .combReset b b)
  ∧ (b.sw.combHost = true →
      (∀ adv : BitVec 18, adv.toNat ≠ 2 ^ 18 - 1 →
        let u : Block := { b with
          sw := ((b.sw.setFld (ob 0x4000 0) 1 2 1).emit (.pin "CMIS_LOW_POWER" 1)).log 0x2003 .uncorrected 0xFF (packArg [(18, adv.toNat)])
          ox := { b.ox with combSuitable := false } };
        Acts (.combPresenceChange true adv) b (u.lightChanged b.sw.isDark))
      ∧ Acts .combReset b { b with sw := (b.sw.emit (.pin "COMB_RST_N" 0)).setBit (ob 0x4000 0) 2 false, ox := { b.ox with combRst := 10 * cclkUs } }
      ∧ (b.sw.bit (ob 0x4000 0) 1 = true → ∀ flags : BitVec 64,
          Acts (.combInt flags) b { b with ox := { b.ox with combFlags := flags.toNat } }
          ∧ ∀ ready, Acts (.combPoll flags ready) b { b with
              sw := b.sw.setBit (ob 0x4000 0) 2 (ready && b.ox.combSuitable && b.sw.bit (ob 0x4000 1) 0)
              ox := { b.ox with combFlags := flags.toNat } }))
  ∧ (∀ (k : BitVec 4) (tx rx : BitVec 18), b.sw.hstate k.toNat ≠ psDark → Acts (.ringAcquisitionDone k tx rx) b { b with
      sw := (b.sw.setFld (ob 0x4012 k.toNat) 0 18 tx.toNat).setFld (ob 0x4012 k.toNat) 18 18 rx.toNat
      ox := b.ox.setHport k.toNat { b.ox.hport k.toNat with badRead := [] } })
  ∧ (∀ k : BitVec 4, b.sw.hstate k.toNat ≠ psDisabled → b.sw.dueAfter (b.ox.hport k.toNat).trackAt (max (8 * cclkUs) (8 * intNs (b.sw.fld (ob 0x4002 0) 0 3) * 7 / 4)) = true → Acts (.ringTrack k) b { b with
      ox := b.ox.setHport k.toNat { b.ox.hport k.toNat with trackAt := some b.sw.stroke }
      sw := b.sw.emit (.linkSignal (0x48 + k.toNat) "RING_TRACK" (b.sw.fld (ob 0x4002 0) 0 3)) })
  ∧ (∀ (k : BitVec 4), b.sw.dueAfter (b.ox.hport k.toNat).watchAt cclkUs = true → (b.ox.hport k.toNat).badRead = [] → ∀ tx rx : BitVec 18,
      Acts (.ringWatchdog k tx rx false) b { b with ox := b.ox.setHport k.toNat { b.ox.hport k.toNat with
        badRead := ((List.range 18).filter (bitAt tx.toNat)).map (fun i => (true, i)) ++ ((List.range 18).filter (bitAt rx.toNat)).map (fun i => (false, i)), watchAt := some b.sw.stroke } })
  ∧ (∀ (k : BitVec 4) (i : BitVec 18) (n : Nat), n < 18 → i.toNat = 2 ^ n → b.sw.dueAfter (b.ox.hport k.toNat).watchAt cclkUs = true → (b.ox.hport k.toNat).badRead = [(true, n)] → b.sw.bit (ob 0x4012 k.toNat) n = true →
      let u : Block := { b with ox := b.ox.setHport k.toNat { b.ox.hport k.toNat with badRead := [(true, n)], watchAt := some b.sw.stroke } };
      Acts (.ringWatchdog k i 0 false) b (u.ringLost k.toNat 0 n))
  ∧ (∀ (ports : BitVec 16) (k i : Nat), ports.toNat = 2 ^ k → i < 18 → (∀ j, j < 18 → ((b.sw.bit (ob 0x4012 k) (36 + j) && b.sw.bit (ob 0x4000 0) (3 + j)) = true ↔ j = i)) →
      Acts (.wlRestore ports) b { b with sw := (b.sw.setBit (ob 0x4012 k) (36 + i) false).modLink (0x48 + k) (fun l => { l with
        outLanes := l.outLanes.filter (fun x => x != i)
        standby := if b.sw.logicalOf (0x48 + k) i = none ∧ i ∈ l.outLanes then insertNat l.standby i else l.standby }) })
  ∧ (∀ k : BitVec 4, let u := (List.range 4).foldl (fun s p => s.dropProfile k.toNat p) b
      (b.sw.hstate k.toNat = psDisabled ∨ b.sw.hstate k.toNat = psDark → Acts (.hallRelaunch k) b u)
      ∧ (b.sw.hstate k.toNat ≠ psDisabled → b.sw.hstate k.toNat ≠ psDark → Acts (.hallRelaunch k) b ((u.hallStop k.toNat psSurvey 4).surveyStart k.toNat)))

/-- ROTA_STEER, STEER_DRAIN_DONE, SELECTOR_MOVED, STEER_RELOCK_DONE, STEER_RELOCK_TIMEOUT and NO_LINK_FULL_LAUNCH of a hall port (R312, R313, R315, R316). -/
def Obligations.HallPortsSteer : Prop := ∀ (b : Block) (kk : BitVec 4),
  let k := kk.toNat
  let pp := 0x48 + k
  let h := b.ox.hport k
  let put := fun (b : Block) (h : HPort) => { b with ox := b.ox.setHport k h }
  b.sw.up = true →
  (b.sw.fld (ob 0x4010 k) 1 2 = 0 → h.rotaE ≠ some b.rotaE → h.steer = none →
      let h1 : HPort := { h with rotaE := some b.rotaE }
      ((b.rotaE + 64 - b.swRack) % 4 = b.sw.hpos k → Acts (.rotaSteer kk) b (put b h1))
      ∧ ((b.rotaE + 64 - b.swRack) % 4 ≠ b.sw.hpos k → b.sw.hstate k = psActive ∨ b.sw.hstate k = psNoLink →
          Acts (.rotaSteer kk) b (put { b with sw := ((b.sw.setSteered k (b.sw.hpos k) false).setHstate k psSteering).count (ob 0x4013 k) 0 32 1 }
            { h1 with steer := some ⟨(b.rotaE + 64 - b.swRack) % 4, false, b.sw.stroke⟩, phase := 1 })))
  ∧ (∀ st, h.steer = some st →
      (h.phase = 1 → b.sw.lstate pp ≠ lsActive ∨ ((b.sw.link pp).replayBuf = [] ∧ b.ox.egressAll k = [] ∧ ∀ x ∈ b.sw.txq, x.1 ≠ pp) →
        let s := b.keepSession k
        Acts (.steerDrainDone kk) b { s with
          sw := s.sw.setLstate pp lsLock
          ox := let x := { (s.ox.egressAll k).foldl (fun x c => x.unref c) s.ox with egress := s.ox.egress.filter (fun e => e.1 / 256 != k) }
                x.setHport k { x.hport k with phase := 2 } })
      ∧ (h.phase = 1 → b.sw.lstate pp = lsActive → (b.sw.link pp).replayBuf ≠ [] ∨ b.ox.egressAll k ≠ [] ∨ (∃ x ∈ b.sw.txq, x.1 = pp) → Acts (.steerDrainDone kk) b b)
      ∧ (h.phase = 2 → st.pos < 4 → b.sw.profileValid k st.pos = true →
          let p := SMap.get {} h.profiles st.pos
          let c := ((b.sw.setHpos k st.pos).emit (.linkSignal pp "WAKE_MARKERS" 4)).setReg (ob 0x3002 pp) (BitVec.ofNat 128 (packArg (p.map.map (fun l => (5, l)))))
          Acts (.selectorMoved kk) b (put { b with sw := c.modLink pp (fun l => { l with session := p.session }) } { h with phase := 3 }))
      ∧ (h.phase = 2 → b.sw.profileValid k st.pos = false → Acts (.selectorMoved kk) b (b.steerFails k st))
      ∧ (100 * cclkUs ≤ b.sw.since st.at_ → Acts (.steerRelockTimeout kk) b (b.steerFails k st)))
  ∧ (b.sw.profileValid k (b.sw.hpos k) = true → ∀ far : List Byte,
      (b.sw.hstate k = psSteering → h.phase = 3 → Acts (.steerRelockDone kk far) b (b.relock k far))
      ∧ (b.sw.hstate k = psNoLink → h.full = false → h.steer = none → Acts (.steerRelockDone kk far) b ((put b { h with fast := true }).relock k far)))
  ∧ (b.sw.hstate k = psNoLink → h.full = false → h.steer = none → cclkMs ≤ b.sw.since h.noLinkSince →
      Acts (.noLinkFullLaunch kk) b (put { b with sw := b.sw.setLstate pp lsDetect } { h with full := true, fast := false }))

/-- Claims, announcements, hall alignment and pulses of the start line (R325, R327, R328, R330, R331, R332). -/
def Obligations.StartLine : Prop :=
  (∀ (b : Block) (pk : Packet),
  let drop := fun (b : Block) => { b with sw := b.sw.rxDrop (unitRx xpCox) pk }
  b.sw.up = true → pOpc pk = 0x38 →
  (stKind pk = 0 → let c := b.claimOf (stHall pk)
      (c.active = false ∨ b.lowerClaim pk = false → Acts (.claim pk) b (drop b))
      ∧ (c.active = true → b.lowerClaim pk = true → Acts (.claim pk) b ((drop b).setClaim (stHall pk) { c with active := false, deferred := true })))
  ∧ (∀ hall, let c := b.claimOf hall
      c.active = true → claimRound ≤ b.sw.since c.since →
      (c.round < 3 → Acts (.claimRoundEnd hall) b ((b.setClaim hall { c with round := c.round + 1, since := b.sw.stroke }).sendClaim hall (c.round + 1)))
      ∧ (3 ≤ c.round → hall = true → Acts (.claimRoundEnd hall) b ({ b with
          sw := (b.sw.setBit (ob 0xC000 2) 2 true).log 0xC002 .info 0xFF (packArg [(10, b.swId), (1, 1)])
          ox := { b.ox with hallMaster := true, hallClaiming := { active := false, round := 3, since := c.since, deferred := false } } } : Block).hallSort)
      ∧ (3 ≤ c.round → hall = false → Acts (.claimRoundEnd hall) b (({ b with
          ox := { b.ox with claiming := { active := false, round := 3, since := c.since, deferred := false } } } : Block).becomeMaster)))
  ∧ (3 * checkPeriod ≤ b.sw.since b.sw.lastPulse → let u : Block := { b with sw := ({ b.sw with masterKnown := false } : Common).setBit (ob 0xC000 2) 1 false }
      (b.ox.claiming.active = true → Acts (.syncPulseMissing .ox720) b u)
      ∧ (b.ox.claiming.active = false → u.sw.bit (ob 0xC000 1) 8 = false → Acts (.syncPulseMissing .ox720) b u)
      ∧ (b.ox.claiming.active = false → u.sw.bit (ob 0xC000 1) 8 = true → Acts (.syncPulseMissing .ox720) b
          (({ u with ox := { b.ox with claiming := { active := true, round := 1, since := b.sw.stroke, deferred := false } } } : Block).sendClaim false 1)))
  ∧ (b.sw.since b.sw.lastPulse < 3 * checkPeriod → Acts (.syncPulseMissing .ox720) b b)
  ∧ (b.ep.up = true → 3 * checkPeriod ≤ b.ep.since b.ep.lastPulse →
      Acts (.syncPulseMissing .oe36) b { b with ep := ({ b.ep with masterKnown := false } : Common).setBit (ob 0xC000 2) 1 false })
  ∧ (stKind pk = 1 → ∀ link, let c := b.sw.rxDrop (unitRx xpCox) pk
      let heard := ({ c with announced := some (stValue pk, stHsync pk, stHall pk, pSrc pk % 1024), masterKnown := true } : Common).setFld (ob 0xC000 2) 3 10 (pSrc pk % 1024)
      (b.swId ≠ pSrc pk % 1024 →
        Acts (.announce .ox720 link pk) b { b with sw := heard.setBit (ob 0xC000 2) 1 false, ox := { b.ox with claiming := { b.ox.claiming with active := false }, hallMaster := false, hallClaiming := { b.ox.hallClaiming with active := false } } })
      ∧ (b.swId = pSrc pk % 1024 → Acts (.announce .ox720 link pk) b { b with sw := heard }))
  ∧ (stKind pk = 1 → b.ep.up = true → ∀ link : BitVec 7, let c := (b.ep.takeRx link.toNat pk).relay link.toNat pk
      (classBad pk (linkNets .oe36 link.toNat) = true → Acts (.announce .oe36 link pk) b { b with ep := b.ep.refuseHere link.toNat pk })
      ∧ (classBad pk (linkNets .oe36 link.toNat) = false → Acts (.announce .oe36 link pk) b { b with ep :=
        ({ c with announced := some (stValue pk, stHsync pk, stHall pk, pSrc pk % 1024), masterKnown := true } : Common).setFld (ob 0xC000 2) 3 10 (pSrc pk % 1024) }))
  ∧ (stKind pk = 2 →
      (b.sw.bit (ob 0xC000 2) 1 = true → Acts (.hallPing pk) b
          (({ b with sw := b.sw.rxDrop (unitRx xpCox) pk, ox := { b.ox with pinged := some (stValue pk, b.sw.stroke) } } : Block).startRack 3 0 b.sw.stroke (pSrc pk / 16 % 64)))
      ∧ (b.sw.bit (ob 0xC000 2) 1 = false → Acts (.hallPing pk) b (drop b)))
  ∧ (stKind pk = 3 → ∀ sent : BitVec 48,
      (b.sw.bit (ob 0xC000 2) 1 = false ∨ b.ox.hallMaster = true ∨ b.ox.pinged = none → Acts (.hallEcho pk sent) b (drop b))
      ∧ (∀ t1 t2, b.sw.bit (ob 0xC000 2) 1 = true → b.ox.hallMaster = false → b.ox.pinged = some (t1, t2) →
          let d := fun (a b : Nat) => toSigned 48 (toUnsigned 48 ((a : Int) - (b : Int)))
          let off := (d t2 t1 + d (stValue pk) sent.toNat) / 2
          let c := (b.sw.rxDrop (unitRx xpCox) pk).setFld (ob 0xC000 3) 0 32 (toUnsigned 32 off)
          (b.sw.bit (ob 0xC000 2) 2 = false → Acts (.hallEcho pk sent) b { b with sw := c, ox := { b.ox with hallAlign := some off } })
          ∧ (b.sw.bit (ob 0xC000 2) 2 = true → off.natAbs ≤ 64 → Acts (.hallEcho pk sent) b { b with sw := c })
          ∧ (b.sw.bit (ob 0xC000 2) 2 = true → 64 < off.natAbs → Acts (.hallEcho pk sent) b (({ b with
              sw := (c.setBit (ob 0xC000 2) 2 false).log 0xC003 .uncorrected 0xFF (packArg [(48, c.stroke), (48, toUnsigned 28 off)]), ox := { b.ox with hallAlign := some off } } : Block).hallSort))))
  ∧ (b.sw.bit (ob 0xC000 2) 1 = true → b.sw.started = true → b.ox.pulseDue = none →
      let v := ((b.sw.stroke + announceLead + checkPeriod - 1) / checkPeriod) * checkPeriod
      let hs := b.sw.bit (ob 0xC000 2) 2
      let value := toUnsigned 48 ((v : Int) - b.ox.hallAlign.getD 0)
      let u := b.startCrew 1 b.ox.hallAlign.isSome 0 hs value
      let w : Block := { u with sw := { u.sw with announced := some (value, hs, b.ox.hallAlign.isSome, b.swId) }, ox := { u.ox with pulseDue := some (v - 68) } }
      (b.ox.hallMaster = true → Acts .checkPeriodAnnounce b (w.otherRacks.foldl (fun s n => s.startRack 2 0 s.sw.stroke n) w))
      ∧ (b.ox.hallMaster = false → b.otherRacks = [] ∨ b.hallLed = true ∨ b.ox.hallClaiming.active = true → Acts .checkPeriodAnnounce b w)
      ∧ (b.ox.hallMaster = false → b.otherRacks ≠ [] → b.hallLed = false → b.ox.hallClaiming.active = false → Acts .checkPeriodAnnounce b (w.startClaim true)))
  ∧ (∀ t, b.ox.pulseDue = some t →
      (t ≤ b.sw.stroke → Acts .ssyncOutDrive b { b with sw := b.sw.emit (.pin "SSYNC_OUT" 1), ox := { b.ox with pulseDue := none, ssyncLow := 12 } })
      ∧ (b.sw.stroke < t → Acts .ssyncOutDrive b b)))
  ∧ (∀ (b : Block),
  (b.ep.up = true → ∀ v hsync hall m, b.ep.announced = some (v, hsync, hall, m) → v < 2 ^ 48 →
      (b.ep.bit (ob 0xC000 2) 0 = true → b.ep.stroke = v →
        Acts (.strokeSync .oe36) b { b with ep := ({ b.ep with stroke := v, lastPulse := v, started := true, announced := none } : Common).setBit (ob 0xC000 2) 2 hsync })
      ∧ (b.ep.bit (ob 0xC000 2) 0 = true → b.ep.stroke ≠ v → hall = false →
          Acts (.strokeSync .oe36) b { b with ep := (((({ b.ep with stroke := v, lastPulse := v, started := true, announced := none } : Common).loadedPast).setBit (ob 0xC000 2) 0 false).log
            0xC003 .uncorrected 0xFF (packArg [(48, b.ep.stroke), (48, v)])).setBit (ob 0xC000 2) 2 hsync })
      ∧ (b.ep.bit (ob 0xC000 2) 0 = true → b.ep.stroke ≠ v → hall = true →
          Acts (.strokeSync .oe36) b { b with ep := ({ b.ep with stroke := v, lastPulse := v, started := true, announced := none } : Common).loadedPast.setBit (ob 0xC000 2) 2 hsync })
      ∧ (b.ep.bit (ob 0xC000 2) 0 = false →
          let c : Common := { b.ep with stroke := v, lastPulse := v, started := true, announced := none }
          let d := (if b.ep.stroke = v then c else c.loadedPast).setBit (ob 0xC000 2) 0 true
          (b.ep.started = true ∨ v ≠ 0 → Acts (.strokeSync .oe36) b { b with ep := d.setBit (ob 0xC000 2) 2 hsync })
          ∧ (b.ep.started = false → v = 0 → Acts (.strokeSync .oe36) b { b with ep := (d.log 0xC001 .info 0xFF (packArg [(48, 0), (10, m)])).setBit (ob 0xC000 2) 2 hsync })))
  ∧ (b.sw.up = true → ∀ v hsync hall m, b.sw.announced = some (v, hsync, hall, m) → v < 2 ^ 48 → b.sw.bit (ob 0xC000 2) 0 = true → b.sw.stroke = v →
      let c : Common := { b.sw with stroke := v, lastPulse := v, started := true, announced := none }
      (b.sw.bit (ob 0xC000 2) 1 = false → Acts (.strokeSync .ox720) b ({ b with sw := c.setBit (ob 0xC000 2) 2 hsync } : Block).hallSort.engineKick)
      ∧ (b.sw.bit (ob 0xC000 2) 1 = true → hall = false → Acts (.strokeSync .ox720) b ({ b with sw := c } : Block).hallSort.engineKick)
      ∧ (b.sw.bit (ob 0xC000 2) 1 = true → hall = true →
          Acts (.strokeSync .ox720) b ({ b with sw := c.setBit (ob 0xC000 2) 2 true, ox := { b.ox with hallAlign := none } } : Block).hallSort.engineKick))
  ∧ (∀ p : Part, (b.common p).up = true → (b.common p).announced = none → Acts (.strokeSync p) b (b.setCommon p { b.common p with lastPulse := (b.common p).stroke }))
  ∧ (∀ p : Part, (b.common p).running = true → let c := b.common p
      let lost := fun (c : Common) => ({ c with running := false } : Common).log 0xC004 .fatal 0xFF (packArg [(16, c.fld (ob 0x1000 0) 0 16)])
      Acts (.refclkLoss p false) b (b.setCommon p (lost c))
      ∧ (c.injects 0xA1 = true → Acts (.refclkLoss p true) b (b.setCommon p (lost (c.injected 0xA1))))
      ∧ (c.injects 0xA1 = false → Acts (.refclkLoss p true) b (b.setCommon p (c.passed 0xA1 true)))))

/-! ### Security -/

/-- The SPDM mailbox takes one request at a time; GO stands until its response is ready (layouts PRESUMED, log 51) (R340, R354, R355, R356, R358). -/
def Obligations.MailboxRequests : Prop := ∀ (b : Block) (p : Part),
  let c := b.common p
  c.up = true →
  let resp := fun (c : Common) (r : List Byte) => b.setCommon p { c with spdmBusy := some r }
  let asks := fun (c : Common) (r : List Byte) (at_ : Nat) => b.setCommon p { c with spdmBusy := some r, waiters := c.waiters ++ [⟨0, at_, c.stroke⟩] }
  let go := c.setBit (ob 0x8102 0) 13 true
  let chain := Config.certChain p
  (∀ r, c.spdmBusy = some r →
      (∀ slot off len i nonce sign t dg ma e id ok, Acts (.getDigests p) b b ∧ Acts (.getCertificate p slot off len) b b ∧ Acts (.challenge p slot nonce) b b
          ∧ Acts (.getMeasurements p i nonce sign) b b ∧ Acts (.keyExchange p t dg ma e) b b ∧ Acts (.spdmFinish p id ok) b b ∧ Acts (.endSession p id) b b)
      ∧ ((∀ w ∈ c.waiters, w.consumer ≠ 0) → Acts (.spdmResponseReady p) b (b.setCommon p
          (({ (List.range 256).foldl (fun c i => if 16 * i < min r.length 4096 then c.setReg (ob 0x8101 i) (BitVec.ofNat 128 (leAt r (16 * i) 16)) else c) c
            with spdmBusy := none } : Common).setFld (ob 0x8102 0) 13 14 (2 * min r.length 4096)))))
  ∧ (c.spdmBusy = none →
      Acts (.getDigests p) b (resp go (spdmHead 0x01 1 1 ++ sha384 chain))
      ∧ (∀ (slot : BitVec 4) (off len : BitVec 16),
          let portion := (chain.drop off.toNat).take (min len.toNat 4088)
          Acts (.getCertificate p slot off len) b (resp go (if slot.toNat ≠ 0 ∨ chain.length ≤ off.toNat then spdmError errInvalid
            else spdmHead 0x02 0 0 ++ leBytes 2 portion.length ++ leBytes 2 (chain.length - off.toNat - portion.length) ++ portion)))
      ∧ (∀ (slot : BitVec 4) (nonce : BitVec 256), slot.toNat ≠ 0 → Acts (.challenge p slot nonce) b (resp go (spdmError errInvalid)))
      ∧ (∀ nonce : BitVec 256, Acts (.challenge p 0 nonce) b
          (asks go (spdmHead 0x03 0 1 ++ sha384 chain ++ leBytes 32 0 ++ leBytes 2 0 ++ leBytes 32 nonce.toNat) 52))
      ∧ (∀ (i : BitVec 8) (nonce : BitVec 256), let u := b.setCommon p go
          let held := (List.range 6).filterMap (fun k => (u.measurement p (k + 1)).map (measBlock (k + 1)))
          let head := fun (n : Nat) (l : List (List Byte)) => spdmHead 0x60 n 0 ++ leBytes 1 l.length ++ leBytes 3 l.flatten.length ++ l.flatten
          let answers := fun (h : List Byte) =>
            Acts (.getMeasurements p i nonce false) b (resp go (h ++ leBytes 32 0 ++ leBytes 2 0))
            ∧ Acts (.getMeasurements p i nonce true) b (asks go (h ++ leBytes 32 0 ++ leBytes 2 0 ++ leBytes 32 nonce.toNat) h.length)
          (i.toNat = 0 → answers (head held.length []))
          ∧ (i.toNat = 0xFF → answers (head 0 held))
          ∧ (i.toNat ≠ 0 → i.toNat ≠ 0xFF → (∀ d, u.measurement p i.toNat = some d → answers (head 0 [measBlock i.toNat d]))
              ∧ (u.measurement p i.toNat = none → ∀ sign, Acts (.getMeasurements p i nonce sign) b (resp go (spdmError errInvalid)))))
      ∧ (4 ≤ c.sessions.length → ∀ t dg ma e, Acts (.keyExchange p t dg ma e) b (resp go (spdmError errSessions)))
      ∧ (c.sessions.length < 4 → ∀ (t : BitVec 8) (dg : BitVec 384) (ma : Bool) (e : List Byte),
          let c1 := { go with nextSession := c.nextSession % 65535 + 1, sessions := c.sessions ++ [⟨c.nextSession, t.toNat, dg, ma, false⟩] }
          let r := spdmHead 0x64 0 0 ++ leBytes 2 c.nextSession ++ leBytes 1 (b2n ma) ++ leBytes 1 0 ++ leBytes 32 0 ++ slice (Config.drbg b.free (leNat e)) 0 96 ++ leBytes 2 0
          Acts (.keyExchange p t dg ma e) b { asks c1 r 8 with free := b.free + 1 })
      ∧ (∀ (id : BitVec 16), (∀ x ∈ c.sessions, x.id ≠ id.toNat) →
          (∀ ok, Acts (.spdmFinish p id ok) b (resp go (spdmError errInvalid))) ∧ Acts (.endSession p id) b (resp go (spdmError errInvalid)))
      ∧ (∀ (id : BitVec 16), (∃ x ∈ c.sessions, x.id = id.toNat) →
          Acts (.spdmFinish p id true) b (resp { go with sessions := replaceFirst (fun x => x.id == id.toNat) (fun x => { x with finished := true }) c.sessions } (spdmHead 0x65 0 0))
          ∧ Acts (.spdmFinish p id false) b (resp { go with sessions := c.sessions.filter (fun x => x.id != id.toNat) } (spdmError errDecrypt))
          ∧ Acts (.endSession p id) b (resp { go with sessions := c.sessions.filter (fun x => x.id != id.toNat) } (spdmHead 0x6C 0 0))))

/-- Weight keys are set, refused and erased; a tenant's boathouse key retires (R350, R352, R353). -/
def Obligations.KeysComeAndGo : Prop := ∀ (b : Block),
  (∀ (id : BitVec 16) (payload : List Byte) (x : Spdm), b.ep.up = true → b.ep.spdmBusy = none →
      b.ep.sessions.find? (fun x => x.id == id.toNat && x.finished && x.mutualAuth) = some x →
      let slot := leAt payload 1 1
      let t := leAt payload 2 1
      let go := b.ep.setBit (ob 0x8102 0) 13 true
      let answer := fun (st : Nat) => some (spdmHead 0x7E 0 0 ++ leBytes 1 st)
      go.bit (ob 0x8000 0) 0 = true → go.assignedTenant = t → x.pubDigest.toNat = go.brokerDigest t →
      (leAt payload 0 1 = 1 → go.bit (wkKey slot) 0 = false → Acts (.setWeightKey id payload) b { b with
          ep := { (go.setReg (wkKey slot) (BitVec.ofNat 128 (packArg [(1, 1), (8, t), (32, leAt payload 4 4)]))).log 0x8007 .info 0xFF (packArg [(8, slot), (8, t), (32, leAt payload 4 4)]) with spdmBusy := answer 0 }
          oe := { b.oe with weightKeys := SMap.set [] b.oe.weightKeys slot (slice payload 8 32) } })
      ∧ (leAt payload 0 1 = 1 → go.bit (wkKey slot) 0 = true → Acts (.setWeightKey id payload) b { b with ep := { go with spdmBusy := answer 1 } })
      ∧ (leAt payload 0 1 = 2 → Acts (.eraseWeightKey id payload) b { b with
          ep := { (go.setReg (wkKey slot) 0).log 0x8008 .info 0xFF (packArg [(8, slot), (2, 0)]) with spdmBusy := answer 0 }
          oe := b.withoutKey slot }))
  ∧ (∀ (m : Master) (slots : BitVec 256) (n : Nat), b.ep.up = true → b.ep.writable m (ob 0x8041 0) = true → n < 256 →
      (∀ i, i < 256 → ((bitAt slots.toNat i && b.ep.bit (wkKey i) 0) = true ↔ i = n)) →
      Acts (.keyErase m slots) b { b with
        ep := ((b.ep.renew m).setReg (wkKey n) 0).log 0x8008 .info 0xFF (packArg [(8, n), (2, 1)]), oe := b.withoutKey n })
  ∧ (∀ (tenants : BitVec 256) (t : Nat), b.sw.up = true → t < 256 → tenants.toNat = 2 ^ t → Acts (.keyRetire tenants) b { b with
      sw := { b.sw.setBit (ob 0x8051 (t / 64)) (t % 64) false with waiters := b.sw.waiters ++ [⟨2, t, b.sw.stroke⟩] }
      ox := { b.ox with keyGen := SMap.modify 0 b.ox.keyGen t (fun g => (g + 1) % 256), keyless := insertNat b.ox.keyless t } })

/-- The debug unlock asks for a nonce, unlocks when nothing fails, and locks (R362). -/
def Obligations.DebugUnlocks : Prop := ∀ (b : Block) (p : Part) (m : Master),
  let c := (b.common p).renew m
  (b.common p).writable m (ob 0x9000 0) = true →
  (c.up = true → Acts (.unlockReq p m) b (b.setCommon p { c.setBit (ob 0x9000 0) 1 false with waiters := c.waiters ++ [⟨3, 0, c.stroke⟩] }))
  ∧ (c.up = true → Acts (.unlockGo p m) b (b.setCommon p (match c.unlockError with
      | some e => (c.setBit (ob 0x9000 0) 1 false).log 0x900F .uncorrected 0xFF (packArg [(2, e)])
      | none => (c.setFld (ob 0x9000 0) 0 2 1).log 0x900E .info 0xFF (packArg [(32, leAt (sha384 (slice c.unlockData 0 96)) 0 4)]))))
  ∧ Acts (.lock p m) b (b.setCommon p ((c.setBit (ob 0x9000 0) 0 false).setFld (ob 0x9010 0) 8 2 0))

/-- The entropy source fails, restarts and recovers, and its consumers wait (R358). -/
def Obligations.EntropyStates : Prop := ∀ (b : Block) (p : Part),
  let c := b.common p
  let failed := fun (c : Common) (test : Nat) =>
    (({ (if test < 2 then c.count (ob 0x8000 2) (16 * test) 16 1 else c) with failedAt := c.stroke } : Common).setFld (ob 0x8000 0) 1 2 2).log 0x8001 .uncorrected 0xFF (packArg [(2, test)])
  c.up = true →
  (∀ test : BitVec 2, c.entropy = enOk →
      Acts (.entropyTestFail p test false) b (b.setCommon p (failed c test.toNat))
      ∧ (c.detects 0x80 2 test.toNat true = true → Acts (.entropyTestFail p test true) b (b.setCommon p (failed (c.injected 0x80) test.toNat)))
      ∧ (c.detects 0x80 2 test.toNat true = false → Acts (.entropyTestFail p test true) b (b.setCommon p (c.undetected 0x80 2 test.toNat true))))
  ∧ (∀ test : BitVec 2, c.entropy = enStartup ∨ c.entropy = enRestart → Acts (.entropyTestDone p false test) b (b.setCommon p (failed c test.toNat)))
  ∧ (∀ test : BitVec 2, (∀ w ∈ c.waiters, c.since w.since < 10 * cclkMs) →
      let ok := ({ c with autoRestarted := false } : Common).setEntropy enOk
      let back := ok.log 0x8002 .info 0xFF (packArg [(32, c.since c.failedAt / cclkUs)])
      (c.entropy = enRestart → c.bit (ob 0x8000 0) 0 = true → Acts (.entropyTestDone p true test) b (b.setCommon p back))
      ∧ (c.entropy = enStartup → c.bit (ob 0x8000 0) 0 = true → Acts (.entropyTestDone p true test) b (b.setCommon p ok))
      ∧ (c.entropy = enStartup → c.bit (ob 0x8000 0) 0 = false →
          (p = .oe36 → Acts (.entropyTestDone p true test) b (b.setCommon p (ok.setBit (ob 0x8000 0) 0 true)))
          ∧ (p = .ox720 → (∀ w ∈ c.waiters, ¬ (w.consumer = 2 ∧ w.arg = 256)) → Acts (.entropyTestDone p true test) b (b.setCommon p { ok with waiters := c.waiters ++ [⟨2, 256, c.stroke⟩] }))))
  ∧ (c.entropy = enFailed → c.autoRestarted = false → cclkMs ≤ c.since c.failedAt →
      Acts (.entropyAutoRestart p) b (b.setCommon p (({ c with autoRestarted := true } : Common).setFld (ob 0x8000 0) 1 2 3)))
  ∧ (∀ m : Master, c.writable m (ob 0x8000 1) = true → (c.renew m).entropy = enFailed → c.booted = true →
      Acts (.entropyRestart p m) b (b.setCommon p ((c.renew m).setFld (ob 0x8000 0) 1 2 3)))
  ∧ (∀ (w : Waiter) (r : List Waiter) (out : List Byte), c.waiters = w :: r →
      (c.entropy = enOk → Acts (.drbgReseed p false out) b ((b.setCommon p { c with waiters := r }).serveEntropy p w out))
      ∧ Acts (.drbgReseed p true out) b b
      ∧ (c.entropy ≠ enOk → Acts (.drbgReseed p false out) b b)
      ∧ (c.entropy ≠ enOk → r = [] → 10 * cclkMs ≤ c.since w.since → Acts (.entropyWaitExpiry p) b (b.releaseWaiter p w)))

/-! ### Faults and recovery -/

/-- SRAM errors, configuration parity and the patrol scrubber (R361, R363, R364, R365, R369, R389, R202). -/
def Obligations.ErrorsAreCounted : Prop := ∀ (b : Block) (p : Part),
  let c := b.common p
  c.inReset = false →
  (∀ (unit : BitVec 8) (word : BitVec 32) (inj : Bool),
      let at_ := unit.toNat + 256 * word.toNat
      let arg := packArg [(8, unit.toNat), (32, word.toNat)]
      let seen := fun (point : Nat) => if inj then c.injected point else c
      let u := fun (sev : Sev) => b.setCommon p (((seen 0x21).count (ob 0x9021 3) 0 32 1).log 0x9002 sev 0xFF arg)
      (c.detects 0x20 40 at_ inj = true → Acts (.sramCorrected p unit word inj) b (b.setCommon p (((seen 0x20).count (ob 0x9021 2) 0 64 1).logLimited 0x9001 .corrected 0xFF 0 arg)))
      ∧ (c.detects 0x20 40 at_ inj = false → Acts (.sramCorrected p unit word inj) b (b.setCommon p (c.undetected 0x20 40 at_ inj)))
      ∧ (c.detects 0x21 40 at_ inj = false → ∀ what, Acts (.sramUncorrected p unit word what inj) b (b.setCommon p (c.undetected 0x21 40 at_ inj)))
      ∧ (c.detects 0x21 40 at_ inj = true →
          Acts (.sramUncorrected p unit word .control inj) b ((u .fatal).setCommon p { (u .fatal).common p with failed := true })
          ∧ (∀ pp : BitVec 7, Acts (.sramUncorrected p unit word (.replayWord pp) inj) b ((u .uncorrected).leaveActive p pp.toNat 5))
          ∧ (∀ (line : BitVec 33) (ctx : BitVec 6) (g : BitVec 23),
              (p = .oe36 → Acts (.sramUncorrected p unit word (.dirEntry line) inj) b (((u .uncorrected).setDir line.toNat 0 0).snoopAll none true line.toNat (List.range 8))
                ∧ Acts (.sramUncorrected p unit word (.tlbEntry ctx g) inj) b ((u .uncorrected).tlbDrop (fun e => e.covers ctx.toNat (g.toNat * 2 ^ 29))))
              ∧ (p = .ox720 → Acts (.sramUncorrected p unit word (.dirEntry line) inj) b (u .uncorrected) ∧ Acts (.sramUncorrected p unit word (.tlbEntry ctx g) inj) b (u .uncorrected)))
          ∧ (∀ (k : BitVec 19) (g : BitVec 4) (blk : BitVec 32),
              (p = .oe36 → Acts (.sramUncorrected p unit word (.cellPayload k) inj) b (u .uncorrected) ∧ Acts (.sramUncorrected p unit word (.cellHeader k) inj) b (u .uncorrected)
                ∧ Acts (.sramUncorrected p unit word (.tileMemory g blk) inj) b (u .uncorrected))
              ∧ (p = .ox720 →
                  Acts (.sramUncorrected p unit word (.cellHeader k) inj) b ((u .uncorrected).dropCell k.toNat)
                  ∧ (∀ x, b.ox.cell k.toNat = some x → Acts (.sramUncorrected p unit word (.cellPayload k) inj) b { u .uncorrected with
                      ox := { b.ox with cells := SMap.set none b.ox.cells k.toNat (some { x with pkt := setPoison x.pkt true, copies := x.copies.map (fun y => (y.1, setPoison y.2 true)) }) } })
                  ∧ (b.ox.cell k.toNat = none → Acts (.sramUncorrected p unit word (.cellPayload k) inj) b (u .uncorrected))
                  ∧ (∀ key, b.ox.results = [] → (b.ox.group g.toNat).bound = some key → Acts (.sramUncorrected p unit word (.tileMemory g blk) inj) b
                      ((u .uncorrected).modGroup g.toNat (fun q => { q with badMem := q.badMem ++ [(key, blk.toNat)] })))
                  ∧ (∀ r, b.ox.results.find? (fun r => r.g == g.toNat && r.block == blk.toNat && !r.released) = some r →
                      b.ox.recomps.any (fun x => x.g == g.toNat && x.ctx == r.ctx && x.block == blk.toNat) = false →
                      Acts (.sramUncorrected p unit word (.tileMemory g blk) inj) b
                        ((u .uncorrected).recompute g.toNat r.ctx blk.toNat (6 * g.toNat) ((u .uncorrected).sw.physical (6 * g.toNat)) 0))))))
  ∧ (∀ (key : BitVec 24) (word : BitVec 2) (r : ObjRow) (inj : Bool), findRow p key.toNat = some r → r.staged p = true → 32 * word.toNat < r.width →
      let k := key.toNat
      let d := if inj then c.injected 0x22 else c
      (c.detects 0x22 24 k inj = false → ∀ mismatch shadow, Acts (.paritySweep p key word mismatch shadow inj) b (b.setCommon p (c.undetected 0x22 24 k inj)))
      ∧ (c.detects 0x22 24 k inj = true →
          (d.parityErr.contains (k, word.toNat) = false → Acts (.paritySweep p key word true false inj) b (b.setCommon p
              ((({ d with parityErr := d.parityErr ++ [(k, word.toNat)] } : Common).setBit (ob 0x9023 0) (k / 2 ^ 20) true).log 0x9003 .uncorrected 0xFF (packArg [(24, k)]))))
          ∧ (d.parityErr.contains (k, word.toNat) = true → Acts (.paritySweep p key word true false inj) b (b.setCommon p d))
          ∧ (d.shadowErr.contains k = false → ∀ s : State, s.blk = b → (∃ x, (k, x) ∈ (s.mg p).shadow) →
              exec (.paritySweep p key word false true inj) s = .next { s with blk := b.setCommon p { d with shadowErr := d.shadowErr ++ [k] } })))
  ∧ (p = .ox720 → b.sw.secureReady = true → ∀ inj : Bool,
      let pos := b.sw.fld (ob 0x9020 1) 0 30
      let on := fun (c : Common) => if pos + 1 < 750000000 then c.setFld (ob 0x9020 1) 0 30 (pos + 1) else (c.setFld (ob 0x9020 1) 0 30 0).count (ob 0x9020 2) 0 32 1
      let lands := fun (point : Nat) => b.sw.detects point 32 pos inj
      let d := fun (point : Nat) => if inj && lands point then b.sw.injected point else b.sw.undetected point 32 pos inj
      Acts (.patrolScrub false false inj) b { b with sw := on (d 0x30) }
      ∧ (lands 0x30 = true → Acts (.patrolScrub true false inj) b { b with sw := on (((d 0x30).count (ob 0x9021 0) 0 64 1).logLimited 0x9004 .corrected 0xFF 0 (packArg [(30, pos)])) })
      ∧ (lands 0x30 = false → Acts (.patrolScrub true false inj) b { b with sw := on (d 0x30) })
      ∧ (lands 0x32 = true → b.ox.bhPoison.contains pos = false → ∀ correctable : Bool,
          let t := (SMap.get ((256 : Nat), (0 : Nat)) b.ox.bhOwner pos).1
          Acts (.patrolScrub correctable true inj) b { b with
            sw := on ((((d 0x32).count (ob 0x9021 1) 0 32 1).setReg (ob 0x9022 0) (BitVec.ofNat 128 (packArg [(30, pos), (8, t)]))).log 0x9005 .deferred 0xFF (packArg [(8, t), (30, pos)]))
            ox := { b.ox with bhPoison := insertNat b.ox.bhPoison pos } })
      ∧ (lands 0x32 = false ∨ b.ox.bhPoison.contains pos = true → ∀ correctable : Bool, Acts (.patrolScrub correctable true inj) b { b with sw := on (d 0x32) }))

/-- A switch stands in for its lost twin, is fenced, and an endpoint takes a plane off the twin's path (R370, R372, R373, R374, R375). -/
def Obligations.TwinsStandIn : Prop := ∀ (b : Block),
  (b.sw.up = true →
      (∀ t, b.sw.namesSelf = true → b.sw.lstate 0x58 ≠ lsActive → b.ox.bridgeDownAt = some t → b.sw.fld (ob 0x9041 0) 3 16 * cclkUs ≤ b.sw.since t →
          b.ox.twinSeen = true → b.sw.standIn = false → b.sw.isFenced = false →
          let n := (((List.range 4096).filterMap (fun c => b.twinRecord c)).filter recordOpen).length
          Acts .standInBegin b { b with
            sw := (b.sw.setBit (ob 0x9041 0) 0 true).log 0x900A .corrected 0xFF (packArg [(10, b.twinId), (32, n)])
            ox := { b.ox with hold := { b.ox.hold with standFrom := some b.sw.stroke, standEnd := false }, standAt := some b.sw.stroke, standResumed := [] } })
      ∧ (b.sw.namesSelf = false → Acts .standInBegin b b)
      ∧ (b.sw.standIn = false → Acts .endStandIn b b)
      ∧ (b.sw.standIn = true →
          let keys := (b.ox.launches.filter (fun l => l.twin)).map (fun l => l.key)
          let e := keys.foldl (fun s k => s.dropLaunchData k) b
          let u : Block := { e with
            sw := (e.sw.setBit (ob 0x9041 0) 0 false).log 0x900B .info 0xFF (packArg [(10, b.twinId)])
            ox := { e.ox with launches := e.ox.launches.filter (fun l => !l.twin), heldResults := e.ox.heldResults.filter (fun r => decide (r.key < 4096)),
                              timedOut := e.ox.timedOut.filter (fun t => decide (t.1 < 4096)), twinLaunch := [], standResumed := [], standAt := none } };
          ((b.ox.eng.running || b.ox.eng.inner == engDispatch) && keys.contains b.ox.eng.ctx) = false → Acts .endStandIn b u.standRaise)
      ∧ (∀ l, b.sw.standIn = true → b.ox.launches = [l] → l.twin = true → b.ox.eng.running = true → b.ox.eng.ctx = l.key →
          let e := b.dropLaunchData l.key
          let u : Block := { e with
            sw := (e.sw.setBit (ob 0x9041 0) 0 false).log 0x900B .info 0xFF (packArg [(10, b.twinId)])
            ox := { e.ox with launches := e.ox.launches.filter (fun l => !l.twin), heldResults := e.ox.heldResults.filter (fun r => decide (r.key < 4096)),
                              timedOut := e.ox.timedOut.filter (fun t => decide (t.1 < 4096)), twinLaunch := [], standResumed := [], standAt := none } };
          Acts .endStandIn b u.standRaise.engineFree)
      ∧ (b.sw.isFenced = false → Acts (.fenced true) b { b with sw := (b.sw.setBit (ob 0x9041 0) 1 true).log 0x900C .uncorrected 0xFF (packArg [(10, b.swId)]) })
      ∧ (b.sw.isFenced = true → Acts (.fenced true) b b)
      ∧ (b.sw.isFenced = true → b.sw.lstate 0x58 = lsActive → Acts (.fenced false) b ({ b with sw := b.sw.setBit (ob 0x9041 0) 1 false } : Block).engineKick)
      ∧ (b.sw.lstate 0x58 ≠ lsActive → Acts (.fenced false) b b))
  ∧ (∀ t, b.ox.hold.standDrive = some t → b.at256 = true → 200 * cclkUs < b.sw.since t + 256 → Acts .standInHoldExpiry b b.standRaise)
  ∧ (∀ t, b.ox.hold.standDrive = some t → b.at256 = false ∨ b.sw.since t + 256 ≤ 200 * cclkUs → Acts .standInHoldExpiry b b)
  ∧ (∀ mask : BitVec 16, b.ep.up = true → Acts (.collViaTwin mask) b { b with
      ep := b.ep.setFld (ob 0x9040 0) 0 16 (Nat.land (b.ep.fld (ob 0x9040 0) 0 16) (65535 - mask.toNat)) })

/-! ### Management -/

/-- COMMIT_NOW, COMMIT_AT, ABORT, the check's end, the guard and the catch (R395, R396, R397, R398). -/
def Obligations.CommitRuns : Prop := ∀ (s : State) (p : Part),
  let c := s.common p
  let armed := fun (c : Common) (sch : Bool) (m : Master) => ({ c with armedAt := none, scheduled := sch, commitMaster := masterCode m - 1 } : Common)
  c.inReset = false →
  (∀ m : Master, c.writable m (ob 0x2000 0) = true → let d := c.renew m
      (d.commitOpen = false → exec (.commitNow p (.window m)) s = .next (s.modCommon p (fun _ => (armed d false m).setFld (ob 0x2000 2) 0 3 1)))
      ∧ (d.commitOpen = true → exec (.commitNow p (.window m)) s = .next (s.modCommon p (fun _ => d)))
      ∧ (d.commitOpen = false → (s.mg p).annSeen.contains (d.commitGroup, d.catchAt) = false → d.stroke + d.catchGuard < d.catchAt →
          exec (.commitAt p (.window m)) s = .next (s.modCommon p (fun _ => (armed d true m).setFld (ob 0x2000 2) 0 3 1)))
      ∧ (d.commitOpen = false → (s.mg p).annSeen.contains (d.commitGroup, d.catchAt) = true →
          exec (.commitAt p (.window m)) s = .next (s.modCommon p (fun _ => (armed d true m).abandon 0)))
      ∧ (d.commitState ≠ csChecking → (d.commitState = csArmed → d.scheduled = false) →
          exec (.commitAbort p (.window m)) s = .next ((s.modCommon p (fun _ =>
            ({ d with shadowErr := [], armedAt := none, scheduled := false } : Common).setFld (ob 0x2000 2) 0 3 0)).modMg p (fun g => { g with shadow := [] })))
      ∧ (d.commitState = csArmed → d.scheduled = true →
          exec (.commitAbort p (.window m)) s = .next (((s.modCommon p (fun _ =>
            ({ d with shadowErr := [], armedAt := none, scheduled := false } : Common).setFld (ob 0x2000 2) 0 3 0)).modMg p (fun g => { g with shadow := [] })).announceOff p))
      ∧ (d.commitOpen = false → (s.mg p).annSeen.contains (d.commitGroup, d.catchAt) = false → d.catchAt ≤ d.stroke + d.catchGuard →
          exec (.commitAt p (.window m)) s = .next ((s.modCommon p (fun _ => armed d true m)).failCommit p (ob 0x2000 1)))
      ∧ (d.commitState = csChecking → exec (.commitAbort p (.window m)) s = .next (s.modCommon p (fun _ => d))))
  ∧ (c.commitState = csChecking → c.scheduled = false →
      (s.checkFail p = none → exec (.commitCheckDone p) s = .next (s.modCommon p (fun c => ({ c with armedAt := some ((c.stroke + 16 + 63) / 64 * 64) } : Common).setFld (ob 0x2000 2) 0 3 2)))
      ∧ (∀ obj, s.checkFail p = some obj → exec (.commitCheckDone p) s = .next (s.modCommon p (fun c =>
          ((({ c with armedAt := none, scheduled := false } : Common).setFld (ob 0x2000 2) 0 3 3).setFld (ob 0x2000 2) 17 24 obj).log 0xB003 .uncorrected 0xFF
            (packArg [(24, obj), (1, c.commitMaster)])))))
  ∧ (c.commitState = csChecking → c.scheduled = true →
      (c.catchAt < c.stroke + c.catchGuard → exec (.commitCheckDone p) s = .next (s.failCommit p (ob 0x2000 1)))
      ∧ (c.stroke + c.catchGuard ≤ c.catchAt → c.bit (ob 0xC000 2) 0 = true →
          (s.checkFail p = none → exec (.commitCheckDone p) s = .next (s.modCommon p (fun c => ({ c with armedAt := some c.catchAt } : Common).setFld (ob 0x2000 2) 0 3 2)))
          ∧ (∀ obj, s.checkFail p = some obj → exec (.commitCheckDone p) s = .next (s.failCommit p obj)))
      ∧ (c.stroke + c.catchGuard ≤ c.catchAt → c.bit (ob 0xC000 2) 0 = false →
          exec (.commitCheckDone p) s = .next (s.failCommit p (match s.checkFail p with | some obj => min obj (ob 0x2000 1) | none => ob 0x2000 1))))
  ∧ ((c.commitState ≠ csChecking ∨ c.scheduled = false ∨ c.stroke + c.catchGuard < c.catchAt) → exec (.catchGuard p) s = .next s)
  ∧ (∀ obj, s.failCommit p obj = (fun t : State => if c.scheduled then (t.modMg p (fun g => { g with annRelayed := g.annRelayed ++ [((t.common p).commitGroup, (t.common p).catchAt)] })).on (fun b =>
        (b.activeLinks p).foldl (fun b k => b.sendMgmt p k (annPacket (b.annHdr p k) (t.common p).catchAt (t.common p).commitGroup)) b) else t)
      (s.modCommon p (fun c => ((({ c with armedAt := none, scheduled := false } : Common).setFld (ob 0x2000 2) 0 3 3).setFld (ob 0x2000 2) 17 24 obj).log 0xB003 .uncorrected 0xFF
        (packArg [(24, obj), (1, c.commitMaster)]))))
  ∧ (c.commitState = csChecking → c.scheduled = true → c.catchAt ≤ c.stroke + c.catchGuard → exec (.catchGuard p) s = .next (s.failCommit p (ob 0x2000 1)))
  ∧ (c.commitState = csArmed → c.armedAt = some c.stroke →
      exec (.catch_ p) s = .next ((s.on (fun b => b.doCatch p (s.mg p).shadow)).modMg p (fun g => { g with shadow := [] })))
  ∧ (c.commitState = csArmed → c.armedAt ≠ some c.stroke → exec (.catch_ p) s = .next s)

/-- A catch applies what is staged and counts itself; announcements are remembered and relayed once (R397, R398). -/
def Obligations.CatchesAndAnnouncements : Prop :=
  (∀ (s : State) (l : List (Nat × Obj)),
  let c := s.common .oe36
  let quiet := fun key : Nat => (key / 256 < 0x7100 ∨ 0x713F < key / 256) ∧ key / 256 ∉ [0x3000, 0x5200, 0x5201, 0x5202, 0x8001, 0x8020, 0x9010, 0x9040, 0x2102, 0xA004, 0xB000, 0xB001, 0xB002, 0xB003, 0xB100, 0xB101]
    ∧ key ≠ ob 0x9030 1
  c.inReset = false → c.commitState = csArmed → c.armedAt = some c.stroke → s.mgEp.shadow = l → (∀ e ∈ l, quiet e.1) →
  (∀ k ∈ linksOf .oe36, (c.link k).judgeDue = false) →
  let c1 := ({ c.applyShadows l with shadowErr := [], armedAt := none, scheduled := false } : Common).setFld (ob 0x2000 2) 0 3 0
  let c2 := (c1.count (ob 0x2000 3) 0 32 1).setFld (ob 0x2000 4) 0 48 c.stroke
  (exec (.catch_ .oe36) s = .next { s with
    blk := { s.blk with ep := (c2.parityRestore (l.map (fun e => e.1))).log 0xB004 .info 0xFF (packArg [(32, c2.fld (ob 0x2000 3) 0 32), (14, l.length)]) }
    mgEp := { s.mgEp with shadow := [] } })
  ∧ (∀ (key : Nat) (x : Obj) (r : ObjRow), c.kind = .oe36 → l = [(key, x)] → findRow .oe36 key = some r →
      let m := r.storeMask .oe36 key
      c.applyShadows l = c.setReg key ((c.reg key &&& ~~~ m) ||| (x &&& m))))
  ∧ (∀ (s : State) (link : BitVec 7) (pk : Packet),
  let at_ := bitsOf pk.w1 0 48
  let group := bitsOf pk.w1 48 16
  let heard := fun l : List (Nat × Nat) => (fun seen => seen.drop (seen.length - 16)) (l.filter (fun e => e != (group, at_)) ++ [(group, at_)])
  (let c := s.common .oe36
    let d := (c.takeRx link.toNat pk).hearAnn group at_
    c.up = true → pOpc pk = 0x39 →
    (classBad pk (linkNets .oe36 link.toNat) = true → exec (.catchAnn .oe36 link pk) s = .next (s.modCommon .oe36 (fun c => c.refuseHere link.toNat pk)))
    ∧ (classBad pk (linkNets .oe36 link.toNat) = false → s.mgEp.annRelayed.contains (group, at_) = true → exec (.catchAnn .oe36 link pk) s = .next { s with
        blk := { s.blk with ep := d }, mgEp := { s.mgEp with annSeen := heard s.mgEp.annSeen } })
    ∧ (classBad pk (linkNets .oe36 link.toNat) = false → s.mgEp.annRelayed.contains (group, at_) = false → exec (.catchAnn .oe36 link pk) s = .next { s with
        blk := { s.blk with ep := ((List.range 16).filter (fun k => d.lstate k == lsActive)).foldl (fun c k => c.queueTx k pk) d }
        mgEp := { s.mgEp with annSeen := heard s.mgEp.annSeen, annRelayed := s.mgEp.annRelayed ++ [(group, at_)] } }))
  ∧ (let c := s.common .ox720
    let d := (c.rxDrop (unitRx xpCox) pk).hearAnn group at_
    let b := { s.blk with sw := d }
    c.up = true → pOpc pk = 0x39 →
    (s.mgSw.annRelayed.contains (group, at_) = true → exec (.catchAnn .ox720 link pk) s = .next { s with
        blk := b, mgSw := { s.mgSw with annSeen := heard s.mgSw.annSeen } })
    ∧ (s.mgSw.annRelayed.contains (group, at_) = false → exec (.catchAnn .ox720 link pk) s = .next { s with
        blk := ((linksOf .ox720).filter (fun k => d.lstate k == lsActive)).foldl (fun b k => b.unitSend xpCox [k] { pk with w0 := (b.annHdr .ox720 k).word }) b
        mgSw := { s.mgSw with annSeen := heard s.mgSw.annSeen, annRelayed := s.mgSw.annRelayed ++ [(group, at_)] } }))
  ∧ (∀ c : Common,
      c.hearAnn group at_ = if c.scheduled = true ∧ c.commitOpen = true ∧ c.catchAt = at_ ∧ c.commitGroup = group ∧ c.stroke < at_ then
        (({ c with armedAt := none, scheduled := false } : Common).setFld (ob 0x2000 2) 0 3 4).log 0xB005 .uncorrected 0xFF (packArg [(48, c.catchAt), (16, c.commitGroup), (1, 0)]) else c))

/-- Writes through the register window, the alias window and EVT_NEXT (R384, R385, R386, R387, R388, R400, R403). -/
def Obligations.WindowsWrite : Prop := ∀ (s : State) (p : Part),
  (s.common p).inReset = false →
  (∀ (offset : BitVec 28) (width : BitVec 2) (data : BitVec 64),
      let key := offset.toNat / 2 ^ 12 * 256 + offset.toNat / 16 % 256
      let v := BitVec.ofNat 128 data.toNat
      let all := BitVec.allOnes 128
      (s.writeStatus p .fieldBus key all v ≠ hsOk → exec (.registerWrite p .fieldBus offset width data) s = .next (s.modCommon p (fun c => c.recordError .fieldBus (slotOffset key) 4)))
      ∧ (s.writeStatus p .fieldBus key all v = hsOk → (s.mg p).lastWrite = none →
          exec (.registerWrite p .fieldBus offset width data) s = .next (s.writeApply p .fieldBus key all v)))
  ∧ (∀ (offset : BitVec 28) (width : BitVec 2) (data : BitVec 64), let n := 2 ^ width.toNat
      n < 4 ∨ offset.toNat % 16 % n ≠ 0 → exec (.registerWrite p .pcie offset width data) s = .next (s.modCommon p (fun c =>
        (c.recordError .pcie offset.toNat width.toNat).emit (.completerAbort offset.toNat))))
  ∧ (∀ (offset : BitVec 28) (width : BitVec 2) (data : BitVec 64) (r : ObjRow),
      let key := offset.toNat / 2 ^ 12 * 256 + offset.toNat / 16 % 256
      let lo := offset.toNat % 16
      let n := 2 ^ width.toNat
      let mask := BitVec.ofNat 128 ((2 ^ (8 * n) - 1) * 2 ^ (8 * lo))
      let v := BitVec.ofNat 128 (data.toNat * 2 ^ (8 * lo))
      4 ≤ n → lo % n = 0 → findRow p key = some r → 8 * (lo + n) ≤ r.width → s.writeStatus p .pcie key mask v = hsOk → (s.mg p).lastWrite = none →
      exec (.registerWrite p .pcie offset width data) s = .next (s.writeApply p .pcie key mask v))
  ∧ (∀ (offset : BitVec 28) (width : BitVec 2) (data : BitVec 64),
      let key := offset.toNat / 2 ^ 12 * 256 + offset.toNat / 16 % 256
      let lo := offset.toNat % 16
      let n := 2 ^ width.toNat
      4 ≤ n → lo % n = 0 →
      (findRow p key = none ∨ (∃ r, findRow p key = some r ∧ r.width < 8 * (lo + n))
        ∨ s.writeStatus p .pcie key (BitVec.ofNat 128 ((2 ^ (8 * n) - 1) * 2 ^ (8 * lo))) (BitVec.ofNat 128 (data.toNat * 2 ^ (8 * lo))) ≠ hsOk) →
      exec (.registerWrite p .pcie offset width data) s = .next (s.modCommon p (fun c => (c.recordError .pcie offset.toNat width.toNat).emit (.completerAbort offset.toNat))))
  ∧ (∀ (offset : BitVec 28) (width : BitVec 2) (data : BitVec 64) (r : ObjRow) (both : BitVec 128) (x : Nat),
      let key := offset.toNat / 2 ^ 12 * 256 + offset.toNat / 16 % 256
      let lo := offset.toNat % 16
      let n := 2 ^ width.toNat
      let mask := BitVec.ofNat 128 ((2 ^ (8 * n) - 1) * 2 ^ (8 * lo))
      let v := BitVec.ofNat 128 (data.toNat * 2 ^ (8 * lo))
      let fb := BitVec.ofNat 128 x
      4 ≤ n → lo % n = 0 → findRow p key = some r → 8 * (lo + n) ≤ r.width → s.writeStatus p .pcie key mask v = hsOk →
      (s.mg p).lastWrite = some ((s.common p).stroke, 1, key, both.toNat, x) →
      exec (.registerWrite p .pcie offset width data) s = .next (s.modCommon p (fun c =>
        if fb &&& (mask &&& both) = v &&& (mask &&& both) then c
        else (c.count (ob 0x2000 0x13) 0 32 1).logLimited 0xB002 .uncorrected 0xFF 0 (packArg [(24, key), (16, bitsOf fb 0 16), (16, bitsOf v 0 16)]))))
  ∧ (∀ (offset : BitVec 18) (data : BitVec 64), let key := ob (if offset.toNat < 2 ^ 17 then 0x2000 else 0x9000) (offset.toNat % 2 ^ 17 / 512)
      let bit := offset.toNat / 4 % 128
      (findRow p key = none ∨ (∃ r, findRow p key = some r ∧ bitsOf (r.catchMask p ||| r.immMask p) bit 1 = 0)
        ∨ s.writeStatus p .pcie key (BitVec.allOnes 128) (setBits (s.baseOf p .pcie key) bit 1 (bitsOf data 0 1)) ≠ hsOk) →
      exec (.aliasWrite p .pcie offset 2 data) s = .next (s.modCommon p (fun c => (c.recordError .pcie offset.toNat 2).emit (.completerAbort offset.toNat))))
  ∧ (∀ (offset : BitVec 18) (data : BitVec 64) (r : ObjRow),
      let key := ob (if offset.toNat < 2 ^ 17 then 0x2000 else 0x9000) (offset.toNat % 2 ^ 17 / 512)
      let bit := offset.toNat / 4 % 128
      let v := setBits (s.baseOf p .pcie key) bit 1 (bitsOf data 0 1)
      offset.toNat % 4 = 0 → findRow p key = some r → bitsOf (r.catchMask p ||| r.immMask p) bit 1 = 1 →
      s.writeStatus p .pcie key (BitVec.allOnes 128) v = hsOk → (s.mg p).lastWrite = none →
      exec (.aliasWrite p .pcie offset 2 data) s = .next (s.writeApply p .pcie key (BitVec.allOnes 128) v))
  ∧ (∀ (offset : BitVec 18) (width : BitVec 2) (data : BitVec 64), width.toNat ≠ 2 ∨ offset.toNat % 4 ≠ 0 →
      exec (.aliasWrite p .pcie offset width data) s = .next (s.modCommon p (fun c => (c.recordError .pcie offset.toNat width.toNat).emit (.completerAbort offset.toNat))))
  ∧ (∀ m : Master, (s.common p).writable m (ob 0x2101 1) = true → let c := (s.common p).renew m
      (∀ t ∈ c.takers, ¬ (t.m = m ∧ t.read = none)) →
      exec (.evtNext p m) s = .next (s.modCommon p (fun _ => ({ c with takers := c.takers ++ [⟨m, c.stroke + c.evtLimit, none⟩] } : Common).pumpLog)))
  ∧ (∀ m : Master, (s.common p).writable m (ob 0x2101 1) = true → let c := (s.common p).renew m
      (∃ t ∈ c.takers, t.m = m ∧ t.read = none) → exec (.evtNext p m) s = .next (s.modCommon p (fun _ => c)))

/-- Haoth frames are answered or counted as bad; relayed pieces are gathered; a lost relay is UNREACHABLE (R390, R391, R392, R393, R395, R403). -/
def Obligations.HaothAnswers : Prop := ∀ (s : State) (p : Part),
  let c := s.common p
  (∀ (mac : BitVec 48), c.inReset = false → exec (.haothBadFrame p mac) s = .next (s.modCommon p (fun c =>
      (c.count (ob 0x2000 0x13) 32 32 1).logLimited 0xB008 .uncorrected 0xFF 0 (packArg [(24, mac.toNat)]))))
  ∧ (∀ (r : HaothReq), c.inReset = false →
      let badFrame : State := s.modCommon p (fun c => (c.count (ob 0x2000 0x13) 32 32 1).logLimited 0xB008 .uncorrected 0xFF 0 (packArg [(24, r.src.toNat)]))
      (2 ^ 14 ≤ r.target.toNat ∨ r.count.toNat = 0 ∨ 64 < r.count.toNat → exec (.haothRead p r) s = .next badFrame)
      ∧ (∀ l, 2 ^ 14 ≤ r.target.toNat ∨ r.count.toNat = 0 ∨ 64 < r.count.toNat ∨ l.length ≠ r.count.toNat → exec (.haothWrite p r l) s = .next badFrame)
      ∧ (2 ^ 14 ≤ r.target.toNat ∨ r.count.toNat = 0 ∨ 23 < r.count.toNat → exec (.eventRead p r) s = .next badFrame))
  ∧ (∀ (r : HaothReq) (e : Nat × Nat × Out), c.inReset = false → r.target.toNat < 2 ^ 14 → 1 ≤ r.count.toNat → r.count.toNat ≤ 23 →
      c.kept.find? (fun e => e.1 == r.src.toNat && e.2.1 == r.tid.toNat) = some e →
      let again : State := s.modCommon p (fun c => c.emit e.2.2)
      exec (.haothRead p r) s = .next again ∧ exec (.eventRead p r) s = .next again ∧ (∀ l, l.length = r.count.toNat → exec (.haothWrite p r l) s = .next again))
  ∧ (∀ (r : HaothReq), c.inReset = false → c.kept.find? (fun e => e.1 == r.src.toNat && e.2.1 == r.tid.toNat) = none →
      (p = .oe36 ∧ r.target.toNat < 2 ^ 14) ∨ (p = .ox720 ∧ r.target.toNat < 2 ^ 13 ∧ r.target.toNat = s.blk.swId) →
      let key := ob r.index.toNat r.sub.toNat
      let route : ReplyTo := { src := r.src.toNat, tid := r.tid.toNat, via := none }
      let asField := c.renew .fieldBus
      let armed := fun (c : Common) (sch : Bool) => ({ c with armedAt := none, scheduled := sch, commitMaster := 0 } : Common)
      let status := fun (st : Nat) (t : State) => t.modCommon p (fun c => c.reply route 3 st 0 0 (leBytes 8 (t.view p (ob 0x2000 2)).toNat))
      (1 ≤ r.count.toNat → r.count.toNat ≤ 64 → c.takers = [] → (∀ i < r.count.toNat, c.serves (key + i) = true ∧ (findRow p (key + i)).isSome = true ∧ r.sub.toNat + i < 256) →
          exec (.haothRead p r) s = .next (s.modCommon p (fun c => c.reply route 1 hsOk r.count.toNat 0
            ((List.range r.count.toNat).map (fun i => leBytes 16 (s.readObj p .fieldBus (key + i)).toNat)).flatten)))
      ∧ (r.count.toNat = 1 → c.takers = [] → c.serves key = false ∨ (findRow p key).isNone = true →
          exec (.haothRead p r) s = .next (s.modCommon p (fun c => (c.recordError .fieldBus (slotOffset key % 2 ^ 28) 4).reply route 1 hsNoObject 0 0 [])))
      ∧ (∀ v : Obj, r.count.toNat = 1 →
          (s.writeStatus p .fieldBus key (BitVec.allOnes 128) v = hsOk → (s.mg p).lastWrite = none →
            exec (.haothWrite p r [v]) s = .next ((s.writeApply p .fieldBus key (BitVec.allOnes 128) v).modCommon p (fun c => c.reply route 2 hsOk 1 0 [])))
          ∧ (∀ st, s.writeStatus p .fieldBus key (BitVec.allOnes 128) v = st → st ≠ hsOk →
            exec (.haothWrite p r [v]) s = .next (s.modCommon p (fun c => (c.recordError .fieldBus (slotOffset key % 2 ^ 28) 4).reply route 2 st 0 0 []))))
      ∧ (∀ v w : Obj, r.count.toNat = 2 → r.sub.toNat < 255 → s.writeStatus p .fieldBus key (BitVec.allOnes 128) v = hsOk → (s.mg p).lastWrite = none →
          let t := s.writeApply p .fieldBus key (BitVec.allOnes 128) v
          ∀ st, t.writeStatus p .fieldBus (key + 1) (BitVec.allOnes 128) w = st → st ≠ hsOk →
          exec (.haothWrite p r [v, w]) s = .next (t.modCommon p (fun c => (c.recordError .fieldBus (slotOffset (key + 1) % 2 ^ 28) 4).reply route 2 st 1 0 [])))
      ∧ (1 ≤ r.count.toNat → r.count.toNat ≤ 23 → exec (.eventRead p r) s = .next (s.modCommon p (fun c =>
          ({ c with takers := c.takers ++ [⟨.fieldBus, c.stroke + c.evtLimit, some (route, r.count.toNat, [])⟩] } : Common).pumpLog)))
      ∧ (r.count.toNat = 0 → c.writable .fieldBus (ob 0x2000 0) = true → ∀ (group : BitVec 16) (at_ : BitVec 48),
          let d := (asField.setFld (ob 0x2000 1) 0 48 at_.toNat).setFld (ob 0x2000 1) 48 16 group.toNat
          (c.commitOpen = false → exec (.commitNow p (.frame r group at_)) s = .next (status hsOk (s.modCommon p (fun _ => (armed asField false).setFld (ob 0x2000 2) 0 3 1))))
          ∧ (c.commitOpen = true → exec (.commitAt p (.frame r group at_)) s = .next (status hsBusy s))
          ∧ (d.commitOpen = false → c.commitOpen = false → (s.mg p).annSeen.contains (d.commitGroup, d.catchAt) = false → d.stroke + d.catchGuard < d.catchAt →
              exec (.commitAt p (.frame r group at_)) s = .next (status hsOk (s.modCommon p (fun _ => (armed d true).setFld (ob 0x2000 2) 0 3 1))))
          ∧ (asField.commitState ≠ csChecking → (asField.commitState = csArmed → asField.scheduled = false) →
              exec (.commitAbort p (.frame r group at_)) s = .next (status hsOk ((s.modCommon p (fun _ =>
                ({ asField with shadowErr := [], armedAt := none, scheduled := false } : Common).setFld (ob 0x2000 2) 0 3 0)).modMg p (fun g => { g with shadow := [] }))))))
  ∧ (∀ (r : HaothReq), p = .ox720 → c.inReset = false → c.kept.find? (fun e => e.1 == r.src.toNat && e.2.1 == r.tid.toNat) = none → 1 ≤ r.count.toNat → r.count.toNat ≤ 64 →
      2 ^ 13 ≤ r.target.toNat → r.target.toNat < 2 ^ 14 →
      let id := r.target.toNat % 2 ^ 13
      let n := id % 128
      let own := id / 128 = s.blk.swRack ∧ n < 72 ∧ c.lstate n = lsActive
      (own → exec (.haothRead .ox720 r) s = .next (s.relayRequest 1 n r (leBytes 2 r.index.toNat ++ leBytes 1 r.sub.toNat ++ leBytes 1 0)))
      ∧ (¬ own → exec (.haothRead .ox720 r) s = .next (s.modCommon .ox720 (fun c => c.reply { src := r.src.toNat, tid := r.tid.toNat, via := none } 1 hsUnreachable 0 0 []))))
  ∧ (∀ (link : BitVec 7) (pk : Packet), c.up = true → pOpc pk = 0x3B →
      (p = .oe36 → classBad pk (linkNets .oe36 link.toNat) = true → exec (.mgmtData .oe36 link pk) s = .next (s.modCommon .oe36 (fun c => c.refuseHere link.toNat pk)))
      ∧ (mgPiece pk = 0 → mgLast pk = false → (p = .oe36 → classBad pk (linkNets .oe36 link.toNat) = false) →
          exec (.mgmtData p link pk) s = .next ((s.modCommon p (fun c => match p with | .oe36 => c.takeRx link.toNat pk | .ox720 => c.rxDrop (unitRx xpCox) pk)).modMg p (fun g =>
            { g with relayRx := g.relayRx.filter (fun e => !(e.1 == link.toNat && e.2.1 == mgMac pk)) ++ [(link.toNat, mgMac pk, slice pk.payload 0 256)] }))))
  ∧ (∀ (tid : BitVec 16) (src : BitVec 48) (op at_ : Nat) (r : List (Nat × Nat × Nat × Nat)), s.mgSw.relays = (tid.toNat, src.toNat, op, at_) :: r →
      (cclkMs ≤ (s.common .ox720).since at_ → exec (.relayTimeout tid src) s = .next { s with
        blk := { s.blk with sw := s.blk.sw.reply ⟨src.toNat, tid.toNat, none⟩ op hsUnreachable 0 0 [] }, mgSw := { s.mgSw with relays := r } })
      ∧ ((s.common .ox720).since at_ < cclkMs → exec (.relayTimeout tid src) s = .next s))

/-! ### Power and resets -/

/-- Resets are requested, wait for the ballast, act and end (R417, R418, R419). -/
def Obligations.ResetsTakeEffect : Prop := ∀ (b : Block) (p : Part),
  let c := b.common p
  let y := c.yieldToken
  (c.inReset = false → c.resetPending = none →
      Acts (.wrstN p) b (b.setCommon p { y with resetPending := some ⟨0, 1, 0, 0⟩ })
      ∧ Acts (.warmReset p) b (b.setCommon p { y with resetPending := some ⟨0, 2, 0, 0⟩ })
      ∧ (p = .ox720 → Acts .planeReset b { b with sw := { y with resetPending := some ⟨1, 4, 0, 0⟩ } } ∧ Acts .strokeReset b { b with sw := { y with resetPending := some ⟨2, 5, 0, 0⟩ } })
      ∧ (∀ (uk : BitVec 3) (u : BitVec 8), blockUnitOk p uk.toNat u.toNat = true → Acts (.blockReset p uk u) b (b.setCommon p { c with resetPending := some ⟨3, 6, uk.toNat, u.toNat⟩ })))
  ∧ (∀ (uk : BitVec 3) (u : BitVec 8), blockUnitOk p uk.toNat u.toNat = false → Acts (.blockReset p uk u) b b)
  ∧ (∀ o, c.inReset = false → c.isBow = false → c.resetPending = some o → o.kind ≤ 1 → p = .ox720 → Acts .planeReset b b)
  ∧ (∀ q, c.resetPending = some q → q.kind = 1 → p = .ox720 →
      Acts (.resetBallastDone .ox720) b (({ b with sw := ({ b.sw with resetPending := none, resetRunning := some q } : Common).noteReset q.cause } : Block).planeReset))
  ∧ (∀ q, c.resetPending = some q → q.kind = 2 → p = .ox720 →
      Acts (.resetBallastDone .ox720) b (({ b with sw := ({ b.sw with resetPending := none, resetRunning := some q } : Common).noteReset q.cause } : Block).strokeReset))
  ∧ (∀ q, c.resetPending = some q → q.kind = 3 →
      Acts (.resetBallastDone p) b ((b.setCommon p (({ c with resetPending := none, resetRunning := some q } : Common).noteReset q.cause)).blockReset p q.unitKind q.unit))
  ∧ (∀ q, c.resetRunning = some q → q.kind = 2 → p = .ox720 →
      let u : Block := { b with sw := { b.sw with resetRunning := none }, ox := { b.ox with eng := b.ox.eng.to b.idleState } };
      Acts (.resetDone .ox720) b { u.engineKick with sw := u.engineKick.sw.log 0xA004 .info 0xFF (packArg [(3, q.cause)]) })
  ∧ (∀ q, c.resetRunning = some q → q.kind = 0 → p = .oe36 →
      let d : Common := { c with resetRunning := none, inReset := false, booted := c.fwState == 2 };
      Acts (.resetDone .oe36) b (b.setCommon .oe36 (d.log 0xA004 .info 0xFF (packArg [(3, q.cause)]))))
  ∧ (∀ q, c.resetRunning = some q → 4 ≤ q.kind → Acts (.resetDone p) b b)

/-- Warm reset, power-on reset and a temperature trip reset the whole part and its cox core, and nothing of the other (R414, R417, R419, R420). -/
def Obligations.WholePartResets : Prop :=
  (∀ (s : State) (p : Part),
  (∀ q, (s.common p).resetPending = some q → q.kind = 0 → ∃ t, exec (.resetBallastDone p) s = .next t
      ∧ t.mg p = {} ∧ (∀ o, o ≠ p → t.mg o = s.mg o) ∧ t.pending = s.pending
      ∧ (t.common p).inReset = true ∧ (t.common p).resetRunning = some q ∧ (t.common p).resetPending = none ∧ (t.common p).stroke = 0
      ∧ (p = .oe36 → t.blk.oe = {} ∧ t.blk.ep.evtLog = [] ∧ t.blk.ep.links = []))
  ∧ (∀ straps : BitVec 8, ∃ t, exec (.porstN p straps) s = .next t
      ∧ t.mg p = {} ∧ (∀ o, o ≠ p → t.mg o = s.mg o) ∧ t.pending = s.pending
      ∧ (t.common p).booted = false ∧ (t.common p).inReset = false ∧ (t.common p).stroke = 0 ∧ (t.common p).evtLog = []
      ∧ (t.common p).fwState = 0 ∧ (t.common p).resetPending = none ∧ (t.common p).resetRunning = none
      ∧ (p = .oe36 → (t.common p).straps = straps.toNat % 128 ∧ t.blk.oe = {} ∧ t.blk.ox = s.blk.ox ∧ t.blk.sw = s.blk.sw)
      ∧ (p = .ox720 → (t.common p).straps = straps.toNat % 32
          ∧ t.blk.ox = { combSuitable := s.blk.ox.combSuitable, combFlags := s.blk.ox.combFlags, combRst := s.blk.ox.combRst, ssyncLow := s.blk.ox.ssyncLow } ∧ t.blk.oe = s.blk.oe ∧ t.blk.ep = s.blk.ep)))
  ∧ (∀ (s : State) (p : Part) (i : BitVec 4) (t : BitVec 16) (inj : Bool), let c := s.common p
  c.inReset = false → i.toNat < c.sensors → c.heats i.toNat inj = true → (if c.kind = .ox720 ∧ 12 ≤ i.toNat then c.tripC - 100 else c.tripC) ≤ tempOf t.toNat →
  ∃ u, exec (.tempTrip p i t inj) s = .next u
    ∧ u.mg p = {} ∧ (∀ o, o ≠ p → u.mg o = s.mg o) ∧ u.pending = s.pending
    ∧ (u.common p).inReset = true ∧ (u.common p).resetRunning = some ⟨4, 3, 0, 0⟩ ∧ (u.common p).up = false
    ∧ exec (.resetDone p) u = .next u)

/-- Rails, temperatures, PLLs, LOAD_ANN and the steps of the bring-up (R409, R411, R414, R420, R421). -/
def Obligations.PowerAndBringUp : Prop := ∀ (b : Block) (p : Part),
  let c := b.common p
  (∀ rail : BitVec 4, let r := rail.toNat
      (bitAt (railsUsed p) r = true → r ≠ 7 →
        Acts (.railGood p rail) b (b.setCommon p (c.setBit (ob 0xA001 0) r true))
        ∧ (let u := b.dropLinks p
           let d := ((u.common p).setBit (ob 0xA001 0) r false).log 0xA001 .fatal 0xFF (packArg [(4, r)]);
           Acts (.railFault p rail) b (u.setCommon p { d with inReset := true, booted := false, resetRunning := some ⟨4, 0, 0, 0⟩ })))
      ∧ (bitAt (railsUsed p) r = false → Acts (.railGood p rail) b b ∧ Acts (.railFault p rail) b b))
  ∧ (p = .ox720 → let d : Common := { (b.sw.setBit (ob 0xA001 0) 7 false).log 0xA001 .uncorrected 0xFF (packArg [(4, 7)]) with voptBad := true };
      Acts (.railFault .ox720 7) b (({ b with sw := d } : Block).lightChanged b.sw.isDark) ∧ Acts (.railGood .ox720 7) b { b with sw := { b.sw.setBit (ob 0xA001 0) 7 true with voptBad := false } })
  ∧ (c.inReset = false → ∀ (i : BitVec 4) (t : BitVec 16) (inj : Bool), i.toNat < c.sensors →
      let d := (if inj then c.injected 0xA0 else c).setFld (ob 0xA002 i.toNat) 0 16 t.toNat
      let limit := fun (x : Int) => if c.kind = .ox720 ∧ 12 ≤ i.toNat then x - 100 else x
      (c.heats i.toNat inj = true →
        (limit c.throttleC ≤ tempOf t.toNat → c.bit (ob 0xA001 0) 10 = false →
          Acts (.tempThrottle p i t inj) b (b.setCommon p ((d.setBit (ob 0xA001 0) 10 true).log 0xA002 .corrected 0xFF (packArg [(4, i.toNat), (16, t.toNat)]))))
        ∧ (tempOf t.toNat < limit c.throttleC ∨ c.bit (ob 0xA001 0) 10 = true → Acts (.tempThrottle p i t inj) b (b.setCommon p d))
        ∧ (tempOf t.toNat < limit c.tripC → Acts (.tempTrip p i t inj) b (b.setCommon p d)))
      ∧ (c.heats i.toNat inj = false → Acts (.tempThrottle p i t inj) b (b.setCommon p (c.undetected 0xA0 4 i.toNat inj)) ∧ Acts (.tempTrip p i t inj) b (b.setCommon p (c.undetected 0xA0 4 i.toNat inj))))
  ∧ (c.inReset = false → ∀ temps : List (BitVec 16),
      let d := (List.range (min c.sensors temps.length)).foldl (fun c i => c.setFld (ob 0xA002 i) 0 16 (temps.getD i 0).toNat) c
      let limit := fun (i : Nat) => if c.kind = .ox720 ∧ 12 ≤ i then c.throttleC - 100 else c.throttleC
      ((∀ i, i < c.sensors → tempOf (d.fld (ob 0xA002 i) 0 16) + 50 ≤ limit i) → Acts (.throttleRelease p temps) b (b.setCommon p (d.setBit (ob 0xA001 0) 10 false)))
      ∧ ((∃ i, i < c.sensors ∧ limit i < tempOf (d.fld (ob 0xA002 i) 0 16) + 50) → Acts (.throttleRelease p temps) b (b.setCommon p d)))
  ∧ (∀ which : BitVec 3, bitAt (locksUsed p) (which.toNat + 1) = true →
      Acts (.pllUnlock p which) b (b.setCommon p ((c.setBit (ob 0xA003 0) (which.toNat + 1) false).log 0xA005 .fatal 0xFF (packArg [(3, which.toNat)]))))
  ∧ (∀ e r, b.sw.inReset = false → b.ox.annPend = e :: r →
      (3500 ≤ b.sw.since e.2.1 → Acts .announceEffect b { b with ox := { b.ox with annEffect := e.1, annBase := e.2.2, annPend := r } })
      ∧ (b.sw.since e.2.1 < 3500 → Acts .announceEffect b b))
  ∧ (∀ m : Master, c.writable m (ob 0xA005 0) = true → let d := c.renew m
      (d.fwState = 0 → d.fld (ob 0xA005 0) 32 24 ≠ 0 → Acts (.fwGo p m) b (b.setCommon p (d.setFld (ob 0xA005 0) 0 2 1)))
      ∧ (d.fwState ≠ 0 ∨ d.fld (ob 0xA005 0) 32 24 = 0 → Acts (.fwGo p m) b (b.setCommon p d)))
  ∧ (c.inReset = false → c.fwState = 1 → ∀ digest : BitVec 384,
      Acts (.fwCheckDone p true digest) b (b.setCommon p (({ c with fwDigest := digest } : Common).setFld (ob 0xA005 0) 0 2 2))
      ∧ Acts (.fwCheckDone p false digest) b (b.setCommon p ((c.setFld (ob 0xA005 0) 0 2 0).log 0xA006 .uncorrected 0xFF (packArg [(24, c.fld (ob 0xA005 0) 32 24)]))))
  ∧ (c.inReset = false → c.booted = false → c.fwState = 2 →
      ∀ f : BitVec 104, (p = .oe36 → Acts (.bringupDone .oe36 f) b (b.setCommon .oe36 (({ c with booted := true } : Common).log 0xA007 .info 0xFF (packArg [(7, 0)]))))
      ∧ (p = .ox720 →
          let bad := (List.range 104).filter (fun q => bitAt f.toNat q)
          let u := bad.foldl (fun s q => s.fenceTile q) b
          Acts (.bringupDone .ox720 f) b { u with
            sw := ({ u.sw with booted := true } : Common).log 0xA007 .info 0xFF (packArg [(7, bad.length)])
            ox := { u.ox with bridgeDownAt := some u.sw.stroke, claimDue := true } }))
end

