-- ==== Sys2Proof/Laws/Bits.lean ====
section
/-!
SUPPORT. Laws of bit fields, of byte lists and of the sparse map: reading a field after writing one, reading a key after writing one, the canonical form.
-/
namespace Sys2Proof

/-! ### Bit fields -/

theorem setBits_getLsbD {n : Nat} (v : BitVec n) (lo w x i : Nat) (hi : i < n) :
    (setBits v lo w x).getLsbD i = if lo ≤ i ∧ i < lo + w then x.testBit (i - lo) else v.getLsbD i := by
  unfold setBits
  simp only [BitVec.getLsbD_or, BitVec.getLsbD_and, BitVec.getLsbD_not, BitVec.getLsbD_shiftLeft, BitVec.getLsbD_ofNat,
    Nat.testBit_two_pow_sub_one, Nat.testBit_mod_two_pow, hi, decide_true, Bool.true_and]
  by_cases h1 : i < lo
  · have : ¬ (lo ≤ i ∧ i < lo + w) := by omega
    simp [h1, this]
  · by_cases h2 : i < lo + w
    · have h3 : i - lo < n := by omega
      have h4 : i - lo < w := by omega
      have h5 : lo ≤ i ∧ i < lo + w := by omega
      simp [h1, h3, h4, h5]
    · have h4 : ¬ i - lo < w := by omega
      have h5 : ¬ (lo ≤ i ∧ i < lo + w) := by omega
      simp [h4, h5]

/-- A field reads as it was written. -/
theorem bitsOf_setBits {n : Nat} (v : BitVec n) (lo w x : Nat) (h : lo + w ≤ n) : bitsOf (setBits v lo w x) lo w = x % 2 ^ w := by
  apply Nat.eq_of_testBit_eq
  intro i
  rw [Nat.testBit_mod_two_pow, ← BitVec.getLsbD, BitVec.getLsbD_extractLsb']
  by_cases hi : i < w
  · have h1 : lo ≤ lo + i ∧ lo + i < lo + w := by omega
    rw [setBits_getLsbD _ _ _ _ _ (by omega), if_pos h1]
    simp [hi]
  · simp [hi]

/-- Writing one field leaves a field beside it. -/
theorem bitsOf_setBits_ne {n : Nat} (v : BitVec n) (lo w x lo' w' : Nat) (h : lo + w ≤ lo' ∨ lo' + w' ≤ lo) :
    bitsOf (setBits v lo w x) lo' w' = bitsOf v lo' w' := by
  apply Nat.eq_of_testBit_eq
  intro i
  rw [← BitVec.getLsbD, ← BitVec.getLsbD, BitVec.getLsbD_extractLsb', BitVec.getLsbD_extractLsb']
  by_cases hi : i < w'
  · by_cases hn : lo' + i < n
    · have h1 : ¬ (lo ≤ lo' + i ∧ lo' + i < lo + w) := by omega
      rw [setBits_getLsbD _ _ _ _ _ hn, if_neg h1]
    · rw [BitVec.getLsbD_of_ge _ _ (by omega), BitVec.getLsbD_of_ge _ _ (by omega)]
  · simp [hi]

theorem bitsOf_lt {n : Nat} (v : BitVec n) (lo w : Nat) : bitsOf v lo w < 2 ^ w := (v.extractLsb' lo w).isLt

theorem b2n_lt (b : Bool) : b2n b < 2 := by cases b <;> decide

/-! ### Byte lists -/

theorem slice_take (d r : List Byte) (n : Nat) (h : d.length = n) : slice (d ++ r) 0 n = d := by
  apply List.ext_getElem
  · simp [slice, h]
  · intro i h1 h2
    simp [slice, List.getElem?_append_left h2, List.getElem?_eq_getElem h2]

theorem leAt_leBytes (d : List Byte) (n : Nat) (h : n < 2 ^ 32) : leAt (d ++ leBytes 4 n) d.length 4 = n := by
  have e : slice (d ++ leBytes 4 n) d.length 4 = leBytes 4 n := by
    apply List.ext_getElem
    · simp [slice, leBytes]
    · intro i h1 h2
      have h3 : i < 4 := by simpa [leBytes] using h2
      simp [slice, leBytes, h3]
  rw [leAt, e]
  have r : List.range 4 = [0, 1, 2, 3] := by decide
  simp only [leBytes, r, List.map_cons, List.map_nil, leNat, BitVec.toNat_ofNat]
  omega

/-! ### The sparse map -/

namespace SMap
variable {α : Type} [DecidableEq α]

omit [DecidableEq α] in
theorem get_insert {d : α} (m : SMap α) (k j : Nat) (v : α) : get d (insert m k v) j = if k = j then v else get d m j := by
  induction m with
  | nil => simp [insert, get]
  | cons e r ih =>
    obtain ⟨a, w⟩ := e
    unfold insert
    split
    · simp [get]
    · split
      · rename_i h1 h2
        subst h2
        by_cases h : a = j <;> simp [get, h]
      · rename_i h1 h2
        by_cases h : a = j
        · have : ¬ k = j := by omega
          simp [get, h, this]
        · simp [get, h, ih]

omit [DecidableEq α] in
theorem get_drop {d : α} (m : SMap α) (k j : Nat) : get d (drop m k) j = if k = j then d else get d m j := by
  induction m with
  | nil => simp [drop, get]
  | cons e r ih =>
    obtain ⟨a, w⟩ := e
    unfold drop at ih ⊢
    by_cases h : a = k
    · subst h
      simp only [List.filter, bne_self_eq_false, ih, get]
      by_cases h2 : a = j <;> simp [h2]
    · have h1 : (a != k) = true := by simp [h]
      simp only [List.filter, h1, get, ih]
      by_cases h2 : a = j
      · have : ¬ k = j := by omega
        simp [h2, this]
      · simp [h2]

/-- Reading after writing: the written key holds the value, every other key what it held. -/
theorem get_set {d : α} (m : SMap α) (k j : Nat) (v : α) : get d (set d m k v) j = if k = j then v else get d m j := by
  unfold set
  by_cases h : v = d
  · rw [if_pos h, get_drop]; by_cases h2 : k = j <;> simp [h2, h]
  · rw [if_neg h, get_insert]

@[simp] theorem get_set_same {d : α} (m : SMap α) (k : Nat) (v : α) : get d (set d m k v) k = v := by simp [get_set]
theorem get_set_ne {d : α} (m : SMap α) (k j : Nat) (v : α) (h : k ≠ j) : get d (set d m k v) j = get d m j := by simp [get_set, h]

omit [DecidableEq α] in
theorem mem_insert (m : SMap α) (k : Nat) (v : α) (e : Nat × α) (h : e ∈ insert m k v) : e = (k, v) ∨ e ∈ m := by
  induction m with
  | nil => simpa [insert] using h
  | cons x r ih =>
    obtain ⟨a, w⟩ := x
    unfold insert at h
    split at h
    · exact List.mem_cons.mp h
    · split at h
      · rcases List.mem_cons.mp h with h | h
        · exact .inl h
        · exact .inr (List.mem_cons_of_mem _ h)
      · rcases List.mem_cons.mp h with h | h
        · exact .inr (h ▸ List.mem_cons_self)
        · exact (ih h).imp id (List.mem_cons_of_mem _)

theorem wf_insert {d : α} (m : SMap α) (k : Nat) (v : α) (hv : v ≠ d) (h : wf d m = true) : wf d (insert m k v) = true := by
  induction m with
  | nil => simp [insert, wf, hv]
  | cons x r ih =>
    obtain ⟨a, w⟩ := x
    simp only [wf, Bool.and_eq_true, List.all_eq_true, decide_eq_true_eq] at h
    obtain ⟨⟨h1, h2⟩, h3⟩ := h
    unfold insert
    split
    · rename_i hk
      simp only [wf, Bool.and_eq_true, List.all_eq_true, decide_eq_true_eq, List.mem_cons]
      refine ⟨⟨?_, hv⟩, ⟨h1, h2⟩, h3⟩
      rintro e (rfl | he)
      · exact hk
      · exact Nat.lt_trans hk (h1 e he)
    · split
      · rename_i h4 h5
        subst h5
        simp only [wf, Bool.and_eq_true, List.all_eq_true, decide_eq_true_eq]
        exact ⟨⟨h1, hv⟩, h3⟩
      · rename_i h4 h5
        simp only [wf, Bool.and_eq_true, List.all_eq_true, decide_eq_true_eq]
        refine ⟨⟨?_, h2⟩, ih h3⟩
        intro e he
        rcases mem_insert _ _ _ _ he with he | he
        · subst he; show a < k; omega
        · exact h1 e he

theorem wf_filter {d : α} (p : Nat × α → Bool) (m : SMap α) (h : wf d m = true) : wf d (m.filter p) = true := by
  induction m with
  | nil => rfl
  | cons x r ih =>
    obtain ⟨a, w⟩ := x
    simp only [wf, Bool.and_eq_true, List.all_eq_true, decide_eq_true_eq] at h
    obtain ⟨⟨h1, h2⟩, h3⟩ := h
    simp only [List.filter]
    split
    · simp only [wf, Bool.and_eq_true, List.all_eq_true, decide_eq_true_eq]
      exact ⟨⟨fun e he => h1 e (List.mem_filter.mp he).1, h2⟩, ih h3⟩
    · exact ih h3

/-- Writing keeps the canonical form. -/
theorem wf_set {d : α} (m : SMap α) (k : Nat) (v : α) (h : wf d m = true) : wf d (set d m k v) = true := by
  unfold set
  split
  · exact wf_filter _ _ h
  · rename_i hv; exact wf_insert m k v hv h

end SMap
end Sys2Proof
end

