-- ==== Sys2Proof/Laws/Log.lean ====
section
/-!
SUPPORT. What logging an event leaves alone: everything but the event log, its readers and what they are sent (17, R402 to R404).
-/
namespace Sys2Proof

namespace SMap
variable {α : Type}

theorem drop_insert (m : SMap α) (k : Nat) (v : α) : drop (insert m k v) k = drop m k := by
  induction m with
  | nil => simp [insert, drop]
  | cons e r ih =>
    obtain ⟨a, w⟩ := e
    unfold insert
    split
    · simp [drop]
    · split
      · rename_i h; subst h; simp [drop]
      · rename_i h1 h2
        have h3 : (a != k) = true := by simp [h2]
        simp only [drop, List.filter, h3] at ih ⊢
        rw [ih]

theorem drop_drop (m : SMap α) (k : Nat) : drop (drop m k) k = drop m k := by simp [drop]

theorem drop_comm (m : SMap α) (j k : Nat) : drop (drop m j) k = drop (drop m k) j := by
  simp only [drop, List.filter_filter]
  congr 1; funext x; exact Bool.and_comm _ _

theorem drop_set [DecidableEq α] {d : α} (m : SMap α) (k : Nat) (v : α) : drop (set d m k v) k = drop m k := by
  unfold set; split
  · exact drop_drop m k
  · exact drop_insert m k v

end SMap

namespace Machine

abbrev evtLostKey : Nat := ob 0x2101 2
abbrev evtFlagKey : Nat := ob 0x5300 0xB0
abbrev evtWaitKey : Nat := ob 0x5304 0xB0

/-- A part without its event log, the log's readers and what they are sent: what no event changes. -/
def Common.logless (c : Common) : Common :=
  { c with regs := SMap.drop (SMap.drop (SMap.drop c.regs evtLostKey) evtFlagKey) evtWaitKey, evtAbove := false, notifyAt := none,
           out := [], evtLog := [], evtPending := [], evtLost := 0, takers := [], holdF := {}, holdP := {}, evtReads := [], kept := [], txq := [], rates := [],
           evtHead := 0, evtMid := 0, evtRp := 0 }

/-- An operation leaves everything but the log alone. -/
def Common.SameButLog (c c' : Common) : Prop := c'.logless = c.logless

namespace Common
variable {c c' d : Common}

theorem SameButLog.refl (c : Common) : c.SameButLog c := rfl
theorem SameButLog.trans (h : c.SameButLog c') (h' : c'.SameButLog d) : c.SameButLog d := Eq.trans h' h

theorem dflt_of (h : c.SameButLog c') (k : Nat) : c'.dflt k = c.dflt k := by
  have h1 : c'.kind = c.kind := (congrArg Common.kind h : c'.logless.kind = c.logless.kind)
  have h2 : c'.straps = c.straps := (congrArg Common.straps h : c'.logless.straps = c.logless.straps)
  simp [dflt, h1, h2]

/-- Every object but the log's own reads as before. -/
theorem SameButLog.reg (h : c.SameButLog c') (k : Nat) (h1 : k ≠ evtLostKey) (h2 : k ≠ evtFlagKey) (h3 : k ≠ evtWaitKey) : c'.reg k = c.reg k := by
  have hr : c'.logless.regs = c.logless.regs := congrArg Common.regs h
  have hd := dflt_of h k
  have hg := congrArg (fun m => SMap.get (c.dflt k) m k) hr
  simp only [logless, SMap.get_drop, if_neg (Ne.symm h1), if_neg (Ne.symm h2), if_neg (Ne.symm h3)] at hg
  unfold Common.reg
  rw [hd]; exact hg

theorem setReg_logless_lost (c : Common) (v : Obj) : c.SameButLog (c.setReg evtLostKey v) := by
  simp only [SameButLog, logless, setReg, SMap.drop_set]
theorem setReg_logless_flag (c : Common) (v : Obj) : c.SameButLog (c.setReg evtFlagKey v) := by
  simp only [SameButLog, logless, setReg]
  rw [SMap.drop_comm (SMap.set _ _ _ _), SMap.drop_set, SMap.drop_comm c.regs evtFlagKey]
theorem setReg_logless_wait (c : Common) (v : Obj) : c.SameButLog (c.setReg evtWaitKey v) := by
  simp only [SameButLog, logless, setReg]
  rw [SMap.drop_comm (SMap.drop (SMap.set _ _ _ _) _), SMap.drop_comm (SMap.set _ _ _ _), SMap.drop_set,
    SMap.drop_comm (SMap.drop c.regs evtLostKey), SMap.drop_comm c.regs evtLostKey evtWaitKey]

theorem emit_same (c : Common) (o : Out) : c.SameButLog (c.emit o) := rfl

theorem fcoDrive_same (c old : Common) : c.SameButLog (c.fcoDrive old) := by
  unfold fcoDrive
  generalize List.range 8 = l
  suffices h : ∀ x : Common, c.SameButLog x → c.SameButLog (l.foldl (fun c' k =>
      if c.fcoLevel k == old.fcoLevel k then c' else c'.emit (.pin ("FCO" ++ toString k) (b2n (c.fcoLevel k)))) x) from h c rfl
  induction l with
  | nil => intro x h; exact h
  | cons a r ih =>
    intro x h
    simp only [List.foldl_cons]
    split
    · exact ih _ h
    · exact ih _ (h.trans (emit_same _ _))

theorem setAbove_same (c : Common) (b : Bool) : c.SameButLog (c.setAbove b) := by
  unfold setAbove
  split
  · rfl
  · refine SameButLog.trans ?_ (fcoDrive_same _ _)
    exact SameButLog.trans (c' := { c with evtAbove := b }) rfl (setReg_logless_flag _ _)

theorem notify_same (c : Common) (n : Nat) : c.SameButLog (c.notify n) := by
  unfold notify
  simp only []
  repeat' split
  all_goals rfl

theorem evtFlag_same (c : Common) : c.SameButLog c.evtFlag := by
  unfold evtFlag
  simp only []
  split
  · split
    · exact setAbove_same _ _
    · rfl
  · split
    · exact (setAbove_same _ _).trans (notify_same _ _)
    · rfl

theorem evtSettle_same (c : Common) : c.SameButLog c.evtSettle := by
  unfold evtSettle
  split <;> rfl

theorem place_same (c : Common) (r : BitVec 128) : c.SameButLog (c.place r) :=
  SameButLog.trans (c' := { c with evtLog := evtInsert c.evtLog r }) rfl ((evtSettle_same _).trans (evtFlag_same _))

theorem holdBack_same (c : Common) (r : BitVec 128) : c.SameButLog (c.holdBack r) := by
  unfold holdBack
  simp only []
  split
  · rfl
  · have h : c.SameButLog (({ c with evtLost := c.evtLost + 1 } : Common).count evtLostKey 0 32 1) :=
      SameButLog.trans (c' := { c with evtLost := c.evtLost + 1 }) rfl (setReg_logless_lost _ _)
    split
    · exact h
    · exact h.trans rfl

theorem drain_same (n : Nat) : ∀ c : Common, c.SameButLog (c.drain n) := by
  induction n with
  | zero => intro c; rfl
  | succ n ih =>
    intro c
    unfold drain
    split
    · rfl
    · split
      · rfl
      · refine SameButLog.trans ?_ (ih _)
        split
        · exact SameButLog.trans (c' := { c with evtPending := _, evtLost := 0 }) rfl (place_same _ _)
        · exact SameButLog.trans (c' := { c with evtPending := _ }) rfl (place_same _ _)

theorem sendReply_same (c : Common) (via : Option Nat) (o : Out) : c.SameButLog (c.sendReply via o) := by
  unfold sendReply
  split <;> rfl

theorem reply_same (c : Common) (r : ReplyTo) (op st n v : Nat) (b : List Byte) : c.SameButLog (c.reply r op st n v b) :=
  SameButLog.trans (c' := { c with kept := _ }) rfl (sendReply_same _ _ _)

theorem answerReads_same (c : Common) : c.SameButLog c.answerReads := by
  unfold answerReads
  generalize c.evtReads = l
  suffices h : ∀ x : Common, c.SameButLog x → c.SameButLog (l.foldl (fun c e =>
      c.reply e.1 1 e.2.2.2 e.2.2.1 0 ((List.range e.2.2.1).map (fun i => leBytes 16 (c.evtObject c.holdF (e.2.1 + i)))).flatten) x) from h _ rfl
  induction l with
  | nil => intro x h; exact h
  | cons a r ih => intro x h; exact ih _ (h.trans (reply_same _ _ _ _ _ _ _))

theorem give_same (c : Common) (m : Master) : c.SameButLog (c.give m) := by
  unfold give
  split
  · rfl
  · rename_i t _
    simp only []
    generalize (if c.evtHeld then [] else c.evtLog.take (min 4 c.evtReady)) = recs
    have h0 : c.SameButLog { c with evtLog := c.evtLog.drop recs.length, evtHead := c.evtHead - recs.length, evtRp := c.evtRp + (recs.length + 3) / 4, takers := eraseFirst (fun t => t.m == m) c.takers } := rfl
    have h1 := h0.trans ((evtSettle_same _).trans (evtFlag_same _))
    generalize Common.evtFlag _ = e at h1 ⊢
    have h2 := h1.trans (drain_same e.evtPending.length e)
    generalize e.drain e.evtPending.length = d at h2 ⊢
    split
    · exact h2.trans rfl
    · exact h2.trans (SameButLog.trans (c' := { d with holdF := _ }) rfl (answerReads_same _))
    · repeat' split
      all_goals first
        | exact h2.trans (reply_same _ _ _ _ _ _ _)
        | exact h2.trans rfl

theorem pumpTakes_same (n : Nat) : ∀ c : Common, c.SameButLog (c.pumpTakes n) := by
  induction n with
  | zero => intro c; rfl
  | succ n ih =>
    intro c
    unfold pumpTakes
    split
    · rfl
    · split
      · exact (give_same _ _).trans (ih _)
      · rfl

theorem pumpLog_same (c : Common) : c.SameButLog c.pumpLog := pumpTakes_same _ _

theorem limit_same (c : Common) (code key : Nat) : c.SameButLog (c.limit code key).2 := by
  unfold limit
  split
  · split <;> rfl
  · rfl

theorem enter_same (c : Common) (r : BitVec 128) : c.SameButLog (c.enter r) := by
  unfold enter
  split
  · exact (place_same _ _).trans (pumpLog_same _)
  · simp only []
    split
    · exact holdBack_same _ _
    · have h : c.SameButLog ((c.holdBack r).count evtWaitKey 32 32 1) := (holdBack_same _ _).trans (setReg_logless_wait _ _)
      have h2 := h.trans (limit_same _ 0x3004 0xB0)
      split
      · rename_i h3; rw [h3] at h2; exact h2.trans (holdBack_same _ _)
      · rename_i h3; rw [h3] at h2; exact h2

/-- Logging an event changes the log alone. -/
theorem log_same (c : Common) (code : Nat) (sev : Sev) (unit arg : Nat) : c.SameButLog (c.log code sev unit arg) := enter_same _ _

theorem logLimited_same (c : Common) (code : Nat) (sev : Sev) (unit key arg : Nat) : c.SameButLog (c.logLimited code sev unit key arg) := by
  unfold logLimited
  have h := limit_same c code key
  split
  · rename_i h2; rw [h2] at h; exact h.trans (log_same _ _ _ _ _)
  · rename_i h2; rw [h2] at h; exact h

/-! ### Field by field -/

theorem SameButLog.kind (h : c.SameButLog c') : c'.kind = c.kind := (congrArg Common.kind h : c'.logless.kind = c.logless.kind)
theorem SameButLog.straps (h : c.SameButLog c') : c'.straps = c.straps := (congrArg Common.straps h : c'.logless.straps = c.logless.straps)
theorem SameButLog.stroke (h : c.SameButLog c') : c'.stroke = c.stroke := (congrArg Common.stroke h : c'.logless.stroke = c.logless.stroke)
theorem SameButLog.running (h : c.SameButLog c') : c'.running = c.running := (congrArg Common.running h : c'.logless.running = c.logless.running)
theorem SameButLog.armedAt (h : c.SameButLog c') : c'.armedAt = c.armedAt := (congrArg Common.armedAt h : c'.logless.armedAt = c.logless.armedAt)
theorem SameButLog.scheduled (h : c.SameButLog c') : c'.scheduled = c.scheduled := (congrArg Common.scheduled h : c'.logless.scheduled = c.logless.scheduled)
theorem SameButLog.commitMaster (h : c.SameButLog c') : c'.commitMaster = c.commitMaster := (congrArg Common.commitMaster h : c'.logless.commitMaster = c.logless.commitMaster)
theorem SameButLog.ownerWrite (h : c.SameButLog c') : c'.ownerWrite = c.ownerWrite := (congrArg Common.ownerWrite h : c'.logless.ownerWrite = c.logless.ownerWrite)
theorem SameButLog.shadowErr (h : c.SameButLog c') : c'.shadowErr = c.shadowErr := (congrArg Common.shadowErr h : c'.logless.shadowErr = c.logless.shadowErr)
theorem SameButLog.parityErr (h : c.SameButLog c') : c'.parityErr = c.parityErr := (congrArg Common.parityErr h : c'.logless.parityErr = c.logless.parityErr)
theorem SameButLog.fci (h : c.SameButLog c') : c'.fci = c.fci := (congrArg Common.fci h : c'.logless.fci = c.logless.fci)
theorem SameButLog.links (h : c.SameButLog c') : c'.links = c.links := (congrArg Common.links h : c'.logless.links = c.logless.links)
theorem SameButLog.rx (h : c.SameButLog c') : c'.rx = c.rx := (congrArg Common.rx h : c'.logless.rx = c.logless.rx)
theorem SameButLog.sessions (h : c.SameButLog c') : c'.sessions = c.sessions := (congrArg Common.sessions h : c'.logless.sessions = c.logless.sessions)
theorem SameButLog.nextSession (h : c.SameButLog c') : c'.nextSession = c.nextSession := (congrArg Common.nextSession h : c'.logless.nextSession = c.logless.nextSession)
theorem SameButLog.spdmBusy (h : c.SameButLog c') : c'.spdmBusy = c.spdmBusy := (congrArg Common.spdmBusy h : c'.logless.spdmBusy = c.logless.spdmBusy)
theorem SameButLog.failedAt (h : c.SameButLog c') : c'.failedAt = c.failedAt := (congrArg Common.failedAt h : c'.logless.failedAt = c.logless.failedAt)
theorem SameButLog.autoRestarted (h : c.SameButLog c') : c'.autoRestarted = c.autoRestarted := (congrArg Common.autoRestarted h : c'.logless.autoRestarted = c.logless.autoRestarted)
theorem SameButLog.waiters (h : c.SameButLog c') : c'.waiters = c.waiters := (congrArg Common.waiters h : c'.logless.waiters = c.logless.waiters)
theorem SameButLog.injDone (h : c.SameButLog c') : c'.injDone = c.injDone := (congrArg Common.injDone h : c'.logless.injDone = c.logless.injDone)
theorem SameButLog.injSeen (h : c.SameButLog c') : c'.injSeen = c.injSeen := (congrArg Common.injSeen h : c'.logless.injSeen = c.logless.injSeen)
theorem SameButLog.announced (h : c.SameButLog c') : c'.announced = c.announced := (congrArg Common.announced h : c'.logless.announced = c.logless.announced)
theorem SameButLog.started (h : c.SameButLog c') : c'.started = c.started := (congrArg Common.started h : c'.logless.started = c.logless.started)
theorem SameButLog.masterKnown (h : c.SameButLog c') : c'.masterKnown = c.masterKnown := (congrArg Common.masterKnown h : c'.logless.masterKnown = c.logless.masterKnown)
theorem SameButLog.lastPulse (h : c.SameButLog c') : c'.lastPulse = c.lastPulse := (congrArg Common.lastPulse h : c'.logless.lastPulse = c.logless.lastPulse)
theorem SameButLog.booted (h : c.SameButLog c') : c'.booted = c.booted := (congrArg Common.booted h : c'.logless.booted = c.logless.booted)
theorem SameButLog.fwDigest (h : c.SameButLog c') : c'.fwDigest = c.fwDigest := (congrArg Common.fwDigest h : c'.logless.fwDigest = c.logless.fwDigest)
theorem SameButLog.inReset (h : c.SameButLog c') : c'.inReset = c.inReset := (congrArg Common.inReset h : c'.logless.inReset = c.logless.inReset)
theorem SameButLog.failed (h : c.SameButLog c') : c'.failed = c.failed := (congrArg Common.failed h : c'.logless.failed = c.logless.failed)
theorem SameButLog.voptBad (h : c.SameButLog c') : c'.voptBad = c.voptBad := (congrArg Common.voptBad h : c'.logless.voptBad = c.logless.voptBad)
theorem SameButLog.resetPending (h : c.SameButLog c') : c'.resetPending = c.resetPending := (congrArg Common.resetPending h : c'.logless.resetPending = c.logless.resetPending)
theorem SameButLog.resetRunning (h : c.SameButLog c') : c'.resetRunning = c.resetRunning := (congrArg Common.resetRunning h : c'.logless.resetRunning = c.logless.resetRunning)
theorem SameButLog.ctlDue (h : c.SameButLog c') : c'.ctlDue = c.ctlDue := (congrArg Common.ctlDue h : c'.logless.ctlDue = c.logless.ctlDue)
theorem SameButLog.vcorePeak (h : c.SameButLog c') : c'.vcorePeak = c.vcorePeak := (congrArg Common.vcorePeak h : c'.logless.vcorePeak = c.logless.vcorePeak)
theorem SameButLog.dynCur (h : c.SameButLog c') : c'.dynCur = c.dynCur := (congrArg Common.dynCur h : c'.logless.dynCur = c.logless.dynCur)
theorem SameButLog.schedCur (h : c.SameButLog c') : c'.schedCur = c.schedCur := (congrArg Common.schedCur h : c'.logless.schedCur = c.logless.schedCur)

@[simp] theorem log_kind (c : Common) (code : Nat) (sev : Sev) (unit arg : Nat) : (c.log code sev unit arg).kind = c.kind := (log_same c code sev unit arg).kind
@[simp] theorem logLimited_kind (c : Common) (code : Nat) (sev : Sev) (unit key arg : Nat) : (c.logLimited code sev unit key arg).kind = c.kind := (logLimited_same c code sev unit key arg).kind
@[simp] theorem log_straps (c : Common) (code : Nat) (sev : Sev) (unit arg : Nat) : (c.log code sev unit arg).straps = c.straps := (log_same c code sev unit arg).straps
@[simp] theorem logLimited_straps (c : Common) (code : Nat) (sev : Sev) (unit key arg : Nat) : (c.logLimited code sev unit key arg).straps = c.straps := (logLimited_same c code sev unit key arg).straps
@[simp] theorem log_stroke (c : Common) (code : Nat) (sev : Sev) (unit arg : Nat) : (c.log code sev unit arg).stroke = c.stroke := (log_same c code sev unit arg).stroke
@[simp] theorem logLimited_stroke (c : Common) (code : Nat) (sev : Sev) (unit key arg : Nat) : (c.logLimited code sev unit key arg).stroke = c.stroke := (logLimited_same c code sev unit key arg).stroke
@[simp] theorem log_running (c : Common) (code : Nat) (sev : Sev) (unit arg : Nat) : (c.log code sev unit arg).running = c.running := (log_same c code sev unit arg).running
@[simp] theorem logLimited_running (c : Common) (code : Nat) (sev : Sev) (unit key arg : Nat) : (c.logLimited code sev unit key arg).running = c.running := (logLimited_same c code sev unit key arg).running
@[simp] theorem log_armedAt (c : Common) (code : Nat) (sev : Sev) (unit arg : Nat) : (c.log code sev unit arg).armedAt = c.armedAt := (log_same c code sev unit arg).armedAt
@[simp] theorem logLimited_armedAt (c : Common) (code : Nat) (sev : Sev) (unit key arg : Nat) : (c.logLimited code sev unit key arg).armedAt = c.armedAt := (logLimited_same c code sev unit key arg).armedAt
@[simp] theorem log_scheduled (c : Common) (code : Nat) (sev : Sev) (unit arg : Nat) : (c.log code sev unit arg).scheduled = c.scheduled := (log_same c code sev unit arg).scheduled
@[simp] theorem logLimited_scheduled (c : Common) (code : Nat) (sev : Sev) (unit key arg : Nat) : (c.logLimited code sev unit key arg).scheduled = c.scheduled := (logLimited_same c code sev unit key arg).scheduled
@[simp] theorem log_commitMaster (c : Common) (code : Nat) (sev : Sev) (unit arg : Nat) : (c.log code sev unit arg).commitMaster = c.commitMaster := (log_same c code sev unit arg).commitMaster
@[simp] theorem logLimited_commitMaster (c : Common) (code : Nat) (sev : Sev) (unit key arg : Nat) : (c.logLimited code sev unit key arg).commitMaster = c.commitMaster := (logLimited_same c code sev unit key arg).commitMaster
@[simp] theorem log_ownerWrite (c : Common) (code : Nat) (sev : Sev) (unit arg : Nat) : (c.log code sev unit arg).ownerWrite = c.ownerWrite := (log_same c code sev unit arg).ownerWrite
@[simp] theorem logLimited_ownerWrite (c : Common) (code : Nat) (sev : Sev) (unit key arg : Nat) : (c.logLimited code sev unit key arg).ownerWrite = c.ownerWrite := (logLimited_same c code sev unit key arg).ownerWrite
@[simp] theorem log_shadowErr (c : Common) (code : Nat) (sev : Sev) (unit arg : Nat) : (c.log code sev unit arg).shadowErr = c.shadowErr := (log_same c code sev unit arg).shadowErr
@[simp] theorem logLimited_shadowErr (c : Common) (code : Nat) (sev : Sev) (unit key arg : Nat) : (c.logLimited code sev unit key arg).shadowErr = c.shadowErr := (logLimited_same c code sev unit key arg).shadowErr
@[simp] theorem log_parityErr (c : Common) (code : Nat) (sev : Sev) (unit arg : Nat) : (c.log code sev unit arg).parityErr = c.parityErr := (log_same c code sev unit arg).parityErr
@[simp] theorem logLimited_parityErr (c : Common) (code : Nat) (sev : Sev) (unit key arg : Nat) : (c.logLimited code sev unit key arg).parityErr = c.parityErr := (logLimited_same c code sev unit key arg).parityErr
@[simp] theorem log_fci (c : Common) (code : Nat) (sev : Sev) (unit arg : Nat) : (c.log code sev unit arg).fci = c.fci := (log_same c code sev unit arg).fci
@[simp] theorem logLimited_fci (c : Common) (code : Nat) (sev : Sev) (unit key arg : Nat) : (c.logLimited code sev unit key arg).fci = c.fci := (logLimited_same c code sev unit key arg).fci
@[simp] theorem log_links (c : Common) (code : Nat) (sev : Sev) (unit arg : Nat) : (c.log code sev unit arg).links = c.links := (log_same c code sev unit arg).links
@[simp] theorem logLimited_links (c : Common) (code : Nat) (sev : Sev) (unit key arg : Nat) : (c.logLimited code sev unit key arg).links = c.links := (logLimited_same c code sev unit key arg).links
@[simp] theorem log_rx (c : Common) (code : Nat) (sev : Sev) (unit arg : Nat) : (c.log code sev unit arg).rx = c.rx := (log_same c code sev unit arg).rx
@[simp] theorem logLimited_rx (c : Common) (code : Nat) (sev : Sev) (unit key arg : Nat) : (c.logLimited code sev unit key arg).rx = c.rx := (logLimited_same c code sev unit key arg).rx
@[simp] theorem log_sessions (c : Common) (code : Nat) (sev : Sev) (unit arg : Nat) : (c.log code sev unit arg).sessions = c.sessions := (log_same c code sev unit arg).sessions
@[simp] theorem logLimited_sessions (c : Common) (code : Nat) (sev : Sev) (unit key arg : Nat) : (c.logLimited code sev unit key arg).sessions = c.sessions := (logLimited_same c code sev unit key arg).sessions
@[simp] theorem log_nextSession (c : Common) (code : Nat) (sev : Sev) (unit arg : Nat) : (c.log code sev unit arg).nextSession = c.nextSession := (log_same c code sev unit arg).nextSession
@[simp] theorem logLimited_nextSession (c : Common) (code : Nat) (sev : Sev) (unit key arg : Nat) : (c.logLimited code sev unit key arg).nextSession = c.nextSession := (logLimited_same c code sev unit key arg).nextSession
@[simp] theorem log_spdmBusy (c : Common) (code : Nat) (sev : Sev) (unit arg : Nat) : (c.log code sev unit arg).spdmBusy = c.spdmBusy := (log_same c code sev unit arg).spdmBusy
@[simp] theorem logLimited_spdmBusy (c : Common) (code : Nat) (sev : Sev) (unit key arg : Nat) : (c.logLimited code sev unit key arg).spdmBusy = c.spdmBusy := (logLimited_same c code sev unit key arg).spdmBusy
@[simp] theorem log_failedAt (c : Common) (code : Nat) (sev : Sev) (unit arg : Nat) : (c.log code sev unit arg).failedAt = c.failedAt := (log_same c code sev unit arg).failedAt
@[simp] theorem logLimited_failedAt (c : Common) (code : Nat) (sev : Sev) (unit key arg : Nat) : (c.logLimited code sev unit key arg).failedAt = c.failedAt := (logLimited_same c code sev unit key arg).failedAt
@[simp] theorem log_autoRestarted (c : Common) (code : Nat) (sev : Sev) (unit arg : Nat) : (c.log code sev unit arg).autoRestarted = c.autoRestarted := (log_same c code sev unit arg).autoRestarted
@[simp] theorem logLimited_autoRestarted (c : Common) (code : Nat) (sev : Sev) (unit key arg : Nat) : (c.logLimited code sev unit key arg).autoRestarted = c.autoRestarted := (logLimited_same c code sev unit key arg).autoRestarted
@[simp] theorem log_waiters (c : Common) (code : Nat) (sev : Sev) (unit arg : Nat) : (c.log code sev unit arg).waiters = c.waiters := (log_same c code sev unit arg).waiters
@[simp] theorem logLimited_waiters (c : Common) (code : Nat) (sev : Sev) (unit key arg : Nat) : (c.logLimited code sev unit key arg).waiters = c.waiters := (logLimited_same c code sev unit key arg).waiters
@[simp] theorem log_injDone (c : Common) (code : Nat) (sev : Sev) (unit arg : Nat) : (c.log code sev unit arg).injDone = c.injDone := (log_same c code sev unit arg).injDone
@[simp] theorem logLimited_injDone (c : Common) (code : Nat) (sev : Sev) (unit key arg : Nat) : (c.logLimited code sev unit key arg).injDone = c.injDone := (logLimited_same c code sev unit key arg).injDone
@[simp] theorem log_injSeen (c : Common) (code : Nat) (sev : Sev) (unit arg : Nat) : (c.log code sev unit arg).injSeen = c.injSeen := (log_same c code sev unit arg).injSeen
@[simp] theorem logLimited_injSeen (c : Common) (code : Nat) (sev : Sev) (unit key arg : Nat) : (c.logLimited code sev unit key arg).injSeen = c.injSeen := (logLimited_same c code sev unit key arg).injSeen
@[simp] theorem log_announced (c : Common) (code : Nat) (sev : Sev) (unit arg : Nat) : (c.log code sev unit arg).announced = c.announced := (log_same c code sev unit arg).announced
@[simp] theorem logLimited_announced (c : Common) (code : Nat) (sev : Sev) (unit key arg : Nat) : (c.logLimited code sev unit key arg).announced = c.announced := (logLimited_same c code sev unit key arg).announced
@[simp] theorem log_started (c : Common) (code : Nat) (sev : Sev) (unit arg : Nat) : (c.log code sev unit arg).started = c.started := (log_same c code sev unit arg).started
@[simp] theorem logLimited_started (c : Common) (code : Nat) (sev : Sev) (unit key arg : Nat) : (c.logLimited code sev unit key arg).started = c.started := (logLimited_same c code sev unit key arg).started
@[simp] theorem log_masterKnown (c : Common) (code : Nat) (sev : Sev) (unit arg : Nat) : (c.log code sev unit arg).masterKnown = c.masterKnown := (log_same c code sev unit arg).masterKnown
@[simp] theorem logLimited_masterKnown (c : Common) (code : Nat) (sev : Sev) (unit key arg : Nat) : (c.logLimited code sev unit key arg).masterKnown = c.masterKnown := (logLimited_same c code sev unit key arg).masterKnown
@[simp] theorem log_lastPulse (c : Common) (code : Nat) (sev : Sev) (unit arg : Nat) : (c.log code sev unit arg).lastPulse = c.lastPulse := (log_same c code sev unit arg).lastPulse
@[simp] theorem logLimited_lastPulse (c : Common) (code : Nat) (sev : Sev) (unit key arg : Nat) : (c.logLimited code sev unit key arg).lastPulse = c.lastPulse := (logLimited_same c code sev unit key arg).lastPulse
@[simp] theorem log_booted (c : Common) (code : Nat) (sev : Sev) (unit arg : Nat) : (c.log code sev unit arg).booted = c.booted := (log_same c code sev unit arg).booted
@[simp] theorem logLimited_booted (c : Common) (code : Nat) (sev : Sev) (unit key arg : Nat) : (c.logLimited code sev unit key arg).booted = c.booted := (logLimited_same c code sev unit key arg).booted
@[simp] theorem log_fwDigest (c : Common) (code : Nat) (sev : Sev) (unit arg : Nat) : (c.log code sev unit arg).fwDigest = c.fwDigest := (log_same c code sev unit arg).fwDigest
@[simp] theorem logLimited_fwDigest (c : Common) (code : Nat) (sev : Sev) (unit key arg : Nat) : (c.logLimited code sev unit key arg).fwDigest = c.fwDigest := (logLimited_same c code sev unit key arg).fwDigest
@[simp] theorem log_inReset (c : Common) (code : Nat) (sev : Sev) (unit arg : Nat) : (c.log code sev unit arg).inReset = c.inReset := (log_same c code sev unit arg).inReset
@[simp] theorem logLimited_inReset (c : Common) (code : Nat) (sev : Sev) (unit key arg : Nat) : (c.logLimited code sev unit key arg).inReset = c.inReset := (logLimited_same c code sev unit key arg).inReset
@[simp] theorem log_failed (c : Common) (code : Nat) (sev : Sev) (unit arg : Nat) : (c.log code sev unit arg).failed = c.failed := (log_same c code sev unit arg).failed
@[simp] theorem logLimited_failed (c : Common) (code : Nat) (sev : Sev) (unit key arg : Nat) : (c.logLimited code sev unit key arg).failed = c.failed := (logLimited_same c code sev unit key arg).failed
@[simp] theorem log_voptBad (c : Common) (code : Nat) (sev : Sev) (unit arg : Nat) : (c.log code sev unit arg).voptBad = c.voptBad := (log_same c code sev unit arg).voptBad
@[simp] theorem logLimited_voptBad (c : Common) (code : Nat) (sev : Sev) (unit key arg : Nat) : (c.logLimited code sev unit key arg).voptBad = c.voptBad := (logLimited_same c code sev unit key arg).voptBad
@[simp] theorem log_resetPending (c : Common) (code : Nat) (sev : Sev) (unit arg : Nat) : (c.log code sev unit arg).resetPending = c.resetPending := (log_same c code sev unit arg).resetPending
@[simp] theorem logLimited_resetPending (c : Common) (code : Nat) (sev : Sev) (unit key arg : Nat) : (c.logLimited code sev unit key arg).resetPending = c.resetPending := (logLimited_same c code sev unit key arg).resetPending
@[simp] theorem log_resetRunning (c : Common) (code : Nat) (sev : Sev) (unit arg : Nat) : (c.log code sev unit arg).resetRunning = c.resetRunning := (log_same c code sev unit arg).resetRunning
@[simp] theorem log_ctlDue (c : Common) (code : Nat) (sev : Sev) (unit arg : Nat) : (c.log code sev unit arg).ctlDue = c.ctlDue := (log_same c code sev unit arg).ctlDue
@[simp] theorem log_vcorePeak (c : Common) (code : Nat) (sev : Sev) (unit arg : Nat) : (c.log code sev unit arg).vcorePeak = c.vcorePeak := (log_same c code sev unit arg).vcorePeak
@[simp] theorem log_dynCur (c : Common) (code : Nat) (sev : Sev) (unit arg : Nat) : (c.log code sev unit arg).dynCur = c.dynCur := (log_same c code sev unit arg).dynCur
@[simp] theorem log_schedCur (c : Common) (code : Nat) (sev : Sev) (unit arg : Nat) : (c.log code sev unit arg).schedCur = c.schedCur := (log_same c code sev unit arg).schedCur
@[simp] theorem logLimited_resetRunning (c : Common) (code : Nat) (sev : Sev) (unit key arg : Nat) : (c.logLimited code sev unit key arg).resetRunning = c.resetRunning := (logLimited_same c code sev unit key arg).resetRunning
@[simp] theorem logLimited_ctlDue (c : Common) (code : Nat) (sev : Sev) (unit key arg : Nat) : (c.logLimited code sev unit key arg).ctlDue = c.ctlDue := (logLimited_same c code sev unit key arg).ctlDue
@[simp] theorem logLimited_vcorePeak (c : Common) (code : Nat) (sev : Sev) (unit key arg : Nat) : (c.logLimited code sev unit key arg).vcorePeak = c.vcorePeak := (logLimited_same c code sev unit key arg).vcorePeak
@[simp] theorem logLimited_dynCur (c : Common) (code : Nat) (sev : Sev) (unit key arg : Nat) : (c.logLimited code sev unit key arg).dynCur = c.dynCur := (logLimited_same c code sev unit key arg).dynCur
@[simp] theorem logLimited_schedCur (c : Common) (code : Nat) (sev : Sev) (unit key arg : Nat) : (c.logLimited code sev unit key arg).schedCur = c.schedCur := (logLimited_same c code sev unit key arg).schedCur

/-- An object that is not the log's own reads as before an event. -/
theorem log_reg (c : Common) (code : Nat) (sev : Sev) (unit arg k : Nat) (h1 : k ≠ evtLostKey) (h2 : k ≠ evtFlagKey) (h3 : k ≠ evtWaitKey) :
    (c.log code sev unit arg).reg k = c.reg k := (log_same c code sev unit arg).reg k h1 h2 h3
theorem logLimited_reg (c : Common) (code : Nat) (sev : Sev) (unit key arg k : Nat) (h1 : k ≠ evtLostKey) (h2 : k ≠ evtFlagKey) (h3 : k ≠ evtWaitKey) :
    (c.logLimited code sev unit key arg).reg k = c.reg k := (logLimited_same c code sev unit key arg).reg k h1 h2 h3
theorem log_fld (c : Common) (code : Nat) (sev : Sev) (unit arg k lo w : Nat) (h1 : k ≠ evtLostKey) (h2 : k ≠ evtFlagKey) (h3 : k ≠ evtWaitKey) :
    (c.log code sev unit arg).fld k lo w = c.fld k lo w := by unfold fld; rw [log_reg _ _ _ _ _ _ h1 h2 h3]
theorem logLimited_fld (c : Common) (code : Nat) (sev : Sev) (unit key arg k lo w : Nat) (h1 : k ≠ evtLostKey) (h2 : k ≠ evtFlagKey) (h3 : k ≠ evtWaitKey) :
    (c.logLimited code sev unit key arg).fld k lo w = c.fld k lo w := by unfold fld; rw [logLimited_reg _ _ _ _ _ _ _ h1 h2 h3]
theorem log_bit (c : Common) (code : Nat) (sev : Sev) (unit arg k lo : Nat) (h1 : k ≠ evtLostKey) (h2 : k ≠ evtFlagKey) (h3 : k ≠ evtWaitKey) :
    (c.log code sev unit arg).bit k lo = c.bit k lo := by unfold bit; rw [log_fld _ _ _ _ _ _ _ _ h1 h2 h3]
theorem logLimited_bit (c : Common) (code : Nat) (sev : Sev) (unit key arg k lo : Nat) (h1 : k ≠ evtLostKey) (h2 : k ≠ evtFlagKey) (h3 : k ≠ evtWaitKey) :
    (c.logLimited code sev unit key arg).bit k lo = c.bit k lo := by unfold bit; rw [logLimited_fld _ _ _ _ _ _ _ _ _ h1 h2 h3]

end Common
end Machine
end Sys2Proof
end

