-- ==== Sys2Proof/Laws/State.lean ====
section
/-!
SUPPORT. Field by field, what the updates of the state change and what they leave: the two parts, the cox cores, objects and their fields.
-/
namespace Sys2Proof.Machine

/-! ### The units -/

@[simp] theorem Block.modEp_ep (s : Block) (f : Common → Common) : (s.modEp f).ep = f s.ep := rfl
@[simp] theorem Block.modEp_sw (s : Block) (f : Common → Common) : (s.modEp f).sw = s.sw := rfl
@[simp] theorem Block.modEp_oe (s : Block) (f : Common → Common) : (s.modEp f).oe = s.oe := rfl
@[simp] theorem Block.modEp_ox (s : Block) (f : Common → Common) : (s.modEp f).ox = s.ox := rfl
@[simp] theorem Block.modEp_free (s : Block) (f : Common → Common) : (s.modEp f).free = s.free := rfl
@[simp] theorem Block.modSw_ep (s : Block) (f : Common → Common) : (s.modSw f).ep = s.ep := rfl
@[simp] theorem Block.modSw_sw (s : Block) (f : Common → Common) : (s.modSw f).sw = f s.sw := rfl
@[simp] theorem Block.modSw_oe (s : Block) (f : Common → Common) : (s.modSw f).oe = s.oe := rfl
@[simp] theorem Block.modSw_ox (s : Block) (f : Common → Common) : (s.modSw f).ox = s.ox := rfl
@[simp] theorem Block.modSw_free (s : Block) (f : Common → Common) : (s.modSw f).free = s.free := rfl
@[simp] theorem Block.modOe_ep (s : Block) (f : Oe → Oe) : (s.modOe f).ep = s.ep := rfl
@[simp] theorem Block.modOe_sw (s : Block) (f : Oe → Oe) : (s.modOe f).sw = s.sw := rfl
@[simp] theorem Block.modOe_oe (s : Block) (f : Oe → Oe) : (s.modOe f).oe = f s.oe := rfl
@[simp] theorem Block.modOe_ox (s : Block) (f : Oe → Oe) : (s.modOe f).ox = s.ox := rfl
@[simp] theorem Block.modOe_free (s : Block) (f : Oe → Oe) : (s.modOe f).free = s.free := rfl
@[simp] theorem Block.modOx_ep (s : Block) (f : Ox → Ox) : (s.modOx f).ep = s.ep := rfl
@[simp] theorem Block.modOx_sw (s : Block) (f : Ox → Ox) : (s.modOx f).sw = s.sw := rfl
@[simp] theorem Block.modOx_oe (s : Block) (f : Ox → Ox) : (s.modOx f).oe = s.oe := rfl
@[simp] theorem Block.modOx_ox (s : Block) (f : Ox → Ox) : (s.modOx f).ox = f s.ox := rfl
@[simp] theorem Block.modOx_free (s : Block) (f : Ox → Ox) : (s.modOx f).free = s.free := rfl
@[simp] theorem Block.tick_ep (s : Block) : s.tick.ep = s.ep := rfl
@[simp] theorem Block.tick_sw (s : Block) : s.tick.sw = s.sw := rfl
@[simp] theorem Block.tick_oe (s : Block) : s.tick.oe = s.oe := rfl
@[simp] theorem Block.tick_ox (s : Block) : s.tick.ox = s.ox := rfl
@[simp] theorem Block.tick_free (s : Block) : s.tick.free = s.free + 1 := rfl

@[simp] theorem Block.common_oe36 (s : Block) : s.common .oe36 = s.ep := rfl
@[simp] theorem Block.common_ox720 (s : Block) : s.common .ox720 = s.sw := rfl
@[simp] theorem Block.modCommon_oe36 (s : Block) (f : Common → Common) : s.modCommon .oe36 f = s.modEp f := rfl
@[simp] theorem Block.modCommon_ox720 (s : Block) (f : Common → Common) : s.modCommon .ox720 f = s.modSw f := rfl
@[simp] theorem Block.modCommon_common (s : Block) (p : Part) (f : Common → Common) : (s.modCommon p f).common p = f (s.common p) := by cases p <;> rfl
theorem Block.modCommon_common_ne (s : Block) (p q : Part) (f : Common → Common) (h : q ≠ p) : (s.modCommon p f).common q = s.common q := by
  cases p <;> cases q <;> first | rfl | exact absurd rfl h
@[simp] theorem Block.modCommon_oe (s : Block) (p : Part) (f : Common → Common) : (s.modCommon p f).oe = s.oe := by cases p <;> rfl
@[simp] theorem Block.modCommon_ox (s : Block) (p : Part) (f : Common → Common) : (s.modCommon p f).ox = s.ox := by cases p <;> rfl
@[simp] theorem Block.modCommon_free (s : Block) (p : Part) (f : Common → Common) : (s.modCommon p f).free = s.free := by cases p <;> rfl

/-! ### The cox cores -/

@[simp] theorem State.on_blk (s : State) (f : Block → Block) : (s.on f).blk = f s.blk := rfl
@[simp] theorem State.on_mgEp (s : State) (f : Block → Block) : (s.on f).mgEp = s.mgEp := rfl
@[simp] theorem State.on_mgSw (s : State) (f : Block → Block) : (s.on f).mgSw = s.mgSw := rfl
@[simp] theorem State.on_pending (s : State) (f : Block → Block) : (s.on f).pending = s.pending := rfl
@[simp] theorem State.on_mg (s : State) (f : Block → Block) (p : Part) : (s.on f).mg p = s.mg p := by cases p <;> rfl
@[simp] theorem State.on_common (s : State) (f : Block → Block) (p : Part) : (s.on f).common p = (f s.blk).common p := rfl
@[simp] theorem State.mg_oe36 (s : State) : s.mg .oe36 = s.mgEp := rfl
@[simp] theorem State.mg_ox720 (s : State) : s.mg .ox720 = s.mgSw := rfl
@[simp] theorem State.setMg_blk (s : State) (p : Part) (m : Mgmt) : (s.setMg p m).blk = s.blk := by cases p <;> rfl
@[simp] theorem State.setMg_pending (s : State) (p : Part) (m : Mgmt) : (s.setMg p m).pending = s.pending := by cases p <;> rfl
@[simp] theorem State.setMg_mg (s : State) (p : Part) (m : Mgmt) : (s.setMg p m).mg p = m := by cases p <;> rfl
theorem State.setMg_mg_ne (s : State) (p q : Part) (m : Mgmt) (h : q ≠ p) : (s.setMg p m).mg q = s.mg q := by
  cases p <;> cases q <;> first | rfl | exact absurd rfl h
@[simp] theorem State.modMg_blk (s : State) (p : Part) (f : Mgmt → Mgmt) : (s.modMg p f).blk = s.blk := by cases p <;> rfl
@[simp] theorem State.modMg_pending (s : State) (p : Part) (f : Mgmt → Mgmt) : (s.modMg p f).pending = s.pending := by cases p <;> rfl
@[simp] theorem State.modMg_mg (s : State) (p : Part) (f : Mgmt → Mgmt) : (s.modMg p f).mg p = f (s.mg p) := by cases p <;> rfl
theorem State.modMg_mg_ne (s : State) (p q : Part) (f : Mgmt → Mgmt) (h : q ≠ p) : (s.modMg p f).mg q = s.mg q := by
  cases p <;> cases q <;> first | rfl | exact absurd rfl h
@[simp] theorem State.setMg_common (s : State) (p q : Part) (m : Mgmt) : (s.setMg p m).common q = s.common q := by cases p <;> rfl
@[simp] theorem State.modMg_common (s : State) (p q : Part) (f : Mgmt → Mgmt) : (s.modMg p f).common q = s.common q := by cases p <;> rfl
@[simp] theorem State.modCommon_common (s : State) (p : Part) (f : Common → Common) : (s.modCommon p f).common p = f (s.common p) := by cases p <;> rfl
theorem State.modCommon_common_ne (s : State) (p q : Part) (f : Common → Common) (h : q ≠ p) : (s.modCommon p f).common q = s.common q := by
  cases p <;> cases q <;> first | rfl | exact absurd rfl h
@[simp] theorem State.modCommon_mg (s : State) (p q : Part) (f : Common → Common) : (s.modCommon p f).mg q = s.mg q := by cases q <;> rfl
@[simp] theorem State.modCommon_pending (s : State) (p : Part) (f : Common → Common) : (s.modCommon p f).pending = s.pending := rfl
@[simp] theorem State.modCommon_blk (s : State) (p : Part) (f : Common → Common) : (s.modCommon p f).blk = s.blk.modCommon p f := rfl

/-- A command of the units answers a next state in which they have acted. -/
theorem State.act_eq (s : State) (f : Block → Block) : s.act f = .next { s with blk := f s.blk } := rfl

/-! ### Objects -/

namespace Common

@[simp] theorem setReg_kind (c : Common) (k : Nat) (v : Obj) : (c.setReg k v).kind = c.kind := rfl
@[simp] theorem setReg_straps (c : Common) (k : Nat) (v : Obj) : (c.setReg k v).straps = c.straps := rfl
@[simp] theorem setReg_stroke (c : Common) (k : Nat) (v : Obj) : (c.setReg k v).stroke = c.stroke := rfl
@[simp] theorem setReg_running (c : Common) (k : Nat) (v : Obj) : (c.setReg k v).running = c.running := rfl
@[simp] theorem setReg_armedAt (c : Common) (k : Nat) (v : Obj) : (c.setReg k v).armedAt = c.armedAt := rfl
@[simp] theorem setReg_scheduled (c : Common) (k : Nat) (v : Obj) : (c.setReg k v).scheduled = c.scheduled := rfl
@[simp] theorem setReg_commitMaster (c : Common) (k : Nat) (v : Obj) : (c.setReg k v).commitMaster = c.commitMaster := rfl
@[simp] theorem setReg_ownerWrite (c : Common) (k : Nat) (v : Obj) : (c.setReg k v).ownerWrite = c.ownerWrite := rfl
@[simp] theorem setReg_shadowErr (c : Common) (k : Nat) (v : Obj) : (c.setReg k v).shadowErr = c.shadowErr := rfl
@[simp] theorem setReg_parityErr (c : Common) (k : Nat) (v : Obj) : (c.setReg k v).parityErr = c.parityErr := rfl
@[simp] theorem setReg_evtLog (c : Common) (k : Nat) (v : Obj) : (c.setReg k v).evtLog = c.evtLog := rfl
@[simp] theorem setReg_evtPending (c : Common) (k : Nat) (v : Obj) : (c.setReg k v).evtPending = c.evtPending := rfl
@[simp] theorem setReg_evtLost (c : Common) (k : Nat) (v : Obj) : (c.setReg k v).evtLost = c.evtLost := rfl
@[simp] theorem setReg_evtAbove (c : Common) (k : Nat) (v : Obj) : (c.setReg k v).evtAbove = c.evtAbove := rfl
@[simp] theorem setReg_evtHead (c : Common) (k : Nat) (v : Obj) : (c.setReg k v).evtHead = c.evtHead := rfl
@[simp] theorem setReg_evtMid (c : Common) (k : Nat) (v : Obj) : (c.setReg k v).evtMid = c.evtMid := rfl
@[simp] theorem setReg_evtRp (c : Common) (k : Nat) (v : Obj) : (c.setReg k v).evtRp = c.evtRp := rfl
@[simp] theorem setReg_notifyAt (c : Common) (k : Nat) (v : Obj) : (c.setReg k v).notifyAt = c.notifyAt := rfl
@[simp] theorem setReg_holdF (c : Common) (k : Nat) (v : Obj) : (c.setReg k v).holdF = c.holdF := rfl
@[simp] theorem setReg_holdP (c : Common) (k : Nat) (v : Obj) : (c.setReg k v).holdP = c.holdP := rfl
@[simp] theorem setReg_takers (c : Common) (k : Nat) (v : Obj) : (c.setReg k v).takers = c.takers := rfl
@[simp] theorem setReg_evtReads (c : Common) (k : Nat) (v : Obj) : (c.setReg k v).evtReads = c.evtReads := rfl
@[simp] theorem setReg_fci (c : Common) (k : Nat) (v : Obj) : (c.setReg k v).fci = c.fci := rfl
@[simp] theorem setReg_rates (c : Common) (k : Nat) (v : Obj) : (c.setReg k v).rates = c.rates := rfl
@[simp] theorem setReg_kept (c : Common) (k : Nat) (v : Obj) : (c.setReg k v).kept = c.kept := rfl
@[simp] theorem setReg_links (c : Common) (k : Nat) (v : Obj) : (c.setReg k v).links = c.links := rfl
@[simp] theorem setReg_txq (c : Common) (k : Nat) (v : Obj) : (c.setReg k v).txq = c.txq := rfl
@[simp] theorem setReg_rx (c : Common) (k : Nat) (v : Obj) : (c.setReg k v).rx = c.rx := rfl
@[simp] theorem setReg_sessions (c : Common) (k : Nat) (v : Obj) : (c.setReg k v).sessions = c.sessions := rfl
@[simp] theorem setReg_nextSession (c : Common) (k : Nat) (v : Obj) : (c.setReg k v).nextSession = c.nextSession := rfl
@[simp] theorem setReg_spdmBusy (c : Common) (k : Nat) (v : Obj) : (c.setReg k v).spdmBusy = c.spdmBusy := rfl
@[simp] theorem setReg_failedAt (c : Common) (k : Nat) (v : Obj) : (c.setReg k v).failedAt = c.failedAt := rfl
@[simp] theorem setReg_autoRestarted (c : Common) (k : Nat) (v : Obj) : (c.setReg k v).autoRestarted = c.autoRestarted := rfl
@[simp] theorem setReg_waiters (c : Common) (k : Nat) (v : Obj) : (c.setReg k v).waiters = c.waiters := rfl
@[simp] theorem setReg_injDone (c : Common) (k : Nat) (v : Obj) : (c.setReg k v).injDone = c.injDone := rfl
@[simp] theorem setReg_injSeen (c : Common) (k : Nat) (v : Obj) : (c.setReg k v).injSeen = c.injSeen := rfl
@[simp] theorem setReg_announced (c : Common) (k : Nat) (v : Obj) : (c.setReg k v).announced = c.announced := rfl
@[simp] theorem setReg_started (c : Common) (k : Nat) (v : Obj) : (c.setReg k v).started = c.started := rfl
@[simp] theorem setReg_masterKnown (c : Common) (k : Nat) (v : Obj) : (c.setReg k v).masterKnown = c.masterKnown := rfl
@[simp] theorem setReg_lastPulse (c : Common) (k : Nat) (v : Obj) : (c.setReg k v).lastPulse = c.lastPulse := rfl
@[simp] theorem setReg_booted (c : Common) (k : Nat) (v : Obj) : (c.setReg k v).booted = c.booted := rfl
@[simp] theorem setReg_fwDigest (c : Common) (k : Nat) (v : Obj) : (c.setReg k v).fwDigest = c.fwDigest := rfl
@[simp] theorem setReg_inReset (c : Common) (k : Nat) (v : Obj) : (c.setReg k v).inReset = c.inReset := rfl
@[simp] theorem setReg_failed (c : Common) (k : Nat) (v : Obj) : (c.setReg k v).failed = c.failed := rfl
@[simp] theorem setReg_voptBad (c : Common) (k : Nat) (v : Obj) : (c.setReg k v).voptBad = c.voptBad := rfl
@[simp] theorem setReg_schedCur (c : Common) (k : Nat) (v : Obj) : (c.setReg k v).schedCur = c.schedCur := rfl
@[simp] theorem setReg_dynCur (c : Common) (k : Nat) (v : Obj) : (c.setReg k v).dynCur = c.dynCur := rfl
@[simp] theorem setReg_vcorePeak (c : Common) (k : Nat) (v : Obj) : (c.setReg k v).vcorePeak = c.vcorePeak := rfl
@[simp] theorem setReg_resetPending (c : Common) (k : Nat) (v : Obj) : (c.setReg k v).resetPending = c.resetPending := rfl
@[simp] theorem setReg_resetRunning (c : Common) (k : Nat) (v : Obj) : (c.setReg k v).resetRunning = c.resetRunning := rfl
@[simp] theorem setReg_ctlDue (c : Common) (k : Nat) (v : Obj) : (c.setReg k v).ctlDue = c.ctlDue := rfl
@[simp] theorem setReg_out (c : Common) (k : Nat) (v : Obj) : (c.setReg k v).out = c.out := rfl
@[simp] theorem setFld_kind (c : Common) (k lo w x : Nat) : (c.setFld k lo w x).kind = c.kind := rfl
@[simp] theorem setFld_straps (c : Common) (k lo w x : Nat) : (c.setFld k lo w x).straps = c.straps := rfl
@[simp] theorem setFld_stroke (c : Common) (k lo w x : Nat) : (c.setFld k lo w x).stroke = c.stroke := rfl
@[simp] theorem setFld_running (c : Common) (k lo w x : Nat) : (c.setFld k lo w x).running = c.running := rfl
@[simp] theorem setFld_armedAt (c : Common) (k lo w x : Nat) : (c.setFld k lo w x).armedAt = c.armedAt := rfl
@[simp] theorem setFld_scheduled (c : Common) (k lo w x : Nat) : (c.setFld k lo w x).scheduled = c.scheduled := rfl
@[simp] theorem setFld_commitMaster (c : Common) (k lo w x : Nat) : (c.setFld k lo w x).commitMaster = c.commitMaster := rfl
@[simp] theorem setFld_ownerWrite (c : Common) (k lo w x : Nat) : (c.setFld k lo w x).ownerWrite = c.ownerWrite := rfl
@[simp] theorem setFld_shadowErr (c : Common) (k lo w x : Nat) : (c.setFld k lo w x).shadowErr = c.shadowErr := rfl
@[simp] theorem setFld_parityErr (c : Common) (k lo w x : Nat) : (c.setFld k lo w x).parityErr = c.parityErr := rfl
@[simp] theorem setFld_evtLog (c : Common) (k lo w x : Nat) : (c.setFld k lo w x).evtLog = c.evtLog := rfl
@[simp] theorem setFld_evtPending (c : Common) (k lo w x : Nat) : (c.setFld k lo w x).evtPending = c.evtPending := rfl
@[simp] theorem setFld_evtLost (c : Common) (k lo w x : Nat) : (c.setFld k lo w x).evtLost = c.evtLost := rfl
@[simp] theorem setFld_evtAbove (c : Common) (k lo w x : Nat) : (c.setFld k lo w x).evtAbove = c.evtAbove := rfl
@[simp] theorem setFld_evtHead (c : Common) (k lo w x : Nat) : (c.setFld k lo w x).evtHead = c.evtHead := rfl
@[simp] theorem setFld_evtMid (c : Common) (k lo w x : Nat) : (c.setFld k lo w x).evtMid = c.evtMid := rfl
@[simp] theorem setFld_evtRp (c : Common) (k lo w x : Nat) : (c.setFld k lo w x).evtRp = c.evtRp := rfl
@[simp] theorem setFld_notifyAt (c : Common) (k lo w x : Nat) : (c.setFld k lo w x).notifyAt = c.notifyAt := rfl
@[simp] theorem setFld_holdF (c : Common) (k lo w x : Nat) : (c.setFld k lo w x).holdF = c.holdF := rfl
@[simp] theorem setFld_holdP (c : Common) (k lo w x : Nat) : (c.setFld k lo w x).holdP = c.holdP := rfl
@[simp] theorem setFld_takers (c : Common) (k lo w x : Nat) : (c.setFld k lo w x).takers = c.takers := rfl
@[simp] theorem setFld_evtReads (c : Common) (k lo w x : Nat) : (c.setFld k lo w x).evtReads = c.evtReads := rfl
@[simp] theorem setFld_fci (c : Common) (k lo w x : Nat) : (c.setFld k lo w x).fci = c.fci := rfl
@[simp] theorem setFld_rates (c : Common) (k lo w x : Nat) : (c.setFld k lo w x).rates = c.rates := rfl
@[simp] theorem setFld_kept (c : Common) (k lo w x : Nat) : (c.setFld k lo w x).kept = c.kept := rfl
@[simp] theorem setFld_links (c : Common) (k lo w x : Nat) : (c.setFld k lo w x).links = c.links := rfl
@[simp] theorem setFld_txq (c : Common) (k lo w x : Nat) : (c.setFld k lo w x).txq = c.txq := rfl
@[simp] theorem setFld_rx (c : Common) (k lo w x : Nat) : (c.setFld k lo w x).rx = c.rx := rfl
@[simp] theorem setFld_sessions (c : Common) (k lo w x : Nat) : (c.setFld k lo w x).sessions = c.sessions := rfl
@[simp] theorem setFld_nextSession (c : Common) (k lo w x : Nat) : (c.setFld k lo w x).nextSession = c.nextSession := rfl
@[simp] theorem setFld_spdmBusy (c : Common) (k lo w x : Nat) : (c.setFld k lo w x).spdmBusy = c.spdmBusy := rfl
@[simp] theorem setFld_failedAt (c : Common) (k lo w x : Nat) : (c.setFld k lo w x).failedAt = c.failedAt := rfl
@[simp] theorem setFld_autoRestarted (c : Common) (k lo w x : Nat) : (c.setFld k lo w x).autoRestarted = c.autoRestarted := rfl
@[simp] theorem setFld_waiters (c : Common) (k lo w x : Nat) : (c.setFld k lo w x).waiters = c.waiters := rfl
@[simp] theorem setFld_injDone (c : Common) (k lo w x : Nat) : (c.setFld k lo w x).injDone = c.injDone := rfl
@[simp] theorem setFld_injSeen (c : Common) (k lo w x : Nat) : (c.setFld k lo w x).injSeen = c.injSeen := rfl
@[simp] theorem setFld_announced (c : Common) (k lo w x : Nat) : (c.setFld k lo w x).announced = c.announced := rfl
@[simp] theorem setFld_started (c : Common) (k lo w x : Nat) : (c.setFld k lo w x).started = c.started := rfl
@[simp] theorem setFld_masterKnown (c : Common) (k lo w x : Nat) : (c.setFld k lo w x).masterKnown = c.masterKnown := rfl
@[simp] theorem setFld_lastPulse (c : Common) (k lo w x : Nat) : (c.setFld k lo w x).lastPulse = c.lastPulse := rfl
@[simp] theorem setFld_booted (c : Common) (k lo w x : Nat) : (c.setFld k lo w x).booted = c.booted := rfl
@[simp] theorem setFld_fwDigest (c : Common) (k lo w x : Nat) : (c.setFld k lo w x).fwDigest = c.fwDigest := rfl
@[simp] theorem setFld_inReset (c : Common) (k lo w x : Nat) : (c.setFld k lo w x).inReset = c.inReset := rfl
@[simp] theorem setFld_failed (c : Common) (k lo w x : Nat) : (c.setFld k lo w x).failed = c.failed := rfl
@[simp] theorem setFld_voptBad (c : Common) (k lo w x : Nat) : (c.setFld k lo w x).voptBad = c.voptBad := rfl
@[simp] theorem setFld_schedCur (c : Common) (k lo w x : Nat) : (c.setFld k lo w x).schedCur = c.schedCur := rfl
@[simp] theorem setFld_dynCur (c : Common) (k lo w x : Nat) : (c.setFld k lo w x).dynCur = c.dynCur := rfl
@[simp] theorem setFld_vcorePeak (c : Common) (k lo w x : Nat) : (c.setFld k lo w x).vcorePeak = c.vcorePeak := rfl
@[simp] theorem setFld_resetPending (c : Common) (k lo w x : Nat) : (c.setFld k lo w x).resetPending = c.resetPending := rfl
@[simp] theorem setFld_resetRunning (c : Common) (k lo w x : Nat) : (c.setFld k lo w x).resetRunning = c.resetRunning := rfl
@[simp] theorem setFld_ctlDue (c : Common) (k lo w x : Nat) : (c.setFld k lo w x).ctlDue = c.ctlDue := rfl
@[simp] theorem setFld_out (c : Common) (k lo w x : Nat) : (c.setFld k lo w x).out = c.out := rfl
@[simp] theorem setBit_kind (c : Common) (k lo : Nat) (b : Bool) : (c.setBit k lo b).kind = c.kind := rfl
@[simp] theorem setBit_straps (c : Common) (k lo : Nat) (b : Bool) : (c.setBit k lo b).straps = c.straps := rfl
@[simp] theorem setBit_stroke (c : Common) (k lo : Nat) (b : Bool) : (c.setBit k lo b).stroke = c.stroke := rfl
@[simp] theorem setBit_running (c : Common) (k lo : Nat) (b : Bool) : (c.setBit k lo b).running = c.running := rfl
@[simp] theorem setBit_armedAt (c : Common) (k lo : Nat) (b : Bool) : (c.setBit k lo b).armedAt = c.armedAt := rfl
@[simp] theorem setBit_scheduled (c : Common) (k lo : Nat) (b : Bool) : (c.setBit k lo b).scheduled = c.scheduled := rfl
@[simp] theorem setBit_commitMaster (c : Common) (k lo : Nat) (b : Bool) : (c.setBit k lo b).commitMaster = c.commitMaster := rfl
@[simp] theorem setBit_ownerWrite (c : Common) (k lo : Nat) (b : Bool) : (c.setBit k lo b).ownerWrite = c.ownerWrite := rfl
@[simp] theorem setBit_shadowErr (c : Common) (k lo : Nat) (b : Bool) : (c.setBit k lo b).shadowErr = c.shadowErr := rfl
@[simp] theorem setBit_parityErr (c : Common) (k lo : Nat) (b : Bool) : (c.setBit k lo b).parityErr = c.parityErr := rfl
@[simp] theorem setBit_evtLog (c : Common) (k lo : Nat) (b : Bool) : (c.setBit k lo b).evtLog = c.evtLog := rfl
@[simp] theorem setBit_evtPending (c : Common) (k lo : Nat) (b : Bool) : (c.setBit k lo b).evtPending = c.evtPending := rfl
@[simp] theorem setBit_evtLost (c : Common) (k lo : Nat) (b : Bool) : (c.setBit k lo b).evtLost = c.evtLost := rfl
@[simp] theorem setBit_evtAbove (c : Common) (k lo : Nat) (b : Bool) : (c.setBit k lo b).evtAbove = c.evtAbove := rfl
@[simp] theorem setBit_evtHead (c : Common) (k lo : Nat) (b : Bool) : (c.setBit k lo b).evtHead = c.evtHead := rfl
@[simp] theorem setBit_evtMid (c : Common) (k lo : Nat) (b : Bool) : (c.setBit k lo b).evtMid = c.evtMid := rfl
@[simp] theorem setBit_evtRp (c : Common) (k lo : Nat) (b : Bool) : (c.setBit k lo b).evtRp = c.evtRp := rfl
@[simp] theorem setBit_notifyAt (c : Common) (k lo : Nat) (b : Bool) : (c.setBit k lo b).notifyAt = c.notifyAt := rfl
@[simp] theorem setBit_holdF (c : Common) (k lo : Nat) (b : Bool) : (c.setBit k lo b).holdF = c.holdF := rfl
@[simp] theorem setBit_holdP (c : Common) (k lo : Nat) (b : Bool) : (c.setBit k lo b).holdP = c.holdP := rfl
@[simp] theorem setBit_takers (c : Common) (k lo : Nat) (b : Bool) : (c.setBit k lo b).takers = c.takers := rfl
@[simp] theorem setBit_evtReads (c : Common) (k lo : Nat) (b : Bool) : (c.setBit k lo b).evtReads = c.evtReads := rfl
@[simp] theorem setBit_fci (c : Common) (k lo : Nat) (b : Bool) : (c.setBit k lo b).fci = c.fci := rfl
@[simp] theorem setBit_rates (c : Common) (k lo : Nat) (b : Bool) : (c.setBit k lo b).rates = c.rates := rfl
@[simp] theorem setBit_kept (c : Common) (k lo : Nat) (b : Bool) : (c.setBit k lo b).kept = c.kept := rfl
@[simp] theorem setBit_links (c : Common) (k lo : Nat) (b : Bool) : (c.setBit k lo b).links = c.links := rfl
@[simp] theorem setBit_txq (c : Common) (k lo : Nat) (b : Bool) : (c.setBit k lo b).txq = c.txq := rfl
@[simp] theorem setBit_rx (c : Common) (k lo : Nat) (b : Bool) : (c.setBit k lo b).rx = c.rx := rfl
@[simp] theorem setBit_sessions (c : Common) (k lo : Nat) (b : Bool) : (c.setBit k lo b).sessions = c.sessions := rfl
@[simp] theorem setBit_nextSession (c : Common) (k lo : Nat) (b : Bool) : (c.setBit k lo b).nextSession = c.nextSession := rfl
@[simp] theorem setBit_spdmBusy (c : Common) (k lo : Nat) (b : Bool) : (c.setBit k lo b).spdmBusy = c.spdmBusy := rfl
@[simp] theorem setBit_failedAt (c : Common) (k lo : Nat) (b : Bool) : (c.setBit k lo b).failedAt = c.failedAt := rfl
@[simp] theorem setBit_autoRestarted (c : Common) (k lo : Nat) (b : Bool) : (c.setBit k lo b).autoRestarted = c.autoRestarted := rfl
@[simp] theorem setBit_waiters (c : Common) (k lo : Nat) (b : Bool) : (c.setBit k lo b).waiters = c.waiters := rfl
@[simp] theorem setBit_injDone (c : Common) (k lo : Nat) (b : Bool) : (c.setBit k lo b).injDone = c.injDone := rfl
@[simp] theorem setBit_injSeen (c : Common) (k lo : Nat) (b : Bool) : (c.setBit k lo b).injSeen = c.injSeen := rfl
@[simp] theorem setBit_announced (c : Common) (k lo : Nat) (b : Bool) : (c.setBit k lo b).announced = c.announced := rfl
@[simp] theorem setBit_started (c : Common) (k lo : Nat) (b : Bool) : (c.setBit k lo b).started = c.started := rfl
@[simp] theorem setBit_masterKnown (c : Common) (k lo : Nat) (b : Bool) : (c.setBit k lo b).masterKnown = c.masterKnown := rfl
@[simp] theorem setBit_lastPulse (c : Common) (k lo : Nat) (b : Bool) : (c.setBit k lo b).lastPulse = c.lastPulse := rfl
@[simp] theorem setBit_booted (c : Common) (k lo : Nat) (b : Bool) : (c.setBit k lo b).booted = c.booted := rfl
@[simp] theorem setBit_fwDigest (c : Common) (k lo : Nat) (b : Bool) : (c.setBit k lo b).fwDigest = c.fwDigest := rfl
@[simp] theorem setBit_inReset (c : Common) (k lo : Nat) (b : Bool) : (c.setBit k lo b).inReset = c.inReset := rfl
@[simp] theorem setBit_failed (c : Common) (k lo : Nat) (b : Bool) : (c.setBit k lo b).failed = c.failed := rfl
@[simp] theorem setBit_voptBad (c : Common) (k lo : Nat) (b : Bool) : (c.setBit k lo b).voptBad = c.voptBad := rfl
@[simp] theorem setBit_schedCur (c : Common) (k lo : Nat) (b : Bool) : (c.setBit k lo b).schedCur = c.schedCur := rfl
@[simp] theorem setBit_dynCur (c : Common) (k lo : Nat) (b : Bool) : (c.setBit k lo b).dynCur = c.dynCur := rfl
@[simp] theorem setBit_vcorePeak (c : Common) (k lo : Nat) (b : Bool) : (c.setBit k lo b).vcorePeak = c.vcorePeak := rfl
@[simp] theorem setBit_resetPending (c : Common) (k lo : Nat) (b : Bool) : (c.setBit k lo b).resetPending = c.resetPending := rfl
@[simp] theorem setBit_resetRunning (c : Common) (k lo : Nat) (b : Bool) : (c.setBit k lo b).resetRunning = c.resetRunning := rfl
@[simp] theorem setBit_ctlDue (c : Common) (k lo : Nat) (b : Bool) : (c.setBit k lo b).ctlDue = c.ctlDue := rfl
@[simp] theorem setBit_out (c : Common) (k lo : Nat) (b : Bool) : (c.setBit k lo b).out = c.out := rfl
@[simp] theorem count_kind (c : Common) (k lo w n : Nat) : (c.count k lo w n).kind = c.kind := rfl
@[simp] theorem count_straps (c : Common) (k lo w n : Nat) : (c.count k lo w n).straps = c.straps := rfl
@[simp] theorem count_stroke (c : Common) (k lo w n : Nat) : (c.count k lo w n).stroke = c.stroke := rfl
@[simp] theorem count_running (c : Common) (k lo w n : Nat) : (c.count k lo w n).running = c.running := rfl
@[simp] theorem count_armedAt (c : Common) (k lo w n : Nat) : (c.count k lo w n).armedAt = c.armedAt := rfl
@[simp] theorem count_scheduled (c : Common) (k lo w n : Nat) : (c.count k lo w n).scheduled = c.scheduled := rfl
@[simp] theorem count_commitMaster (c : Common) (k lo w n : Nat) : (c.count k lo w n).commitMaster = c.commitMaster := rfl
@[simp] theorem count_ownerWrite (c : Common) (k lo w n : Nat) : (c.count k lo w n).ownerWrite = c.ownerWrite := rfl
@[simp] theorem count_shadowErr (c : Common) (k lo w n : Nat) : (c.count k lo w n).shadowErr = c.shadowErr := rfl
@[simp] theorem count_parityErr (c : Common) (k lo w n : Nat) : (c.count k lo w n).parityErr = c.parityErr := rfl
@[simp] theorem count_evtLog (c : Common) (k lo w n : Nat) : (c.count k lo w n).evtLog = c.evtLog := rfl
@[simp] theorem count_evtPending (c : Common) (k lo w n : Nat) : (c.count k lo w n).evtPending = c.evtPending := rfl
@[simp] theorem count_evtLost (c : Common) (k lo w n : Nat) : (c.count k lo w n).evtLost = c.evtLost := rfl
@[simp] theorem count_evtAbove (c : Common) (k lo w n : Nat) : (c.count k lo w n).evtAbove = c.evtAbove := rfl
@[simp] theorem count_evtHead (c : Common) (k lo w n : Nat) : (c.count k lo w n).evtHead = c.evtHead := rfl
@[simp] theorem count_evtMid (c : Common) (k lo w n : Nat) : (c.count k lo w n).evtMid = c.evtMid := rfl
@[simp] theorem count_evtRp (c : Common) (k lo w n : Nat) : (c.count k lo w n).evtRp = c.evtRp := rfl
@[simp] theorem count_notifyAt (c : Common) (k lo w n : Nat) : (c.count k lo w n).notifyAt = c.notifyAt := rfl
@[simp] theorem count_holdF (c : Common) (k lo w n : Nat) : (c.count k lo w n).holdF = c.holdF := rfl
@[simp] theorem count_holdP (c : Common) (k lo w n : Nat) : (c.count k lo w n).holdP = c.holdP := rfl
@[simp] theorem count_takers (c : Common) (k lo w n : Nat) : (c.count k lo w n).takers = c.takers := rfl
@[simp] theorem count_evtReads (c : Common) (k lo w n : Nat) : (c.count k lo w n).evtReads = c.evtReads := rfl
@[simp] theorem count_fci (c : Common) (k lo w n : Nat) : (c.count k lo w n).fci = c.fci := rfl
@[simp] theorem count_rates (c : Common) (k lo w n : Nat) : (c.count k lo w n).rates = c.rates := rfl
@[simp] theorem count_kept (c : Common) (k lo w n : Nat) : (c.count k lo w n).kept = c.kept := rfl
@[simp] theorem count_links (c : Common) (k lo w n : Nat) : (c.count k lo w n).links = c.links := rfl
@[simp] theorem count_txq (c : Common) (k lo w n : Nat) : (c.count k lo w n).txq = c.txq := rfl
@[simp] theorem count_rx (c : Common) (k lo w n : Nat) : (c.count k lo w n).rx = c.rx := rfl
@[simp] theorem count_sessions (c : Common) (k lo w n : Nat) : (c.count k lo w n).sessions = c.sessions := rfl
@[simp] theorem count_nextSession (c : Common) (k lo w n : Nat) : (c.count k lo w n).nextSession = c.nextSession := rfl
@[simp] theorem count_spdmBusy (c : Common) (k lo w n : Nat) : (c.count k lo w n).spdmBusy = c.spdmBusy := rfl
@[simp] theorem count_failedAt (c : Common) (k lo w n : Nat) : (c.count k lo w n).failedAt = c.failedAt := rfl
@[simp] theorem count_autoRestarted (c : Common) (k lo w n : Nat) : (c.count k lo w n).autoRestarted = c.autoRestarted := rfl
@[simp] theorem count_waiters (c : Common) (k lo w n : Nat) : (c.count k lo w n).waiters = c.waiters := rfl
@[simp] theorem count_injDone (c : Common) (k lo w n : Nat) : (c.count k lo w n).injDone = c.injDone := rfl
@[simp] theorem count_injSeen (c : Common) (k lo w n : Nat) : (c.count k lo w n).injSeen = c.injSeen := rfl
@[simp] theorem count_announced (c : Common) (k lo w n : Nat) : (c.count k lo w n).announced = c.announced := rfl
@[simp] theorem count_started (c : Common) (k lo w n : Nat) : (c.count k lo w n).started = c.started := rfl
@[simp] theorem count_masterKnown (c : Common) (k lo w n : Nat) : (c.count k lo w n).masterKnown = c.masterKnown := rfl
@[simp] theorem count_lastPulse (c : Common) (k lo w n : Nat) : (c.count k lo w n).lastPulse = c.lastPulse := rfl
@[simp] theorem count_booted (c : Common) (k lo w n : Nat) : (c.count k lo w n).booted = c.booted := rfl
@[simp] theorem count_fwDigest (c : Common) (k lo w n : Nat) : (c.count k lo w n).fwDigest = c.fwDigest := rfl
@[simp] theorem count_inReset (c : Common) (k lo w n : Nat) : (c.count k lo w n).inReset = c.inReset := rfl
@[simp] theorem count_failed (c : Common) (k lo w n : Nat) : (c.count k lo w n).failed = c.failed := rfl
@[simp] theorem count_voptBad (c : Common) (k lo w n : Nat) : (c.count k lo w n).voptBad = c.voptBad := rfl
@[simp] theorem count_schedCur (c : Common) (k lo w n : Nat) : (c.count k lo w n).schedCur = c.schedCur := rfl
@[simp] theorem count_dynCur (c : Common) (k lo w n : Nat) : (c.count k lo w n).dynCur = c.dynCur := rfl
@[simp] theorem count_vcorePeak (c : Common) (k lo w n : Nat) : (c.count k lo w n).vcorePeak = c.vcorePeak := rfl
@[simp] theorem count_resetPending (c : Common) (k lo w n : Nat) : (c.count k lo w n).resetPending = c.resetPending := rfl
@[simp] theorem count_resetRunning (c : Common) (k lo w n : Nat) : (c.count k lo w n).resetRunning = c.resetRunning := rfl
@[simp] theorem count_ctlDue (c : Common) (k lo w n : Nat) : (c.count k lo w n).ctlDue = c.ctlDue := rfl
@[simp] theorem count_out (c : Common) (k lo w n : Nat) : (c.count k lo w n).out = c.out := rfl
@[simp] theorem emit_kind (c : Common) (o : Out) : (c.emit o).kind = c.kind := rfl
@[simp] theorem emit_straps (c : Common) (o : Out) : (c.emit o).straps = c.straps := rfl
@[simp] theorem emit_stroke (c : Common) (o : Out) : (c.emit o).stroke = c.stroke := rfl
@[simp] theorem emit_running (c : Common) (o : Out) : (c.emit o).running = c.running := rfl
@[simp] theorem emit_armedAt (c : Common) (o : Out) : (c.emit o).armedAt = c.armedAt := rfl
@[simp] theorem emit_scheduled (c : Common) (o : Out) : (c.emit o).scheduled = c.scheduled := rfl
@[simp] theorem emit_commitMaster (c : Common) (o : Out) : (c.emit o).commitMaster = c.commitMaster := rfl
@[simp] theorem emit_ownerWrite (c : Common) (o : Out) : (c.emit o).ownerWrite = c.ownerWrite := rfl
@[simp] theorem emit_shadowErr (c : Common) (o : Out) : (c.emit o).shadowErr = c.shadowErr := rfl
@[simp] theorem emit_parityErr (c : Common) (o : Out) : (c.emit o).parityErr = c.parityErr := rfl
@[simp] theorem emit_evtLog (c : Common) (o : Out) : (c.emit o).evtLog = c.evtLog := rfl
@[simp] theorem emit_evtPending (c : Common) (o : Out) : (c.emit o).evtPending = c.evtPending := rfl
@[simp] theorem emit_evtLost (c : Common) (o : Out) : (c.emit o).evtLost = c.evtLost := rfl
@[simp] theorem emit_evtAbove (c : Common) (o : Out) : (c.emit o).evtAbove = c.evtAbove := rfl
@[simp] theorem emit_evtHead (c : Common) (o : Out) : (c.emit o).evtHead = c.evtHead := rfl
@[simp] theorem emit_evtMid (c : Common) (o : Out) : (c.emit o).evtMid = c.evtMid := rfl
@[simp] theorem emit_evtRp (c : Common) (o : Out) : (c.emit o).evtRp = c.evtRp := rfl
@[simp] theorem emit_notifyAt (c : Common) (o : Out) : (c.emit o).notifyAt = c.notifyAt := rfl
@[simp] theorem emit_holdF (c : Common) (o : Out) : (c.emit o).holdF = c.holdF := rfl
@[simp] theorem emit_holdP (c : Common) (o : Out) : (c.emit o).holdP = c.holdP := rfl
@[simp] theorem emit_takers (c : Common) (o : Out) : (c.emit o).takers = c.takers := rfl
@[simp] theorem emit_evtReads (c : Common) (o : Out) : (c.emit o).evtReads = c.evtReads := rfl
@[simp] theorem emit_fci (c : Common) (o : Out) : (c.emit o).fci = c.fci := rfl
@[simp] theorem emit_rates (c : Common) (o : Out) : (c.emit o).rates = c.rates := rfl
@[simp] theorem emit_kept (c : Common) (o : Out) : (c.emit o).kept = c.kept := rfl
@[simp] theorem emit_links (c : Common) (o : Out) : (c.emit o).links = c.links := rfl
@[simp] theorem emit_txq (c : Common) (o : Out) : (c.emit o).txq = c.txq := rfl
@[simp] theorem emit_rx (c : Common) (o : Out) : (c.emit o).rx = c.rx := rfl
@[simp] theorem emit_sessions (c : Common) (o : Out) : (c.emit o).sessions = c.sessions := rfl
@[simp] theorem emit_nextSession (c : Common) (o : Out) : (c.emit o).nextSession = c.nextSession := rfl
@[simp] theorem emit_spdmBusy (c : Common) (o : Out) : (c.emit o).spdmBusy = c.spdmBusy := rfl
@[simp] theorem emit_failedAt (c : Common) (o : Out) : (c.emit o).failedAt = c.failedAt := rfl
@[simp] theorem emit_autoRestarted (c : Common) (o : Out) : (c.emit o).autoRestarted = c.autoRestarted := rfl
@[simp] theorem emit_waiters (c : Common) (o : Out) : (c.emit o).waiters = c.waiters := rfl
@[simp] theorem emit_injDone (c : Common) (o : Out) : (c.emit o).injDone = c.injDone := rfl
@[simp] theorem emit_injSeen (c : Common) (o : Out) : (c.emit o).injSeen = c.injSeen := rfl
@[simp] theorem emit_announced (c : Common) (o : Out) : (c.emit o).announced = c.announced := rfl
@[simp] theorem emit_started (c : Common) (o : Out) : (c.emit o).started = c.started := rfl
@[simp] theorem emit_masterKnown (c : Common) (o : Out) : (c.emit o).masterKnown = c.masterKnown := rfl
@[simp] theorem emit_lastPulse (c : Common) (o : Out) : (c.emit o).lastPulse = c.lastPulse := rfl
@[simp] theorem emit_booted (c : Common) (o : Out) : (c.emit o).booted = c.booted := rfl
@[simp] theorem emit_fwDigest (c : Common) (o : Out) : (c.emit o).fwDigest = c.fwDigest := rfl
@[simp] theorem emit_inReset (c : Common) (o : Out) : (c.emit o).inReset = c.inReset := rfl
@[simp] theorem emit_failed (c : Common) (o : Out) : (c.emit o).failed = c.failed := rfl
@[simp] theorem emit_voptBad (c : Common) (o : Out) : (c.emit o).voptBad = c.voptBad := rfl
@[simp] theorem emit_schedCur (c : Common) (o : Out) : (c.emit o).schedCur = c.schedCur := rfl
@[simp] theorem emit_dynCur (c : Common) (o : Out) : (c.emit o).dynCur = c.dynCur := rfl
@[simp] theorem emit_vcorePeak (c : Common) (o : Out) : (c.emit o).vcorePeak = c.vcorePeak := rfl
@[simp] theorem emit_resetPending (c : Common) (o : Out) : (c.emit o).resetPending = c.resetPending := rfl
@[simp] theorem emit_resetRunning (c : Common) (o : Out) : (c.emit o).resetRunning = c.resetRunning := rfl
@[simp] theorem emit_ctlDue (c : Common) (o : Out) : (c.emit o).ctlDue = c.ctlDue := rfl
@[simp] theorem emit_regs (c : Common) (o : Out) : (c.emit o).regs = c.regs := rfl
@[simp] theorem emit_out (c : Common) (o : Out) : (c.emit o).out = c.out ++ [o] := rfl
@[simp] theorem emit_reg (c : Common) (o : Out) (k : Nat) : (c.emit o).reg k = c.reg k := rfl
@[simp] theorem emit_fld (c : Common) (o : Out) (k lo w : Nat) : (c.emit o).fld k lo w = c.fld k lo w := rfl
@[simp] theorem emit_bit (c : Common) (o : Out) (k lo : Nat) : (c.emit o).bit k lo = c.bit k lo := rfl
@[simp] theorem setReg_dflt (c : Common) (k : Nat) (v : Obj) (j : Nat) : (c.setReg k v).dflt j = c.dflt j := rfl

/-- An object reads as it was written, every other one as before. -/
theorem reg_setReg (c : Common) (k j : Nat) (v : Obj) : (c.setReg k v).reg j = if k = j then v else c.reg j := by
  unfold reg
  show SMap.get (c.dflt j) (SMap.set (c.dflt k) c.regs k v) j = _
  by_cases h : k = j
  · subst h; simp
  · simp only [h, if_false]
    unfold SMap.set
    split
    · rw [SMap.get_drop]; simp [h]
    · rw [SMap.get_insert]; simp [h]

@[simp] theorem reg_setReg_same (c : Common) (k : Nat) (v : Obj) : (c.setReg k v).reg k = v := by simp [reg_setReg]
theorem reg_setReg_ne (c : Common) (k j : Nat) (v : Obj) (h : k ≠ j) : (c.setReg k v).reg j = c.reg j := by simp [reg_setReg, h]

theorem reg_setFld_ne (c : Common) (k j lo w x : Nat) (h : k ≠ j) : (c.setFld k lo w x).reg j = c.reg j := reg_setReg_ne _ _ _ _ h
theorem fld_setFld_ne (c : Common) (k j lo w x lo' w' : Nat) (h : k ≠ j) : (c.setFld k lo w x).fld j lo' w' = c.fld j lo' w' := by
  unfold fld; rw [reg_setFld_ne _ _ _ _ _ _ h]
theorem bit_setFld_ne (c : Common) (k j lo w x b : Nat) (h : k ≠ j) : (c.setFld k lo w x).bit j b = c.bit j b := by
  unfold bit; rw [fld_setFld_ne _ _ _ _ _ _ _ _ h]

/-- A field of an object reads as it was written. -/
theorem fld_setFld (c : Common) (k lo w x : Nat) (h : lo + w ≤ 128) : (c.setFld k lo w x).fld k lo w = x % 2 ^ w := by
  unfold fld setFld; rw [reg_setReg_same]; exact bitsOf_setBits _ _ _ _ h
/-- A field beside it is unchanged. -/
theorem fld_setFld_beside (c : Common) (k lo w x lo' w' : Nat) (h : lo + w ≤ lo' ∨ lo' + w' ≤ lo) : (c.setFld k lo w x).fld k lo' w' = c.fld k lo' w' := by
  unfold fld setFld; rw [reg_setReg_same]; exact bitsOf_setBits_ne _ _ _ _ _ _ h
theorem fld_lt (c : Common) (k lo w : Nat) : c.fld k lo w < 2 ^ w := bitsOf_lt _ _ _

theorem bit_setBit (c : Common) (k lo : Nat) (b : Bool) (h : lo < 128) : (c.setBit k lo b).bit k lo = b := by
  unfold bit setBit
  rw [fld_setFld _ _ _ _ _ (by omega)]
  cases b <;> rfl
theorem bit_setBit_beside (c : Common) (k lo lo' : Nat) (b : Bool) (h : lo ≠ lo') : (c.setBit k lo b).bit k lo' = c.bit k lo' := by
  unfold bit setBit
  rw [fld_setFld_beside _ _ _ _ _ _ _ (by omega)]
theorem fld_setBit_beside (c : Common) (k lo lo' w' : Nat) (b : Bool) (h : lo + 1 ≤ lo' ∨ lo' + w' ≤ lo) : (c.setBit k lo b).fld k lo' w' = c.fld k lo' w' :=
  fld_setFld_beside _ _ _ _ _ _ _ h
theorem bit_setFld_beside (c : Common) (k lo w x b : Nat) (h : lo + w ≤ b ∨ b < lo) : (c.setFld k lo w x).bit k b = c.bit k b := by
  unfold bit; rw [fld_setFld_beside _ _ _ _ _ _ _ (by omega)]
theorem reg_setBit_ne (c : Common) (k j lo : Nat) (b : Bool) (h : k ≠ j) : (c.setBit k lo b).reg j = c.reg j := reg_setReg_ne _ _ _ _ h
theorem fld_setBit_ne (c : Common) (k j lo lo' w' : Nat) (b : Bool) (h : k ≠ j) : (c.setBit k lo b).fld j lo' w' = c.fld j lo' w' :=
  fld_setFld_ne _ _ _ _ _ _ _ _ h
theorem bit_setBit_ne (c : Common) (k j lo lo' : Nat) (b : Bool) (h : k ≠ j) : (c.setBit k lo b).bit j lo' = c.bit j lo' := bit_setFld_ne _ _ _ _ _ _ _ h

/-- A counter gains, and stays at its maximum. -/
theorem fld_count (c : Common) (k lo w n : Nat) (h : lo + w ≤ 128) : (c.count k lo w n).fld k lo w = min (c.fld k lo w + n) (2 ^ w - 1) := by
  unfold count
  rw [fld_setFld _ _ _ _ _ h]
  unfold satAdd
  have : 0 < 2 ^ w := Nat.two_pow_pos w
  exact Nat.mod_eq_of_lt (by omega)
theorem fld_count_beside (c : Common) (k lo w n lo' w' : Nat) (h : lo + w ≤ lo' ∨ lo' + w' ≤ lo) : (c.count k lo w n).fld k lo' w' = c.fld k lo' w' :=
  fld_setFld_beside _ _ _ _ _ _ _ h
theorem reg_count_ne (c : Common) (k j lo w n : Nat) (h : k ≠ j) : (c.count k lo w n).reg j = c.reg j := reg_setReg_ne _ _ _ _ h
theorem fld_count_ne (c : Common) (k j lo w n lo' w' : Nat) (h : k ≠ j) : (c.count k lo w n).fld j lo' w' = c.fld j lo' w' :=
  fld_setFld_ne _ _ _ _ _ _ _ _ h
theorem bit_count_ne (c : Common) (k j lo w n b : Nat) (h : k ≠ j) : (c.count k lo w n).bit j b = c.bit j b := bit_setFld_ne _ _ _ _ _ _ _ h

end Common
end Sys2Proof.Machine
end

