-- ==== Sys2Proof/Laws/Commands.lean ====
section
/-!
SUPPORT. Commands that the units alone decide: how to show what one does, management writes that nothing refuses, and the pumps that have nothing to do.
-/
namespace Sys2Proof.Machine

/-! ### From a function of the units to a command -/

theorem acts {i : Instr} {f : Block → Block} {b b' : Block} (hc : ∀ s, exec i s = s.act f) (h : f b = b') : Acts i b b' := by
  intro s hs; subst hs; subst h; exact hc s

theorem serves_up {c : Common} {k : Nat} (h : c.serves k = true) : c.inReset = false := by
  unfold Common.serves at h; simp at h; exact h.1

theorem mgmtWrite_ok (b : Block) (p : Part) (m : Master) (key : Nat) (f : Block → Block) (h : (b.common p).writable m key = true) :
    b.mgmtWrite p m key f = f (b.modCommon p (fun c => c.renew m)) := by
  unfold Common.writable at h
  have h1 : (b.common p).serves key = true := by revert h; cases (b.common p).serves key <;> simp
  have h2 := serves_up h1
  unfold Block.mgmtWrite
  simp only [h2, h]
  simp

theorem mgmtWrite_oe (b : Block) (m : Master) (key : Nat) (f : Block → Block) (h : b.ep.writable m key = true) :
    b.mgmtWrite .oe36 m key f = f { b with ep := b.ep.renew m } := mgmtWrite_ok b .oe36 m key f h

theorem mgmtWrite_ox (b : Block) (m : Master) (key : Nat) (f : Block → Block) (h : b.sw.writable m key = true) :
    b.mgmtWrite .ox720 m key f = f { b with sw := b.sw.renew m } := mgmtWrite_ok b .ox720 m key f h

theorem renew_reg (c : Common) (m : Master) (k : Nat) : (c.renew m).reg k = c.reg k := by unfold Common.renew; split <;> rfl

theorem renew_fld (c : Common) (m : Master) (k lo w : Nat) : (c.renew m).fld k lo w = c.fld k lo w := by unfold Common.fld; rw [renew_reg]

theorem renew_bit (c : Common) (m : Master) (k lo : Nat) : (c.renew m).bit k lo = c.bit k lo := by unfold Common.bit; rw [renew_fld]

theorem homePump_nil (s : Block) (h : s.oe.hops = []) : s.homePump = s := by simp [Block.homePump, h]

theorem transmit_hops (s : Block) (d p k) : (s.transmit d p k).oe.hops = s.oe.hops := by unfold Block.transmit; split; rfl; split <;> rfl

theorem respond_hops (s : Block) (d p) : (s.respond d p).oe.hops = s.oe.hops := by unfold Block.respond; exact transmit_hops _ _ _ _

theorem dedupWrite_hops (s : Block) (p x o) : (s.dedupWrite p x o).oe.hops = s.oe.hops := by
  unfold Block.dedupWrite; split
  · simp only [Block.memPost, Block.memWrite, Block.modOe, Block.modEp]
  · rfl

theorem dedupWrite_epId (s : Block) (p x o) : (s.dedupWrite p x o).epId = s.epId := by
  unfold Block.dedupWrite; split
  · simp only [Block.memPost, Block.memWrite, Block.modOe, Block.modEp, Block.epId, Common.fld, Common.reg, Common.emit, Common.dflt]
  · rfl

theorem lsPump_nil (s : Block) (h : s.oe.ls = []) : s.lsPump = s := by simp [Block.lsPump, h]

theorem runsPump_nil (s : Block) (h : s.oe.runs = []) : s.runsPump = s := by simp [Block.runsPump, h]

theorem headPump_nil (s : Block) (q k : Nat) (h : (s.queue q).fetched = []) : s.headPump q k = s := by
  cases k <;> simp [Block.headPump, h]

@[simp] theorem link_modLink (c : Common) (k : Nat) (f : Link → Link) : (c.modLink k f).link k = f (c.link k) := by
  simp [Common.link, Common.modLink, SMap.modify]

@[simp] theorem lstate_modLink (c : Common) (k j : Nat) (f : Link → Link) : (c.modLink k f).lstate j = c.lstate j := rfl

@[simp] theorem common_setCommon (b : Block) (p : Part) (c : Common) : (b.setCommon p c).common p = c := by cases p <;> rfl

theorem modLink_congr {c : Common} {k : Nat} {f g : Link → Link} (h : f (c.link k) = g (c.link k)) : c.modLink k f = c.modLink k g := by
  unfold Common.modLink SMap.modify
  have : f (SMap.get {} c.links k) = g (SMap.get {} c.links k) := h
  rw [this]

theorem setCommon_self (b : Block) (p : Part) (f : Common → Common) : b.modCommon p f = b.setCommon p (f (b.common p)) := rfl

theorem setCommon_twice (b : Block) (p : Part) (c d : Common) : (b.setCommon p c).setCommon p d = b.setCommon p d := by cases p <;> rfl

@[simp] theorem link_setFld (c : Common) (k lo w x j : Nat) : (c.setFld k lo w x).link j = c.link j := rfl

@[simp] theorem link_count (c : Common) (k lo w x j : Nat) : (c.count k lo w x).link j = c.link j := rfl

theorem SMap_insert_insert {α} (m : SMap α) (k : Nat) (v w : α) : SMap.insert (SMap.insert m k v) k w = SMap.insert m k w := by
  induction m with
  | nil => simp [SMap.insert]
  | cons e r ih =>
    obtain ⟨j, u⟩ := e
    by_cases h1 : k < j
    · simp [h1, SMap.insert]
    · by_cases h2 : j = k
      · simp [h2, SMap.insert]
      · simp only [SMap.insert, if_neg h1, if_neg h2, ih]

theorem SMap_set_set {α} [DecidableEq α] {d : α} (m : SMap α) (k : Nat) (v w : α) (h : v ≠ d) : SMap.set d (SMap.set d m k v) k w = SMap.set d m k w := by
  unfold SMap.set
  rw [if_neg h]
  split
  · exact SMap.drop_insert m k v
  · exact SMap_insert_insert m k v w

/-- A packet that the home hears meets what its opcode does. -/
theorem atEp_hears (b : Block) (opc : Nat) (via : Via) (p : Packet) (f : Block → Block) (hh : b.homeHears via p) (ho : pOpc p = opc) :
    b.atEp opc via p f = f b := by
  unfold Block.atEp
  rw [if_neg (by rw [hh.1, ho]; simp)]
  cases via with
  | plane k => simp only [hh.2 k rfl, Bool.false_eq_true, if_false]
  | selfServed => rfl

/-- A packet over a link that fails checks 1 and 2 is refused. -/
theorem atEp_bad (b : Block) (k : BitVec 4) (p : Packet) (hr : b.ep.inReset = false) (hb : classBad p (linkNets .oe36 k.toNat) = true) (opc : Nat) (f : Block → Block) (ho : pOpc p = opc) :
    b.atEp opc (.plane k) p f = { b with ep := b.ep.refuseHere k.toNat p } := by
  unfold Block.atEp
  rw [if_neg (by rw [hr, ho]; simp)]
  simp only [hb, if_true]; rfl

theorem modCommon_twice (s : State) (p : Part) (f g : Common → Common) : (s.modCommon p f).modCommon p g = s.modCommon p (fun c => g (f c)) := by cases p <;> rfl

theorem modCommon_const (s : State) (p : Part) (f : Common → Common) : s.modCommon p f = s.modCommon p (fun _ => f (s.common p)) := by cases p <;> rfl

theorem common_modCommon (s : State) (p : Part) (f : Common → Common) : (s.modCommon p f).common p = f (s.common p) := by cases p <;> rfl

theorem mg_modCommon (s : State) (p q : Part) (f : Common → Common) : (s.modCommon p f).mg q = s.mg q := by cases p <;> rfl

end Sys2Proof.Machine
end

