-- ==== Sys2Proof/Laws/Endpoint.lean ====
section
/-!
SUPPORT. The load/store path, queues and descriptors of the endpoint: what their shared operations do.
-/
namespace Sys2Proof.Machine

/-! ### The load/store path -/

theorem setChan_ls (s : Block) (c : Chan) : (s.setChan c).oe.ls = s.oe.ls := by unfold Block.setChan; rfl

theorem transmit_ls (s : Block) (d p k) : (s.transmit d p k).oe.ls = s.oe.ls := by unfold Block.transmit; split; rfl; split <;> rfl

theorem issueReq_ls (s : Block) (a p o c f) : (s.issueReq a p o c f).oe.ls = s.oe.ls := by
  unfold Block.issueReq
  split
  · rfl
  · simp only []; split
    · show (Block.transmit _ _ _ _).oe.ls = _; rw [transmit_ls, setChan_ls]
    · show (Block.transmit _ _ _ _).oe.ls = _; rw [transmit_ls]

theorem accept_send (b : Block) (r : LsReq) (e : TlbEnt) (h : b.lsHit r e) (hw : r.waitWalk = true) (hx : r.xl = none) (hs : r.sent = false)
    (hk : r.kind ≠ .fence):
    b.lsAccept r = (b.lsFound r e).lsSend r.tag := by
  obtain ⟨h1, h2, h3, h4, h5, h6, h7, h8, h9⟩ := h
  unfold Block.lsAccept
  simp only [h1, h2, h3, h4]
  simp only [List.length_nil, List.any_nil, List.nil_append, Bool.not_true, Bool.or_false, Bool.false_or, Nat.reduceLeDiff, decide_false, Bool.false_eq_true, if_false]
  have ht : (b.modOe (fun o => { o with ls := [r] })).lsTranslate r.tag = b.lsFound r e := by
    unfold Block.lsTranslate
    have : (b.modOe (fun o => { o with ls := [r] })).oe.ls.find? (fun x => x.tag == r.tag) = some r := by simp [Block.modOe]
    simp only [this, hx, hw]
    have hk2 : (r.kind == LsKind.fence) = false := by revert hk; cases r.kind <;> simp <;> decide
    simp only [hk2]
    have htr : (b.modOe (fun o => { o with ls := [r] })).translate 16 r.ctx r.fva (lsRights r.kind) (.ls r.tag) =
       ((b.modOe (fun o => { o with ls := [r] })).modEp (fun c => c.count (ob 0xB105 0) 0 64 1), .done (.ok e.leaf e.big)) := by
      unfold Block.translate
      have a1 : (b.modOe (fun o => { o with ls := [r] })).ep.ctxEn r.ctx = true := h5
      have a2 : ((b.modOe (fun o => { o with ls := [r] })).oe.micro.find? (fun p => p.1 == 16 && p.2.covers r.ctx r.fva)).map (fun p => p.2) = some e := h6
      simp only [a1, a2]
      have a3 : checkLeaf (lsRights r.kind) (b.ep.ctxTenant r.ctx) (if e.big then 1 else 2) e.leaf e.big = .ok e.leaf e.big := by
        unfold checkLeaf
        rw [if_neg (by simp [h7]), if_neg (by rcases h8 with h8 | h8 <;> simp [h8])]
      simp [a3]
    rw [htr]
    simp [updLs, replaceFirst, Block.modOe, Block.modEp, Block.lsFound]
  have e00 : (b.modOe (fun o => { o with ls := o.ls ++ [r] })) = b.modOe (fun o => { o with ls := [r] }) := by simp [Block.modOe, h2]
  rw [e00]
  unfold Block.lsPump
  simp only []
  have e0 : (b.modOe (fun o => { o with ls := [r] })).oe.ls.map (fun r => r.tag) = [r.tag] := rfl
  rw [e0]
  simp only [List.foldl_cons, List.foldl_nil, ht]
  have e1 : (b.lsFound r e).oe.ls.map (fun r => r.tag) = [r.tag] := rfl
  rw [e1]
  simp only [List.foldl_cons, List.foldl_nil]

theorem accept_hit (b : Block) (r : LsReq) (e : TlbEnt) (h : b.lsHit r e) (hw : r.waitWalk = true) (hx : r.xl = none) (hs : r.sent = false)
    (hk : r.kind ≠ .fence) (hk' : r.kind ≠ .evict)
    (hc : pteCc e.leaf = true ∨ (r.kind ≠ .rdShared ∧ r.kind ≠ .rdOwn ∧ r.kind ≠ .upgrade ∧ r.kind ≠ .writeback)) :
    b.lsAccept r = b.lsLeft r e (lsSpecs { r with xl := some (.ok e.leaf e.big), waitWalk := false } e.leaf e.big) := by
  rw [accept_send b r e h hw hx hs hk]
  obtain ⟨h1, h2, h3, h4, h5, h6, h7, h8, h9⟩ := h
  have hsend : (b.lsFound r e).lsSend r.tag = b.lsLeft r e (lsSpecs { r with xl := some (.ok e.leaf e.big), waitWalk := false } e.leaf e.big) := by
    unfold Block.lsSend
    have : (b.lsFound r e).oe.ls.find? (fun x => x.tag == r.tag) = some { r with xl := some (.ok e.leaf e.big), waitWalk := false } := by simp [Block.lsFound]
    simp only [this, hs]
    have hm : (b.lsFound r e).lsMaySend { r with xl := some (.ok e.leaf e.big), waitWalk := false } = true := by
      unfold Block.lsMaySend
      have : lsBefore (b.lsFound r e).oe.ls r.tag = [] := by simp [lsBefore, Block.lsFound, List.takeWhile]
      simp only [this, List.any_nil]
      cases ho : r.ord
      · simp
      · simp only [LsReq.dst, LsReq.tenant]
        have := h9 ho
        have e1 : (b.lsFound r e).epSlot = b.epSlot := rfl
        rw [e1]
        simpa using this
    simp only [hs] at hm
    simp only [hm]
    have hcc : (!pteCc e.leaf && (r.kind == .rdShared || r.kind == .rdOwn || r.kind == .upgrade || r.kind == .writeback)) = false := by
      rcases hc with hc | ⟨a, b, c, d⟩
      · simp [hc]
      · revert a b c d; cases r.kind <;> simp <;> decide
    simp only [hcc]
    have hke : (r.kind == LsKind.evict) = false := by revert hk'; cases r.kind <;> simp <;> decide
    rw [hke]
    simp only [Bool.false_eq_true, if_false, Bool.not_true]
    unfold Block.lsLeft Block.lsSent
    simp only []
    have e1 : (b.lsFound r e).epSlot = b.epSlot := rfl
    rw [e1]
    split
    · show Block.modOe _ _ = _
      unfold Block.modOe
      simp only [issueReq_ls]; simp [Block.lsFound, updLs, replaceFirst]
    · show Block.modOe (Block.modOe _ _) _ = _
      unfold Block.modOe
      simp only [issueReq_ls]; simp [Block.lsFound, updLs, replaceFirst]
  exact hsend

theorem dropLs_nil (b : Block) (r : LsReq) (h : b.oe.ls = [r]) : (b.dropLs r.tag).oe.ls = [] := by
  simp [Block.dropLs, Block.modOe, h, eraseFirst]

/-! ### Queues and descriptors -/

theorem qk_ne (a q k : Nat) (hq : q < 1024) (h : k < a * 256 ∨ (a + 4) * 256 ≤ k) : qk a q ≠ k := by unfold qk ob; omega

theorem headCheck_setHead (b : Block) (q v : Nat) (ws : List (BitVec 64)) (hq : q < 1024) :
    ({ b with ep := b.ep.setFld (qk 0xB008 q) 0 16 v } : Block).headCheck q ws = b.headCheck q ws := by
  unfold Block.headCheck
  have e1 : (b.ep.setFld (qk 0xB008 q) 0 16 v).qTenant q = b.ep.qTenant q := Common.fld_setFld_ne _ _ _ _ _ _ _ _ (by unfold qk ob; omega)
  have hc : dCtx ws < 64 := bitsOf_lt _ _ _
  have e2 : (b.ep.setFld (qk 0xB008 q) 0 16 v).ctxTenant (dCtx ws) = b.ep.ctxTenant (dCtx ws) := Common.fld_setFld_ne _ _ _ _ _ _ _ _ (by unfold qk ob; omega)
  have e3 : ∀ k, (b.ep.setFld (qk 0xB008 q) 0 16 v).fld (ctrKey k) 40 8 = b.ep.fld (ctrKey k) 40 8 := fun k => Common.fld_setFld_ne _ _ _ _ _ _ _ _ (by unfold qk ctrKey ob; omega)
  simp only [e1, e2, e3]

theorem queue_set (b : Block) (q : Nat) (x : Queue) (oe) (h : oe.queues = SMap.set {} b.oe.queues q x) : ({ b with oe := oe } : Block).queue q = x := by
  unfold Block.queue; simp [h, SMap.get_set]

theorem taken_queue (b : Block) (q n : Nat) (ws) (h : b.queue q = { fetched := [⟨n, some ws, true⟩] }) : (b.taken q n).queue q = {} := by
  have h' : SMap.get {} b.oe.queues q = { fetched := [⟨n, some ws, true⟩] } := h
  unfold Block.taken Block.modQueue Block.queue Block.modOe SMap.modify
  simp [SMap.get_set, h']

theorem issue_turn (b : Block) (q n : Nat) (ws) (k : Nat) (pick f) (h : b.turn q n ws k) (hp : pick ws = true) : b.issue q pick f = f b n ws := by
  unfold Block.issue
  simp [h.1, h.2.1, hp]

theorem find_append {α} (p : α → Bool) (l : List α) (x : α) (h : l.find? p = none) (hx : p x = true) : (l ++ [x]).find? p = some x := by
  rw [List.find?_append, h]; simp [hx]

theorem replaceFirst_append {α} (p : α → Bool) (f : α → α) (l : List α) (x : α) (h : l.find? p = none) (hx : p x = true) : replaceFirst p f (l ++ [x]) = l ++ [f x] := by
  induction l with
  | nil => simp [replaceFirst, hx]
  | cons a r ih =>
    simp only [List.find?_cons] at h
    cases ha : p a
    · simp only [ha] at h
      simp [replaceFirst, ha, ih h]
    · simp [ha] at h

theorem issue_waits (b : Block) (q n : Nat) (ws) (k j : Nat) (r : Run) (g gs) (h : b.turn q n ws k) (hr : r.q = q) (hn : r.n = n) (he : r.engine = b.ep.qEngine q)
    (hx : r.xl = []) (hs : r.started = false) (ht : r.stage = 0) (hg : r.grans = g :: gs) (hw : b.walkNeeded r.engine (dCtx r.words) g.2.1) :
    ((((b.taken q n).addRun r).runTranslate q n (j + 1)).headPump q 9) = b.issued q n r g := by
  obtain ⟨w1, w2, w3, w4, w5⟩ := hw
  have hrun : ((b.taken q n).addRun r).run? q n = some r := by
    unfold Block.run?
    exact find_append _ _ _ h.2.2.2.1 (by simp [hr, hn])
  have ht : ((b.taken q n).addRun r).runTranslate q n (j + 1) = b.issued q n r g := by
    unfold Block.runTranslate
    simp only [hrun, hs, hx, hg, ht, Nat.reduceBEq, Bool.or_self]
    simp only [Bool.false_eq_true, if_false, List.getLast?_nil, List.length_nil, List.getElem?_cons_zero]
    have htr : ((b.taken q n).addRun r).translate r.engine (dCtx r.words) g.2.1 g.2.2.2 (.desc q n 0) =
        (((b.taken q n).addRun r).modOe (fun o => { o with misses := o.misses ++ [⟨dCtx r.words, g.2.1 / 2 ^ 29 % 2 ^ 23, [.desc q n 0], false, 1, 0, false⟩] }) |>.modEp (fun c => c.count (ob 0xB105 1) 0 64 1), .waiting) := by
      unfold Block.translate
      have a1 : ((b.taken q n).addRun r).ep.ctxEn (dCtx r.words) = true := w1
      have a2 : ((b.taken q n).addRun r).oe.micro.find? (fun p => p.1 == r.engine && p.2.covers (dCtx r.words) g.2.1) = none := w2
      have a3 : ((b.taken q n).addRun r).oe.tlb.find? (fun e => e.covers (dCtx r.words) g.2.1) = none := w3
      have a4 : ((b.taken q n).addRun r).oe.misses = b.oe.misses := rfl
      simp only [a1, a2, a3, a4, w4, w5, Option.map_none]
      simp
    rw [htr]
    unfold Block.modRun
    have hrep : replaceFirst (fun x => x.q == q && x.n == n) (fun r => { r with xl := r.xl ++ [none] }) (b.oe.runs ++ [r]) = b.oe.runs ++ [{ r with xl := [none] }] := by
      rw [replaceFirst_append _ _ _ _ h.2.2.2.1 (by simp [hr, hn])]
      simp [hx]
    unfold Block.issued
    show Block.mk _ _ _ _ _ = Block.mk _ _ _ _ _
    congr 1
    show Oe.mk .. = Oe.mk ..
    congr 1
    
  rw [ht]
  apply headPump_nil
  have := taken_queue b q n ws h.2.2.1
  unfold Block.queue at *
  show (SMap.get {} (b.taken q n).oe.queues q).fetched = []
  rw [this]

theorem issue_acts {i : Instr} {b : Block} {q n : Nat} {ws} {k : Nat} {pick f} {b' : Block} (hc : ∀ s, exec i s = s.act (fun s => s.issue q pick f))
    (h : b.turn q n ws k) (hp : pick ws = true) (hf : f b n ws = b') : Acts i b b' := acts hc (by rw [issue_turn b q n ws k pick f h hp, hf])

theorem setChan_queues (s : Block) (c : Chan) : (s.setChan c).oe.queues = s.oe.queues := by unfold Block.setChan; rfl

theorem transmit_queues (s : Block) (d p k) : (s.transmit d p k).oe.queues = s.oe.queues := by unfold Block.transmit; split; rfl; split <;> rfl

theorem issueReq_queues (s : Block) (a p o c f) : (s.issueReq a p o c f).oe.queues = s.oe.queues := by
  unfold Block.issueReq
  split
  · rfl
  · simp only []; split
    · show (Block.transmit _ _ _ _).oe.queues = _; rw [transmit_queues, setChan_queues]
    · show (Block.transmit _ _ _ _).oe.queues = _; rw [transmit_queues]

theorem headPump_get (s : Block) (q k : Nat) (h : SMap.get {} s.oe.queues q = {}) : s.headPump q k = s := headPump_nil s q k (by unfold Block.queue; rw [h])

theorem renew_q (c : Common) (m : Master) (q : Nat) : (c.renew m).qState q = c.qState q ∧ (c.renew m).qHead q = c.qHead q ∧ (c.renew m).qTail q = c.qTail q
   ∧ (c.renew m).cqProd q = c.cqProd q ∧ (c.renew m).cqCons q = c.cqCons q ∧ (c.renew m).cqSize q = c.cqSize q ∧ (c.renew m).cqBase q = c.cqBase q ∧ (c.renew m).stroke = c.stroke := by
  refine ⟨?_, ?_, ?_, ?_, ?_, ?_, ?_, ?_⟩
  all_goals first
    | exact renew_fld _ _ _ _ _
    | (unfold Common.cqSize; rw [renew_fld])
    | (unfold Common.cqBase; rw [renew_fld])
    | (unfold Common.renew; split <;> rfl)

/-- One waiting record and room: it is written. -/
theorem writeRecords_one (s : Block) (q : Nat) (r : BitVec 128) (x : Queue) (h : s.queue q = x) (hr : x.records = [r]) (hs : cntDiff (s.ep.cqProd q) (s.ep.cqCons q) ≠ s.ep.cqSize q) :
    s.writeRecords q =
      (let w := s.memPost (s.ep.cqBase q + 16 * (s.ep.cqProd q % s.ep.cqSize q)) (leBytes 16 (r.toNat + s.ep.cqProd q / s.ep.cqSize q % 2 * 2 ^ 127))
       { w with ep := w.ep.setFld (qk 0xB008 q) 48 16 (s.ep.cqProd q + 1)
                oe := { w.oe with queues := SMap.set {} s.oe.queues q { x with records := [] } } }) := by
  unfold Block.writeRecords
  rw [h, hr]
  simp only [List.foldl_cons, List.foldl_nil]
  rw [if_neg hs]
  have : SMap.get {} s.oe.queues q = x := h
  simp [Block.modQueue, Block.modOe, Block.modEp, SMap.modify, Block.memPost, Block.memWrite, this, hr]

theorem postRecord_one (s : Block) (q : Nat) (r : BitVec 128) (x : Queue) (h : s.queue q = x) (hr : x.records = []) (hs : cntDiff (s.ep.cqProd q) (s.ep.cqCons q) ≠ s.ep.cqSize q) :
    s.postRecord q r =
      (let w := s.memPost (s.ep.cqBase q + 16 * (s.ep.cqProd q % s.ep.cqSize q)) (leBytes 16 (r.toNat + s.ep.cqProd q / s.ep.cqSize q % 2 * 2 ^ 127))
       { w with ep := w.ep.setFld (qk 0xB008 q) 48 16 (s.ep.cqProd q + 1)
                oe := { w.oe with queues := SMap.set {} s.oe.queues q x } }) := by
  have hb : (cntDiff (s.ep.cqProd q) (s.ep.cqCons q) == s.ep.cqSize q) = false := beq_eq_false_iff_ne.2 hs
  have hg : SMap.get {} s.oe.queues q = x := h
  unfold Block.postRecord
  simp only [h, hr, hb, List.isEmpty_nil, Bool.not_true, Bool.or_self, Bool.false_eq_true, if_false]
  have hq : (s.modQueue q (fun x => { x with records := x.records ++ [r] })).queue q = { x with records := [r] } := by
    simp [Block.queue, Block.modQueue, Block.modOe, SMap.modify, SMap.get_set, hg, hr]
  rw [writeRecords_one _ q r _ hq rfl hs]
  simp only [Block.modQueue, Block.modOe, SMap.modify, hg, hr, List.nil_append]
  rw [SMap_set_set _ _ _ _ (by intro h; have := congrArg Queue.records h; simp at this)]
  have : ({ x with records := [] } : Queue) = x := by cases x; simp at hr; simp [hr]
  rw [this]
  rfl

theorem tileRead_ne (b : Block) (r : Run) (t : Nat) (h : r.pieces = []) (hk : dKind r.words = 1)
   (hw : 0 < min ((tileDims r.words).1 - r.wrPos % (tileDims r.words).1) (256 - ((tileSide r.words true).addr (tileDims r.words) r.wrPos).toNat % 256)) : b.tileWrite r t = b := by
  unfold Block.tileWrite
  simp only []
  split
  · rfl
  · rw [if_pos]
    rw [List.any_eq_true]
    refine ⟨none, ?_, rfl⟩
    rw [List.mem_map]
    refine ⟨0, List.mem_range.2 hw, ?_⟩
    rw [if_neg (by omega)]
    unfold Run.source; rw [h]; rfl

theorem map_takeWhile_all {α} (l : List α) (p : α → Bool) (h : ∀ x ∈ l, p x = true) : l.takeWhile p = l := by
  induction l with
  | nil => rfl
  | cons a r ih => simp [List.takeWhile, h a (by simp), ih (fun x hx => h x (by simp [hx]))]

theorem any_none {α} (l : List α) (p : α → Bool) (h : ∀ x ∈ l, p x = false) : l.any p = false := by
  rw [List.any_eq_false]; intro x hx; simp [h x hx]

theorem tail_end (X : Block) (q n : Nat) (hr : X.oe.runs = []) (hg : SMap.get ({} : Queue) X.oe.queues q = {}) (hs : X.ep.qState q = qRunning) (hb : cntBefore n (X.ep.qHead q) = true) :
    (X.modQueue q (fun x => { x with passOver := (n :: x.passOver).filter (fun m =>
           X.oe.runs.any (fun r => r.q == q && cntBefore r.n m) || !cntBefore m (X.oldestUnissued q)) })).drainEnd q
    = { X with oe := { X.oe with queues := SMap.drop X.oe.queues q } } := by
  have ho : X.oldestUnissued q = X.ep.qHead q := by unfold Block.oldestUnissued Block.queue; rw [hg]
  have e : X.modQueue q (fun x => { x with passOver := (n :: x.passOver).filter (fun m =>
           X.oe.runs.any (fun r => r.q == q && cntBefore r.n m) || !cntBefore m (X.oldestUnissued q)) }) = { X with oe := { X.oe with queues := SMap.drop X.oe.queues q } } := by
    simp [Block.modQueue, Block.modOe, SMap.modify, hg, hr, ho, hb, SMap.set]
  rw [e]
  unfold Block.drainEnd
  rw [if_neg]
  rintro ⟨h, _⟩
  have : X.ep.qState q = qDraining := h
  rw [hs] at this; exact absurd this (by decide)

end Sys2Proof.Machine
end

