-- ==== Sys2Proof/Laws/Home.lean ====
section
/-!
SUPPORT. The home: what a request that nothing holds back does, and which lists the operations leave.
-/
namespace Sys2Proof.Machine

/-! ### A request that is served -/

theorem ctrl_stroke (c : Common) (k : Nat) (f : List Byte) : (c.ctrl k f).stroke = c.stroke := by unfold Common.ctrl Common.wake; split <;> rfl

theorem sendCredit_stroke (c : Common) (k : Nat) : (c.sendCredit k).stroke = c.stroke := ctrl_stroke c k (wordFlit ctCredit (c.link k).myFreed)

theorem freeCredits_stroke (c : Common) (k net n : Nat) : (c.freeCredits k net n).stroke = c.stroke := by
  unfold Common.freeCredits; simp only []; split
  · rw [sendCredit_stroke]; rfl
  · rfl

theorem takeRx_stroke (c : Common) (k : Nat) (p : Packet) : (c.takeRx k p).stroke = c.stroke := by
  unfold Common.takeRx Common.rxDrop
  rw [freeCredits_stroke]; split
  · rfl
  · split <;> rfl

theorem takeIn_stroke (b : Block) (via : Via) (p : Packet) : (b.takeIn via p).ep.stroke = b.ep.stroke := by
  cases via with
  | plane k => exact takeRx_stroke _ _ _
  | selfServed => rfl

theorem takeIn_lastVia (b : Block) (via : Via) (p : Packet) : (b.takeIn via p).oe.lastVia = b.oe.lastVia := by cases via <;> rfl

/-- A request in its turn is admitted. -/
theorem arrive_turn (b t : Block) (via : Via) (p : Packet) (mask) (hl : t.oe.lastVia = b.oe.lastVia) (hs : t.ep.stroke = b.ep.stroke) (ht : b.inTurn via) :
    t.arrive via p mask = ({ t with oe := { t.oe with lastVia := (b.ep.stroke, viaRank via) } } : Block).letIn ⟨0, b.ep.stroke, via, p, mask, .queued⟩ := by
  unfold Block.arrive
  simp only [hl, hs]
  rw [if_neg ht]; rfl

theorem arrive_serves (t : Block) (via : Via) (p : Packet) (mask) (opc : Nat) (h : t.homeServes p opc) (h9 : opc ≠ 9) :
    t.letIn ⟨0, t.ep.stroke, via, p, mask, .queued⟩ = (t.homeHolds via p mask .queued).startOp (t.hopOf via p mask .queued) := by
  obtain ⟨h2, h3, h4, h5, hw, h6, h7, h8, h0⟩ := h
  unfold Block.letIn
  simp only [h6, Bool.false_and, Bool.false_eq_true, if_false]
  unfold Block.sequence
  simp only [h3, Bool.not_false, if_true]
  unfold Block.accept
  have hn : ¬ (pOpc p = 9 ∧ pRegion p < t.ep.homeGranules) := fun h => h9 (h2 ▸ h.1)
  simp only [h7, Bool.not_true, Bool.and_false, Bool.false_eq_true, if_false, h4, List.takeWhile_nil, List.dropWhile_nil, List.nil_append, if_neg hn]
  show (t.homeHolds via p mask .queued).homePump = _
  unfold Block.homePump
  have hh : (t.homeHolds via p mask .queued).oe.hops = [t.hopOf via p mask .queued] := rfl
  have hm : (t.homeHolds via p mask .queued).mayStart (t.hopOf via p mask .queued) = true := by
    have hs : (t.homeHolds via p mask .queued).oe.snoops = [] := h5
    have hw : (t.homeHolds via p mask .queued).oe.wbs = [] := hw
    unfold Block.mayStart Block.lineBusy
    simp only [hh, hs, hw, Block.hopOf, h2]
    have : (opc != 9) = true := bne_iff_ne.2 h9
    simp [this]
  simp only [hh, List.map_cons, List.map_nil, List.foldl_cons, List.foldl_nil, List.find?_cons, beq_self_eq_true, hm, if_true]

theorem startOp_serves (t : Block) (via : Via) (p : Packet) (mask) (opc : Nat) (h : t.homeServes p opc) (hc : opc ≠ 0x23 ∧ opc ≠ 8 ∧ opc ≠ 0x22)
   (hs : pCc p = false ∨ t.snoopsFor p = []) (hf : t.dirFull p = false) :
    (t.homeHolds via p mask .queued).startOp (t.hopOf via p mask .queued) = (t.homeHolds via p mask .queued).access (t.hopOf via p mask .queued) := by
  obtain ⟨h2, h3, h4, h5, hw, h6, h7, h8, h0⟩ := h
  have hdup : (t.homeHolds via p mask .queued).duplicate? p = none := h8
  have hv : (t.homeHolds via p mask .queued).violationOf p = none := h0
  have hsn : (t.homeHolds via p mask .queued).snoopsFor p = t.snoopsFor p := rfl
  have hdf : (t.homeHolds via p mask .queued).dirFull p = false := by rw [← hf]; unfold Block.dirFull; rw [h4]; rfl
  have hp : (t.hopOf via p mask .queued).p = p := rfl
  unfold Block.startOp
  simp only [hp, hdup, ite_self, h2, hc.1, hc.2.1, hc.2.2, if_false, hv, hsn, hdf]
  have : (if (pCc p && opc != 0x22) = true then t.snoopsFor p else []) = [] := by
    rcases hs with hs | hs
    · rw [hs]; rfl
    · rw [hs]; simp
  rw [this]
  simp

theorem access_read (t : Block) (via : Via) (p : Packet) (apa len : Nat) :
   (let r := (t.homeHolds via p none .queued).memRead apa len; r.1.modOp (t.hopOf via p none .queued).seq (fun x => { x with phase := .reading r.2 })) = t.homeReads via p apa len := by
  simp [Block.memRead, Block.modOp, Block.modOe, Block.modEp, Block.homeReads, Block.homeHolds, Block.hopOf, replaceFirst]

theorem access_write (t : Block) (via : Via) (p : Packet) (half) (mask : BitVec 256) (data : List Byte) :
   (let w := (t.homeHolds via p half .queued).memWrite ((t.homeHolds via p half .queued).ep.homeBase + pBlock p * 256) mask data (pPoison p)
    w.1.modOp (t.hopOf via p half .queued).seq (fun x => { x with phase := .writing w.2 0 (pPoison p) })) = t.homeWrites via p half mask data := by
  simp [Block.memWrite, Block.modOp, Block.modOe, Block.modEp, Block.homeWrites, Block.homeHolds, Block.hopOf, replaceFirst]

theorem homeReq_turn (b : Block) (via : Via) (p : Packet) (opc : Nat) (hr : b.homeHears via p) (ht : b.inTurn via) (ho : pOpc p = opc) :
   b.homeReq opc via p = (b.arrived via p).letIn ⟨0, b.ep.stroke, via, p, none, .queued⟩ := by
  unfold Block.homeReq
  rw [atEp_hears b opc via p _ hr ho, arrive_turn b _ via p none (takeIn_lastVia b via p) (takeIn_stroke b via p) ht]
  rfl

theorem homeReq_serves (b : Block) (via : Via) (p : Packet) (opc : Nat) (hr : b.homeHears via p) (ht : b.inTurn via) (h : (b.arrived via p).homeServes p opc) (h9 : opc ≠ 9)
   (hc : opc ≠ 0x23 ∧ opc ≠ 8 ∧ opc ≠ 0x22) (hs : pCc p = false ∨ (b.arrived via p).snoopsFor p = []) (hf : (b.arrived via p).dirFull p = false) :
   b.homeReq opc via p = ((b.arrived via p).homeHolds via p none .queued).access ((b.arrived via p).hopOf via p none .queued) := by
  rw [homeReq_turn b via p opc hr ht h.1, ← takeIn_stroke b via p]
  rw [show (b.takeIn via p).ep.stroke = (b.arrived via p).ep.stroke from rfl]
  rw [arrive_serves _ via p none opc h h9, startOp_serves _ via p none opc h hc hs hf]

theorem dirFull_not (b : Block) (p : Packet) (h : pOpc p ≠ 0x0A) (h' : pOpc p ≠ 0x0B) (h'' : pOpc p ≠ 0x0C) : b.dirFull p = false := by
  unfold Block.dirFull
  simp [h, h', h'']

theorem homeArr_serves (t : Block) (via : Via) (p : Packet) (mask) (opc : Nat) (h : t.homeServes p opc) (h9 : opc ≠ 9) (hc : opc ≠ 0x23 ∧ opc ≠ 8 ∧ opc ≠ 0x22)
   (hs : pCc p = false ∨ t.snoopsFor p = []) (hf : t.dirFull p = false) :
   t.letIn ⟨0, t.ep.stroke, via, p, mask, .queued⟩ = (t.homeHolds via p mask .queued).access (t.hopOf via p mask .queued) := by
  rw [arrive_serves _ via p mask opc h h9, startOp_serves _ via p mask opc h hc hs hf]

theorem masks_takeIn (b : Block) (via : Via) (p : Packet) : (b.takeIn via p).oe.masks = b.oe.masks := by cases via <;> rfl

/-! ### Which lists stay -/

theorem homePump_stays (s : Block) (h : HomeOp) (hs : s.oe.hops = [h]) (h1 : s.mayStart h = false) (h2 : s.snoopsDone h = false) : s.homePump = s := by
  unfold Block.homePump
  simp [hs, h1, h2]

theorem setDir_hops (s : Block) (l st v) : (s.setDir l st v).oe.hops = s.oe.hops := rfl

theorem snoopReplied_hops (s : Block) (sn) : (s.snoopReplied sn).oe.hops = s.oe.hops := by
  unfold Block.snoopReplied; simp only []; split
  · rfl
  · split <;> rfl

theorem writeDirty_hops (s : Block) (sn d p) : (s.writeDirty sn d p).oe.hops = s.oe.hops := rfl

theorem finishOp_hops (s : Block) (h : HomeOp) (st d po o g) (hs : s.oe.hops = [h]) (h9 : pOpc h.p = 9) : (s.finishOp h st d po o g).oe.hops = [] := by
  unfold Block.finishOp
  simp only [h9, Nat.reduceBEq, Bool.or_false, Bool.and_false, Bool.false_eq_true, if_false]
  unfold Block.answerReq
  simp only [h9]
  rw [respond_hops, dedupWrite_hops]
  simp [Block.dropOp, Block.modOe, hs, eraseFirst]

end Sys2Proof.Machine
end

