-- ==== Sys2Proof/Laws/Memory.lean ====
section
/-!
SUPPORT. The boathouse as memory: a read after a write, and the canonical form that every operation on it keeps.
-/
namespace Sys2Proof.Machine

@[simp] theorem Memory.read_write_same (m : Memory) (a : Nat) (b : Byte) : (m.write a b).read a = b := by simp [Memory.read, Memory.write]

theorem Memory.read_write (m : Memory) (a c : Nat) (b : Byte) : (m.write a b).read c = if a = c then b else m.read c := by
  simp [Memory.read, Memory.write, SMap.get_set]

/-- After a write of bytes, each byte of the run reads as written and every other as before. -/
theorem Memory.read_writeN (bs : List Byte) : ∀ (m : Memory) (a c : Nat),
    (m.writeN a bs).read c = if a ≤ c ∧ c < a + bs.length then bs.getD (c - a) 0 else m.read c := by
  induction bs with
  | nil =>
    intro m a c
    have : ¬ (a ≤ c ∧ c < a + ([] : List Byte).length) := by simp
    rw [if_neg this]; rfl
  | cons b r ih =>
    intro m a c
    simp only [Memory.writeN, ih, Memory.read_write, List.length_cons]
    by_cases h1 : a + 1 ≤ c ∧ c < a + 1 + r.length
    · have h2 : a ≤ c ∧ c < a + (r.length + 1) := by omega
      obtain ⟨k, hk⟩ : ∃ k, c - a = k + 1 := ⟨c - a - 1, by omega⟩
      have hk' : c - (a + 1) = k := by omega
      simp [h1, h2, hk, hk']
    · by_cases h3 : a = c
      · subst h3
        have h4 : ¬ (a + 1 ≤ a ∧ a < a + 1 + r.length) := by omega
        have h5 : a ≤ a ∧ a < a + (r.length + 1) := by omega
        rw [if_neg h4, if_pos h5]; simp
      · have h2 : ¬ (a ≤ c ∧ c < a + (r.length + 1)) := by omega
        rw [if_neg h1, if_neg h2]; simp [h3]

theorem Memory.write_wf (m : Memory) (a : Nat) (b : Byte) (h : m.wf = true) : (m.write a b).wf = true := SMap.wf_set m a b h

theorem Memory.writeN_wf (bs : List Byte) : ∀ (m : Memory) (a : Nat), m.wf = true → (m.writeN a bs).wf = true := by
  induction bs with
  | nil => intro m a h; exact h
  | cons b r ih => intro m a h; exact ih _ _ (Memory.write_wf m a b h)

/-- A write into the boathouse keeps its canonical form, and changes no byte outside the run. -/
theorem Ox.bhWrite_wf (x : Ox) (a : Nat) (bs : List Byte) (poison : Bool) (owner gen : Nat) (h : Memory.wf x.bh = true) : Memory.wf (x.bhWrite a bs poison owner gen).bh = true :=
  Memory.writeN_wf bs x.bh a h

theorem Ox.bhWrite_read (x : Ox) (a : Nat) (bs : List Byte) (poison : Bool) (owner gen c : Nat) :
    Memory.read (x.bhWrite a bs poison owner gen).bh c = if a ≤ c ∧ c < a + bs.length then bs.getD (c - a) 0 else Memory.read x.bh c :=
  Memory.read_writeN bs x.bh a c

theorem reset_memory_wf : Memory.wf State.reset.blk.ox.bh = true := rfl

end Sys2Proof.Machine
end

