-- ==== Sys2Proof/Laws/Staging.lean ====
section
/-!
SUPPORT. What the operations of the cox core do to its own state: staging keeps its soundness, every other operation leaves staging alone (17).
-/
namespace Sys2Proof.Machine

open State

/-! ### The sorted map of shadows -/

theorem insert_keys (m : SMap Obj) (k : Nat) (v : Obj) (h : (m.map (fun e => e.1)).Pairwise (· < ·)) :
    ((SMap.insert m k v).map (fun e => e.1)).Pairwise (· < ·) := by
  induction m with
  | nil => simp [SMap.insert]
  | cons x r ih =>
    obtain ⟨a, w⟩ := x
    simp only [List.map_cons, List.pairwise_cons, List.mem_map, forall_exists_index, and_imp] at h
    obtain ⟨h1, h2⟩ := h
    unfold SMap.insert
    split
    · rename_i hk
      simp only [List.map_cons, List.pairwise_cons, List.mem_cons, List.mem_map]
      refine ⟨?_, ?_, h2⟩
      · rintro b (rfl | ⟨e, he, rfl⟩)
        · exact hk
        · exact Nat.lt_trans hk (h1 _ e he rfl)
      · rintro b ⟨e, he, rfl⟩; exact h1 _ e he rfl
    · split
      · rename_i h3 h4
        subst h4
        simp only [List.map_cons, List.pairwise_cons, List.mem_map]
        exact ⟨by rintro b ⟨e, he, rfl⟩; exact h1 _ e he rfl, h2⟩
      · rename_i h3 h4
        simp only [List.map_cons, List.pairwise_cons, List.mem_map]
        refine ⟨?_, ih h2⟩
        rintro b ⟨e, he, rfl⟩
        rcases SMap.mem_insert _ _ _ _ he with he | he
        · subst he; show a < k; omega
        · exact h1 _ e he rfl

theorem insert_length (m : SMap Obj) (k : Nat) (v : Obj) :
    (SMap.insert m k v).length ≤ m.length + 1 ∧ (m.any (fun e => e.1 == k) = true → (m.map (fun e => e.1)).Pairwise (· < ·) → (SMap.insert m k v).length = m.length) := by
  induction m with
  | nil => simp [SMap.insert]
  | cons x r ih =>
    obtain ⟨a, w⟩ := x
    unfold SMap.insert
    split
    · rename_i hk
      refine ⟨by simp, ?_⟩
      intro h1 h2
      exfalso
      simp only [List.map_cons, List.pairwise_cons, List.mem_map, forall_exists_index, and_imp] at h2
      simp only [List.any_cons, Bool.or_eq_true, beq_iff_eq, List.any_eq_true] at h1
      rcases h1 with h1 | ⟨e, he, h1⟩
      · omega
      · have := h2.1 _ e he rfl; omega
    · split
      · simp
      · rename_i h3 h4
        refine ⟨by simpa using ih.1, ?_⟩
        intro h1 h2
        simp only [List.map_cons, List.pairwise_cons] at h2
        simp only [List.any_cons, Bool.or_eq_true, beq_iff_eq, h4, false_or] at h1
        simpa using ih.2 h1 h2.2

/-! ### Operations that stage nothing -/

/-- An operation that leaves the staged objects and the remembered announcements of both cox cores alone. -/
def SameStaged (s t : State) : Prop :=
  t.mgEp.shadow = s.mgEp.shadow ∧ t.mgSw.shadow = s.mgSw.shadow ∧ t.mgEp.annSeen = s.mgEp.annSeen ∧ t.mgSw.annSeen = s.mgSw.annSeen

theorem SameStaged.refl (s : State) : SameStaged s s := ⟨rfl, rfl, rfl, rfl⟩
theorem SameStaged.trans {s t u : State} (h : SameStaged s t) (h' : SameStaged t u) : SameStaged s u :=
  ⟨h'.1.trans h.1, h'.2.1.trans h.2.1, h'.2.2.1.trans h.2.2.1, h'.2.2.2.trans h.2.2.2⟩
theorem SameStaged.sound {s t : State} (h : SameStaged s t) (hs : s.Sound) : t.Sound := by
  obtain ⟨h1, h2, h3, h4⟩ := h
  unfold State.Sound Mgmt.Sound at *
  rw [h1, h2, h3, h4]; exact hs

theorem sameStaged_on (s : State) (f : Block → Block) : SameStaged s (s.on f) := SameStaged.refl _
theorem sameStaged_modCommon (s : State) (p : Part) (f : Common → Common) : SameStaged s (s.modCommon p f) := SameStaged.refl _

theorem sameStaged_modMg (s : State) (p : Part) (f : Mgmt → Mgmt) (h1 : ∀ m, (f m).shadow = m.shadow) (h2 : ∀ m, (f m).annSeen = m.annSeen) :
    SameStaged s (s.modMg p f) := by
  cases p
  · exact ⟨h1 _, rfl, h2 _, rfl⟩
  · exact ⟨rfl, h1 _, rfl, h2 _⟩

theorem sound_modMg {s : State} {p : Part} {f : Mgmt → Mgmt} (h : s.Sound) (h1 : ∀ m, (f m).shadow = m.shadow) (h2 : ∀ m, (f m).annSeen = m.annSeen) :
    (s.modMg p f).Sound := (sameStaged_modMg s p f h1 h2).sound h

theorem sameStaged_announceOff (s : State) (p : Part) : SameStaged s (s.announceOff p) :=
  SameStaged.trans (t := s.modMg p (fun m => { m with annRelayed := m.annRelayed ++ [((s.common p).commitGroup, (s.common p).catchAt)] }))
    (sameStaged_modMg _ _ _ (fun _ => rfl) (fun _ => rfl)) (sameStaged_on _ _)

theorem sameStaged_failCommit (s : State) (p : Part) (obj : Nat) : SameStaged s (s.failCommit p obj) := by
  unfold State.failCommit
  simp only []
  split
  · exact (sameStaged_modCommon _ _ _).trans (sameStaged_announceOff _ _)
  · exact sameStaged_modCommon _ _ _

theorem sameStaged_commitNow (s : State) (p : Part) (m : Master) : SameStaged s (s.commitNow p m) := sameStaged_modCommon _ _ _

theorem sameStaged_commitAt (s : State) (p : Part) (m : Master) : SameStaged s (s.commitAt p m) := by
  unfold State.commitAt
  simp only []
  split
  · exact SameStaged.refl _
  · split
    · exact (sameStaged_modCommon _ _ _).trans (sameStaged_modCommon _ _ _)
    · split
      · exact (sameStaged_modCommon _ _ _).trans (sameStaged_failCommit _ _ _)
      · exact (sameStaged_modCommon _ _ _).trans (sameStaged_modCommon _ _ _)

/-! ### Operations that keep soundness -/

/-- A cox core whose staging is emptied is sound if it was. -/
theorem sound_clear (s : State) (p : Part) (h : s.Sound) : (s.modMg p (fun m => { m with shadow := [] })).Sound := by
  have core : ∀ (q : Part) (m : Mgmt), m.Sound q → Mgmt.Sound q { m with shadow := [] } := fun q m hm => ⟨by simp, by simp, by simp, hm.2.2.2⟩
  cases p
  · exact ⟨core _ _ h.1, h.2⟩
  · exact ⟨h.1, core _ _ h.2⟩

theorem sound_reset (s : State) (p : Part) (h : s.Sound) : (s.setMg p {}).Sound := by
  have core : ∀ q : Part, Mgmt.Sound q {} := fun q => ⟨by simp, by simp, by simp, by simp⟩
  cases p
  · exact ⟨core _, h.2⟩
  · exact ⟨h.1, core _⟩

theorem sound_commitAbort (s : State) (p : Part) (h : s.Sound) : (s.commitAbort p).Sound := by
  unfold State.commitAbort
  simp only []
  split
  · exact h
  · have h1 := sound_clear (s.modCommon p (fun c => ({ c with shadowErr := [], armedAt := none, scheduled := false } : Common).setCommitState csOpen)) p h
    split
    · exact (sameStaged_announceOff _ _).sound h1
    · exact h1

/-- Staging one object: the entry is new and fits, or it is there already. -/
theorem sound_stage (s : State) (p : Part) (r : ObjRow) (key : Nat) (mask v : Obj) (h : s.Sound) (hr : findRow p key = some r)
    (hs : r.staged p = true) (hn : (s.mg p).shadow.any (fun e => e.1 == key) = true ∨ (s.mg p).shadow.length < 8192) : (s.stage p r key mask v).Sound := by
  have core : ∀ (m : Mgmt) (x : Obj), m.Sound p → (m.shadow.any (fun e => e.1 == key) = true ∨ m.shadow.length < 8192) →
      Mgmt.Sound p { m with shadow := SMap.insert m.shadow key x } := by
    intro m x hm hn
    refine ⟨?_, insert_keys _ _ _ hm.2.1, ?_, hm.2.2.2⟩
    · rcases hn with hn | hn
      · exact Nat.le_trans (Nat.le_of_eq ((insert_length m.shadow key x).2 hn hm.2.1)) hm.1
      · exact Nat.le_trans (insert_length m.shadow key x).1 hn
    · intro e he
      rcases SMap.mem_insert _ _ _ _ he with he | he
      · subst he; exact ⟨r, hr, hs⟩
      · exact hm.2.2.1 e he
  cases p
  · exact ⟨core _ _ h.1 hn, h.2⟩
  · exact ⟨h.1, core _ _ h.2 hn⟩

theorem sound_ite {c : Prop} [Decidable c] {a b : State} (ha : a.Sound) (hb : b.Sound) : (if c then a else b).Sound := by split <;> assumption

theorem sound_immediate (s : State) (p : Part) (m : Master) (r : ObjRow) (key : Nat) (mask v : Obj) (h : s.Sound) :
    (s.immediate p m r key mask v).Sound := by
  have view : ∀ x : Bool, (s.modMg p (fun c => match m with
      | .fieldBus => { c with stageViewF := x }
      | .pcie => { c with stageViewP := x })).Sound := by
    intro x
    refine (sameStaged_modMg _ _ _ (fun g => ?_) (fun g => ?_)).sound h <;> cases m <;> rfl
  have mc : ∀ (f : Common → Common) (s : State), s.Sound → (s.modCommon p f).Sound := fun _ _ h => h
  have on : ∀ (f : Block → Block) (s : State), s.Sound → (s.on f).Sound := fun _ _ h => h
  have cmd : ∀ n : Nat, (match n with
      | 1 => s.commitNow p m
      | 2 => s.commitAt p m
      | _ => s.commitAbort p).Sound := by
    intro n
    split
    · exact h
    · exact (sameStaged_commitAt _ _ _).sound h
    · exact sound_commitAbort _ _ h
  have q : ∀ (n : Nat) (a b : State), a.Sound → b.Sound → (match n with
      | 1 => a
      | 2 => b
      | _ => s).Sound := by
    intro n a b ha hb
    split <;> assumption
  have plain := fun (f : Common → Common) (c : Bool) => sound_ite (c := c = true) h (mc f s h)
  unfold State.immediate
  exact sound_ite h <| sound_ite (cmd _) <| sound_ite (mc _ _ h) <| sound_ite (view _) <| sound_ite (sound_ite (mc _ _ h) h) <|
    sound_ite (sound_ite (mc _ _ h) h) <| sound_ite (sound_ite (on _ _ h) h) <|
    sound_ite (sound_ite (mc _ _ (sound_ite (mc _ _ (sound_ite (mc _ _ h) h)) (sound_ite (mc _ _ h) h))) (sound_ite (mc _ _ (sound_ite (mc _ _ h) h)) (sound_ite (mc _ _ h) h))) <|
    sound_ite (sound_ite (on _ _ (plain _ _)) (plain _ _)) <| sound_ite (on _ _ h) <| sound_ite (on _ _ h) <| sound_ite (q _ _ _ (on _ _ h) (on _ _ h)) <|
    sound_ite (on _ _ h) <| sound_ite (on _ _ h) (plain _ _)

theorem sound_writeApply (s : State) (p : Part) (m : Master) (key : Nat) (mask v : Obj) (h : s.Sound) (hst : s.writeStatus p m key mask v = hsOk) :
    (s.writeApply p m key mask v).Sound := by
  unfold State.writeApply
  split
  · exact h
  · rename_i r hr
    simp only []
    have h1 : ((s.modCommon p (fun c => c.renew m)).modMg p (fun g => { g with lastWrite := some ((s.common p).stroke, masterCode m, key, mask.toNat, v.toNat) })).Sound :=
      sound_modMg h (by intro; rfl) (by intro; rfl)
    refine sound_immediate _ _ _ _ _ _ _ ?_
    split
    · rename_i hstage
      refine sound_stage _ _ _ _ _ _ h1 hr ?_ ?_
      · cases hx : r.staged p with
        | true => rfl
        | false => simp [ObjRow.stageMask, hx] at hstage
      · unfold State.writeStatus at hst
        have hserve : (if (s.common p).serves key = true then findRow p key else none) = some r := by
          by_cases hv : (s.common p).serves key = true
          · simp [hv, hr]
          · simp [hv, hsOk, hsNoObject] at hst
        simp only [hserve] at hst
        split at hst
        · exact absurd hst (by decide)
        · split at hst
          · exact absurd hst (by decide)
          · split at hst
            · exact absurd hst (by decide)
            · split at hst
              · exact absurd hst (by decide)
              · rename_i _ _ _ hfull
                simp only [State.modMg_mg, State.modCommon_mg]
                simp only [hstage, Bool.true_and, Bool.and_eq_true, Bool.not_eq_true', decide_eq_true_eq, not_and, Nat.not_le] at hfull
                cases hany : (s.mg p).shadow.any (fun e => e.1 == key) with
                | true => exact .inl rfl
                | false => exact .inr (hfull hany)
    · exact h1

theorem sound_writeObj (s : State) (p : Part) (m : Master) (key : Nat) (mask v : Obj) (h : s.Sound) : (s.writeObj p m key mask v).2.Sound := by
  unfold State.writeObj
  simp only []
  split
  · exact h
  · rename_i hst
    have hst : s.writeStatus p m key mask v = hsOk := by simpa using hst
    split
    · exact (sameStaged_modCommon _ _ _).sound h
    · exact (sameStaged_modCommon _ _ _).sound (sound_writeApply _ _ _ _ _ _ h hst)
    · exact sound_writeApply _ _ _ _ _ _ h hst

theorem sound_writeSlots (p : Part) (slots : List Obj) : ∀ (s : State) (key sub : Nat), s.Sound → (s.writeSlots p key sub slots).2.2.Sound := by
  induction slots with
  | nil => intro s key sub h; exact h
  | cons v rest ih =>
    intro s key sub h
    unfold State.writeSlots
    split
    · exact h
    · simp only []
      have h1 := sound_writeObj s p .fieldBus key (BitVec.allOnes 128) v h
      split
      · exact h1
      · exact ih _ _ _ h1

/-! ### Haoth -/

theorem sound_haoth (s : State) (p : Part) (via : Option Nat) (op : Nat) (r : HaothReq) (ok : Bool) (body : List Byte) (f : State → State)
    (h : s.Sound) (hf : ∀ s : State, s.Sound → (f s).Sound) : (s.haoth p via op r ok body f).Sound := by
  unfold State.haoth
  simp only []
  split
  · exact h
  · split
    · exact h
    · split
      · exact h
      · split
        · exact hf s h
        · split
          · split
            · unfold State.relayRequest
              simp only []
              exact (sameStaged_on _ _).sound (sound_modMg h (by intro; rfl) (by intro; rfl))
            · exact h
          · split
            · exact hf s h
            · exact h

theorem sound_haothRead (s : State) (p : Part) (via : Option Nat) (r : HaothReq) (h : s.Sound) : (s.haothRead p via r).Sound := by
  refine sound_haoth _ _ _ _ _ _ _ _ h (fun s h => ?_)
  simp only []
  repeat' split
  all_goals exact h

theorem sound_haothWrite (s : State) (p : Part) (via : Option Nat) (r : HaothReq) (slots : List Obj) (h : s.Sound) : (s.haothWrite p via r slots).Sound := by
  refine sound_haoth _ _ _ _ _ _ _ _ h (fun s h => ?_)
  have h1 := sound_writeSlots p slots s (ob r.index.toNat r.sub.toNat) r.sub.toNat h
  simp only []
  split <;> exact h1

theorem sound_eventRead (s : State) (p : Part) (via : Option Nat) (r : HaothReq) (h : s.Sound) : (s.eventRead p via r).Sound :=
  sound_haoth _ _ _ _ _ _ _ _ h (fun _ h => h)

theorem sound_haothCommit (s : State) (p : Part) (via : Option Nat) (r : HaothReq) (cmd group at_ : Nat) (h : s.Sound) :
    (s.haothCommit p via r cmd group at_).Sound :=
  sound_haoth _ _ _ _ _ _ _ _ h (fun _ h => (sameStaged_modCommon _ _ _).sound (sound_ite h (sound_ite ((sameStaged_commitNow _ _ _).sound h)
    (sound_ite ((sameStaged_commitAt _ _ _).sound h) (sound_commitAbort _ _ h)))))

theorem sound_mgmtWrite (s : State) (p : Part) (m : Master) (key : Nat) (f : State → State) (h : s.Sound) (hf : ∀ s : State, s.Sound → (f s).Sound) :
    (s.mgmtWrite p m key f).Sound := by
  unfold State.mgmtWrite
  simp only []
  split
  · exact h
  · split
    · exact hf _ h
    · exact h

theorem sound_relayedRequest (s : State) (link mac : Nat) (b : List Byte) (h : s.Sound) : (s.relayedRequest link mac b).Sound := by
  have bad : (s.modCommon .oe36 (fun c => c.badFrame mac)).Sound := h
  unfold State.relayedRequest
  exact sound_ite bad <| sound_ite (sound_ite (sound_haothRead _ _ _ _ h) bad) <| sound_ite (sound_ite (sound_haothWrite _ _ _ _ _ h) bad) <|
    sound_ite (sound_ite (sound_haothCommit _ _ _ _ _ _ _ h) bad) <| sound_ite (sound_ite (sound_eventRead _ _ _ _ h) bad) bad

/-- Taking in a piece of a relayed frame stages nothing. -/
theorem gather_shadow (m : Mgmt) (k : Nat) (p : Packet) : (m.gather k p).2.shadow = m.shadow ∧ (m.gather k p).2.annSeen = m.annSeen := by
  unfold Mgmt.gather
  simp only []
  repeat' split
  all_goals exact ⟨rfl, rfl⟩

/-- Hearing an announcement remembers at most 16. -/
theorem hearAnn_length (m : Mgmt) (group at_ : Nat) : (m.hearAnn group at_).annSeen.length ≤ 16 := by
  unfold Mgmt.hearAnn
  simp only [List.length_drop]
  omega

/-! ### A CCLK -/

theorem sound_catchNow (s : State) (p : Part) (h : s.Sound) : (s.catchNow p).Sound := sound_ite (sound_clear (s.on _) p h) h
theorem sound_on (s : State) (f : Block → Block) (h : s.Sound) : (s.on f).Sound := h
theorem sound_cclk (s : State) (h : s.Sound) : s.cclk.Sound :=
  sound_on _ _ (sound_catchNow _ _ (sound_catchNow _ _ (sound_on _ _ (sound_catchNow _ _ (sound_catchNow _ _ h)))))

end Sys2Proof.Machine
end

