-- ==== Sys2Proof/Laws/Switch.lean ====
section
/-!
SUPPORT. The switch: a packet that takes a cell, a match with one candidate, chunks of a member, and folds over lines.
-/
namespace Sys2Proof.Machine

/-! ### Cells and matches -/

theorem enq (b : Block) (i o : Nat) (p : Packet) (h : b.poolAllows i (pNet p) true = true) (hf : b.ox.fresh < numCells) : b.enqueue i o p = some (b.enqueued i o p) := by
  unfold Block.enqueue Block.enqueueAll
  simp only [h, Ox.takeCell, if_pos hf, Bool.not_true, Bool.false_eq_true, if_false, Bool.true_and, List.isEmpty_nil, if_true, List.length_cons, List.length_nil, List.foldl_cons, List.foldl_nil]
  rfl

theorem iterate_one (i o : Nat) (g a : SMap Nat) : iterate [(i, o)] g a = [(i, o)] := by
  simp [iterate, firstAfter, List.eraseDups, List.eraseDupsBy, List.eraseDupsBy.loop]

theorem iterate_nil (g a : SMap Nat) : iterate [] g a = [] := rfl

theorem serveOrder_one (s : Block) (i o n : Nat) (h : n < 5) : s.serveOrder [n] i o = some n := by
  unfold Block.serveOrder
  have e1 : [0, 1, 2, 3, 4].filter (fun m => [n].contains m) = [n] := by
    match n, h with
    | 0, _ => rfl
    | 1, _ => rfl
    | 2, _ => rfl
    | 3, _ => rfl
    | 4, _ => rfl
  have e2 : [1, 4, 0, 3, 2].find? (fun m => [n].contains m) = some n := by
    match n, h with
    | 0, _ => rfl
    | 1, _ => rfl
    | 2, _ => rfl
    | 3, _ => rfl
    | 4, _ => rfl
  simp only [e1, e2, List.find?_cons, List.find?_nil]
  cases decide (s.sw.fld (ob 0x5000 0) 0 8 ≤ (s.ox.voq i o n).passed) <;> rfl

theorem unitPump_nil (b : Block) (h : b.ox.unitQ = []) : b.unitPump = b := by
  unfold Block.unitPump; rw [h]
  obtain ⟨ep, sw, oe, ox, fr⟩ := b
  simp only [List.foldl_nil, Block.modOx]
  rw [← h]

theorem rerouteAll_one (b : Block) (i o n : Nat) (v : Voq) (ho : o < 72) (hn : n < 5) (h : b.ox.voqs = [(voqKey i o n, v)]) : b.rerouteAll = b := by
  unfold Block.rerouteAll
  have e : voqKey i o n / 8 % 128 = o := by unfold voqKey; omega
  simp only [h, List.foldl_cons, List.foldl_nil, e]
  rw [if_neg (by omega)]

theorem serve_one (b : Block) (i o n k t : Nat) (c : Cell) (hn : n < 5) (hv : b.ox.voqs = [(voqKey i o n, { cells := [(k, t)], passed := 0 })]) (hc : b.ox.cell k = some c) (hcp : c.copies = [])
    (ht : t < b.sw.stroke) (hold : b.tooOld c = false) (htk : b.outputTakes o c.pkt = true) (ho : o < 72) (hf : pFrame c.pkt ≤ 512) :
    (b.serve [(i, o, n)] b.sw.stroke i o).ox = { b.ox with voqs := [], flight := b.ox.flight ++ [⟨i, o, k⟩] } ∧ (b.serve [(i, o, n)] b.sw.stroke i o).sw.txq = b.sw.txq
      ∧ (b.serve [(i, o, n)] b.sw.stroke i o).ep = b.ep ∧ (b.serve [(i, o, n)] b.sw.stroke i o).oe = b.oe := by
  have e0 : b.ox.voq i o n = { cells := [(k, t)], passed := 0 } := by unfold Ox.voq; rw [hv]; simp [SMap.get]
  have hself : b.ox.setVoq i o n { cells := [(k, t)], passed := 0 } = b.ox := by
    unfold Ox.setVoq; rw [hv]
    rw [show SMap.set {} [(voqKey i o n, ({ cells := [(k, t)], passed := 0 } : Voq))] (voqKey i o n) { cells := [(k, t)], passed := 0 } = [(voqKey i o n, ({ cells := [(k, t)], passed := 0 } : Voq))] by simp [SMap.set, SMap.insert]]
    rw [← hv]
  have hdrop : ∀ x : Ox, x.voqs = [(voqKey i o n, { cells := [(k, t)], passed := 0 })] → x.setVoq i o n { cells := [], passed := 0 } = { x with voqs := [] } := by
    intro x hx; unfold Ox.setVoq; rw [hx]; simp [SMap.set, SMap.drop]
  unfold Block.serve
  simp only [List.filter_cons, List.filter_nil, beq_self_eq_true, Bool.and_self, if_true, List.map_cons, List.map_nil, serveOrder_one _ _ _ _ hn, List.foldl_cons, List.foldl_nil]
  have hs1 : (b.modOx fun x => x.setVoq i o n { cells := (x.voq i o n).cells, passed := 0 }) = b := by
    unfold Block.modOx; simp only [e0, hself]
  rw [hs1]
  simp only [e0, List.length_cons, List.length_nil, Nat.zero_add]
  have hg : ∀ w : Common, w.stroke = b.sw.stroke → w.fld (ob 0x5100 0) 0 16 = b.sw.fld (ob 0x5100 0) 0 16 → w.fld (ob 0x3001 o) 0 3 = b.sw.fld (ob 0x3001 o) 0 3 → w.links = b.sw.links → w.txq = b.sw.txq →
      ({ b with sw := w } : Block).grantMove i o n b.sw.stroke 0 1 = { b with sw := w, ox := { b.ox with voqs := [], flight := b.ox.flight ++ [⟨i, o, k⟩] } } := by
    intro w w1 w2 w5 w3 w4
    unfold Block.grantMove
    simp only [e0, hc]
    have h1 : ({ b with sw := w } : Block).tooOld c = false := by
      rw [← hold]; unfold Block.tooOld Common.since; simp only [w1, w2]
    have h2 : ({ b with sw := w } : Block).outputTakes o (c.pktFor o) = true := by
      rw [← htk]; unfold Block.outputTakes Cell.pktFor; rw [hcp]; simp only [List.find?_nil, if_pos ho]
      unfold Common.linkTakes Common.lstate Common.queuedCredits Common.link; simp only [w3, w4, w5]
    rw [h1]
    simp only [Bool.false_eq_true, if_false]
    rw [if_pos ⟨ht, by omega, h2⟩]
    unfold Block.grantMove Block.popVoq Block.modOx
    simp only [e0, List.drop_succ_cons, List.drop_zero, hdrop _ hv]
  rw [show (b.modSw fun c => c.count (ob 0x5001 0) 0 64 1) = ({ b with sw := b.sw.count (ob 0x5001 0) 0 64 1 } : Block) from rfl]
  have hw := hg (b.sw.count (ob 0x5001 0) 0 64 1) (Common.count_stroke _ _ _ _ _) (Common.fld_count_ne _ _ _ _ _ _ _ _ (by decide)) (Common.fld_count_ne _ _ _ _ _ _ _ _ (by unfold ob; omega)) (Common.count_links _ _ _ _ _) (Common.count_txq _ _ _ _ _)
  have hx : (b.sw.count (ob 0x5001 0) 0 64 1).txq = b.sw.txq := rfl
  generalize b.sw.count (ob 0x5001 0) 0 64 1 = w at hw hx
  rw [hw]
  split <;> exact ⟨rfl, hx, rfl, rfl⟩

theorem fullScan_one (b : Block) (i o n k t : Nat) (c : Cell) (ho : o < 72) (hn : n < 5) (h : b.ox.voqs = [(voqKey i o n, { cells := [(k, t)], passed := 0 })]) (hc : b.ox.cell k = some c) :
    ∃ l, b.fullScan = b.modOx (fun x => { x with fullWaiting := l }) := by
  have e : voqKey i o n / 8 % 128 = o := by unfold voqKey; omega
  have hq : ¬ (106 ≤ o ∧ o < 122 ∧ b.queueTakes o (c.pktFor o) = false) := fun h => by omega
  unfold Block.fullScan
  simp only [h, List.filterMap_cons, List.filterMap_nil, e, hc, Option.bind_some, if_neg hq, List.foldl_nil]
  exact ⟨_, rfl⟩

/-! ### Collectives -/

theorem collIn_some (b : Block) (opc plane p f) (l : MLaunch) (hh : b.homeHears (.plane plane) p) (ho : pOpc p = opc) (h1 : (b.takeIn (.plane plane) p).oe.launches.find? (fun l => l.ctx == cCtx p) = some l)
   (h2 : pSrcSw p = true) (h3 : pSrc p % 1024 / 16 = b.epRack) (h4 : l.planes.contains (pSrc p % 16) = true) : b.collIn opc plane p f = f (b.takeIn (.plane plane) p) l := by
  unfold Block.collIn
  rw [atEp_hears b _ _ p _ hh ho]
  simp only [h1, h2]
  rw [if_pos (by rw [h4, beq_iff_eq.2 h3]; rfl)]

theorem collIn_none (b : Block) (opc plane p f) (hh : b.homeHears (.plane plane) p) (ho : pOpc p = opc) (h1 : (b.takeIn (.plane plane) p).oe.launches.find? (fun l => l.ctx == cCtx p) = none) :
   b.collIn opc plane p f = { b.takeIn (.plane plane) p with ep := (b.takeIn (.plane plane) p).ep.count (ob 0x7500 2) 0 32 1 } := by
  unfold Block.collIn
  rw [atEp_hears b _ _ p _ hh ho]
  simp only [h1]; rfl

theorem here (b : Block) (p) (h1 : pDstSw p = true) (h2 : pDst p = b.swId) : b.collHere p = true := by
  unfold Block.collHere; rw [h1, h2]; simp

/-! ### Vector operations -/

theorem settle_nil (g : Group) (now : Nat) (h : g.pend = []) : g.settle now = g := by
  unfold Group.settle; simp only [h, List.filter_nil, List.foldl_nil]; rw [← h]

theorem source_reg (s : Block) (g key r : Nat) (h : r < 28) : s.source g key r = ((s.ox.group g).reg r, List.replicate numBlocks true, s) := by
  unfold Block.source
  rw [if_neg (by omega), if_neg (by omega), if_neg (by omega)]

theorem SMap_get_set {α} [DecidableEq α] (d : α) (m : SMap α) (k : Nat) (v : α) (h : v ≠ d) : SMap.get d (SMap.set d m k v) k = v := by
  unfold SMap.set; rw [if_neg h]
  induction m with
  | nil => simp [SMap.insert, SMap.get]
  | cons a t ih => 
    unfold SMap.insert; split
    · simp [SMap.get]
    · split
      · simp [SMap.get]
      · rename_i h1 h2
        simp only [SMap.get] at ih ⊢
        rw [if_neg (by omega)]; try exact ih

/-! ### Folds over lines -/

theorem fold_sw (l : List Nat) (g : Common → Nat → Common) (f : Common → Nat → Common) (h : ∀ c i, f c i = g c i) : ∀ b : Block,
   l.foldl (fun s i => s.modSw (fun c => f c i)) b = { b with sw := l.foldl g b.sw } := by
  induction l with
  | nil => intro b; rfl
  | cons x xs ih => intro b; simp only [List.foldl_cons]; rw [ih]; simp only [Block.modSw, h]

theorem filter_one (n : Nat) (p : Nat → Bool) (i : Nat) (hi : i < n) (h : ∀ j, j < n → (p j = true ↔ j = i)) : (List.range n).filter p = [i] := by
  induction n with
  | zero => omega
  | succ n ih =>
    rw [List.range_succ, List.filter_append]
    by_cases hn : i = n
    · subst hn
      have : (List.range i).filter p = [] := by
        rw [List.filter_eq_nil_iff]; intro a ha; have := List.mem_range.1 ha; rw [h a (by omega)]; omega
      rw [this]; simp [(h i (by omega)).2 rfl]
    · have := ih (by omega) (fun j hj => h j (by omega))
      rw [this]
      have : p n ≠ true := fun hp => hn ((h n (by omega)).1 hp).symm
      simp [this]

theorem bitAt_pow (n i : Nat) : bitAt (2 ^ n) i = true ↔ i = n := by
  have : bitAt (2 ^ n) i = (2 ^ n).testBit i := by
    unfold bitAt; rw [Nat.testBit_eq_decide_div_mod_eq]; rfl
  rw [this, Nat.testBit_two_pow]; simp [eq_comm]

/-! ### What a pump leaves -/

theorem engineKick_sw (b : Block) : b.engineKick.sw = b.sw := by
  unfold Block.engineKick; split
  · split <;> rfl
  · rfl

theorem hallSort_reset (b : Block) : b.hallSort.sw.inReset = b.sw.inReset := by
  have : b.hallSort.sw = b.sw := by
    unfold Block.hallSort
    split
    · unfold Block.hallLeave
      simp only []
      repeat' split
      all_goals first | rfl | exact engineKick_sw _
    · split
      · rfl
      · exact engineKick_sw _
  rw [this]

theorem countSymbols (now : Nat) (is : List (BitVec 5)) (l : Link) : ∃ x y, is.foldl (fun l i => l.countSymbol now i.toNat) l = { l with symErrors := x, symSince := y } := by
  induction is generalizing l with
  | nil => exact ⟨l.symErrors, l.symSince, rfl⟩
  | cons i r ih =>
    obtain ⟨x, y, h⟩ := ih (l.countSymbol now i.toNat)
    refine ⟨x, y, ?_⟩
    rw [List.foldl_cons, h]
    unfold Link.countSymbol
    split <;> rfl

theorem fecCount_link (c : Common) (k : Nat) (cws : List (Option (List (BitVec 5)))) : ∃ x y, (c.fecCount k cws).link k = { c.link k with symErrors := x, symSince := y } := by
  unfold Common.fecCount
  simp only []
  rw [link_modLink]
  exact countSymbols _ _ _

theorem fecCount_lstate (c : Common) (k : Nat) (cws : List (Option (List (BitVec 5)))) : (c.fecCount k cws).lstate k = c.lstate k := by
  unfold Common.fecCount
  simp only []
  rw [lstate_modLink]
  unfold Common.lstate
  rw [Common.fld_count_ne _ _ _ _ _ _ _ _ (by unfold ob; omega), Common.fld_count_ne _ _ _ _ _ _ _ _ (by unfold ob; omega)]

end Sys2Proof.Machine
end

