-- ==== Sys2Proof/WellFormed.lean ====
section
/-!
DEFINITION. Which operands a command can carry: payload and list lengths, port numbers and group numbers within their ranges.
-/
namespace Sys2Proof

/-- A packet is short (no payload) or long (256 bytes) (06, R110). -/
def Packet.WellFormed (p : Packet) : Bool := p.payload.length == 0 || p.payload.length == 256

/-- A link of a part: the sixteen crew links of an OE36 (12), the crew ports, hall ports and bridge of an OX720 (06, port numbers). -/
def linkOk : Part → BitVec 7 → Bool
  | .oe36, pp => pp.toNat < 16
  | .ox720, pp => pp.toNat < 0x59

/-- The checks of one command's operands. -/
def Instr.WellFormed : Instr → Bool
  | .ucieWrite _ _ data => data.length == 256
  | .ucieWriteback _ data _ => data.length == 256
  | .ucieSnoopReply _ _ dirty data _ => data.length == (if dirty then 256 else 0)
  | .memRdResponse _ data _ _ => data.length ≤ 256
  | .rd _ p | .wr _ p | .wrmMask _ p | .wrmData _ p | .atomic _ p | .atomicCas _ p | .accWr _ p | .ctrAdd _ p | .handoff _ p
  | .rdShared _ p | .rdOwn _ p | .upgrade _ p | .writeback _ p | .evictClean _ p | .snoopAck _ p | .snoopData _ p
  | .rdData _ p | .ack _ p | .atomicResp _ p | .lineData _ p | .snoopInv _ p | .snoopShare _ p | .nack _ p | .reach _ p
  | .contrib p | .prepass p | .result _ p | .complete _ p | .resendReq _ p | .release _ p | .mirror p | .hallPortIngress _ p
  | .claim p | .announce _ _ p | .hallPing p | .hallEcho p _ | .mgmtData _ _ p | .catchAnn _ _ p => p.WellFormed
  | .crewPortIngress port p => (port.toNat < 72 || port.toNat == 0x58) && p.WellFormed
  | .packetTransmit part pp net => linkOk part pp && decide (net.toNat < 5)
  | .collChunkSend _ _ _ data _ => data.length ≤ 256
  | .exch part pp _ bytes => linkOk part pp && bytes.length == 30
  | .keyx part pp _ _ bytes => linkOk part pp && decide (bytes.length ≤ 30)
  | .flitGroup part pp bytes _ _ _ => linkOk part pp && bytes.length == 260
  | .credit part pp counts => linkOk part pp && counts.length == 5
  | .linePowerMeasure powers _ => powers.length == 18
  | .haothWrite _ r slots => slots.length == r.count.toNat
  | .throttleRelease _ temps => temps.length ≤ 16
  | .farEndPresent part pp _ | .presencePulse part pp | .trainComplete part pp _ | .lockComplete part pp _ | .launchTimeout part pp
  | .exchAck part pp _ _ | .exchResend part pp | .ackFlit part pp _ | .nak part pp _ | .replay part pp _ | .ackTimer part pp
  | .creditTimer part pp | .laneMarker part pp _ _ _ | .laneLossOfLock part pp _ _ | .laneErrorLimit part pp _ _ _
  | .spareSwap part pp _ _ | .spareSwapAck part pp _ _ _ _ | .spareSwapCodeword part pp _ | .keepalive part pp _
  | .linkDown part pp _ | .featherEntry part pp | .feather part pp | .featherExit part pp | .dock part pp | .dockFlit part pp _
  | .dockTimeout part pp | .dockClear part pp | .ergo part pp _ | .ergoDone part pp _ _ | .relaunch part pp => linkOk part pp
  | .drbgReseed _ _ out => out.length ≤ 48
  | .keyExchange _ _ _ _ ecdhe => ecdhe.length == 96
  | _ => true

end Sys2Proof
end

