-- ==== Sys2Proof/Tests/Slice0.lean ====
section
/-!
SUPPORT. Tests: an ill-formed command for each check, single steps whose results are the spec's, and for the hypotheses of every statement states that meet them.
-/
namespace Sys2Proof.Tests

open Machine State

set_option Elab.async false

/-! ### Small states -/

/-- Objects of a part with fields written: (key, lowest bit, width, value). -/
def obs (c : Common) (l : List (Nat × Nat × Nat × Nat)) : Common := l.foldl (fun c e => c.setFld e.1 e.2.1 e.2.2.1 e.2.2.2) c

/-- A part whose firmware runs and that has started. -/
def upC (p : Part) : Common := { (Common.atReset p).setFld (ob 0xA005 0) 0 2 2 with booted := true }

/-- Both parts started, with fields of the endpoint and of the switch written. -/
def started (ep sw : List (Nat × Nat × Nat × Nat)) : Block := { Block.reset with ep := obs (upC .oe36) ep, sw := obs (upC .ox720) sw }

/-- The units after a command. -/
def after (i : Instr) (b : Block) : Block := match exec i { State.reset with blk := b } with
  | .next t => t.blk
  | _ => b

def st (b : Block) : State := { State.reset with blk := b }

/-! ### Hypotheses that are met: translation and the home -/

def missB (m : Miss) : Block := { started [] [] with oe := { misses := [m] } }

theorem wit_WalkersReadTheTables :
    (∃ (b : Block) (m : Miss), (b.oe.misses.filter (fun m => m.walking)).length < 16 ∧ b.oe.misses.find? (fun m => !m.walking) = some m)
    ∧ (∃ (b : Block) (m : Miss) (v : BitVec 64) (ctx : BitVec 6) (g : BitVec 23),
      b.oe.misses.find? (fun m => m.ctx == ctx.toNat && m.granule == g.toNat && m.walking) = some m ∧ m.stale = false ∧ m.level = 1
        ∧ pteV v = true ∧ pteL v = false ∧ pointerInvalid v = false) :=
  ⟨⟨missB ⟨1, 5, [], false, 1, 0, false⟩, ⟨1, 5, [], false, 1, 0, false⟩, by decide +kernel⟩,
   ⟨missB ⟨63, 5, [], true, 1, 0, false⟩, ⟨63, 5, [], true, 1, 0, false⟩, 1, 63, 5, by decide +kernel⟩⟩

def invalB (n : Nat) : Block := { started [] [] with oe := { invals := List.replicate n ⟨0, [], []⟩ } }

theorem wit_InvalidationsAndFaultRing :
    (∃ (b : Block) (m : Master) (v : BitVec 64), b.ep.writable m (ob 0xB102 0) = true ∧ bitsOf v 0 2 ≠ 3 ∧ bitsOf v 41 23 = 0 ∧ b.oe.invals.length < 16)
    ∧ (∃ (b : Block) (i : Inval) (r : List Inval), b.oe.invals = i :: r ∧ b.invalReady i = true)
    ∧ (∃ (b : Block) (m : Master) (v : BitVec 16), b.ep.writable m (ob 0xB103 2) = true ∧ (b.ep.fld (ob 0xB103 1) 0 16 + 2 ^ 16 - v.toNat) % 2 ^ 16 ≤ 128) :=
  ⟨⟨invalB 15, .pcie, 2, by decide +kernel⟩, ⟨invalB 1, ⟨0, [], []⟩, [], by decide +kernel⟩, ⟨started [(ob 0xB103 1, 0, 16, 127)] [], .fieldBus, 65535, by decide +kernel⟩⟩

theorem wit_InvalidationLimit :
    ∃ (b : Block) (m : Master) (v : BitVec 64), b.ep.writable m (ob 0xB102 0) = true ∧ (bitsOf v 0 2 = 3 ∨ bitsOf v 41 23 ≠ 0 ∨ 16 ≤ b.oe.invals.length) :=
  ⟨invalB 16, .pcie, 0, by decide +kernel⟩

theorem test_invalidation_dropped : ([3, 0x20000000000, 2] : List (BitVec 64)).all (fun v =>
    let t := after (.invalCmd .pcie v) (invalB 16)
    t.oe.invals.length == 16 && t.ep.fld (ob 0xB102 3) 0 32 == 1 && t.ep.fld (ob 0xB102 1) 0 16 == 0) = true := by decide +kernel

/-- A home of eight regions, region 3 owned by slot 5 in mode 2 for tenant 7, with deduplication on. -/
def homeB : Block := started [(ob 0xB104 1, 0, 12, 8), (ob 0xB104 0, 29, 23, 1), (regionKey 3, 16, 8, 7), (regionKey 3, 9, 7, 5), (regionKey 3, 7, 2, 2), (ob 0x9030 1, 0, 1, 1)] []

/-- A request of slot 5 to region 3. -/
def req (opc : Nat) (long : Bool) (off tag aop atype bytes : Nat) (w3 : Nat) : Packet :=
  ({ net := 0, long := long, opc := opc, src := 5, tenant := 7 } : Hdr).packet (reqWord tag 0 2 false aop atype bytes 0 false false) (3 * 2 ^ 29 + off) w3 []

/-- A packet of a running endpoint itself is heard. -/
theorem hears_self {b : Block} (p : Packet) (h : b.ep.inReset = false) : b.homeHears .selfServed p := ⟨h, fun _ hk => by cases hk⟩
/-- So is one over a link that passes checks 1 and 2. -/
theorem hears_plane {b : Block} {k : BitVec 4} {p : Packet} (h : b.ep.inReset = false) (hc : classBad p (linkNets .oe36 k.toNat) = false) : b.homeHears (.plane k) p :=
  ⟨h, fun _ hk => by cases hk; exact hc⟩

theorem wit_HomeReads : (∀ p, homeB.homeHears .selfServed p) ∧ homeB.inTurn .selfServed
    ∧ (∀ x ∈ [(0x01, 0, 0, 256), (0x05, 0, 1, 8), (0x06, 7, 1, 8), (0x07, 1, 0, 4)],
        let p := req x.1 false 256 9 x.2.1 x.2.2.1 x.2.2.2 0
        pCc p = false ∧ (homeB.arrived .selfServed p).homeServes p x.1)
    ∧ (∀ x ∈ [0x0A, 0x0B, 0x0C], let p := req x false 128 9 0 0 128 0
        (homeB.arrived .selfServed p).homeServes p x ∧ (homeB.arrived .selfServed p).snoopsFor p = [] ∧ (homeB.arrived .selfServed p).dirFull p = false) :=
  ⟨fun p => hears_self p (by decide +kernel), by decide +kernel⟩

/-- The home once a WRM_MASK has brought the mask of its first two bytes. -/
def maskB : Block := after (.wrmMask .selfServed { req 0x03 true 256 9 0 0 256 0 with payload := 3 :: List.replicate 255 0 }) homeB

/-- The home with a line of region 3 modified at the member of slot 5. -/
def lineB (stt : Nat) : Block := { homeB with oe := { dir := [⟨(3 * 2 ^ 29 + 128) / 128, stt, 2 ^ 5⟩] } }

theorem wit_HomeWrites :
    (∀ b ∈ [homeB, maskB, lineB 3, lineB 2], b.ep.inReset = false ∧ b.inTurn .selfServed)
    ∧ (let p := req 0x02 true 255 9 0 0 1 0; pCc p = false ∧ (homeB.arrived .selfServed p).homeServes p 0x02)
    ∧ (let p := req 0x04 true 256 9 0 0 256 0
       let t := maskB.arrived .selfServed p
       ∃ m, pCc p = false ∧ maskB.oe.masks.find? (fun m => sameRequest m p) = some m ∧ ({ t with oe := { t.oe with masks := eraseFirst (fun x => x == m) t.oe.masks } } : Block).homeServes p 0x04)
    ∧ (let p := req 0x0D true 128 9 0 0 128 0
       let t := (lineB 3).arrived .selfServed p
       t.snoopsFor p = [] ∧ t.dirEnt (pOffset p / 128) = some ⟨(3 * 2 ^ 29 + 128) / 128, 3, 2 ^ 5⟩ ∧ 3 ≠ 1 ∧ bitAt (2 ^ 5) (memberOf (pSlot p)) = true ∧ t.homeServes p 0x0D)
    ∧ (let p := req 0x0E false 128 9 0 0 128 0
       let t := (lineB 2).arrived .selfServed p
       t.snoopsFor p = [] ∧ t.dirEnt (pOffset p / 128) = some ⟨(3 * 2 ^ 29 + 128) / 128, 2, 2 ^ 5⟩ ∧ 2 ≠ 3 ∧ bitAt (2 ^ 5) (memberOf (pSlot p)) = true ∧ t.homeServes p 0x0E)
    ∧ pOpc (req 0x03 true 256 9 0 0 256 0) = 0x03 :=
  ⟨by decide +kernel, by decide +kernel, ⟨{ req 0x03 true 256 9 0 0 256 0 with payload := 3 :: List.replicate 255 0 }, by decide +kernel⟩, by decide +kernel,
   by decide +kernel, by decide +kernel⟩

/-- A home with a snoop out for line 1 of region 3, sent at stroke 0, resent `n` times, read at stroke 200,000,000. -/
def snoopB (n : Nat) : Block := { lineB 3 with
  ep := { homeB.ep with stroke := 200000000 }
  oe := { (lineB 3).oe with snoops := [⟨4, (3 * 2 ^ 29 + 128) / 128, 5, none, true, 0, n⟩] } }

/-- The reply of the member of slot 5 to snoop 4. -/
def snoopReply (opc : Nat) (long : Bool) : Packet := ({ net := 1, long := long, opc := opc, src := 5, dst := 0 } : Hdr).packet (rspWord 4 0 0 128) 0 0 (List.replicate 128 1)

/-- A handoff of region 3 to slot 6 that stands first at the home. -/
def handoffB : Block := after (.handoff .selfServed (req 0x09 false 0 9 0 0 1 6)) homeB

/-- The same home one CCLK on, and with a commit that catches in this CCLK. -/
def laterB : Block := { handoffB with ep := { handoffB.ep with stroke := handoffB.ep.stroke + 1 } }
def catchB : Block := { laterB with ep := { laterB.ep.setFld (ob 0x2000 2) 0 3 2 with armedAt := some laterB.ep.stroke } }

/-- A home that has taken a packet of plane 3 in this CCLK: one of plane 2 is late. -/
def pastB : Block := { homeB with oe := { lastVia := (homeB.ep.stroke, viaRank (.plane 3)) } }

theorem wit_HomeOrders :
    (∀ b ∈ [homeB, snoopB 0, snoopB 255, handoffB, pastB], b.ep.inReset = false)
    ∧ (homeB.inTurn .selfServed ∧ ∀ x ∈ [0x08, 0x09], (homeB.arrived .selfServed (req x false 0 9 0 0 1 6)).homeServes (req x false 0 9 0 0 1 6) x)
    ∧ (∀ x ∈ [(0x16, false), (0x17, true)], let p := snoopReply x.1 x.2
        let t := (snoopB 0).takeIn (.plane 3) p
        classBad p (linkNets .oe36 3) = false ∧ pOpc p = x.1 ∧ t.oe.hops = [] ∧ (t.oe.snoops.find? (fun x => x.tag == pTag p && x.member == memberOf (pSlot p))).isSome = true)
    ∧ (¬ pastB.inTurn (.plane 2) ∧ ∀ x ∈ [1, 2, 5, 6, 7, 8, 9, 10, 11, 12, 13, 14],
        let p := req x (x == 2 || x == 6 || x == 7 || x == 13) 0 9 0 0 1 6
        classBad p (linkNets .oe36 2) = false ∧ pOpc p = x)
    ∧ (∀ x ∈ [1, 2, 3, 4, 5, 6, 7, 8, 9, 10, 11, 12, 13, 14, 22, 23], let p := { req x false 0 9 0 0 1 6 with w0 := (req x false 0 9 0 0 1 6).w0 ||| 4 }
        classBad p (linkNets .oe36 2) = true ∧ pOpc p = x)
    ∧ (∀ b ∈ [handoffB, laterB, catchB], ∃ h : HomeOp, b.oe.hops = [h] ∧ pOpc h.p = 0x09 ∧ pRegion h.p = (3 : BitVec 11).toNat ∧ (3 : BitVec 11).toNat < b.ep.homeGranules
        ∧ ({ b with ep := b.ep.setBit (regionKey 3) 5 false } : Block).duplicate? h.p = none
        ∧ ({ b with ep := b.ep.setBit (regionKey 3) 5 false } : Block).violationOf h.p = none)
    ∧ (handoffB.oe.hops.all (fun h => h.at_ == handoffB.ep.stroke) = true ∧ catchB.ep.catchDue = true ∧ laterB.ep.catchDue = false ∧ laterB.oe.hops.all (fun h => h.at_ != laterB.ep.stroke) = true)
    ∧ (∀ n ∈ [0, 255], let b := snoopB n
        ∃ sn, b.oe.snoops.find? (fun x => x.line == (12582913 : BitVec 33).toNat && x.member == (5 : BitVec 3).toNat) = some sn
          ∧ b.ep.e2eTimeout ≤ b.ep.since sn.sentAt ∧ (n = 0 → sn.tries < b.ep.retryMax) ∧ (n = 255 → b.ep.retryMax ≤ sn.tries ∧ b.oe.hops = [] ∧ (b.dirEnt sn.line).isSome = true))
    ∧ ({ homeB with oe := { clearing := true } } : Block).oe.clearing = true := by
  refine ⟨by decide +kernel, by decide +kernel, by decide +kernel, by decide +kernel, by decide +kernel, ?_, by decide +kernel, ?_, by decide +kernel⟩
  · intro b hb
    exact ⟨(handoffB.oe.hops.head?).getD ⟨0, 0, .selfServed, ⟨0, 0, 0, 0, []⟩, none, .queued⟩, by revert b; decide +kernel⟩
  · intro n hn
    exact ⟨⟨4, 12582913, 5, none, true, 0, n⟩, by revert n; decide +kernel⟩

/-! ### Hypotheses that are met: load/store, queues, descriptors -/

/-- A leaf with every right, cacheable, of tenant 7, onto the window of slot 5. -/
def leaf5 : BitVec 64 := BitVec.ofNat 64 (63 + 7 * 2 ^ 8 + 5 * 2 ^ 40)

def ent5 : TlbEnt := ⟨1, false, 3, leaf5⟩

/-- Context 1 of tenant 7, with granule 3 in the load/store micro-TLB. -/
def lsB : Block := { started [(ob 0x3001 3, 0, 3, 4), (ob 0xB100 1, 0, 1, 1), (ob 0xB100 1, 8, 8, 7)] [] with oe := { micro := [(16, ent5)] } }

def ureq (off size : Nat) (ord : Bool) : UReq := ⟨9, 1, BitVec.ofNat 52 (3 * 2 ^ 29 + off), BitVec.ofNat 9 size, ord, 15⟩

theorem wit_LoadStoreRequests :
    (∀ ord : Bool, lsB.lsHit (lsOf .read (ureq 255 1 ord)) ent5)
    ∧ (let u := ureq 0 256 true; let m := (255 : BitVec 256) &&& byteMask (u.fva.toNat % 256) u.size.toNat
       maskRun m = some (0, 8) ∧ lsB.lsHit { lsOf .write u with mask := m, data := List.replicate 256 1 } ent5)
    ∧ (let u := ureq 0 256 false; let m := (5 : BitVec 256) &&& byteMask (u.fva.toNat % 256) u.size.toNat
       maskRun m = none ∧ lsB.lsHit { lsOf .write u with mask := m, data := List.replicate 256 1 } ent5)
    ∧ lsB.lsHit { lsOf .atomic (ureq 248 8 false) with op := 7, typ := 1, operand := 1, compare := 2 } ent5
    ∧ lsB.lsHit { lsOf .atomic (ureq 248 8 true) with op := 0, typ := 1, operand := 1, compare := 2 } ent5
    ∧ pteCc leaf5 = true
    ∧ (∀ k ∈ [LsKind.rdShared, .rdOwn, .upgrade], lsB.lsHit (lsOf k (ureq 128 128 false)) ent5)
    ∧ lsB.lsHit { lsOf .writeback (ureq 128 128 true) with data := List.replicate 256 1, poison := true } ent5
    ∧ (∀ ord : Bool, lsB.lsHit (lsOf .evict (ureq 128 128 ord)) ent5) :=
  ⟨by decide +kernel, by decide +kernel, by decide +kernel, by decide +kernel, by decide +kernel, by decide +kernel, by decide +kernel, by decide +kernel, by decide +kernel⟩

/-- Where one plane is live for a destination, the free choice among its live planes is that one. -/
theorem anyPlane_one (b : Block) (d p : Nat) (h : b.ep.liveFor d = [p]) : b.anyPlane d = some p := by
  simp [Block.anyPlane, h, Nat.mod_one]

/-- The link of plane 3 is ACTIVE, no other. -/
def planeB : Block := started [(ob 0x3001 3, 0, 3, 4)] []

def fenceB : Block := { started [] [] with oe := { ls := [lsOf .fence ⟨9, 0, 0, 0, false, 0⟩] } }

theorem wit_UcieAnswers :
    (lsB.ep.inReset = false ∧ lsB.oe.ls = [] ∧ lsB.tagFree (9 : BitVec 13).toNat = true)
    ∧ (∃ r : LsReq, fenceB.oe.ls = [r] ∧ r.kind = .fence ∧ r.tag = (9 : BitVec 13).toNat)
    ∧ (∃ p, planeB.ep.inReset = false ∧ (5 : BitVec 7).toNat ≠ planeB.epSlot
        ∧ planeB.anyPlane (5 : BitVec 7).toNat = some p)
    ∧ (65528 : BitVec 16).toNat % 8 = 0 ∧ ((8 : BitVec 9) ≠ 8 ∨ (65535 : BitVec 16).toNat % 8 ≠ 0) :=
  ⟨by decide +kernel, ⟨lsOf .fence ⟨9, 0, 0, 0, false, 0⟩, by decide +kernel⟩, ⟨3, by decide +kernel, by decide +kernel, anyPlane_one _ _ _ (by decide +kernel)⟩, by decide +kernel⟩

theorem wit_DoorbellsMoveTail : lsB.ep.inReset = false ∧ lsB.ep.writable .pcie (qk 0xB014 (1023 : BitVec 10).toNat) = true := by decide +kernel

/-- Queue 3 of engine 2 and tenant 7 in a state, with HEAD 8 of TAIL 9, as `x`. -/
def queueB (state : Nat) (x : Queue) (oe : Oe) (more : List (Nat × Nat × Nat × Nat)) : Block :=
  { started ([(ob 0xB100 1, 0, 1, 1), (ob 0xB100 1, 8, 8, 7), (qk 0xB000 3, 0, 1, 1), (qk 0xB000 3, 52, 4, 2), (qk 0xB000 3, 56, 8, 7), (qk 0xB008 3, 0, 16, 8),
      (qk 0xB008 3, 16, 16, 9), (qk 0xB008 3, 32, 2, state), (qk 0xB008 3, 48, 16, 16), (qk 0xB010 3, 0, 16, 1), (ctrKey 8191, 40, 8, 7), (ob 0x9030 1, 0, 1, 1)] ++ more) []
    with oe := { oe with queues := [(3, x)] } }

/-- The words of a descriptor of context 1. -/
def words (l : List Nat) : List (BitVec 64) := (l.map (BitVec.ofNat 64)).zipWith (fun x i => if i = 0 then x + 64 else x) (List.range 8)

def memB : Block := queueB 1 { fetched := [⟨8, none, false⟩] } { memRds := [(5, some (3, 8))] } []

/-- A home whose access waits for memory. -/
def hopB (p : Packet) (ph : Phase) : Block := { homeB with oe := { hops := [⟨0, 0, .selfServed, p, none, ph⟩] } }

theorem wit_MemoryAnswers :
    (∃ data : List Byte, memB.ep.inReset = false ∧ memB.oe.memRds = [((5 : BitVec 32).toNat, some (3, 8))] ∧ memB.queue 3 = { fetched := [⟨8, none, false⟩] }
      ∧ 3 < 1024 ∧ memB.ep.qHead 3 = 8 ∧ memB.ep.qState 3 = qRunning ∧ memB.run? 3 8 = none
      ∧ memB.headCheck 3 ((List.range 8).map (fun i => BitVec.ofNat 64 (leAt data (8 * i) 8))) = none)
    ∧ (let b := hopB (req 0x01 false 256 9 0 0 256 0) (.reading 5)
       ∃ h, b.ep.inReset = false ∧ b.oe.memRds = [] ∧ b.oe.hops = [h] ∧ h.phase = .reading (5 : BitVec 32).toNat ∧ pOpc h.p = 0x01)
    ∧ (let b := hopB (req 0x02 true 255 9 0 0 1 0) (.writing 5 0 false)
       ∃ h, b.ep.inReset = false ∧ b.oe.hops = [h] ∧ h.phase = .writing (5 : BitVec 32).toNat 0 false ∧ pOpc h.p = 0x02 ∧ pArrEn h.p = false ∧ pCc h.p = false) :=
  ⟨⟨(leBytes 8 70) ++ List.replicate 56 0, by decide +kernel⟩, ⟨⟨0, 0, .selfServed, req 0x01 false 256 9 0 0 256 0, none, .reading 5⟩, by decide +kernel⟩,
   ⟨⟨0, 0, .selfServed, req 0x02 true 255 9 0 0 1 0, none, .writing 5 0 false⟩, by decide +kernel⟩⟩

/-- Queue 3 when it is the turn of its descriptor 8. -/
def turnB (l : List Nat) (more : List (Nat × Nat × Nat × Nat)) : Block := queueB 1 { fetched := [⟨8, some (words l), true⟩] } {} more

/-- A TILE_COPY of 4 bytes from 3 * 2^29 to 5 * 2^29, a FILL, a HANDOFF, an ATOMIC_BATCH of one 64-bit ADD. -/
def copyW : List Nat := [1 + 3 * 2 ^ 27, 0, 0, 0, 3 * 2 ^ 29, 5 * 2 ^ 29, 0, 0]
def fillW : List Nat := [2 + 3 * 2 ^ 27, 0, 0, 0, 0, 5 * 2 ^ 29, 0, 0]
def handW : List Nat := [5, 0, 0, 0, 3 * 2 ^ 29, 71 + 2 * 128, 0, 0]
def batchW : List Nat := [3 + 2 ^ 39, 0, 0, 0, 3 * 2 ^ 29, 0, 0, 0]

theorem wit_DescriptorsIssue_copies :
    (∃ gs, let b := turnB copyW []; let ws := words copyW
      let g : Bool × Nat × Nat × Nat := (false, 3 * 2 ^ 29, 0, 1)
      let rs := (tileSide ws false).range (tileDims ws); let rd := (tileSide ws true).range (tileDims ws)
      b.walkNeeded (b.ep.qEngine 3) (dCtx ws) g.2.1 ∧ b.turn 3 8 ws 1 ∧ footprintBad rs = false ∧ footprintBad rd = false ∧ accShapeBad ws = false
        ∧ sideGranules false 0 rs ++ sideGranules true (if dAcc ws then 3 else 1) rd = g :: gs)
    ∧ (∃ gs, let b := turnB fillW []; let ws := words fillW
      let g : Bool × Nat × Nat × Nat := (true, 5 * 2 ^ 29, 4, 2)
      let rd := (tileSide ws true).range (tileDims ws)
      b.walkNeeded (b.ep.qEngine 3) (dCtx ws) g.2.1 ∧ b.turn 3 8 ws 2 ∧ footprintBad rd = false ∧ sideGranules true 4 rd = g :: gs)
    ∧ (let b := turnB handW []; let ws := words handW
      let g : Bool × Nat × Nat × Nat := (false, bitsOf (dw ws 4) 0 52, 0, 1)
      b.walkNeeded (b.ep.qEngine 3) (dCtx ws) g.2.1 ∧ b.turn 3 8 ws 5 ∧ bitsOf (dw ws 5) 0 7 ≤ 71 ∧ bitsOf (dw ws 5) 7 2 ≠ 3) :=
  ⟨⟨[(true, 5 * 2 ^ 29, 1, 2)], by decide +kernel⟩, ⟨[], by decide +kernel⟩, by decide +kernel⟩

theorem wit_DescriptorsIssue_batch : ∃ gs, let b := turnB batchW []; let ws := words batchW
    let g : Bool × Nat × Nat × Nat := (false, 3 * 2 ^ 29, 0, 1)
    b.walkNeeded (b.ep.qEngine 3) (dCtx ws) g.2.1 ∧ b.turn 3 8 ws 3 ∧ footprintBad (batchList ws) = false ∧ (bitsOf (dw ws 0) 42 1 = 1 → footprintBad (batchArea ws) = false)
      ∧ sideGranules false 0 (batchList ws) = g :: gs :=
  ⟨[], by decide +kernel⟩

/-- A COLLECTIVE_LAUNCH of context 1, an ALL_REDUCE of eight FP32 numbers whose group 2 is this endpoint alone; a DECRYPT_COPY of one byte. -/
def launchW : List Nat := [4 + 2 ^ 27, 0, 0, 0, 3 * 2 ^ 29, 5 * 2 ^ 29, 0, 0]
def launchB : Block := turnB launchW [(ob 0x7100 1, 0, 64, 2 ^ 38 + 2 ^ 31 + 2 * 2 ^ 7 + 2 ^ 19 + 2 ^ 23), (ob 0x7110 1, 0, 64, 8 + 7 * 2 ^ 40), (ob 0x7010 2, 63, 1, 1)]
def decW : List Nat := [8, 0, 0, 0, 3 * 2 ^ 29, 5 * 2 ^ 29, 81 + 255 * 2 ^ 32, 0]

theorem wit_DescriptorsIssue_decrypt : ∃ gs, let b := turnB decW []; let ws := words decW
    let g : Bool × Nat × Nat × Nat := (false, 3 * 2 ^ 29, 0, 1)
    let len := bitsOf (dw ws 6) 0 32
    let rs : Int × Int := (bitsOf (dw ws 4) 0 52, bitsOf (dw ws 4) 0 52 + ((len - 1 : Nat) : Int))
    b.walkNeeded (b.ep.qEngine 3) (dCtx ws) g.2.1 ∧ b.turn 3 8 ws 8 ∧ footprintBad rs = false ∧ 81 ≤ len ∧ sideGranules false 0 rs = g :: gs :=
  ⟨[], by decide +kernel⟩

theorem wit_DescriptorsIssue_launch : ∃ gs, let b := launchB; let ws := words launchW
    let g : Bool × Nat × Nat × Nat := (false, 3 * 2 ^ 29, 0, 1)
    let cfg := b.ep.cfg (bitsOf (dw ws 0) 27 12)
    let bufs := bufGrans (if bitsOf (dw ws 0) 57 1 = 1 then [extBuf ws] else launchBufs cfg (b.memberOf cfg ws) ws none)
    b.walkNeeded (b.ep.qEngine 3) (dCtx ws) g.2.1 ∧ b.turn 3 8 ws 4 ∧ b.launchCheck cfg (b.ep.qTenant 3) ws none = none ∧ bufs.map (fun x => x.2) = g :: gs :=
  ⟨[(true, 5 * 2 ^ 29, 1, 2)], by decide +kernel⟩

/-- Descriptor 8 of queue 3 issued, and what stands of it. -/
def runW (l : List Nat) (f : Run → Run) : Run := f { q := 3, n := 8, engine := 2, tenant := 7, words := words l }
def runB (l : List Nat) (f : Run → Run) (x : Queue) (more : List (Nat × Nat × Nat × Nat)) : Block := queueB 1 x { runs := [runW l f] } more

def addW (op ctr : Nat) : List Nat := [7 + op * 2 ^ 27, 0, 0, 0, ctr * 2 ^ 32 + 5, 5, 0, 0]

theorem wit_FetchFencesAndCounters :
    (let b := queueB 1 {} {} []; b.ep.inReset = false ∧ b.ep.qState 3 = qRunning ∧ b.ep.qEn 3 = true ∧ (b.queue 3).abortTo = none
      ∧ (b.queue 3).fetched.length < 8 ∧ b.nextFetch 3 ≠ b.ep.qTail 3)
    ∧ (∀ scope ∈ [0, 1], (turnB [6 + scope * 2 ^ 27] []).turn 3 8 (words [6 + scope * 2 ^ 27]) 6 ∧ bitsOf (dw (words [6 + scope * 2 ^ 27]) 0) 27 2 = scope)
    ∧ (let b := runB [6] (fun r => r) { fence := some 8 } []
       ∃ r, b.run? 3 8 = some r ∧ r.q = 3 ∧ r.n = 8 ∧ dKind r.words = 6 ∧ r.finished = false ∧ b.oe.runs.any (fun x => x.q == r.q && cntBefore x.n r.n) = false
         ∧ r.waitsFor = [] ∧ b.oe.ls = [] ∧ (∀ k ∈ r.waitsRuns, ∀ x, b.run? k.1 k.2 = some x → b.accessesOver x = true) ∧ (b.queue 3).fetched = [])
    ∧ ((turnB (addW 0 8191) []).turn 3 8 (words (addW 0 8191)) 7 ∧ (turnB (addW 0 8191) []).ep.fld (ctrKey 8191) 40 8 = (turnB (addW 0 8191) []).ep.qTenant 3)
    ∧ (turnB (addW 1 8191) []).turn 3 8 (words (addW 1 8191)) 7
    ∧ ((turnB (addW 2 8191) []).turn 3 8 (words (addW 2 8191)) 7 ∧ bitsOf (dw (words (addW 2 8191)) 5) 0 7 ≤ 71 ∧ engineTag ((turnB (addW 2 8191) []).ep.qEngine 3) 0x2400 = true
      ∧ engineTag ((turnB (addW 2 8191) []).ep.qEngine 3) 0x25FF = true ∧ (turnB (addW 2 8191) []).tagFree 0x2400 = true) :=
  ⟨by decide +kernel, by decide +kernel, ⟨runW [6] (fun r => r), by decide +kernel, by decide +kernel, by decide +kernel, by decide +kernel, by decide +kernel, by decide +kernel,
     by decide +kernel, by decide +kernel, by intro _ h; simp [runW] at h, by decide +kernel⟩, by decide +kernel, by decide +kernel, by decide +kernel⟩

/-- A queue at whose end one record waits, or whose fetched descriptor 8 is to be aborted. -/
def keptB (x : Queue) : Block := queueB 1 x {} [(qk 0xB008 3, 0, 16, 9)]

theorem wit_QueueControl :
    (∀ k ∈ [0, 1, 2, 3], let b := queueB k {} {} []; b.ep.writable .pcie (qk 0xB00C 3) = true ∧ b.ep.qState 3 = k)
    ∧ [qHalted, qRunning] = [2, 1]
    ∧ (∀ k ∈ [1, 2], let b := queueB k {} {} []
       b.ep.writable .fieldBus (qk 0xB00C 3) = true ∧ b.ep.qState 3 = k ∧ (b.queue 3).fetched = [] ∧ (b.queue 3).abortTo = none ∧ b.ep.qHead 3 ≠ b.ep.qTail 3)
    ∧ (let b := keptB { fetched := [⟨8, some (words [6]), true⟩] }
       b.ep.writable .fieldBus (qk 0xB00C 3) = true ∧ b.ep.qState 3 = qRunning ∧ b.queue 3 = { fetched := [⟨8, some (words [6]), true⟩] } ∧ cntBefore 8 (b.ep.qHead 3) = true
         ∧ b.ep.qHead 3 = b.ep.qTail 3 ∧ b.run? 3 8 = none ∧ dSigEn (words [6]) = false ∧ cntDiff (b.ep.cqProd 3) (b.ep.cqCons 3) ≠ b.ep.cqSize 3)
    ∧ (let b := keptB {}; b.ep.writable .pcie (qk 0xB010 3) = true ∧ (b.queue 3).records = [])
    ∧ (let b := queueB 1 { records := [5] } {} []
       b.ep.writable .pcie (qk 0xB010 3) = true ∧ (b.queue 3).records = [5] ∧ cntDiff (b.ep.cqProd 3) (1 : BitVec 16).toNat ≠ b.ep.cqSize 3) := by
  decide +kernel

/-- A started run whose granules are translated to the window of slot 5. -/
def movesW (l : List Nat) (gs : List (Bool × Nat × Nat × Nat)) (f : Run → Run) : Run :=
  runW l (fun r => f { r with started := true, grans := gs, xl := gs.map (fun _ => some (.ok leaf5 false)) })
def movesB (l : List Nat) (gs : List (Bool × Nat × Nat × Nat)) (f : Run → Run) : Block := queueB 1 {} { runs := [movesW l gs f] } []

def copyG : List (Bool × Nat × Nat × Nat) := [(false, 3 * 2 ^ 29, 0, 1), (true, 5 * 2 ^ 29, 1, 2)]
def batchL : Run → Run := fun r => { r with list := leBytes 8 (5 * 2 ^ 29) ++ List.replicate 24 0 }

theorem wit_EngineBursts :
    (let b := movesB copyW copyG (fun r => r); let r := movesW copyW copyG (fun r => r)
     b.run? 3 8 = some r ∧ r.stage ≠ 1 ∧ r.started = true ∧ engineTag r.engine 0x2400 = true ∧ b.tagFree 0x2400 = true ∧ dKind r.words = 1 ∧ r.pieces = [] ∧ r.rdPos < 4
       ∧ ((tileSide r.words false).addr (tileDims r.words) r.rdPos).toNat = 3 * 2 ^ 29 ∧ r.fpa false (3 * 2 ^ 29) = some (5 * 2 ^ 40 + 0))
    ∧ (let b := movesB fillW [(true, 5 * 2 ^ 29, 4, 2)] (fun r => { r with wrPos := 3 }); let r := movesW fillW [(true, 5 * 2 ^ 29, 4, 2)] (fun r => { r with wrPos := 3 })
     b.run? 3 8 = some r ∧ dKind r.words = 2 ∧ r.wrPos < (tileDims r.words).1 ∧ r.pieces = []
       ∧ ((tileSide r.words true).addr (tileDims r.words) r.wrPos).toNat = 5 * 2 ^ 29 + 3 ∧ r.fpa true (5 * 2 ^ 29 + 3) = some (5 * 2 ^ 40 + 3))
    ∧ (let g := [(false, 3 * 2 ^ 29, 0, 1), (true, 5 * 2 ^ 29, 2, 7)]
     let b := movesB batchW g batchL; let r := movesW batchW g batchL
     b.run? 3 8 = some r ∧ dKind r.words = 3 ∧ r.rdPos ≤ bitsOf (dw r.words 0) 27 8 ∧ bitsOf (dw r.words 0) 43 1 = 0 ∧ bitsOf (dw r.words 0) 35 4 ≠ 7
       ∧ leAt r.list (32 * r.rdPos) 8 % 2 ^ 52 = 5 * 2 ^ 29 ∧ r.fpa true (5 * 2 ^ 29) = some (5 * 2 ^ 40))
    ∧ (let b := movesB handW [(false, 3 * 2 ^ 29, 0, 1)] (fun r => r); let r := movesW handW [(false, 3 * 2 ^ 29, 0, 1)] (fun r => r)
     b.run? 3 8 = some r ∧ dKind r.words = 5 ∧ r.rdPos = 0 ∧ bitsOf (dw r.words 4) 0 52 = 3 * 2 ^ 29 ∧ r.fpa false (3 * 2 ^ 29) = some (5 * 2 ^ 40) ∧ b.handoffHeld r (5 * 2 ^ 40) = false)
    ∧ (let g := [(false, 3 * 2 ^ 29, 0, 1)]
     let b := movesB decW g (fun r => { r with stage := 1 }); let r := movesW decW g (fun r => { r with stage := 1 })
     b.run? 3 8 = some r ∧ r.stage = 1 ∧ r.srcPos < r.recordAt.2 ∧ r.recordAt.1 + r.srcPos = 3 * 2 ^ 29 ∧ r.fpa false (3 * 2 ^ 29) = some (5 * 2 ^ 40)) := by
  decide +kernel

/-- A FILL that signals counter 8,191 and writes a record, all its bytes written. -/
def doneW : List Nat := [2 + 2 ^ 12 + 2 ^ 13 + 8191 * 2 ^ 14 + 3 * 2 ^ 27, 0, 0, 0, 0, 5 * 2 ^ 29, 0, 0]
def doneR : Run := movesW doneW [] (fun r => { r with wrPos := 4 })
/-- A DECRYPT_COPY of two segments of 2^16 bytes whose first segment and tag have been read. -/
def segR : Run := movesW decW [] (fun r => { r with
  header := leBytes 4 0x3142574F ++ leBytes 4 1 ++ leBytes 8 5 ++ leBytes 8 65537 ++ List.replicate 40 0, pieces := [⟨64, 65552, [], false, false⟩] })

theorem wit_DescriptorCompletes :
    (let b := movesB doneW [] (fun r => { r with wrPos := 4 })
     b.oe.runs = [doneR] ∧ doneR.q = 3 ∧ doneR.n = 8 ∧ doneR.started = true ∧ doneR.outstanding = 0 ∧ dKind doneR.words = 2
       ∧ (let d := tileDims doneR.words; d.1 * d.2.1 * d.2.2) ≤ doneR.wrPos ∧ b.oe.launches = [] ∧ b.queue 3 = {} ∧ b.ep.qState 3 = qRunning)
    ∧ (let b := queueB 1 {} { runs := [doneR] } [(qk 0xB008 3, 0, 16, 9)]
       b.queue 3 = {} ∧ cntBefore doneR.n (b.ep.qHead 3) = true
       ∧ dSigEn doneR.words = true ∧ b.ep.fld (ctrKey (dSigCtr doneR.words)) 40 8 = b.ep.qTenant 3 ∧ dCrec doneR.words = true ∧ firstStatus doneR.status ∈ [stOk, stRetried, stTimeout]
       ∧ cntDiff (b.ep.cqProd 3) (b.ep.cqCons 3) ≠ b.ep.cqSize 3)
    ∧ (let b := queueB 1 {} { runs := [segR] } []
     segR.q = 3 ∧ segR.n = 8 ∧ b.run? 3 8 = some segR ∧ b.ep.inReset = false ∧ segR.started = true ∧ segR.finished = false ∧ dKind segR.words = 8 ∧ segR.list = []
       ∧ segR.segment + 1 ≠ blobSegs segR.header)
    ∧ (segR.hasBytes segR.segAt.1 (segR.segAt.2 + 16) = true ∧ segR.anyLost segR.segAt.1 (segR.segAt.2 + 16) = false) := by
  decide +kernel

/-- A load/store request sent, whose response comes. -/
def waitB (k : LsKind) (opc : Nat) (size : Nat) : Block :=
  let r : LsReq := { lsOf k (ureq 0 size false) with xl := some (.ok leaf5 false), waitWalk := false, sent := true }
  { lsB with oe := { lsB.oe with ls := [r], txns := [⟨9, 5, [req opc false 0 9 0 0 size 0], false, 15, 7, 0, none, 0, .ls, 1, 3 * 2 ^ 29⟩] } }
def rsp (opc : Nat) (long : Bool) (st : Nat) : Packet :=
  ({ net := 1, long := long, opc := opc, src := 5, dst := 0, tenant := 7, nb := st } : Hdr).packet (rspWord 9 0 0 8) 0 0 []

theorem wit_ResponsesAnswer :
    ∀ e ∈ [(LsKind.read, 0x01, 0x10, 256), (.write, 0x02, 0x11, 1), (.atomic, 0x05, 0x12, 8), (.rdShared, 0x0A, 0x13, 128), (.rdOwn, 0x0B, 0x13, 128), (.upgrade, 0x0C, 0x13, 128)],
      let b := waitB e.1 e.2.1 e.2.2.2
      let p := rsp e.2.2.1 (e.2.2.1 != 0x11 && e.2.2.1 != 0x12) 0
      let t := b.takeIn (.plane 3) p
      classBad p (linkNets .oe36 3) = false ∧ b.ep.inReset = false ∧ b.ep.fld (ob 0x9010 1) 0 8 ≠ pSlot p ∧ pStatus p ≠ stTimeout ∧ pStatus p ≤ 6
        ∧ (t.oe.txns.find? (fun x => x.tag == pTag p && x.dst == pSlot p && rspOpc x.opc == pOpc p)) = b.oe.txns.head?
        ∧ b.oe.txns.map (fun x => (x.owner, x.tries)) = [(.ls, 0)] ∧ t.oe.ls.map (fun r => (r.tag, r.kind, r.ord)) = [(9, e.1, false)] ∧ pOpc p = e.2.2.1 := by
  decide +kernel

/-- A transaction of an engine, sent at stroke 0 and tried `n` times. -/
def lateB (n : Nat) : Block :=
  let b := started [] []
  { b with ep := { b.ep with stroke := 200000000 }, oe := { txns := [⟨0x2400, 5, [req 0x02 true 0 0x2400 0 0 1 0], false, 0, 7, n, none, 0, .tileWrite 3 8 1, 1, 0⟩] } }
/-- An ordered channel that stopped on plane 7 and may go on on plane 3. -/
def stopB : Block := { planeB with oe := { chans := [⟨5, 15, 7, 15, 9, some 7, true⟩] } }

theorem wit_IssuerKeepsGoing :
    (∀ n ∈ [0, 7], let b := lateB n
      b.ep.inReset = false ∧ b.oe.txns.any (fun x => x.tag == (0x2400 : BitVec 14).toNat && decide (b.ep.e2eTimeout ≤ b.ep.since x.sentAt) && (n != 0 || decide (x.tries < b.ep.retryMax))
        && (n != 7 || decide (b.ep.retryMax ≤ x.tries)) && x.owner != .ls) = true)
    ∧ (∀ opc ∈ [0x14, 0x15], let p := ({ net := 1, opc := opc, long := false, src := 5 } : Hdr).packet 0 0 0 []
       pOpc p = opc ∧ classBad p (linkNets .oe36 3) = false)
    ∧ (∀ opc ∈ [0x10, 0x11, 0x12, 0x13, 0x14, 0x15, 0x18, 0x3A], let p := ({ net := 5, opc := opc, long := false, src := 5 } : Hdr).packet 0 0 0 []
       pOpc p = opc ∧ classBad p (linkNets .oe36 3) = true)
    ∧ (let p := ({ net := 1, opc := 0x18, long := false, src := 5 } : Hdr).packet (rspWord 0x2400 0 0 0) 0 0 []
       classBad p (linkNets .oe36 3) = false ∧ pOpc p = 0x18 ∧ (((lateB 0).takeIn (.plane 3) p).oe.txns.find? (fun x => x.tag == pTag p)).isSome = true)
    ∧ (let p := ({ net := 4, opc := 0x3A, long := false, src := 5 } : Hdr).packet 0 0 0 []
       pOpc p = 0x3A ∧ classBad p (linkNets .oe36 3) = false)
    ∧ (∃ (c : Chan) (old new : Nat), stopB.ep.inReset = false ∧ stopB.oe.chans.find? (fun c => c.dst == (5 : BitVec 7).toNat && c.ch == (15 : BitVec 4).toNat && c.tenant == (7 : BitVec 8).toNat) = some c
        ∧ c.stopped = true ∧ stopB.chanBusy c = false ∧ stopB.pinnedPlane c.dst c.ch c.tenant = some new ∧ c.plane = some old ∧ stopB.oe.ls = []) :=
  ⟨by decide +kernel, by decide +kernel, by decide +kernel, by decide +kernel, by decide +kernel, ⟨⟨5, 15, 7, 15, 9, some 7, true⟩, 7, 3, by decide +kernel⟩⟩

/-! ### Hypotheses that are met: the switch -/

def crewP (src dst : Nat) : Packet := ({ net := 0, opc := 1, src := src, dst := dst } : Hdr).packet (reqWord 9 0 0 false 0 0 256 0 false false) 0 0 []
def hallP (dst : Nat) : Packet := ({ net := 3, opc := 0x31, src := 16, srcSw := true, dst := dst, dstSw := true, tenant := 7 } : Hdr).packet 4 0 0 []
/-- Tenant 7 present, crew port 6 ACTIVE. -/
def swB (more : List (Nat × Nat × Nat × Nat)) : Block := started [] ([(ob 0x8012 0, 7, 1, 1), (ob 0x3001 6, 0, 3, 4)] ++ more)

theorem wit_SwitchIngress :
    (swB []).sw.inReset = false ∧ (swB []).sw.parityStopped 5 = false
    ∧ ((swB []).crewCause 71 (crewP 5 6) = some 6 ∧ pNet (crewP 5 6) ≠ 2)
    ∧ (let p : Packet := { crewP 5 6 with w0 := (({ net := 4, opc := 0x3B, long := true, src := 5, dst := 3, dstSw := true } : Hdr).packet 0 0 0 []).w0 }
       (swB []).crewCause 5 p = some 7)
    ∧ (∀ o ∈ [6, 70], let p := crewP 5 o
       (swB []).crewCause 5 p = none ∧ (swB []).sw.fld (ob 0x9010 1) 0 8 ≠ pSrc p % 128 ∧ ((swB []).route false (linkInput 5 p) false p).port = some o)
    ∧ ((swB []).sw.lstate 70 ≠ lsActive ∧ (swB []).sw.lstate 6 = lsActive ∧ (swB []).poolAllows (linkInput 5 (crewP 5 6)) 0 true = true ∧ (swB []).ox.fresh < numCells)
    ∧ (swB []).hallCause 0x57 (crewP 5 6) = some 0
    ∧ (let b := swB [(ob 0x5410 7, 0, 32, 9)]
       b.hallCause 0x57 (hallP 0) = none ∧ pNet (hallP 0) = 3 ∧ b.sw.fld (ob 0x5410 (pTenant (hallP 0))) 0 16 ≠ 0 ∧ b.policeCredit 15 7 < pFrame (hallP 0) * 256)
    ∧ (let b := swB [(ob 0x5210 2, 0, 2, 2), (ob 0x5210 2, 9, 1, 1)]
       b.hallCause 0x57 (hallP 0) = none ∧ b.sw.fld (ob 0x5410 7) 0 16 = 0 ∧ (b.route false (linkInput 0x57 (hallP 0)) true (hallP 0)).port = some xpQueue
         ∧ b.poolAllows (linkInput 0x57 (hallP 0)) 3 true = true ∧ b.hallCause 0x57 (hallP 32) = none
         ∧ (b.route false (linkInput 0x57 (hallP 32)) true { hallP 32 with w1 := setBits (hallP 32).w1 31 1 1 }).port = some (xpHall + 0)
         ∧ b.hallCause 0x57 (hallP 48) = none ∧ (b.route false (linkInput 0x57 (hallP 48)) true { hallP 48 with w1 := setBits (hallP 48).w1 31 1 1 }).port = none) := by
  decide +kernel

/-- A link with full credits. -/
def linkA : Link := { adv := [64, 64, 64, 64, 64] }
def cellA (p : Packet) : Cell := { pkt := p, arrived := 0, refs := 1, input := 5 }
def txB : Block := let b := swB [(ob 0x3001 0x48, 0, 3, 4)]
  { b with sw := { b.sw with links := [(6, linkA), (0x48, linkA)] }, ox := { egress := [(egressKey 0 7, [3])], cells := [(3, some (cellA (hallP 32)))] } }
def txE : Block := let b := started [(ob 0x3001 6, 0, 3, 4)] []
  { b with ep := { b.ep with links := [(6, linkA)], txq := [(6, crewP 0 6)] } }

theorem wit_PacketsLeave :
    (let b : Block := { txB with sw := { txB.sw with txq := [(6, crewP 5 6)] } }
     b.sw.inReset = false ∧ hallLink .ox720 6 = false ∧ b.sw.txq.find? (fun x => x.1 == 6 && pNet x.2 == 0) = some (6, crewP 5 6) ∧ b.sw.maySend 6 (crewP 5 6) = true)
    ∧ (let b : Block := { txE with ep := { txE.ep with txq := [(6, ({ net := 0, opc := 4, long := true, src := 0, dst := 6 } : Hdr).packet (reqWord 9 0 0 false 0 0 256 0 false false) 0 0 [])] }, oe := { mid := [(6, crewP 0 6)] } }
       b.ep.inReset = false ∧ (b.otherHalf 6).any (fun x => pNet x.2 == 0 && b.ep.maySend 6 x.2) = true)
    ∧ (txE.ep.inReset = false ∧ txE.otherHalf 6 = none ∧ txE.ep.txq.find? (fun x => x.1 == 6 && pNet x.2 == 0 && txE.injOpen x.2) = some (6, crewP 0 6) ∧ txE.ep.maySend 6 (crewP 0 6) = true)
    ∧ (hallLink .ox720 0x48 = true ∧ txB.sw.txq = [] ∧ txB.egressNext 0 = some 7 ∧ txB.ox.egressOf 0 7 = [3] ∧ txB.ox.cell 3 = some (cellA (hallP 32))
      ∧ txB.sw.maySend (0x48 + 0) (cellA (hallP 32)).pkt = true ∧ txB.sw.shapeRate 7 = 0) := by
  decide +kernel

def oldB : Block := let b := swB []
  { b with sw := { b.sw with stroke := 200000000 }, ox := { voqs := [(voqKey 123 71 4, { cells := [(3, 5)], passed := 0 })], cells := [(3, some (cellA (crewP 5 6)))] } }
def shaperA : Shaper := ⟨-1, 0, some 0, true⟩

theorem wit_CellsAndShapers :
    (oldB.sw.inReset = false ∧ oldB.ox.egress = [] ∧ oldB.ox.voqs = [(voqKey 123 71 4, { cells := [(3, 5)], passed := 0 })] ∧ oldB.ox.cell 3 = some (cellA (crewP 5 6))
      ∧ oldB.tooOld (cellA (crewP 5 6)) = true)
    ∧ (∀ s : Bool, let c := { cellA (crewP 5 6) with suspect := s }
       let b : Block := { oldB with ox := { cells := [(3, some c)] } }
       b.sw.inReset = false ∧ b.sw.fld (ob 0x5100 1) 0 16 * cclkMs ≤ b.sw.since b.ox.auditAt ∧ b.sw.fld (ob 0x9010 0) 0 8 ≠ 0x33 ∧ b.ox.cells = [(3, some c)] ∧ b.ox.linked = [] ∧ c.suspect = s)
    ∧ (instSpill 0x60 = true ∧ 0x60 ≠ 0xB0 ∧ ((List.range (128 - 0)).any (fun i => ((swB []).ox.bhRead ((swB []).sw.spillAddr 0x60 i) 64).2)) = false)
    ∧ (let b := started [] []; let t : Taker := ⟨.pcie, 0, none⟩; let c : Common := { b.ep with takers := [t] }
       let b : Block := { b with ep := c }
       b.ep.inReset = false ∧ b.ep.takers.find? (fun t => t.m == .pcie) = some t ∧ t.until_ ≤ b.ep.stroke ∧ b.ep.evtWaits = false)
    ∧ (bitAt (swB []).sw.fci 7 = false ∧ bitAt ({ (swB []).sw with fci := 128 } : Common).fci 7 = true)
    ∧ (let b : Block := { swB [] with oe := { shapers := [(7, shaperA)] }, ox := { shapers := [(15 * 256 + 255, shaperA)], policers := [(15 * 256 + 255, some 0)] } }
       b.oe.shapers = [(7, shaperA)] ∧ shaperA.due = some 0 ∧ 0 ≤ b.ep.slotNow ∧ b.ox.shapers = [((15 : BitVec 4).toNat * 256 + 255, shaperA)] ∧ 0 ≤ b.sw.slotNow
         ∧ b.ox.policers = [((15 : BitVec 4).toNat * 256 + 255, some 0)] ∧ SMap.get 0 b.ox.policeAt (15 : BitVec 4).toNat ≠ b.sw.slotNow + 1)
    ∧ (swB [(ob 0x5410 255, 0, 16, 1)]).sw.fld (ob 0x5410 255) 0 16 ≠ 0 := by
  decide +kernel

/-- A packet for crew port 6 stands in its VOQ. -/
def matchB : Block := let b := swB []
  { b with sw := { b.sw with stroke := 2, links := [(6, linkA)] }, ox := { voqs := [(voqKey 5 6 0, { cells := [(3, 1)], passed := 0 })], cells := [(3, some (cellA (crewP 5 6)))] } }

theorem wit_SlotMatchMoves : let b := matchB; let c := cellA (crewP 5 6)
    b.sw.inReset = false ∧ b.sw.isFenced = false ∧ b.sw.stroke % 2 = 0 ∧ b.ox.unitQ = [] ∧ b.ox.insts = [] ∧ b.ox.pattern = 0 ∧ b.ox.deferDynamic = false ∧ 5 < 124 ∧ 6 < 72 ∧ 0 < 5
      ∧ b.ox.voqs = [(voqKey 5 6 0, { cells := [(3, 1)], passed := 0 })] ∧ b.ox.cell 3 = some c ∧ c.copies = [] ∧ 1 < b.sw.stroke
      ∧ b.tooOld c = false ∧ b.outputTakes 6 c.pkt = true ∧ pFrame c.pkt ≤ 512 := by
  decide +kernel

/-! ### Hypotheses that are met: the sweep array -/

/-- A register of a form whose lane i holds a number. -/
def vreg (form : Nat) (f : Nat → Nat) : VReg := { lanes := (List.range 384).map (fun i => BitVec.ofNat 64 (f i)), form := form }
/-- Group 15 bound to launch 1, with FP32 in registers 0 to 2, integers in 3 and 4, P values in 5, AX64 in 6. -/
def groupA : Group := { bound := some 1, regs := [(0, vreg 0 (fun i => i)), (1, vreg 0 (fun _ => 0x3F800000)), (2, vreg 0 (fun _ => 0x40000000)),
  (3, vreg 2 (fun i => i)), (4, vreg 2 (fun _ => 2 ^ 64 - 1)), (5, vreg 4 (fun _ => 130)), (6, vreg 3 (fun i => i))] }
def sweepB (q : Group) : Block := { swB [] with ox := { groups := [(15, q)] } }
def gopOf (vop sub a b d : Nat) : Nat := packArg [(5, vop), (2, sub), (5, a), (5, b), (5, d)]

theorem wit_VectorLanes :
    (∀ v ∈ [(0, 0), (1, 0), (2, 0), (3, 0), (4, 0), (5, 0), (6, 3), (7, 2), (8, 0), (9, 0), (10, 0), (11, 0)],
      (sweepB groupA).opTakes 15 1 (gopOf v.1 v.2 0 1 2) v.1 ∧ (sweepB { groupA with ksel := 11 }).opTakes 15 1 (gopOf v.1 v.2 31 27 27) v.1)
    ∧ (∀ v ∈ [(1, 0), (2, 0), (3, 0), (4, 0), (5, 0), (9, 0), (0xC, 0), (0xC, 1), (0xC, 2), (0x14, 0)], (sweepB groupA).opTakes 15 1 (gopOf v.1 v.2 3 4 3) v.1)
    ∧ (let src := (sweepB groupA).opSrc 15 1
       ((src 0).like (src 1)).isFloat ∧ ((src 1).like (src 0)).isFloat ∧ ((src 1).like (src 0)).form = ((src 0).like (src 1)).form ∧ ((groupA.reg 2).like (src 0)).isFloat
         ∧ ((src 3).like (src 4)).form = 2 ∧ ((src 4).like (src 3)).form = 2 ∧ ((groupA.reg 3).like (src 3)).form = 2 ∧ ((src 0).like {}).isFloat)
    ∧ gSub (gopOf 7 2 0 1 2) = 2 ∧ gSub (gopOf 12 1 3 4 3) = 1 ∧ gSub (gopOf 12 2 3 4 3) = 2 :=
  ⟨by decide +kernel, by decide +kernel, by decide +kernel, by decide +kernel⟩

theorem wit_VectorBlocks :
    (∀ v ∈ [(0x10, 0, 5, 5), (0x11, 0, 5, 6), (0x12, 6, 6, 6), (0x13, 6, 5, 2), (0x18, 0, 1, 2), (0x07, 0, 1, 2)],
      (sweepB groupA).opTakes 15 1 (gopOf v.1 0 v.2.1 v.2.2.1 v.2.2.2) v.1)
    ∧ (∀ sub ∈ [0, 1, 3], (sweepB groupA).opTakes 15 1 (gopOf 7 sub 0 1 2) 7 ∧ gSub (gopOf 7 sub 0 1 2) = sub)
    ∧ ((sweepB groupA).cfgOf 1).op ≠ 9 ∧ ((sweepB groupA).cfgOf 1).op ≠ 11
    ∧ (let src := (sweepB groupA).opSrc 15 1; ((src 0).like (src 1)).form = 0) := by
  decide +kernel

theorem wit_GroupControls : (sweepB groupA).sw.inReset = false ∧ (sweepB groupA).held = false ∧ (0x7F : BitVec 23).toNat % 128 = 0x7F ∧ (8388606 : BitVec 23).toNat % 128 ≠ 0x7F ∧ ((sweepB groupA).ox.group 15).bhReady = false := by
  decide +kernel

def resA : ResBlk := { g := 15, ctx := 1, block := 9, at_ := 0, dest := none, data := [], scale := [], poison := false, released := false }
def recA (fails : Nat) : Recomp := { g := 15, ctx := 1, block := 9, logical := 90, failedTile := 90, tile := 96, borrowed := false, fails := fails }

theorem wit_BlocksAndTiles :
    (∀ bad : Bool, let b : Block := { swB [] with ox := { results := [resA], groups := [(15, { badMem := if bad then [(1, 9)] else [] })] } }
     b.sw.inReset = false ∧ b.blockKey 15 1 9 = some 1 ∧ b.ox.recomps.any (fun r => r.g == 15 && r.ctx == 1 && r.block == 9) = false
       ∧ (b.ox.group 15).badMem.contains (1, 9) = bad)
    ∧ (let b : Block := { swB [(ob 0x6000 96, 0, 2, 1)] with ox := { results := [resA] } }
       b.blockKey 15 1 9 = some 1 ∧ b.ox.recomps = [] ∧ SMap.get [] b.ox.strikes (b.sw.physical (6 * b.ox.carrier 15 + 5 % 6)) = [] ∧ ((b.sw.count (ob 0x6004 0) 0 64 1).lowestSpare).isSome = true)
    ∧ (∀ n ∈ [0, 1, 2], let r := recA n; let b : Block := { swB [] with ox := { recomps := [r] } }
       b.replayed? 15 = true ∧ b.ox.recomps = [r] ∧ r.g = (15 : BitVec 4).toNat ∧ r.ctx % 4096 = (1 : BitVec 12).toNat ∧ r.block = (9 : BitVec 32).toNat ∧ r.borrowed = false ∧ r.fails = n)
    ∧ (let b := swB [(ob 0x6000 103, 0, 2, 1)]
       (List.range 104).filter (fun p => bitAt (2 ^ 103) p) = [103] ∧ b.sw.tileState 103 = 1 ∧ b.ox.fencing = []) := by
  decide +kernel

/-! ### Hypotheses that are met: collectives and the stroke engine -/

def cfgA : Cfg := ⟨BitVec.ofNat 64 (2 ^ 38 + 2 ^ 31 + 2 * 2 ^ 7 + 2 ^ 19 + 2 ^ 23), BitVec.ofNat 64 (8 + 7 * 2 ^ 40), 0, 0, BitVec.ofNat 64 (2 ^ 63)⟩
def mlA (f : MLaunch → MLaunch) : MLaunch := f {
  ctx := 1, q := 3, n := 8, lseq := 0, backup := false, slot := 0, index := 0, cfg := cfgA, planes := [15], collPlanes := [15], mode := 1, latency := false, rctr := 0, rcEn := false
  issuedAt := 0, dstFpa := 0, dstScale := 0, lead := false, weight := false, sentPre := [], sentData := [], todo := [], completed := [], released := [], order := 0 }
def memberB (f : MLaunch → MLaunch) (more : List (Nat × Nat × Nat × Nat)) : Block := { started ([(ob 0x3001 15, 0, 3, 4)] ++ more) [] with oe := { launches := [mlA f] } }
def collP (opc : Nat) (pre : Bool) : Packet := ({ net := 2, opc := opc, long := opc == 0x22, src := 15, srcSw := true, dst := 0 } : Hdr).packet (1 + 2 ^ 56) 0 (b2n pre * 2 ^ 62) []

/-- The run of the launch, with the bytes of a chunk read or not. -/
def memberR (n : Nat) : Run := runW launchW (fun r => { r with started := true, srcPos := n })
def sendB (f : MLaunch → MLaunch) (n : Nat) : Block := let b := memberB f []; { b with oe := { b.oe with runs := [memberR n] } }

theorem wit_MembersOfLaunches :
    (∀ pre : Bool, let b := sendB id 0; let l := mlA id
       b.ep.inReset = false ∧ b.oe.launches.find? (fun l => l.ctx == 1) = some l ∧ l.planes.contains 15 = true ∧ b.ep.active (b.ep.collLink 15) = true
         ∧ b.run? l.q l.n = some (memberR 0) ∧ l.nextChunk 15 pre = some (0, false) ∧ l.needs 15 pre 0 ≠ [] ∧ l.want ≠ some (15, pre, 0) ∧ (memberR 0).outstanding = 0)
    ∧ (∀ pre : Bool, let f := fun l : MLaunch => { l with want := some (15, pre, 0) }; let b := sendB f 4096; let l := mlA f
       b.run? l.q l.n = some (memberR 4096) ∧ l.nextChunk 15 pre = some (0, false) ∧ l.want = some (15, pre, 0) ∧ needBytes (l.needs 15 pre 0) ≤ (memberR 4096).srcPos
         ∧ l.cfg.pkgStage l.latency = false ∧ l.chunkIs 15 pre 0 ≠ 2)
    ∧ (let l := mlA (fun l => { l with todo := [(15, true, 0)] }); l.nextChunk 15 true = some (0, true))
    ∧ (let l := mlA (fun l => { l with lead := true }); l.needs 15 false 0 = [])
    ∧ (∀ opc ∈ [0x22, 0x23, 0x24, 0x25], let p := collP opc true
       classBad p (linkNets .oe36 15) = false ∧ pOpc p = opc ∧ ((started [] []).takeIn (.plane 15) p).oe.launches.find? (fun l => l.ctx == cCtx p) = none
         ∧ (let t := (memberB id []).takeIn (.plane 15) p
            t.oe.launches.find? (fun l => l.ctx == cCtx p) = some (mlA id) ∧ pSrcSw p = true ∧ pSrc p % 1024 / 16 = (memberB id []).epRack ∧ (mlA id).planes.contains (pSrc p % 16) = true
              ∧ t.oe.hops = [] ∧ t.oe.snoops = [] ∧ t.oe.wbs = [] ∧ (mlA id).completed.any (fun c => c.1 == pSrc p % 16) = false ∧ (mlA id).rcEn = false ∧ (mlA id).released.contains (pSrc p % 16) = false))
    ∧ (let b := memberB id []; let b : Block := { b with ep := { b.ep with stroke := 2 ^ 47 } }
       b.ep.inReset = false ∧ b.oe.launches.find? (fun l => l.ctx == 1) = some (mlA id) ∧ b.ep.collTimeout ≤ b.ep.since (mlA id).issuedAt) :=
  ⟨by decide +kernel, by decide +kernel, by decide +kernel, by decide +kernel, by decide +kernel, by decide +kernel⟩

/-- The switch serves context 1 for the one endpoint of its rack, and a launch of it is under way. -/
def entryA : Entry := { ctx := 1, entry := 5, abandon := 6, group0 := 0, ngroups := 1, mirror := false, landBase := 0, landBlocks := 64 }
def slA (f : SLaunch → SLaunch) : SLaunch := f { ctx := 1, launch := 0, twin := false, firstAt := 0, cfg := cfgA, entry := entryA }
def chunkP (opc : Nat) : Packet := ({ net := 2, opc := opc, long := true, src := 0, dst := 0, dstSw := true } : Hdr).packet (1 + 2 ^ 56) 0 0 []
def servB (f : SLaunch → SLaunch) : Block := { swB [] with ox := { launches := [slA f] } }
def mirrorP (arg : Nat) : Packet := ({ net := 2, opc := 0x26, long := true, src := 1, srcSw := true, dst := 0, dstSw := true, tenant := 7 } : Hdr).packet 1 0 (arg * 2 ^ 14) []

/-- A chunk stands at the front of the staging queue of group 0 of a launch. -/
def landB (f : SLaunch → SLaunch) : Block := { servB f with ox := { (servB f).ox with insts := [(0xA0, { wp := 5, items := [⟨0, 5, chunkP 0x20, 0, 0⟩], headEnd := 5 })] } }
/-- The same with repechage, endpoint 5 behind member 0. -/
def repB (f : SLaunch → SLaunch) : Block := let b := landB f
  { b with sw := obs b.sw [(ob 0x7300 0, 0, 39, 1 + 5 * 2 ^ 25 + 2 ^ 38)] }
/-- No launch yet; the active image has an entry of context 1, whose configuration is enabled or not. -/
def idleB (en : Bool) : Block := { swB ([(ob 0x6110 0, 0, 64, 1 + 2 ^ 12 + 5 * 2 ^ 13 + 6 * 2 ^ 29 + 2 ^ 49), (ob 0x6111 0, 0, 64, 64 * 2 ^ 11)]
    ++ if en then [(ob 0x7100 1, 0, 64, 2 ^ 38 + 2 ^ 31 + 2 * 2 ^ 7 + 2 ^ 19 + 2 ^ 23), (ob 0x7110 1, 0, 64, 8 + 7 * 2 ^ 40), (ob 0x7010 2, 63, 1, 1)] else []) with ox := { imageOn := true } }

theorem wit_SwitchTakesChunks :
    (∀ opc ∈ [0x20, 0x21], let p := chunkP opc
       pOpc p = opc ∧ pDstSw p = true ∧ pDst p = (swB []).swId ∧ (swB []).sw.isFenced = false ∧ (swB []).entryFor false (cCtx p) = none
         ∧ (let b := servB id
            b.entryFor false (cCtx p) = some entryA ∧ b.slaunch? (cCtx p) = some (slA id) ∧ (slA id).cfg.en = true ∧ b.chunkMember (slA id).cfg p = some (0, false)
              ∧ cLseq p = (slA id).launch % 16 ∧ b.instRoom (0xA0 + (b.consumer false p - xpQueue)) p = true)
         ∧ (let b : Block := { servB id with ox := { (servB id).ox with insts := [(0xA0, { wp := 2 ^ 40, headEnd := 0 })] } }
            b.instRoom (0xA0 + (b.consumer false p - xpQueue)) p = false)
         ∧ (let b := idleB false
            b.entryFor false (cCtx p) = some entryA ∧ b.slaunch? (cCtx p) = none ∧ (b.sw.cfg (cCtx p)).en = false)
         ∧ (let b := idleB true
            b.entryFor false (cCtx p) = some entryA ∧ b.slaunch? (cCtx p) = none ∧ (b.sw.cfg (cCtx p)).en = true ∧ b.chunkMember (b.sw.cfg (cCtx p)) p = some (0, false)
              ∧ cLseq p = b.launchCount (cCtx p) % 16 ∧ (b.newLaunch (cCtx p) entryA).instRoom (0xA0 + (b.consumer false p - xpQueue)) p = true))
    ∧ (let b := landB id; let it : QItem := ⟨0, 5, chunkP 0x20, 0, 0⟩
       b.fciHolds 0xA0 = false ∧ (b.ox.inst 0xA0).front = some it ∧ (b.ox.group 0).replayTo ≤ it.pos ∧ (b.ox.inst 0xA0).fp = (b.ox.inst 0xA0).rp
         ∧ (let u := b.instMarkHere 0xA0
            (u.chunkOfPacket it.pkt).any (fun c => !u.inSlot c && u.slotsFree 0 c it.pkt
              && (u.gwArrive (c.key % 4096) c.input c.hall (u.launchOfKey c.key) it.arrived it.pkt.payload).1 == none) = true))
    ∧ (let b := landB (fun l => { l with entry := { entryA with landBlocks := 0 } }); let u := b.instMarkHere 0xA0
       (u.chunkOfPacket (chunkP 0x20)).any (fun c => !u.inSlot c && !u.slotsFree 0 c (chunkP 0x20)) = true)
    ∧ (∀ w : Bool, let b := repB (fun l => { l with winners := [(0, w, 5)] }); let u := b.instMarkHere 0xA0
       (u.chunkOfPacket (chunkP 0x20)).any (fun c => u.inSlot c && u.winner c == some w && c.backup == false) = true)
    ∧ (let b := servB id; let b : Block := { b with sw := { b.sw with stroke := 2 ^ 47 } }
       b.ox.launches.find? (fun l => l.ctx == 1 && !l.ended && decide (b.sw.collTimeout ≤ b.launchAge l)) = some (slA id))
    ∧ (∀ m ∈ [0, 1], let p := mirrorP (m * 2 ^ 14); let b := swB [(ob 0x8000 0, 0, 1, 1), (ob 0x6103 1, 20, 20, 2)]
       pOpc p = 0x26 ∧ pDstSw p = true ∧ pDst p = b.swId ∧ b.sw.isFenced = false ∧ b.sw.secureReady = true ∧ field (p.w3.toNat / 2 ^ 14) 14 2 = m
         ∧ 256 * cCtx p + 256 ≤ b.sw.fld (ob 0x6103 1) 20 20 * 2 ^ 20 ∧ 2 ^ 20 + field (p.w3.toNat / 2 ^ 14) 16 30 * 256 + 256 ≤ b.sw.fld (ob 0x6103 1) 20 20 * 2 ^ 20)
    ∧ (let h : GwHold := ⟨0, 0, 0, chunkP 0x20, 0⟩; let b : Block := { servB id with ox := { (servB id).ox with gwHeld := [h] } }
       b.ox.gwHeld = [h] ∧ h.at_ ≤ b.sw.stroke
         ∧ (b.chunkOfPacket h.pkt).any (fun c => c.key % 4096 == 1 && c.input == 0 && ({ b with ox := { b.ox with gwHeld := [] } } : Block).slotsFree h.g c h.pkt) = true) := by
  decide +kernel

/-- An engine in a state at bundle 5, running context 1, whose bundle 5 waits for SC61 to reach `wval` with SLACK 9. -/
def engB (state wval : Nat) (f : Ox → Ox) : Block :=
  { swB [(ob 0xC000 2, 0, 1, 1), (ob 0x6400 23, 39, 1, b2n (wval != 0)), (ob 0x6400 23, 40, 1, 1), (ob 0x6400 23, 41, 6, 61), (ob 0x6400 23, 47, 16, wval)]
    with ox := f { eng := { state := state, pc := 5, ctx := 1, running := decide (2 < state) }, launches := [slA id] } }

theorem wit_EngineBundles :
    (let b := engB engDispatch 0 (fun x => { x with eng := { x.eng with dispatchAt := some 0 } })
     b.sw.inReset = false ∧ b.ox.eng.state = engDispatch ∧ b.slaunch? b.ox.eng.ctx = some (slA id) ∧ b.ox.eng.dispatchAt = some 0 ∧ 0 ≤ b.sw.stroke ∧ b.engineOpen = true)
    ∧ (let b := engB engIdle 0 (fun x => { x with ready := [1] })
       b.ox.eng.state = engIdle ∧ b.ox.ready = [1] ∧ b.engineOpen = true ∧ b.slaunch? 1 = some (slA id))
    ∧ (engB engRun 0 id).sw.stroke % 2 = 0
    ∧ (∀ w ∈ [0, 1], let b := engB engWait w id; let B := b.presented
       b.sw.inReset = false ∧ b.ox.eng.running = true ∧ b.ox.eng.state = engWait ∧ b.ox.eng.lastAct ≠ some b.sw.stroke ∧ b.ox.eng.passed = false ∧ b.waitHolds = decide (w = 0)
         ∧ b.ox.hold.crabbed = false ∧ b.ox.eng.acted = false ∧ bGctl B = false ∧ bSteer B = false ∧ bAnnEn B = false ∧ bAlign B = false ∧ b.ox.eng.rep = 0 ∧ bRepeat B = 0
         ∧ bSen B = false ∧ bCkpt B = false ∧ bLop B = 0)
    ∧ (∀ g, gVop (bGop (engB engWait 0 id).presented g) = 0) := by
  refine ⟨by decide +kernel, by decide +kernel, by decide +kernel, by decide +kernel, ?_⟩
  intro g
  rw [show (engB engWait 0 id).presented = 2 ^ 424 + 61 * 2 ^ 425 by decide +kernel]
  by_cases h : g < 17
  · revert g; decide +kernel
  · have : (2 ^ 424 + 61 * 2 ^ 425 : Nat) / 2 ^ (24 * g) % 2 ^ 24 % 2 ^ 5 = 0 := by
      by_cases h2 : g = 17
      · subst h2; decide +kernel
      · have h1 : (2 ^ 424 + 61 * 2 ^ 425 : Nat) < 2 ^ (24 * g) := Nat.lt_of_lt_of_le (by decide : (2 ^ 424 + 61 * 2 ^ 425 : Nat) < 2 ^ 432) (Nat.pow_le_pow_right (by omega) (by omega))
        have h0 := Nat.div_eq_of_lt h1
        simp only [h0, Nat.zero_mod]
    simpa [gVop, bGop, field] using this

theorem wit_BundleFields :
    (∀ n ∈ [0, 3, 4], let b := engB engRun 0 (fun x => { x with eng := { x.eng with loops := List.replicate n (7, n % 3) } })
       b.sw.inReset = false ∧ b.ox.eng.running = true ∧ b.ox.eng.state = engRun ∧ b.ox.eng.loops.length = n ∧ (n = 0 → b.ox.eng.loops = [])
         ∧ (n = 3 → b.ox.eng.loops = (7, 0) :: [(7, 0), (7, 0)]) ∧ b.ox.eng.finished = false ∧ b.ox.eng.abandoned = false)
    ∧ (let b := engB engRun 0 (fun x => { x with eng := { x.eng with loops := [(7, 2)], abandoned := true } })
       b.ox.eng.running = true ∧ b.ox.eng.loops = (7, 2) :: [] ∧ 1 < 2 ∧ 7 < 65536 ∧ b.ox.eng.abandoned = true ∧ b.ox.ready = [])
    ∧ (let b := engB engRun 0 id
       let at_ := fun (v : Nat) (st : Option Steer) => ({ b with sw := (b.sw.setFld (ob 0x4010 15) 1 2 v).setHstate 15 psNoLink, ox := b.ox.setHport 15 { steer := st } } : Block)
       (at_ 0 none).sw.fld (ob 0x4010 15) 1 2 ≠ 1
         ∧ ((at_ 1 none).sw.fld (ob 0x4010 15) 1 2 = 1 ∧ ((at_ 1 none).ox.hport 15).steer = none ∧ (at_ 1 none).sw.hstate 15 = psNoLink)
         ∧ ((at_ 1 (some ⟨1, true, 0⟩)).sw.fld (ob 0x4010 15) 1 2 = 1 ∧ ((at_ 1 (some ⟨1, true, 0⟩)).ox.hport 15).steer ≠ none) ∧ (3 : BitVec 2).toNat ≠ b.ox.ann)
    ∧ (let b := engB engRun 0 id; let b : Block := { b with sw := b.sw.setLstate 0x58 lsActive }
       b.sw.inReset = false ∧ b.ox.eng.running = true ∧ b.ox.ckptWait = false ∧ b.slaunch? b.ox.eng.ctx = some (slA id) ∧ (slA id).twin = false ∧ b.sw.lstate 0x58 = lsActive ∧ b.sw.isFenced = false) := by
  decide +kernel

/-- The same engine at a stroke count, with what holding water knows. -/
def holdB (state wval stroke : Nat) (h : Hold) : Block :=
  let b := engB state wval (fun x => { x with hold := h })
  { b with sw := ({ b.sw with stroke := stroke } : Common).setFld (ob 0x6400 23) 63 16 9 }

theorem wit_HoldingWater :
    (let b := holdB engWait 1 10 {}
     b.sw.inReset = false ∧ b.ox.eng.running = true ∧ b.ox.eng.state = engWait ∧ b.ox.hold.crabbed = false ∧ b.ox.eng.passed = false ∧ b.waitHolds = false
       ∧ bSlack b.presented ≠ 0xFFFF ∧ bSlack b.presented < b.lag)
    ∧ (let b := holdB engWait 1 256 { crabAt := some 255, crabbed := true }
       b.sw.stroke % 256 = 0 ∧ b.ox.hold.crabbed = true ∧ b.ox.hold.drive = false ∧ b.ox.hold.crabAt = some 255 ∧ after256 255 ≤ b.sw.stroke ∧ b.ox.hold.standDrive = none ∧ b.ox.hold.standFrom = none)
    ∧ (holdB engWait 1 256 {}).ox.hold.lineLow = false
    ∧ (let b := holdB engWait 1 512 { seenLow := some 511 }
       b.ox.hold.seenLow = some 511 ∧ after256 511 ≤ b.sw.stroke ∧ b.ox.eng.state ≠ engHeld ∧ b.ox.hold.heldAt = none)
    ∧ (let b := holdB engHeld 0 512 { drive := true }
       b.sw.stroke % 256 = 0 ∧ b.ox.hold.drive = true ∧ b.ox.eng.state = engHeld ∧ b.waitHolds = true ∧ b.ox.hold.standDrive = none)
    ∧ (let b := holdB engHeld 1 512 { lineLow := true, seenLow := some 256, seenHigh := some 511 }
       b.ox.hold.lineLow = true ∧ b.ox.hold.seenLow = some 256 ∧ b.ox.hold.seenHigh = some 511 ∧ after256 511 ≤ b.sw.stroke ∧ b.ox.eng.state = engHeld)
    ∧ (let b := holdB engHeld 1 (2 ^ 40) { drive := true, heldAt := some 0 }
       b.ox.hold.drive = true ∧ b.ox.hold.limited = false ∧ b.ox.eng.state = engHeld ∧ b.ox.eng.running = true ∧ b.waitHolds = false
         ∧ b.sw.fld (ob 0x6103 0) 0 16 * cclkUs ≤ b.heldNow) := by
  decide +kernel

/-! ### Hypotheses that are met: links -/

/-- Link 5 of an endpoint in a state at stroke 10^9, with internals. -/
def linkC (state : Nat) (l : Link) : Common :=
  let c := obs (upC .oe36) [(ob 0x3001 5, 0, 3, state), (ob 0x3000 5, 0, 1, 1), (ob 0x3002 5, 0, 20, 0 + 1 * 32 + 2 * 1024 + 3 * 32768)]
  { c with stroke := 1000000000, links := [(5, l)] }
def linkB (state : Nat) (l : Link) : Block := { started [] [] with ep := linkC state l }

theorem wit_LinkLaunches :
    (let b := linkB lsDetect {}
     (b.common .oe36).up = true ∧ (b.common .oe36).lstate 5 = lsDetect ∧ (b.common .oe36).linkEnabled 5 = true ∧ b.mayLaunch .oe36 5 = true
       ∧ laneCount .oe36 5 ≤ popcount (physLanes .oe36 5) (0x1E : BitVec 20).toNat)
    ∧ (let b := linkB lsTrain {}
       (b.common .oe36).lstate 5 = lsTrain ∧ hallLink .oe36 5 = false ∧ (b.common .oe36).steering 5 = false ∧ 10 * cclkMs ≤ (b.common .oe36).since ((b.common .oe36).link 5).since)
    ∧ (let b := linkB lsLock {}
       (b.common .oe36).lstate 5 = lsLock ∧ (b.common .oe36).steering 5 = false ∧ (0 : BitVec 16).toNat ≤ skewLimit .oe36 5 ∧ skewLimit .oe36 5 < (65535 : BitVec 16).toNat
         ∧ 500 * cclkUs ≤ (b.common .oe36).since ((b.common .oe36).link 5).since)
    ∧ (∀ stage ∈ [0, 1], let b := linkB lsExchange { keyStage := stage }
       (b.common .oe36).up = true ∧ (b.common .oe36).lstate 5 = lsExchange ∧ ((b.common .oe36).link 5).keyStage = stage ∧ ((b.common .oe36).link 5).quar = false ∧ ((b.common .oe36).link 5).farRec = none
         ∧ 5 * cclkMs ≤ (b.common .oe36).since ((b.common .oe36).link 5).since ∧ ((b.common .oe36).link 5).myPass ≠ some true ∧ ((b.common .oe36).link 5).farPass = none
         ∧ (SMap.insert ((b.common .oe36).link 5).frags 3 (slice [] 0 30)).length ≠ 4)
    ∧ ((linkB lsExchange { myPass := some true }).ep.link 5).myPass = some true
    ∧ (let l : Link := { frags := [(0, List.replicate 30 0), (1, List.replicate 30 0), (2, List.replicate 30 0)] }
       let b := linkB lsExchange l
       (SMap.insert (b.ep.link 5).frags 3 (slice (List.replicate 30 (0 : Byte)) 0 30)).length = 4 ∧ l.shortExchange = false
         ∧ (let r := List.replicate 120 (0 : Byte)
            b.discover .oe36 5 r ≠ .pass)) := by
  decide +kernel

/-- A record of the switch of plane 5 in rack 0 passes discovery at crew link 5. -/
theorem wit_LinkLaunches_pass : ∃ r : List Byte, r.length = 120 ∧ (linkB lsExchange {}).discover .oe36 5 r = .pass :=
  ⟨[0x20, 0x07, 0, 0, 0, BitVec.ofNat 8 ((upC .oe36).fld (ob 0x1000 2) 8 8), 5, 0x40] ++ List.replicate 112 0, by decide +kernel⟩

theorem groupOk_groupBytes (flits : List (List Byte)) : groupOk (groupBytes flits) = true := by
  have h : (slice flits.flatten 0 256).length = 256 := by simp [slice]
  have a := leAt_leBytes (slice flits.flatten 0 256) (crc32c (slice flits.flatten 0 256)).toNat (BitVec.isLt _)
  rw [h] at a
  simp only [groupOk, groupBytes, slice_take _ _ _ h, a, beq_self_eq_true]

theorem wit_LinkDelivers : (∃ g, groupOk g = true)
    ∧ (let b := linkB lsActive {}
     (b.common .oe36).up = true ∧ (b.common .oe36).lstate 5 = lsActive ∧ (b.ep.link 5).session = none ∧ (b.ep.link 5).swapNak = false
       ∧ (b.ep.link 5).waitReplay = none ∧ (b.ep.link 5).swapRx = [] ∧ (b.ep.link 5).replayBuf.length < countDiff (32767 : BitVec 16).toNat (b.ep.link 5).relCount)
    ∧ (∀ n ∈ [0, 255], let b := linkB lsActive { nakRun := n }
       let c1 := ((b.ep.count (ob 0x3005 5) 0 64 0).modLink 5 (fun l => { l with session := none })).count (ob 0x3006 5) 0 32 1
       let c2 := (c1.ctrl 5 (wordFlit ctNak [(c1.link 5).dlvCount])).modLink 5 (fun m => { m with waitReplay := some (c1.link 5).dlvCount, partial_ := [], nakRun := m.nakRun + 1 })
       (c2.link 5).nakRun < c2.replayLimit 5 ↔ n = 0)
    ∧ (let l : Link := { relCount := 65535, replayBuf := [[], []], ackOwed := true, myFreed := [1, 0, 0, 0, 0], waitReplay := some 65535 }
       let b := linkB lsActive l
       countDiff (1 : BitVec 16).toNat l.relCount ≤ l.replayBuf.length ∧ l.ends = [] ∧ countDiff (0 : BitVec 16).toNat l.relCount ≤ l.replayBuf.length
         ∧ l.replaying ≠ some ((0 : BitVec 16).toNat, b.ep.stroke) ∧ l.waitReplay = some (65535 : BitVec 16).toNat ∧ (b.ep.link 5).ackOwed = true ∧ 0 < (b.ep.link 5).unreported) :=
  ⟨⟨groupBytes [], groupOk_groupBytes _⟩, by decide +kernel, by decide +kernel, by decide +kernel⟩

theorem wit_LanesSwap :
    (∀ w : Bool, let m := marker (markerContent 31 31 127 65535 511 w); markerSync m = true ∧ markerAgrees m = true ∧ mkWake m = w)
    ∧ (let b := linkB lsActive { standby := [4] }
       (b.common .oe36).up = true ∧ (b.common .oe36).lstate 5 = lsActive ∧ (b.common .oe36).logicalOf 5 3 = some 3 ∧ (b.ep.link 5).swapRx = [] ∧ (b.ep.link 5).standby = 4 :: []
         ∧ (b.common .oe36).laneErrLimit 5 < (4294967295 : BitVec 32).toNat ∧ (0 : BitVec 32).toNat ≤ (b.common .oe36).laneErrLimit 5
         ∧ (b.common .oe36).logicalOf 5 4 = none ∧ hallLink (b.common .oe36).kind 5 = false)
    ∧ ((linkB lsActive {}).ep.logicalOf 5 0 = some 0 ∧ ((linkB lsActive {}).ep.link 5).swapRx = [] ∧ ((linkB lsActive {}).ep.link 5).standby = [])
    ∧ ((3 : BitVec 5).toNat < laneCount .oe36 5 ∧ (4 : BitVec 5).toNat < physLanes .oe36 5)
    ∧ ((linkB lsActive { swapRx := [(3, 4, none)] }).ep.link 5).swapRx = ((3 : BitVec 5).toNat, (4 : BitVec 5).toNat, none) :: []
    ∧ ((linkB lsActive { swapRx := [(3, 4, some (1, 2))] }).ep.link 5).swapRx = (3, 4, some (1, 2)) :: []
    ∧ ((linkB lsActive { swapTx := [(3, 4, 1, 2)] }).ep.link 5).swapTx = (3, 4, 1, 2) :: []
    ∧ (let b := linkB lsActive {}; b.ep.bit (ob 0x3001 5) 4 = false ∧ cclkUs ≤ b.ep.since (b.ep.link 5).lastRx) := by
  decide +kernel

theorem wit_LinkModes :
    (let b := linkB lsActive {}; let b : Block := { b with ep := b.ep.setBit (ob 0x3000 5) 1 true }
     (b.common .oe36).up = true ∧ hallLink .oe36 5 = false ∧ (b.common .oe36).lstate 5 = lsActive ∧ b.ep.bit (ob 0x3000 5) 1 = true ∧ b.ep.bit (ob 0x3001 5) 3 = false ∧ b.ep.txq = []
       ∧ (b.ep.link 5).replayBuf = [] ∧ (b.ep.link 5).ackOwed = false ∧ (b.ep.link 5).unreported = 0 ∧ b.ep.fld (ob 0x3004 5) 0 16 * 7 ≤ b.ep.since (b.ep.link 5).idleSince * 4
       ∧ b.lastLink .oe36 5 = true ∧ (2 : BitVec 2).toNat ≠ 0 ∧ b.ep.bit (ob 0x3000 5) 2 = false ∧ ({ b with ep := b.ep.setBit (ob 0x3000 5) 2 true } : Block).lastLink .oe36 5 = true)
    ∧ (let b := linkB lsActive { docking := true }; let b : Block := { b with ep := (b.ep.setLstate 6 lsActive).setBit (ob 0x3001 5) 3 true }
       b.ep.bit (ob 0x3001 5) 3 = true ∧ b.lastLink .oe36 5 = false ∧ (b.ep.link 5).docking = true ∧ 2 * cclkUs ≤ b.ep.since (b.ep.link 5).since
         ∧ ({ b with ep := b.ep.setBit (ob 0x3000 5) 2 true } : Block).lastLink .oe36 5 = false ∧ (b.ep.setBit (ob 0x3000 5) 2 true).lstate 5 = lsActive)
    ∧ (({ linkB lsDetect {} with ep := (linkB lsDetect {}).ep.setBit (ob 0x3000 5) 2 true } : Block).lastLink .oe36 5 = false ∧ ((linkB lsDetect {}).ep.setBit (ob 0x3000 5) 2 true).lstate 5 ≠ lsActive)
    ∧ ((linkB lsDock {}).ep.setBit (ob 0x3000 5) 2 false).lstate 5 = lsDock ∧ (linkB lsErgo {}).ep.lstate 5 = lsErgo
    ∧ ((swB []).sw.up = true ∧ (swB []).sw.isBow = true ∧ (swB []).sw.lstate 0x58 ≠ lsActive)
    ∧ (let c := (swB [(ob 0x5200 0, 0, 4, 1)]).sw.setLstate 0x58 lsActive; c.up = true ∧ c.isBow = false ∧ c.lstate 0x58 = lsActive) := by
  decide +kernel

/-! ### Hypotheses that are met: light and time -/

/-- Every line of the comb usable and the module READY. -/
def lightB (more : List (Nat × Nat × Nat × Nat)) : Block := swB ([(ob 0x4000 0, 0, 21, 2 ^ 21 - 1)] ++ more)

theorem wit_LightAndRings :
    (let p : List (BitVec 16) := List.replicate 18 0x7FFF
     (lightB []).sw.up = true ∧ (linesRead (lightB []).sw p).isDark = false)
    ∧ (let p : List (BitVec 16) := List.replicate 18 0x8000; (linesRead (lightB []).sw p).isDark = true ∧ (lightB []).sw.isDark = false)
    ∧ (swB [(ob 0x4000 0, 0, 1, 0)]).sw.combHost = false
    ∧ ((lightB []).sw.combHost = true ∧ (0 : BitVec 18).toNat ≠ 2 ^ 18 - 1 ∧ (lightB []).sw.bit (ob 0x4000 0) 1 = true)
    ∧ (let b := lightB [(ob 0x4011 15, 0, 3, 3)]; b.sw.hstate 15 ≠ psDark ∧ b.sw.hstate 15 ≠ psDisabled ∧ (b.ox.hport 15).badRead = [])
    ∧ (lightB [(ob 0x4011 15, 0, 3, 1)]).sw.hstate 15 = psDark
    ∧ (let b : Block := { lightB [(ob 0x4012 15, 0, 18, 2 ^ 17)] with ox := { hports := [(15, { badRead := [(true, 17)] })] } }
       (131072 : BitVec 18).toNat = 2 ^ 17 ∧ (b.ox.hport 15).badRead = [(true, 17)] ∧ b.sw.bit (ob 0x4012 15) 17 = true)
    ∧ (let b := lightB [(ob 0x4012 15, 53, 1, 1)]
       (32768 : BitVec 16).toNat = 2 ^ 15 ∧ ∀ j, j < 18 → ((b.sw.bit (ob 0x4012 15) (36 + j) && b.sw.bit (ob 0x4000 0) (3 + j)) = true ↔ j = 17)) := by
  decide +kernel

/-- Hall port 15 in a state, with internals and its control and profile words. -/
def hallB (state : Nat) (h : HPort) (more : List (Nat × Nat × Nat × Nat)) : Block :=
  let b := lightB ([(ob 0x4011 15, 0, 3, state), (ob 0x3001 0x57, 0, 3, lsActive)] ++ more)
  { b with sw := { b.sw with stroke := 1000000000 }, ox := { hports := [(15, h)] } }

theorem wit_HallPortsSteer :
    (∀ pos < 4, let b := hallB psActive {} [(ob 0x4010 15, 1, 2, 0), (ob 0x4011 15, 3, 2, pos)]
       b.sw.up = true ∧ b.sw.fld (ob 0x4010 15) 1 2 = 0 ∧ (b.ox.hport 15).rotaE ≠ some b.rotaE ∧ (b.ox.hport 15).steer = none ∧ b.sw.hstate 15 = psActive ∧ b.sw.hpos 15 = pos)
    ∧ (let st : Steer := ⟨3, true, 0⟩; let b := hallB psSteering { steer := some st, phase := 1 } []
       (b.ox.hport 15).steer = some st ∧ (b.ox.hport 15).phase = 1 ∧ (b.sw.lstate 0x57 = lsActive ∧ (b.sw.link 0x57).replayBuf = [] ∧ b.ox.egressAll 15 = [] ∧ b.sw.txq = []
         ∧ b.sw.profileValid 15 (b.sw.hpos 15) = false) ∧ 100 * cclkUs ≤ b.sw.since st.at_
         ∧ (let u : Block := { b with sw := b.sw.modLink 0x57 (fun l => { l with replayBuf := [[]] }) }; u.sw.lstate 0x57 = lsActive ∧ (u.sw.link 0x57).replayBuf ≠ []))
    ∧ (∀ v : Bool, let st : Steer := ⟨3, true, 0⟩; let b := hallB psSteering { steer := some st, phase := 2 } [(ob 0x4020 63, 0, 1, b2n v)]
       (b.ox.hport 15).steer = some st ∧ (b.ox.hport 15).phase = 2 ∧ b.sw.profileValid 15 st.pos = v)
    ∧ (let b := hallB psSteering { phase := 3 } [(ob 0x4020 60, 0, 1, 1)]; b.sw.profileValid 15 (b.sw.hpos 15) = true ∧ b.sw.hstate 15 = psSteering ∧ (b.ox.hport 15).phase = 3)
    ∧ (let b := hallB psNoLink {} [(ob 0x4020 60, 0, 1, 1)]
       b.sw.profileValid 15 (b.sw.hpos 15) = true ∧ b.sw.hstate 15 = psNoLink ∧ (b.ox.hport 15).full = false ∧ (b.ox.hport 15).steer = none ∧ cclkMs ≤ b.sw.since (b.ox.hport 15).noLinkSince) := by
  decide +kernel

def startP (kind hsync : Nat) (srcSw : Nat) : Packet := ({ net := 4, opc := 0x38, long := false, src := srcSw, srcSw := true, dst := 0, dstSw := true } : Hdr).packet
  (kind + 200 * 2 ^ 12 + hsync * 2 ^ 20) 0 (2 ^ 48 - 1) []
def timeB (more : List (Nat × Nat × Nat × Nat)) (f : Ox → Ox) (g : Common → Common) : Block :=
  let b := swB more
  { b with sw := g { b.sw with stroke := 10 ^ 9 }, ep := { b.ep with stroke := 10 ^ 9 }, ox := f {} }

theorem wit_StartLine :
    (∀ k < 4, (timeB [] id id).sw.up = true ∧ pOpc (startP k 0 16) = 0x38 ∧ stKind (startP k 0 16) = k)
    ∧ ((timeB [] id id).claimOf false).active = false
    ∧ (let b := timeB [(ob 0xC000 1, 0, 8, 201)] (fun x => { x with claiming := { active := true } }) id
       (b.claimOf (stHall (startP 0 0 16))).active = true ∧ b.lowerClaim (startP 0 0 16) = true)
    ∧ (∀ hall : Bool, ∀ round ∈ [2, 3], let cl : Claiming := { active := true, round := round }; let b := timeB [] (fun x => { x with claiming := cl, hallClaiming := cl }) id
       (b.claimOf hall).active = true ∧ claimRound ≤ b.sw.since (b.claimOf hall).since ∧ (b.claimOf hall).round = round)
    ∧ (∀ el : Bool, let b := timeB [(ob 0xC000 1, 8, 1, b2n el)] id id
       let u : Block := { b with sw := ({ b.sw with masterKnown := false } : Common).setBit (ob 0xC000 2) 1 false }
       3 * checkPeriod ≤ b.sw.since b.sw.lastPulse ∧ b.ox.claiming.active = false ∧ u.sw.bit (ob 0xC000 1) 8 = el)
    ∧ ((timeB [] id id).swId ≠ pSrc (startP 1 0 16) % 1024 ∧ (timeB [] id id).swId = pSrc (startP 1 0 0) % 1024 ∧ (timeB [] id id).ep.up = true)
    ∧ (let b := timeB [(ob 0xC000 2, 1, 1, 1)] id (fun c => { c with started := true })
       b.sw.bit (ob 0xC000 2) 1 = true ∧ b.ox.hallMaster = false ∧ b.sw.bit (ob 0xC000 2) 2 = false ∧ b.sw.started = true ∧ b.ox.pulseDue = none ∧ b.ox.hallAlign = none)
    ∧ (timeB [] id id).sw.bit (ob 0xC000 2) 1 = false
    ∧ (∀ t ∈ [10 ^ 9, 10 ^ 9 + 1], (timeB [] (fun x => { x with pulseDue := some t }) id).ox.pulseDue = some t) := by
  decide +kernel

theorem wit_StartLine_load :
    (∀ synced : Bool, ∀ v ∈ [10 ^ 9, 2 ^ 48 - 1], let b := timeB [] id id
       let c : Common := { b.ep.setBit (ob 0xC000 2) 0 synced with announced := some (v, true, false, 0), started := true }
       c.up = true ∧ c.announced = some (v, true, false, 0) ∧ v < 2 ^ 48 ∧ c.bit (ob 0xC000 2) 0 = synced ∧ c.started = true ∧ (c.stroke = v ↔ v = 10 ^ 9))
    ∧ (∀ p : Part, ((timeB [] id id).common p).up = true ∧ ((timeB [] id id).common p).announced = none ∧ ((timeB [] id id).common p).running = true) := by
  refine ⟨by decide +kernel, fun p => ?_⟩
  cases p <;> decide +kernel

/-! ### Hypotheses that are met: security, faults -/

def secB (more : List (Nat × Nat × Nat × Nat)) (f : Common → Common) : Block := let b := started more more; { b with ep := f b.ep, sw := f b.sw }
def sess (id : Nat) : Spdm := ⟨id, 7, 0, true, true⟩

theorem wit_MailboxRequests :
    (let b := secB [] (fun c => { c with spdmBusy := some [1] }); b.ep.up = true ∧ b.ep.spdmBusy = some [1] ∧ b.ep.waiters = [])
    ∧ ((secB [] id).ep.up = true ∧ (secB [] id).ep.spdmBusy = none ∧ (secB [] id).ep.sessions.length < 4 ∧ (1 : BitVec 8).toNat ≠ 0 ∧ (1 : BitVec 8).toNat ≠ 0xFF
      ∧ (({ secB [] id with ep := (secB [] id).ep.setBit (ob 0x8102 0) 13 true } : Block).measurement .oe36 1).isSome = true)
    ∧ (let b := secB [] (fun c => { c with sessions := [sess 1, sess 2, sess 3, sess 65535] }); 4 ≤ b.ep.sessions.length ∧ ∃ x ∈ b.ep.sessions, x.id = (65535 : BitVec 16).toNat) := by
  decide +kernel

theorem wit_KeysComeAndGo :
    (∀ held : Bool, ∀ op ∈ [(1 : Byte), 2], let payload : List Byte := op :: 255 :: 7 :: List.replicate 37 0
      let b := secB [(ob 0x8000 0, 0, 1, 1), (ob 0x8001 0, 0, 8, 7), (wkKey 255, 0, 1, b2n held)] (fun c => { c with sessions := [sess 9] })
      let go := b.ep.setBit (ob 0x8102 0) 13 true
      b.ep.up = true ∧ b.ep.spdmBusy = none ∧ b.ep.sessions.find? (fun x => x.id == (9 : BitVec 16).toNat && x.finished && x.mutualAuth) = some (sess 9) ∧ go.bit (ob 0x8000 0) 0 = true
        ∧ go.assignedTenant = leAt payload 2 1 ∧ (sess 9).pubDigest.toNat = go.brokerDigest (leAt payload 2 1) ∧ leAt payload 0 1 = op.toNat ∧ go.bit (wkKey (leAt payload 1 1)) 0 = held)
    ∧ (let b := secB [(wkKey 255, 0, 1, 1), (wkKey 0, 0, 1, 1)] id; b.ep.up = true ∧ b.ep.writable .pcie (ob 0x8041 0) = true ∧ 255 < 256
      ∧ ∀ i, i < 256 → ((bitAt (2 ^ 255) i && b.ep.bit (wkKey i) 0) = true ↔ i = 255))
    ∧ ((secB [] id).sw.up = true ∧ (57896044618658097711785492504343953926634992332820282019728792003956564819968 : BitVec 256).toNat = 2 ^ 255) := by
  decide +kernel

theorem wit_DebugUnlocks : ∀ p : Part, ((secB [] id).common p).writable .pcie (ob 0x9000 0) = true ∧ (((secB [] id).common p).renew .pcie).up = true := by
  intro p; cases p <;> decide +kernel

theorem wit_EntropyStates :
    (∀ st ∈ [enOk, enStartup, enFailed, enRestart], let b := secB [(ob 0x8000 0, 0, 1, 1), (ob 0x8000 0, 1, 2, st)] (fun c => { c with stroke := 10 ^ 9, waiters := [⟨3, 0, 0⟩] })
      b.ep.up = true ∧ b.ep.entropy = st ∧ b.ep.bit (ob 0x8000 0) 0 = true ∧ b.ep.autoRestarted = false ∧ cclkMs ≤ b.ep.since b.ep.failedAt ∧ b.ep.writable .fieldBus (ob 0x8000 1) = true
        ∧ (b.ep.renew .fieldBus).entropy = st ∧ b.ep.booted = true ∧ b.ep.waiters = ⟨3, 0, 0⟩ :: [] ∧ 10 * cclkMs ≤ b.ep.since 0) := by
  decide +kernel

theorem wit_ErrorsAreCounted :
    (∀ err : List (Nat × Nat), err = [] ∨ err = [(ob 0x5100 0, 0)] → let c : Common := { (secB [] id).sw with parityErr := err }
      c.inReset = false ∧ c.parityErr.contains (ob 0x5100 0, 0) = !err.isEmpty)
    ∧ (findRow .ox720 (BitVec.ofNat 24 (ob 0x5100 0)).toNat).any (fun r => r.staged .ox720 && decide (32 * (0 : BitVec 2).toNat < r.width)) = true
    ∧ (let b := secB [(ob 0x8000 0, 0, 1, 1), (ob 0x9020 1, 0, 30, 749999999)] id
       b.sw.secureReady = true ∧ b.sw.fld (ob 0x9020 1) 0 30 = 749999999 ∧ b.ox.bhPoison.contains 749999999 = false ∧ ({ b.ox with bhPoison := [749999999] } : Ox).bhPoison.contains 749999999 = true) := by
  refine ⟨?_, by decide +kernel, by decide +kernel⟩
  rintro err (rfl | rfl) <;> decide +kernel

theorem wit_TwinsStandIn :
    (let b := swB [(ob 0x3010 0, 0, 2, 1)]
     let b : Block := { b with sw := { b.sw with stroke := 10 ^ 9 }, ox := { bridgeDownAt := some 0, twinSeen := true } }
     b.sw.up = true ∧ b.sw.namesSelf = true ∧ b.sw.lstate 0x58 ≠ lsActive ∧ b.ox.bridgeDownAt = some 0 ∧ b.sw.fld (ob 0x9041 0) 3 16 * cclkUs ≤ b.sw.since 0 ∧ b.ox.twinSeen = true
       ∧ b.sw.standIn = false ∧ b.sw.isFenced = false)
    ∧ (swB []).sw.namesSelf = false
    ∧ (let b := swB [(ob 0x9041 0, 0, 1, 1)]; let b : Block := { b with ox := { eng := { state := engIdle } } }
       b.sw.standIn = true ∧ b.ox.launches = [] ∧ b.ox.eng.running = false ∧ b.ox.eng.state = engIdle)
    ∧ (let c := (swB [(ob 0x9041 0, 1, 1, 1)]).sw.setLstate 0x58 lsActive; c.isFenced = true ∧ c.lstate 0x58 = lsActive)
    ∧ (let b := swB []; let b : Block := { b with sw := { b.sw with stroke := 2 ^ 30 }, ox := { hold := { standDrive := some 0 } } }
       b.ox.hold.standDrive = some 0 ∧ b.at256 = true ∧ 200 * cclkUs < b.sw.since 0 + 256)
    ∧ (swB []).ep.up = true := by
  decide +kernel

/-! ### Hypotheses that are met: management, power and resets -/

theorem find_and {α : Type} (P Q : α → Bool) (l : List α) (r : α) (h : l.find? P = some r) (q : Q r = true) : l.find? (fun x => P x && Q x) = some r := by
  induction l with
  | nil => simp at h
  | cons a t ih =>
    rw [List.find?_cons] at h ⊢
    cases hp : P a with
    | true => rw [hp] at h; simp at h; subst h; simp [q]
    | false => rw [hp] at h; simpa using ih h

/-- The 8,192 objects 0x7100.00 to 0x711F.FF of an endpoint are staged ones. -/
theorem ctx_staged (i : Nat) (h : i < 8192) : ∃ r, findRow .oe36 (ob 0x7100 0 + i) = some r ∧ r.staged .oe36 = true := by
  have a : ∀ j < 32, (((rowsOf 7).find? (fun r => decide (r.i0 ≤ 0x7100 + j) && decide (0x7100 + j ≤ r.i1))).any (fun r => r.staged .oe36 && r.oe == [(0, 255)])) = true := by
    decide +kernel
  have b := a (i / 256) (by omega)
  rw [Option.any_eq_true] at b
  obtain ⟨r, h1, h2⟩ := b
  simp only [Bool.and_eq_true, beq_iff_eq] at h2
  have e1 : (ob 0x7100 0 + i) / 2 ^ 20 = 7 := by simp only [ob]; omega
  have e2 : (ob 0x7100 0 + i) / 256 = 0x7100 + i / 256 := by simp only [ob]; omega
  refine ⟨r, ?_, h2.1⟩
  unfold findRow
  rw [e1, e2]
  refine find_and _ _ _ r h1 ?_
  simp only [ObjRow.subs, h2.2, List.any_cons, List.any_nil, Bool.or_false, Bool.and_eq_true, decide_eq_true_eq]
  omega

/-- Staged objects from 0x7100.00 on. -/
def staged (n : Nat) : List (Nat × Obj) := (List.range n).map (fun i => (ob 0x7100 0 + i, 0))

theorem staged_sound (n : Nat) (h : n ≤ 8192) : ({ shadow := staged n } : Mgmt).Sound .oe36 := by
  refine ⟨by simpa [staged] using h, ?_, ?_, Nat.zero_le _⟩
  · simp only [staged, List.map_map]
    exact List.Pairwise.map _ (fun a b (h : a < b) => by simpa [Function.comp] using h) List.pairwise_lt_range
  · intro e he
    obtain ⟨i, hi, rfl⟩ := List.mem_map.1 he
    exact ctx_staged i (Nat.lt_of_lt_of_le (List.mem_range.1 hi) h)

/-- An endpoint with `n` objects staged. -/
def stagedS (n : Nat) : State := { st (started [] []) with mgEp := { shadow := staged n } }

theorem none_sound : ({} : Mgmt).Sound .ox720 := ⟨by decide, by decide, by decide, by decide⟩

theorem stagedS_sound (n : Nat) (h : n ≤ 8192) : (stagedS n).Sound := ⟨staged_sound n h, none_sound⟩

theorem wit_StagingIsBounded (n : Nat) (hn : n ≤ 8192) :
    (stagedS n).Sound ∧ (stagedS n).mgEp.shadow.length = n
    ∧ (∃ r, findRow .oe36 (ob 0x7120 0) = some r ∧ r.staged .oe36 = true ∧ BitVec.allOnes 128 &&& r.catchMask .oe36 ≠ 0 ∧ r.splits .oe36 (BitVec.allOnes 128) = false ∧ r.immMask .oe36 = 0)
    ∧ (∀ x, (ob 0x7120 0, x) ∉ (stagedS n).mgEp.shadow) ∧ (0 < n → ∃ x, (ob 0x7100 0, x) ∈ (stagedS n).mgEp.shadow)
    ∧ ((stagedS n).common .oe36).writable .pcie (ob 0x7120 0) = true ∧ ((stagedS n).common .oe36).commitOpen = false ∧ (stagedS n).blk.imageHolds .oe36 (ob 0x7120 0) = false := by
  have hc : ((stagedS n).common .oe36).writable .pcie (ob 0x7120 0) = true ∧ ((stagedS n).common .oe36).commitOpen = false ∧ (stagedS n).blk.imageHolds .oe36 (ob 0x7120 0) = false := by
    show (((started [] []).common .oe36).writable .pcie (ob 0x7120 0) = true ∧ ((started [] []).common .oe36).commitOpen = false ∧ (started [] []).imageHolds .oe36 (ob 0x7120 0) = false)
    decide +kernel
  refine ⟨stagedS_sound n hn, by simp [stagedS, staged], ?_, ?_, fun h => ⟨0, ?_⟩, hc⟩
  · have a : (findRow .oe36 (ob 0x7120 0)).any (fun r => r.staged .oe36 && (BitVec.allOnes 128 &&& r.catchMask .oe36 != 0) && r.splits .oe36 (BitVec.allOnes 128) == false
        && r.immMask .oe36 == 0) = true := by decide +kernel
    rw [Option.any_eq_true] at a
    obtain ⟨r, h, a⟩ := a
    simp only [Bool.and_eq_true, bne_iff_ne, beq_iff_eq, ne_eq] at a
    exact ⟨r, h, a.1.1.1, a.1.1.2, a.1.2, a.2⟩
  · intro x hx
    obtain ⟨i, hi, e⟩ := List.mem_map.1 hx
    have := List.mem_range.1 hi
    have := congrArg Prod.fst e
    simp only [ob] at this; omega
  · exact List.mem_map.2 ⟨0, List.mem_range.2 h, rfl⟩

/-- Staging full, one below, and empty. -/
theorem wit_StagingIsBounded_ends : (stagedS 8192).mgEp.shadow.length = 8192 ∧ (stagedS 8191).mgEp.shadow.length = 8191 ∧ (stagedS 0).mgEp.shadow.length = 0 :=
  ⟨(wit_StagingIsBounded 8192 (by omega)).2.1, (wit_StagingIsBounded 8191 (by omega)).2.1, (wit_StagingIsBounded 0 (by omega)).2.1⟩

theorem wit_SoundKept : (stagedS 8192).Sound ∧ ∃ t, step (stagedS 8192) = .next t := ⟨stagedS_sound _ (by omega), _, rfl⟩

theorem wit_StepRunsFront : ({ State.reset with pending := [.walkStart, .crab] } : State).pending = .walkStart :: [.crab] := rfl

theorem wit_WaitComparesModulo : ((0 : Int) - (2 ^ 31 - 1 : Int) < 2 ^ 31 ∧ ((2 ^ 31 - 1 : Int) - 0) < 2 ^ 31) := by decide

theorem wit_PacketsSurviveFlits :
    (∀ l : Bool, let p : Packet := ({ net := 4, opc := 63, long := l, src := 8191, dst := 8191, tenant := 255, ch := 15, epoch := 15, nb := 255 } : Hdr).packet 1 2 3 []
      p.payload.length = (if pLong p then 256 else 0) ∧ pNet p ≠ 7) := by
  decide +kernel

theorem wit_LanesAreUndone : (∀ x ∈ [3, 3, 3, 3, 0], x < 4) ∧ 31 < 32 ∧ 127 < 128 ∧ 65535 < 65536 ∧ 511 < 512 := by decide

/-- Both parts with fields of both written, at a stroke count. -/
def mgS (stroke : Nat) (more : List (Nat × Nat × Nat × Nat)) : State :=
  let b := started more more
  st { b with ep := { b.ep with stroke := stroke }, sw := { b.sw with stroke := stroke } }

theorem wit_LockHasOneOwner :
    (∀ o ∈ [0, 1, 2], let s := mgS (10 ^ 9) [(ob 0x2000 0x10, 0, 2, o), (ob 0x2000 0x10, 2, 16, 5)]; let c := s.common .oe36
      c.serves (ob 0x2000 0x10) = true ∧ c.owner = o ∧ (o = 2 → c.owner ≠ masterCode .fieldBus ∧ c.takers = []) ∧ (findRow .oe36 (ob 0x1000 0)).isSome = true ∧ c.serves (ob 0x1000 0) = true
        ∧ c.kept.find? (fun e => e.1 == 5 && e.2.1 == 6) = none ∧ c.fld (ob 0x2000 0x10) 2 16 * cclkMs ≤ c.since c.ownerWrite)
    ∧ (let c := (mgS 1 [(ob 0x2000 0x10, 0, 2, 2), (ob 0x2000 0x10, 2, 16, 5)]).common .oe36; c.owner ≠ 0 ∧ c.since c.ownerWrite < c.fld (ob 0x2000 0x10) 2 16 * cclkMs)
    ∧ (bitsOf (1 : Obj) 0 1 = 1 ∧ ¬ (((0 : Nat) = 0 ∧ bitsOf (3 : Obj) 0 2 = masterCode .fieldBus) ∨ (0 = masterCode .fieldBus ∧ bitsOf (3 : Obj) 0 2 = 0))) := by
  decide +kernel

theorem wit_CommitRuns :
    (let s := mgS 1000 [(ob 0x2000 1, 0, 48, 10 ^ 9), (ob 0x2000 1, 48, 16, 3)]; let c := s.common .ox720
      c.inReset = false ∧ c.writable .pcie (ob 0x2000 0) = true ∧ (c.renew .pcie).commitOpen = false ∧ (s.mg .ox720).annSeen.contains ((c.renew .pcie).commitGroup, (c.renew .pcie).catchAt) = false
        ∧ (c.renew .pcie).stroke + (c.renew .pcie).catchGuard < (c.renew .pcie).catchAt ∧ (c.renew .pcie).commitState ≠ csChecking ∧ (c.renew .pcie).commitState ≠ csArmed
        ∧ ({ s with mgSw := { annSeen := [(3, 10 ^ 9)] } } : State).mgSw.annSeen.contains ((c.renew .pcie).commitGroup, (c.renew .pcie).catchAt) = true)
    ∧ (∀ sch : Bool, let s := mgS 1000 [(ob 0x2000 2, 0, 3, csChecking)]
      let c : Common := { s.common .ox720 with scheduled := sch }
      c.commitState = csChecking ∧ c.scheduled = sch ∧ c.commitOpen = true ∧ c.catchAt ≤ c.stroke + c.catchGuard)
    ∧ (mgS 1000 [(ob 0x2000 2, 0, 3, csChecking)]).checkFail .oe36 = none
    ∧ (({ mgS 1000 [(ob 0x2000 2, 0, 3, csChecking)] with mgEp := { shadow := [(ob 0xB100 1, 3)] } } : State).checkFail .oe36).isSome = true
    ∧ (∀ at_ ∈ [1000, 1064], let s := mgS 1000 [(ob 0x2000 2, 0, 3, csArmed)]; let c : Common := { s.common .oe36 with armedAt := some at_ }
      c.inReset = false ∧ c.commitState = csArmed ∧ (c.armedAt = some c.stroke ↔ at_ = 1000)) := by
  decide +kernel

theorem wit_CatchesAndAnnouncements :
    (let s := mgS 1024 [(ob 0x2000 2, 0, 3, csArmed)]
     let s : State := { s with blk := { s.blk with ep := { s.blk.ep with armedAt := some 1024 } }, mgEp := { shadow := [(ob 0x3004 15, 5)] } }
     let c := s.common .oe36
     c.kind = .oe36 ∧ c.inReset = false ∧ c.commitState = csArmed ∧ c.armedAt = some c.stroke ∧ s.mgEp.shadow = [(ob 0x3004 15, 5)] ∧ (findRow .oe36 (ob 0x3004 15)).isSome = true
       ∧ ob 0x3004 15 / 256 ∈ [0x2000, 0x3004, 0x8030, 0x8031, 0x8032, 0xA002])
    ∧ (let pk := ({ net := 4, opc := 0x39, long := false, src := 5 } : Hdr).packet (10 ^ 9 + 65535 * 2 ^ 48) 0 0 []
       ((mgS 1000 []).common .oe36).up = true ∧ pOpc pk = 0x39 ∧ (mgS 1000 []).mgEp.annRelayed.contains (bitsOf pk.w1 48 16, bitsOf pk.w1 0 48) = false
         ∧ ({ annRelayed := [(65535, 10 ^ 9)] } : Mgmt).annRelayed.contains (bitsOf pk.w1 48 16, bitsOf pk.w1 0 48) = true) := by
  decide +kernel

theorem wit_WindowsWrite : let s := mgS 1000 []
    (s.common .oe36).inReset = false
    ∧ (s.writeStatus .oe36 .fieldBus (ob 0x3004 15) (BitVec.allOnes 128) 5 = hsOk ∧ (s.mg .oe36).lastWrite = none ∧ s.writeStatus .oe36 .fieldBus (ob 0x1000 0) (BitVec.allOnes 128) 5 ≠ hsOk)
    ∧ (∀ k ∈ [(2, 0), (3, 0), (2, 4)], let lo := k.2; let n := 2 ^ k.1
        4 ≤ n ∧ lo % n = 0 ∧ (findRow .oe36 (ob 0x3004 15)).any (fun r => decide (8 * (lo + n) ≤ r.width)) = true
          ∧ s.writeStatus .oe36 .pcie (ob 0x3004 15) (BitVec.ofNat 128 ((2 ^ (8 * n) - 1) * 2 ^ (8 * lo))) 5 = hsOk)
    ∧ (2 ^ (1 : BitVec 2).toNat < 4 ∧ (12 : BitVec 28).toNat % 16 % 2 ^ (3 : BitVec 2).toNat ≠ 0)
    ∧ (let off : BitVec 18 := 512 + 4 * 47; let key := ob (if off.toNat < 2 ^ 17 then 0x2000 else 0x9000) (off.toNat % 2 ^ 17 / 512); let bit := off.toNat / 4 % 128
       off.toNat % 4 = 0 ∧ (findRow .oe36 key).any (fun r => bitsOf (r.catchMask .oe36 ||| r.immMask .oe36) bit 1 == 1) = true
         ∧ s.writeStatus .oe36 .pcie key (BitVec.allOnes 128) (setBits (s.baseOf .oe36 .pcie key) bit 1 1) = hsOk)
    ∧ ((1 : BitVec 18).toNat % 4 ≠ 0 ∧ (3 : BitVec 2).toNat ≠ 2)
    ∧ ((s.common .oe36).writable .pcie (ob 0x2101 1) = true ∧ ((s.common .oe36).renew .pcie).takers = []) := by
  decide +kernel

theorem wit_HaothAnswers : let s := mgS 1000 []; let c := s.common .oe36
    (c.inReset = false ∧ ((s.common .ox720).inReset = false))
    ∧ (let r : HaothReq := ⟨5, 6, 16383, 0x3004, 15, 1⟩
       r.target.toNat < 2 ^ 14 ∧ c.kept.find? (fun e => e.1 == r.src.toNat && e.2.1 == r.tid.toNat) = none ∧ r.count.toNat = 1 ∧ c.serves (ob r.index.toNat r.sub.toNat) = true
         ∧ (findRow .oe36 (ob r.index.toNat r.sub.toNat)).isSome = true ∧ c.takers = [] ∧ s.writeStatus .oe36 .fieldBus (ob r.index.toNat r.sub.toNat) (BitVec.allOnes 128) 5 = hsOk
         ∧ s.mgEp.lastWrite = none)
    ∧ ((0 : BitVec 8).toNat = 0 ∧ 1 ≤ (23 : BitVec 8).toNat ∧ (23 : BitVec 8).toNat ≤ 23)
    ∧ (let pk := ({ net := 4, opc := 0x3B, long := true, src := 5 } : Hdr).packet 0 0 0 []
       (s.common .oe36).up = true ∧ pOpc pk = 0x3B ∧ mgPiece pk = 0 ∧ mgLast pk = false)
    ∧ (let g : Mgmt := { relays := [(65535, 5, 1, 0)] }
       g.relays = ((65535 : BitVec 16).toNat, (5 : BitVec 48).toNat, 1, 0) :: [] ∧ cclkMs ≤ ((mgS (10 ^ 9) []).common .ox720).since 0 ∧ (s.common .ox720).since 0 < cclkMs) := by
  decide +kernel

/-- A switch in which a reset is pending, then running. -/
def resetB (kind : Nat) : Block := let b := swB []
  { b with sw := { b.sw with resetPending := some ⟨kind, 1, 3, 15⟩ }, ep := { b.ep with resetPending := some ⟨kind, 1, 0, 15⟩ } }
def runsB (kind : Nat) : Block := let b := swB []
  { b with sw := { b.sw with resetRunning := some ⟨kind, 1, 3, 15⟩ }, ep := { b.ep with resetRunning := some ⟨kind, 1, 0, 15⟩ } }

theorem wit_ResetsTakeEffect :
    (∀ p ∈ [Part.oe36, .ox720], ((swB []).common p).inReset = false ∧ ((swB []).common p).resetPending = none)
    ∧ (blockUnitOk .oe36 0 15 = true ∧ blockUnitOk .ox720 3 15 = true ∧ blockUnitOk .ox720 3 16 = false ∧ blockUnitOk .oe36 7 0 = false)
    ∧ (∀ k ∈ [0, 1, 2, 3], ((resetB k).common .ox720).resetPending = some ⟨k, 1, 3, 15⟩)
    ∧ (let b := swB [(ob 0x5200 0, 0, 4, 1)]; let c : Common := { b.sw with resetPending := some ⟨0, 1, 0, 0⟩ }; c.inReset = false ∧ c.isBow = false ∧ c.resetPending = some ⟨0, 1, 0, 0⟩)
    ∧ (∀ k ∈ [0, 2, 4], ((runsB k).common .oe36).resetRunning = some ⟨k, 1, 0, 15⟩ ∧ ((runsB k).common .ox720).resetRunning = some ⟨k, 1, 3, 15⟩) := by
  decide +kernel

theorem wit_WholePartResets :
    (∀ p ∈ [Part.oe36, .ox720], (((st (resetB 0)).common p).resetPending.map (fun q => q.kind)) = some 0)
    ∧ (∀ p ∈ [Part.oe36, .ox720], ((st (swB [])).common p).inReset = false ∧ ((st (swB [])).common p).tripC ≤ tempOf (0x7FFF : BitVec 16).toNat) := by
  decide +kernel

/-- A part before its bring-up, at a firmware state, with an image staged. -/
def coldB (fw : Nat) : Block := { Block.reset with
  ep := obs (Common.atReset .oe36) [(ob 0xA005 0, 0, 2, fw), (ob 0xA005 0, 32, 24, 9)], sw := obs (Common.atReset .ox720) [(ob 0xA005 0, 0, 2, fw), (ob 0xA005 0, 32, 24, 9)] }

/-- A part whose 16 sensors all read `t`. -/
def heatB (t : Nat) : Common := (List.range 16).foldl (fun c i => c.setFld (ob 0xA002 i) 0 16 t) (swB []).ep

theorem wit_PowerAndBringUp_temps :
    ((List.range 16).all (fun i => decide (tempOf ((heatB 0x8000).fld (ob 0xA002 i) 0 16) + 50 ≤ (swB []).ep.throttleC))
      && decide ((swB []).ep.throttleC < tempOf ((heatB 0x7FFF).fld (ob 0xA002 15) 0 16) + 50)) = true := by
  decide +kernel

theorem wit_PowerAndBringUp :
    (bitAt (railsUsed .oe36) 9 = true ∧ bitAt (railsUsed .oe36) 7 = false ∧ bitAt (railsUsed .ox720) 0 = true ∧ bitAt (railsUsed .ox720) 10 = false ∧ bitAt (locksUsed .ox720) (5 + 1) = true)
    ∧ (∀ p ∈ [Part.oe36, .ox720], let c := (swB []).common p
       c.inReset = false ∧ c.throttleC ≤ tempOf c.throttleC.toNat ∧ c.bit (ob 0xA001 0) 10 = false ∧ tempOf (0x8000 : BitVec 16).toNat < c.throttleC ∧ tempOf (0x8000 : BitVec 16).toNat < c.tripC)
    ∧ (∀ k ∈ [3499, 3500], let b := swB []; let b : Block := { b with sw := { b.sw with stroke := k }, ox := { ann := 3, annPend := [(3, 0, 0)], annEffect := 2 } }
       b.sw.inReset = false ∧ b.ox.annPend = (3, 0, 0) :: [] ∧ (3500 ≤ b.sw.since 0 ↔ k = 3500))
    ∧ (∀ fw ∈ [0, 1, 2], let c := (coldB fw).ep
       c.writable .fieldBus (ob 0xA005 0) = true ∧ (c.renew .fieldBus).fwState = fw ∧ (c.renew .fieldBus).fld (ob 0xA005 0) 32 24 ≠ 0 ∧ c.inReset = false ∧ c.booted = false) := by
  decide +kernel


/-- From reset both parts count. -/
theorem wit_ResetState : State.reset.pending = [] ∧ (∀ p, (Block.reset.common p).running = true ∧ (Block.reset.common p).inReset = false) :=
  ⟨rfl, fun p => by cases p <;> exact ⟨rfl, rfl⟩⟩

/-! ### One ill-formed command for each check -/

def u0 : UReq := ⟨0, 0, 0, 0, false, 0⟩
def p1 : Packet := ⟨0, 0, 0, 0, [0]⟩

/-- Each breaks one check of `Instr.WellFormed`. -/
theorem test_ill_formed :
    ([.ucieWrite u0 0 [0], .ucieWriteback u0 [] false, .ucieSnoopReply 0 0 true [] false, .ucieSnoopReply 0 0 false [0] false,
      .memRdResponse 0 (List.replicate 257 0) .ok false, .contrib p1, .hallPing p1,
      .crewPortIngress 72 ⟨0, 0, 0, 0, []⟩, .packetTransmit .oe36 0 5, .packetTransmit .oe36 16 0, .packetTransmit .ox720 0x59 0,
      .collChunkSend 0 0 false (List.replicate 257 0) false, .exch .oe36 0 0 [], .keyx .oe36 0 0 false (List.replicate 31 0),
      .flitGroup .oe36 0 [] [] false false, .credit .oe36 0 [0], .linePowerMeasure [0] false, .haothWrite .oe36 ⟨0, 0, 0, 0, 0, 1⟩ [],
      .throttleRelease .oe36 (List.replicate 17 0), .farEndPresent .oe36 16 0, .drbgReseed .oe36 false (List.replicate 49 0),
      .keyExchange .oe36 0 0 false []] : List Instr).all (fun i => !i.WellFormed) = true := by decide +kernel

/-! ### The spec's worked examples -/

/-- The hash of a channel, and its entry in the indirection table (06). -/
theorem test_channel_hash :
    channelHash 9 20 3 0x21 % 64 = 33 ∧ indirEntry 0xFFFF 33 = 1 ∧ indirEntry 0xFFFD 33 = 3
      ∧ firstAtOrAbove ((List.range 16).filter (fun k => k != 1 && k != 3)) 3 = some 4 := by decide

/-- A long hall packet with a chain of extension headers: the first type, then (NEXT, ELEN) of each. -/
def hallExt (hlen plen first : Nat) (chain : List (Nat × Nat)) : Packet :=
  ({ net := 3, long := true, opc := 0x30, nb := first } : Hdr).packet (hlen + plen * 2 ^ 6) 0 0
    (chain.flatMap (fun e => slice [BitVec.ofNat 8 e.1, BitVec.ofNat 8 e.2] 0 (8 * e.2)))

/-- Three hall headers: accepted, LENGTH, EXT_DEPTH (06). -/
theorem test_hall_headers :
    hallHeaderBad (hallExt 7 224 1 [(3, 2), (0, 1)]) = none ∧ hallHeaderBad (hallExt 7 240 1 [(3, 2), (0, 1)]) = some 1
      ∧ hallHeaderBad (hallExt 10 128 1 [(0x81, 2), (0x82, 1), (0x81, 1), (3, 1), (0, 1)]) = some 2 := by decide +kernel

/-- 13.5 and 500.0 into E4M3 under the three rounding modes (08). -/
theorem test_round_e4m3 :
    let v := decodeElem 1 0x41580000
    (encodeElem 4 v 0 0).bits = 0x56 ∧ (encodeElem 4 v 1 0).bits = 0x55 ∧ (encodeElem 4 v 2 0x7FFF).bits = 0x55
      ∧ (encodeElem 4 v 2 0x8000).bits = 0x56
      ∧ (∀ m : Fin 3, encodeElem 4 (.fin false 500 0) m 0 = ⟨0x7E, true, false⟩) := by decide +kernel

/-- Three members fold to 2^60 and 2^36 units whose sum is 1.0, and 2 units whose value is 2^−35 (08). -/
theorem test_ax64_three_members :
    blockP [decodeElem 1 0x4B800000, .fin false 3 (-37)] = 137 ∧ blockP [decodeElem 1 0x3F800000, .fin false 1 (-36)] = 113
      ∧ (axOf 137 3 (decodeElem 1 0x4B800000)).w = 0x1000000000000000 ∧ (axOf 137 3 (.fin false 3 (-37))).w = 1
      ∧ (axOf 137 3 (.fin false 1 0)).w = 0x1000000000 ∧ (axOf 137 3 (.fin true 1 24)).w = 0xF000000000000000
      ∧ (axOf 137 3 (.fin true 1 (-38))).w = 0
      ∧ (encodeElem 1 (axVal 137 3 0x1000000000 0) 0 0).bits = 0x3F800000 ∧ (encodeElem 1 (axVal 137 3 2 0) 0 0).bits = 0x2E000000 := by decide +kernel

/-- The group that holds the whole of rack 3, and the chunks of BF16 (10). -/
theorem test_group_of_a_rack :
    grpN 0x8000002706001003 = 72 ∧ grpMember 0x8000002706001003 53 = 3 * 128 + 53
      ∧ chunkBlocks 16 false = 4 ∧ chunksPerSeg 16 false = 4 := by decide +kernel

/-- The descriptor of a two-row tile (05). -/
theorem test_tile_descriptor :
    let ws : List (BitVec 64) := [0x00408012B8043081, 0, 0, 0, 0x0010001000000000, 0x0000002000000080, 0x1000, 0x400]
    dKind ws = 1 ∧ dCtx ws = 2 ∧ dCrec ws = true ∧ dSigEn ws = true ∧ dSigCtr ws = 0x010 ∧ dArrEn ws = true ∧ dArrCtr ws = 0x040 ∧ dWen ws 0 = false
      ∧ tileDims ws = (600, 2, 1) ∧ (tileSide ws true).addr (tileDims ws) 0 = 0x2000000080
      ∧ (tileSide ws true).addr (tileDims ws) 600 = 0x2000000480 ∧ (tileSide ws false).addr (tileDims ws) 600 = 0x1000001000 := by decide +kernel

/-- A leaf of the page tables (03). -/
theorem test_leaf :
    pteV 0x0000114000002147 = true ∧ pteL 0x0000114000002147 = true ∧ pteRights 0x0000114000002147 = 1 ∧ pteCc 0x0000114000002147 = false
      ∧ pteOwn 0x0000114000002147 = 1 ∧ pteTenant 0x0000114000002147 = 0x21 := by decide

/-- Two group operations of a stroke program: ADD V0, LND → V0 and CVT.1 V0 → XB (11). -/
theorem test_group_operations :
    gVop 0x1C001 = 1 ∧ gA 0x1C001 = 0 ∧ gB 0x1C001 = 28 ∧ gD 0x1C001 = 0
      ∧ gVop 0x3A0027 = 7 ∧ gSub 0x3A0027 = 1 ∧ gA 0x3A0027 = 0 ∧ gD 0x3A0027 = 29 := by decide

/-- A blob of three segments: its length must be 40,112 (15). -/
theorem test_blob :
    let h := leBytes 4 0x3142574F ++ [1, 2, 0, 0] ++ leBytes 4 0x102 ++ leBytes 4 0 ++ leBytes 4 40000 ++ List.replicate 44 0
    blobSeg h = 16384 ∧ blobSegs h = 3 ∧ blobBad h 40112 = false ∧ blobBad h 40096 = true := by decide +kernel

/-- BAR0 offset of SLOT_TENANT for rack slot 34 (20). -/
theorem test_object_offset : slotOffset (ob 0x8010 0x22) = 0x08010220 := by decide

/-- Statuses RETRIED_OK and POISON count as POISON (00). -/
theorem test_first_status : firstStatus [0x06, 0x01] = 0x01 := by decide

/-- A handoff of region 37 by its owner, slot 9, to owner 12, waits at the home. -/
def handoffR : Block :=
  let p := ({ opc := 9, src := 9, tenant := 0x21 } : Hdr).packet (reqWord 4 0 0 false 0 0 256 0 false false) (37 * 2 ^ 29) 12 []
  { started [(ob 0xB104 1, 0, 12, 64), (ob 0xB104 0, 29, 23, 1), (ob 0xB110 37, 0, 32, 0x06211200)] [] with
    ep := { (started [(ob 0xB104 1, 0, 12, 64), (ob 0xB104 0, 29, 23, 1), (ob 0xB110 37, 0, 32, 0x06211200)] []).ep with stroke := 1 }
    oe := { hops := [⟨0, 0, .plane 0, p, none, .queued⟩] } }

/-- Two handoffs in one cycle: after the first, region 37 reads as the example says (04). -/
theorem test_handoff : (after (.handoffApply 37) handoffR).ep.fld (ob 0xB110 37) 0 32 = 0x07211800 := by decide +kernel

/-! ### Hypotheses that are met: the remaining clauses -/

/-- The fields that inject at a detector every time, with an argument. -/
def injectAt (point arg : Nat) : List (Nat × Nat × Nat × Nat) := [(ob 0x9010 0, 0, 10, 768 + point), (ob 0x9010 1, 0, 32, arg)]

theorem wit_LinkLaunches_more :
    (∀ t ∈ [none, some 0], let b := linkB lsDetect { pulseAt := t }; (b.ep.link 5).pulseAt = t ∧ (b.ep.link 5).pulseAt.all (fun t => decide (100 * cclkUs ≤ b.ep.since t)) = true)
    ∧ (∀ due : Bool, let l : Link := { frags := [(0, List.replicate 30 0), (1, List.replicate 30 0), (2, List.replicate 30 0)] }
       let b := linkB lsExchange l
       let c : Common := { b.ep.setFld (ob 0x2000 2) 0 3 2 with armedAt := if due then some b.ep.stroke else none }
       c.up = true ∧ c.lstate 5 = lsExchange ∧ (c.link 5).farRec = none ∧ c.catchDue = due ∧ (c.link 5).shortExchange = false)
    ∧ (let b := linkB lsExchange { farRec := some [] }; (b.ep.link 5).farPass = none ∧ (b.ep.link 5).waits = false ∧ (b.ep.link 5).keyStage = 0 ∧ cclkUs ≤ b.ep.since (b.ep.link 5).recAt)
    ∧ (let c := (swB [(ob 0x3001 6, 0, 3, lsLock)]).sw; c.up = true ∧ c.lstate 6 = lsLock ∧ c.steering 6 = false ∧ 500 * cclkUs ≤ ({ c with stroke := 10 ^ 9 } : Common).since (c.link 6).since) := by
  decide +kernel

theorem group_fails : ∃ g, groupOk g = false := by
  cases h : groupOk (List.replicate 260 0) with
  | false => exact ⟨_, h⟩
  | true =>
    refine ⟨List.replicate 256 0 ++ [1, 0, 0, 0], ?_⟩
    have a : leAt (List.replicate 260 (0 : Byte)) 256 4 = 0 := by decide +kernel
    have b : leAt (List.replicate 256 (0 : Byte) ++ [1, 0, 0, 0]) 256 4 = 1 := by decide +kernel
    have e : slice (List.replicate 256 (0 : Byte) ++ [1, 0, 0, 0]) 0 256 = slice (List.replicate 260 0) 0 256 := by decide +kernel
    unfold groupOk at h ⊢
    rw [a, beq_iff_eq] at h
    rw [b, e, ← h]; rfl

theorem wit_LinkDelivers_more :
    (∀ l ∈ [({ swapNak := true } : Link), { swapRx := [(3, 4, none)] }], let b := linkB lsActive l
       (b.ep.link 5).session = none ∧ (b.ep.link 5).waitReplay = none ∧ ((b.ep.link 5).swapNak = true ∨ (b.ep.link 5).swapRx ≠ []))
    ∧ (([some [], some [1, 31]] : List (Option (List (BitVec 5)))).contains none = false ∧ ([some [], none] : List (Option (List (BitVec 5)))).contains none = true)
    ∧ (∀ held : Bool, let b := swB [(ob 0x3001 6, 0, 3, lsActive), (ob 0x5305 6, 7, 1, 1), (ob 0x5305 6, 4, 3, 7)]
       let b : Block := { b with sw := { b.sw with fci := if held then 128 else 0 } }
       b.sw.up = true ∧ b.sw.lstate 6 = lsActive ∧ b.fciHolds 6 = held ∧ (b.sw.link 6).replaying = none ∧ b.ox.launches = []) := ⟨by decide +kernel, by decide +kernel, by decide +kernel⟩

theorem wit_LanesSwap_more :
    (∀ sb ∈ [[(4 : Nat)], [4, 5]], let b := linkB lsActive { standby := sb }
       (b.ep.link 5).standby = 4 :: sb.drop 1 ∧ (b.ep.link 5).swapRx = [] ∧ (b.ep.link 5).swapAsk = [] ∧ b.ep.logicalOf 5 3 = some 3 ∧ b.ep.logicalOf 5 31 = none)
    ∧ (let c := (swB [(ob 0x3001 6, 0, 3, lsActive)]).sw; hallLink c.kind 6 = false ∧ (c.link 6).swapRx = [] ∧ cclkUs ≤ ({ c with stroke := 10 ^ 9 } : Common).since (c.link 6).lastRx) := by
  decide +kernel

theorem wit_LinkModes_more :
    (let b := linkB lsDetect {}
     b.ep.up = true ∧ b.ep.lstate 5 ≠ lsErgo ∧ (b.ep.setBit (ob 0x3000 5) 2 false).lstate 5 ≠ lsDock)
    ∧ (let b := linkB lsActive {}; b.ep.bit (ob 0x3001 5) 3 = false ∧ (b.ep.setBit (ob 0x3001 5) 3 true).bit (ob 0x3001 5) 3 = true)
    ∧ ((swB [(ob 0x5200 0, 0, 4, 1)]).sw.isBow = false ∧ (swB [(ob 0x5200 0, 0, 4, 1)]).sw.lstate 0x58 ≠ lsActive) := by
  decide +kernel

theorem wit_LightAndRings_more :
    (∀ at_ ∈ [none, some 0], let b := lightB [(ob 0x4011 15, 0, 3, 3)]
       let b : Block := { b with sw := { b.sw with stroke := 10 ^ 9 }, ox := { hports := [(15, { trackAt := at_, watchAt := at_ })] } }
       b.sw.up = true ∧ b.sw.hstate 15 ≠ psDisabled
         ∧ b.sw.dueAfter (b.ox.hport 15).trackAt (max (8 * cclkUs) (8 * intNs (b.sw.fld (ob 0x4002 0) 0 3) * 7 / 4)) = true
         ∧ b.sw.dueAfter (b.ox.hport 15).watchAt cclkUs = true ∧ (b.ox.hport 15).badRead = [])
    ∧ ((lightB [(ob 0x4011 15, 0, 3, 0)]).sw.hstate 15 = psDisabled) := by
  decide +kernel

theorem wit_HallPortsSteer_more :
    (∀ same : Bool, ∃ pos ∈ [0, 1], let b := hallB psActive {} [(ob 0x4010 15, 1, 2, 0), (ob 0x4011 15, 3, 2, pos)]
     ((b.rotaE + 64 - b.swRack) % 4 = b.sw.hpos 15 ↔ same = true))
    ∧ (let b := hallB psSteering { steer := some ⟨3, true, 0⟩, phase := 1 } [(ob 0x3001 0x57, 0, 3, 0)]; b.sw.lstate 0x57 ≠ lsActive)
    ∧ (let st : Steer := ⟨3, true, 0⟩; let b := hallB psSteering { steer := some st, phase := 2 } []; st.pos < 4 ∧ (b.ox.hport 15).steer = some st) := by
  decide +kernel

def echoP : Packet := startP 3 0 16

theorem wit_StartLine_more :
    (∀ v : Bool, let b := timeB [(ob 0xC000 2, 1, 1, 1), (ob 0xC000 2, 2, 1, b2n v)] (fun x => { x with pinged := some (0, 64) }) id
       b.sw.up = true ∧ stKind echoP = 3 ∧ b.sw.bit (ob 0xC000 2) 1 = true ∧ b.ox.hallMaster = false ∧ b.ox.pinged = some (0, 64) ∧ b.sw.bit (ob 0xC000 2) 2 = v
         ∧ (let d := fun (a b : Nat) => toSigned 48 (toUnsigned 48 ((a : Int) - (b : Int)))
            (∀ sent ∈ [stValue echoP, stValue echoP + 2 ^ 48 - 65], ((d 64 0 + d (stValue echoP) sent) / 2).natAbs ≤ 64)
              ∧ 64 < ((d 64 0 + d (stValue echoP) ((stValue echoP + 2 ^ 48 - 66) % 2 ^ 48)) / 2).natAbs))
    ∧ ((timeB [] id id).ox.pinged = none ∧ (timeB [] id id).sw.bit (ob 0xC000 2) 1 = false)
    ∧ (∀ m ∈ [true, false], let b := timeB [(ob 0xC000 2, 1, 1, 1)] (fun x => { x with hallMaster := m }) (fun c => { c with started := true })
       b.sw.bit (ob 0xC000 2) 1 = true ∧ b.sw.started = true ∧ b.ox.pulseDue = none ∧ b.ox.hallMaster = m ∧ b.otherRacks = [])
    ∧ (∀ led : Bool, let b := timeB [(ob 0xC000 2, 1, 1, 1), (ob 0x5202 0, 1, 1, 1)] (fun x => { x with pinged := if led then some (0, 10 ^ 9) else none }) (fun c => { c with started := true })
       b.otherRacks = [1] ∧ b.hallLed = led ∧ b.ox.hallClaiming.active = false)
    ∧ (∀ bad : Bool, let p := if bad then { startP 1 0 16 with w0 := (startP 1 0 16).w0 ^^^ 4 } else startP 1 0 16
       stKind p = 1 ∧ classBad p (linkNets .oe36 5) = bad)
    ∧ (let b := timeB [] id id; b.ep.up = true ∧ 3 * checkPeriod ≤ b.ep.since b.ep.lastPulse ∧ ({ b.sw with lastPulse := 10 ^ 9 } : Common).since 1000000000 < 3 * checkPeriod) := ⟨by decide +kernel, by decide +kernel, by decide +kernel, by decide +kernel, by decide +kernel, by decide +kernel⟩

theorem wit_PulsesLoadTheCount :
    (∀ st : Bool, let c : Common := { (timeB [] id id).ep with announced := some (0, true, false, 0), started := st }
       c.up = true ∧ c.bit (ob 0xC000 2) 0 = false ∧ c.announced = some (0, true, false, 0) ∧ c.started = st)
    ∧ (∀ hall : Bool, let c : Common := { (timeB [] id id).ep.setBit (ob 0xC000 2) 0 true with announced := some (0, true, hall, 0) }
       c.bit (ob 0xC000 2) 0 = true ∧ c.stroke ≠ 0 ∧ c.announced = some (0, true, hall, 0))
    ∧ (∀ m : Bool, ∀ hall : Bool, let c : Common := { (timeB [(ob 0xC000 2, 0, 1, 1), (ob 0xC000 2, 1, 1, b2n m)] id id).sw with announced := some (10 ^ 9, true, hall, 0) }
       c.up = true ∧ c.announced = some (10 ^ 9, true, hall, 0) ∧ c.bit (ob 0xC000 2) 0 = true ∧ c.stroke = 10 ^ 9 ∧ c.bit (ob 0xC000 2) 1 = m)
    ∧ ((timeB (injectAt 0xA1 0) id id).sw.injects 0xA1 = true ∧ (timeB [] id id).sw.injects 0xA1 = false ∧ (timeB [] id id).sw.running = true) := by
  decide +kernel

theorem wit_MailboxRequests_more :
    (let b := secB [] (fun c => { c with spdmBusy := some [1], waiters := [⟨3, 0, 0⟩] }); b.ep.up = true ∧ ∀ w ∈ b.ep.waiters, w.consumer ≠ 0)
    ∧ (({ secB [] id with ep := (secB [] id).ep.setBit (ob 0x8102 0) 13 true } : Block).measurement .oe36 2 = none)
    ∧ (let b := secB [] (fun c => { c with sessions := [sess 1] }); b.ep.sessions.all (fun x => x.id != (65535 : BitVec 16).toNat) = true)
    ∧ ((15 : BitVec 4).toNat ≠ 0 ∧ (0 : BitVec 8).toNat = 0 ∧ (255 : BitVec 8).toNat = 0xFF) := by
  decide +kernel

theorem wit_EntropyStates_more :
    (∀ hit : Bool, ∀ p : Part, let c := (secB (injectAt 0x80 (if hit then 2 else 1)) id).common p
       let c := c.setFld (ob 0x8000 0) 1 2 enOk
       c.up = true ∧ c.entropy = enOk ∧ c.detects 0x80 2 2 true = hit)
    ∧ (∀ st ∈ [enRestart, enStartup], ∀ ready : Bool, ∀ p : Part, let c := (secB [(ob 0x8000 0, 0, 1, b2n ready), (ob 0x8000 0, 1, 2, st)] (fun c => { c with waiters := [⟨3, 0, 10⟩], stroke := 10 })).common p
       c.up = true ∧ c.entropy = st ∧ c.bit (ob 0x8000 0) 0 = ready ∧ (∀ w ∈ c.waiters, c.since w.since < 10 * cclkMs ∧ ¬ (w.consumer = 2 ∧ w.arg = 256))) := by
  refine ⟨fun hit p => ?_, fun s hs ready p => ?_⟩
  · cases hit <;> cases p <;> decide +kernel
  · revert s ready; cases p <;> decide +kernel

theorem wit_DebugUnlocks_more : (∀ p : Part, ((secB [] id).common p).up = true) ∧ (∀ p : Part, (((secB [] id).common p).renew .pcie).unlockError.isSome = true) := by
  refine ⟨fun p => ?_, fun p => ?_⟩ <;> cases p <;> decide +kernel

theorem wit_CommitRuns_more :
    (let c := (mgS 1000 [(ob 0x2000 1, 0, 48, 1500), (ob 0x2000 5, 0, 32, 500)]).common .ox720
     let d := c.renew .pcie
     c.writable .pcie (ob 0x2000 0) = true ∧ d.commitOpen = false ∧ d.catchAt ≤ d.stroke + d.catchGuard)
    ∧ (∀ sch : Bool, let c := (mgS 1000 [(ob 0x2000 2, 0, 3, csArmed)]).common .oe36
       let d := ({ c with scheduled := sch } : Common).renew .fieldBus
       c.writable .fieldBus (ob 0x2000 0) = true ∧ d.commitState = csArmed ∧ d.scheduled = sch ∧ d.commitOpen = true)
    ∧ (∀ sch late sync : Bool, let c := (mgS 1000 [(ob 0x2000 2, 0, 3, csChecking), (ob 0x2000 1, 0, 48, if late then 1499 else 1500), (ob 0x2000 5, 0, 32, 500), (ob 0xC000 2, 0, 1, b2n sync)]).common .ox720
       let c : Common := { c with scheduled := sch }
       c.inReset = false ∧ c.commitState = csChecking ∧ c.scheduled = sch ∧ (c.catchAt < c.stroke + c.catchGuard ↔ late = true) ∧ c.bit (ob 0xC000 2) 0 = sync)
    ∧ (let c := (mgS 1000 [(ob 0x2000 2, 0, 3, csChecking)]).common .oe36; (c.renew .pcie).commitState = csChecking ∧ c.writable .pcie (ob 0x2000 0) = true) := by
  decide +kernel

theorem wit_CatchesAndAnnouncements_more :
    (let quiet := fun key : Nat => (key / 256 < 0x7100 ∨ 0x713F < key / 256) ∧ key / 256 ∉ [0x3000, 0x5200, 0x5201, 0x5202, 0x8001, 0x8020, 0x9010, 0x9040, 0x2102, 0xA004, 0xB000, 0xB001, 0xB002, 0xB003, 0xB100, 0xB101]
        ∧ key ≠ ob 0x9030 1
     ∀ k ∈ [ob 0x3004 15, ob 0x8030 255], quiet k)
    ∧ (∀ k ∈ linksOf .oe36, ((mgS 1024 []).blk.ep.link k).judgeDue = false)
    ∧ (∀ bad : Bool, let p : Packet := ({ net := if bad then 0 else 4, opc := 0x39, long := false, src := 5 } : Hdr).packet (10 ^ 9 + 65535 * 2 ^ 48) 0 0 []
       pOpc p = 0x39 ∧ classBad p (linkNets .oe36 15) = bad)
    ∧ (((mgS 1000 []).common .ox720).up = true ∧ (mgS 1000 []).mgSw.annRelayed.contains (65535, 10 ^ 9) = false ∧ ({ annRelayed := [(65535, 10 ^ 9)] } : Mgmt).annRelayed.contains (65535, 10 ^ 9) = true) := by
  decide +kernel

theorem wit_WindowsWrite_more : let s := mgS 1000 []
    (∀ k ∈ [ob 0x3004 15, ob 0x1000 0, ob 0x0FFF 0], (findRow .oe36 k).isSome = !(k == ob 0x0FFF 0))
    ∧ (findRow .oe36 (ob 0x3001 5)).any (fun r => decide (r.width < 8 * (8 + 8))) = true
    ∧ s.writeStatus .oe36 .pcie (ob 0x1000 0) (BitVec.ofNat 128 (2 ^ 32 - 1)) 5 ≠ hsOk
    ∧ (let g : Mgmt := { lastWrite := some (1000, 1, ob 0x3004 15, 2 ^ 128 - 1, 7) }
       g.lastWrite = some ((s.common .oe36).stroke, 1, ob 0x3004 15, (BitVec.allOnes 128).toNat, 7)
         ∧ ({ s with mgEp := g } : State).writeStatus .oe36 .pcie (ob 0x3004 15) (BitVec.ofNat 128 (2 ^ 32 - 1)) 5 = hsOk)
    ∧ (findRow .oe36 (ob 0x2000 (0x1FF % 512 / 512))).any (fun r => bitsOf (r.catchMask .oe36 ||| r.immMask .oe36) 127 1 == 0) = true
    ∧ findRow .oe36 (ob 0x9000 255) = none
    ∧ (∀ o : Option (ReplyTo × Nat × List (List (BitVec 128))), o = none ∨ o = some (⟨1, 2, none⟩, 3, []) →
        let c : Common := { (s.common .oe36).renew .pcie with takers := [⟨.pcie, 0, o⟩] }
        (∃ t ∈ c.takers, t.m = .pcie ∧ t.read = none) ↔ o = none) := by
  refine ⟨by decide +kernel, by decide +kernel, by decide +kernel, by decide +kernel, by decide +kernel, by decide +kernel, ?_⟩
  rintro o (rfl | rfl) <;> simp

theorem wit_HaothAnswers_more : let s := mgS 1000 []
    (2 ^ 14 ≤ (16384 : BitVec 16).toNat ∧ 64 < (65 : BitVec 8).toNat ∧ 23 < (24 : BitVec 8).toNat ∧ (8191 : BitVec 16).toNat < 2 ^ 13 ∧ 2 ^ 13 ≤ (8192 : BitVec 16).toNat)
    ∧ (let c : Common := { s.common .oe36 with kept := [(5, 6, .packet 0 (crewP 5 6))] }; (c.kept.find? (fun e => e.1 == 5 && e.2.1 == 6)).isSome = true)
    ∧ (let c := s.common .ox720
       s.blk.swId < 2 ^ 13 ∧ c.inReset = false ∧ c.takers = [] ∧ c.kept = [] ∧ (∀ i < 2, c.serves (ob 0x3001 5 + i) = true ∧ (findRow .ox720 (ob 0x3001 5 + i)).isSome = true ∧ 5 + i < 256)
         ∧ (findRow .ox720 (ob 0x0FFF 0)).isNone = true)
    ∧ (s.writeStatus .ox720 .fieldBus (ob 0x1000 0) (BitVec.allOnes 128) 5 ≠ hsOk)
    ∧ (s.writeStatus .ox720 .fieldBus (ob 0x3004 5) (BitVec.allOnes 128) 5 = hsOk ∧ s.mgSw.lastWrite = none
        ∧ (let t := s.writeApply .ox720 .fieldBus (ob 0x2000 0x13) (BitVec.allOnes 128) 0; t.writeStatus .ox720 .fieldBus (ob 0x2000 0x14) (BitVec.allOnes 128) 0 ≠ hsOk))
    ∧ (∀ o : Bool, let c := (mgS 1000 (if o then [(ob 0x2000 2, 0, 3, csArmed)] else [])).common .ox720
       (0 : BitVec 8).toNat = 0 ∧ c.writable .fieldBus (ob 0x2000 0) = true ∧ c.commitOpen = o ∧ (c.renew .fieldBus).commitState ≠ csChecking ∧ (c.renew .fieldBus).scheduled = false)
    ∧ (let d := (((s.common .ox720).renew .fieldBus).setFld (ob 0x2000 1) 0 48 (10 ^ 9)).setFld (ob 0x2000 1) 48 16 3
       d.commitOpen = false ∧ s.mgSw.annSeen.contains (d.commitGroup, d.catchAt) = false ∧ d.stroke + d.catchGuard < d.catchAt)
    ∧ (∀ o : Bool, let s := mgS 1000 [(ob 0x3001 71, 0, 3, if o then lsActive else 0)]
       ((2 ^ 13 + 128 * s.blk.swRack + 71) % 2 ^ 13) / 128 = s.blk.swRack ∧ (s.common .ox720).lstate 71 = (if o then lsActive else 0))
    ∧ (∀ bad : Bool, let pk : Packet := ({ net := if bad then 0 else 4, opc := 0x3B, long := true, src := 5 } : Hdr).packet 0 0 0 []
       pOpc pk = 0x3B ∧ classBad pk (linkNets .oe36 15) = bad ∧ mgPiece pk = 0 ∧ mgLast pk = false) := by
  decide +kernel

/-- A switch with a cell and a block standing. -/
def errB (more : List (Nat × Nat × Nat × Nat)) : Block :=
  { swB ([(ob 0x8000 0, 0, 1, 1)] ++ more) with ox := { cells := [(5, some { pkt := crewP 5 6, arrived := 0, refs := 1, input := 5 })], groups := [(15, { bound := some 1 })] } }

theorem wit_ErrorsAreCounted_more :
    (∀ pt ∈ [0x20, 0x21, 0x22], let c := (errB (injectAt pt 0)).sw; c.inReset = false ∧ c.detects pt 40 0 true = true ∧ c.detects pt 24 0 true = true ∧ c.detects pt 40 (255 + 256 * 5) true = false)
    ∧ ((errB []).sw.detects 0x20 40 5 false = true ∧ (errB []).sw.detects 0x20 40 5 true = false)
    ∧ ((errB []).ox.cell 5 ≠ none ∧ (errB []).ox.cell 524287 = none ∧ (errB []).ox.results = [] ∧ ((errB []).ox.group 15).bound = some 1)
    ∧ (let b : Block := { swB [] with ox := { results := [resA] } }
       b.ox.results.find? (fun r => r.g == 15 && r.block == 9 && !r.released) = some resA ∧ b.ox.recomps = [])
    ∧ (∀ k ∈ [ob 0x5100 0], (errB []).sw.shadowErr.contains k = false)
    ∧ (∀ pt ∈ [0x30, 0x32], let b := errB (injectAt pt 7 ++ [(ob 0x9020 1, 0, 30, 7)]); b.sw.secureReady = true ∧ b.sw.detects pt 32 (b.sw.fld (ob 0x9020 1) 0 30) true = true)
    ∧ ((errB []).sw.detects 0x30 32 0 true = false ∧ (errB []).sw.detects 0x32 32 0 true = false ∧ (errB []).sw.detects 0x30 32 0 false = true) := by
  decide +kernel

theorem wit_TwinsStandIn_more :
    (let l := slA (fun l => { l with twin := true })
     let b := swB [(ob 0x9041 0, 0, 1, 1)]; let b : Block := { b with ox := { launches := [l], eng := { running := true, ctx := l.key } } }
     b.sw.up = true ∧ b.sw.standIn = true ∧ b.ox.launches = [l] ∧ l.twin = true ∧ b.ox.eng.running = true ∧ b.ox.eng.ctx = l.key)
    ∧ ((swB []).sw.standIn = false ∧ (swB []).sw.isFenced = false ∧ (swB []).sw.lstate 0x58 ≠ lsActive)
    ∧ (∀ k ∈ [1, 256], let b := swB []; let b : Block := { b with sw := { b.sw with stroke := k }, ox := { hold := { standDrive := some 0 } } }
       b.ox.hold.standDrive = some 0 ∧ (b.at256 = false ∨ b.sw.since 0 + 256 ≤ 200 * cclkUs)) := by
  decide +kernel

theorem wit_ResetState_more : (∀ p : Part, (State.reset.common p).commitState ≠ csArmed) ∧ ∀ p : Part, (State.reset.common p).running = true := by
  refine ⟨fun p => ?_, fun p => ?_⟩ <;> cases p <;> decide +kernel

theorem wit_WholePartResets_more :
    (∀ p ∈ [Part.oe36, .ox720], let c := (st (swB [])).common p
      0 < c.sensors ∧ c.heats 0 false = true ∧ (if c.kind = .ox720 ∧ 12 ≤ (0 : BitVec 4).toNat then c.tripC - 100 else c.tripC) ≤ tempOf (0x7FFF : BitVec 16).toNat)
    ∧ (let c := (swB []).sw; 12 < c.sensors ∧ c.kind = .ox720 ∧ c.tripC - 100 ≤ tempOf (0x7FFF : BitVec 16).toNat)
    ∧ (∀ p ∈ [Part.oe36, .ox720], ((started (injectAt 0xA0 1) (injectAt 0xA0 1)).common p).heats 1 true = true ∧ ((swB []).common p).heats 1 true = false
        ∧ (p = .ox720 → tempOf (0x8000 : BitVec 16).toNat < ((started (injectAt 0xA0 1) (injectAt 0xA0 1)).common p).throttleC)) := by
  decide +kernel

theorem wit_EngineBundles_more :
    (let b := engB engDispatch 0 (fun x => { x with eng := { x.eng with dispatchAt := some 0 } })
     let u := b.hallSort
     b.sw.inReset = false ∧ u.ox.eng.state = engDispatch ∧ u.slaunch? u.ox.eng.ctx = some (slA id) ∧ u.ox.eng.dispatchAt = some 0 ∧ 0 ≤ u.sw.stroke ∧ u.engineOpen = true)
    ∧ (let u := (engB engIdle 0 (fun x => { x with ready := [1] })).hallSort
       u.ox.eng.state = engIdle ∧ u.ox.ready = 1 :: [] ∧ u.engineOpen = true ∧ u.slaunch? 1 = some (slA id))
    ∧ (let b := swB [(ob 0xC000 2, 2, 1, 1)]; b.sw.bit (ob 0xC000 2) 2 = true ∧ b.ox.hallHeld = [])
    ∧ (engB engWait 1 id).ox.sweepFailed = false := by
  decide +kernel

theorem wit_BundleFields_more :
    (∀ d ∈ [1, 2, 3], let b := engB engRun 0 (fun x => { x with ann := 2, annPend := [(2, 0, 0)], annEffect := 1 })
       b.sw.inReset = false ∧ b.ox.eng.running = true ∧ b.ox.eng.state = engRun
         ∧ (d = 1 → 0 < (BitVec.ofNat 2 d).toNat ∧ (BitVec.ofNat 2 d).toNat < b.ox.ann) ∧ (d = 2 → (BitVec.ofNat 2 d).toNat = b.ox.ann) ∧ (d = 3 → b.ox.ann < (BitVec.ofNat 2 d).toNat))
    ∧ ((engB engRun 0 (fun x => { x with ann := 2 })).ox.ann ≠ 0)
    ∧ (let b := engB engRun 0 id; b.ox.eng.abandoned = false ∧ b.slaunch? b.ox.eng.ctx = some (slA id))
    ∧ (61 : BitVec 6).toNat < 62 := by
  decide +kernel

theorem wit_HoldingWater_more :
    (let b := holdB engHeld 1 512 { drive := true, limited := true }; b.ox.hold.drive = true ∧ b.ox.hold.limited = true ∧ b.waitHolds = false ∧ b.ox.hold.standDrive = none)
    ∧ (holdB engRun 0 512 { lineLow := true }).ox.hold.lineLow = true
    ∧ (let b := holdB engHeld 0 512 { seenHigh := some 511 }; b.sw.stroke % 256 = 0 ∧ b.ox.hold.seenHigh = some 511 ∧ after256 511 ≤ b.sw.stroke ∧ b.ox.eng.state = engHeld) := by
  decide +kernel

end Sys2Proof.Tests
end

section
/-!
PROOFS. Invalidation, the fault ring and the walkers (03, R48 to R60): what each command of translation does to the units, and the obligations that follow.
-/
namespace Sys2Proof.Machine

/-! ### Management writes, refused or not -/

/-- What a write of an object of the endpoint can do: nothing in reset, its effect on the renewed part, or a recorded refusal. -/
theorem mgmtWrite_oe_cases (b : Block) (m : Master) (key : Nat) (f : Block → Block) :
    b.mgmtWrite .oe36 m key f = b
    ∨ b.mgmtWrite .oe36 m key f = f { b with ep := b.ep.renew m }
    ∨ b.mgmtWrite .oe36 m key f = { b with ep := b.ep.busError m (slotOffset key) 2 } := by
  unfold Block.mgmtWrite
  dsimp only
  split
  · exact .inl rfl
  · split
    · exact .inr (.inl rfl)
    · exact .inr (.inr rfl)

/-! ### Invalidation (R55, R56) -/

/-- R56: SCOPE 3, a reserved field that is not zero, or 16 pending. -/
abbrev Block.invalRefused (b : Block) (v : BitVec 64) : Prop :=
  bitsOf v 0 2 = 3 ∨ bitsOf v 41 23 ≠ 0 ∨ 16 ≤ b.oe.invals.length

theorem invalidate_of_refused {b : Block} {v : BitVec 64} (h : b.invalRefused v) :
    b.invalidate v = { b with ep := (b.ep.count (ob 0xB102 3) 0 32 1).log 0x7003 .uncorrected 0xFF (packArg [(6, bitsOf v 2 6)]) } :=
  if_pos h

theorem invalidate_of_accepted {b : Block} {v : BitVec 64} (h : ¬ b.invalRefused v) :
    b.invalidate v = { b with
      ep := b.ep.setFld (ob 0xB102 1) 0 16 (b.ep.fld (ob 0xB102 1) 0 16 + 1)
      oe := { b.oe with invals := b.oe.invals ++ [⟨v, b.invalTags v, b.invalDescs v⟩]
                        tlb := b.oe.tlb.filter (fun e => !invalCovers v e)
                        micro := b.oe.micro.filter (fun e => !invalCovers v e.2)
                        misses := b.oe.misses.map (fun x => if x.walking && invalCoversMiss v x then { x with stale := true } else x) } } :=
  if_neg h

/-- No INVAL_CMD brings the pending invalidations above 16. -/
theorem invalidate_invals_le {b : Block} (v : BitVec 64) (h : b.oe.invals.length ≤ 16) : (b.invalidate v).oe.invals.length ≤ 16 := by
  by_cases hr : b.invalRefused v
  · rw [invalidate_of_refused hr]
    exact h
  · have hroom : b.oe.invals.length < 16 := Nat.lt_of_not_le fun hfull => hr (.inr (.inr hfull))
    rw [invalidate_of_accepted hr]
    simp only [List.length_append, List.length_cons, List.length_nil]
    omega

theorem exec_invalCmd (m : Master) (v : BitVec 64) (s : State) :
    exec (.invalCmd m v) s = s.act (fun b => b.mgmtWrite .oe36 m (ob 0xB102 0) (fun b => b.invalidate v)) := rfl

theorem invalCmd_acts {m : Master} {v : BitVec 64} {b b' : Block} (hw : b.ep.writable m (ob 0xB102 0) = true)
    (h : ({ b with ep := b.ep.renew m } : Block).invalidate v = b') : Acts (.invalCmd m v) b b' :=
  acts (exec_invalCmd m v) ((mgmtWrite_oe b m _ _ hw).trans h)

/-- Refused by the management core or not, a write of INVAL_CMD keeps the limit of R56. -/
theorem invalCmd_invals_le {b : Block} (m : Master) (v : BitVec 64) (h : b.oe.invals.length ≤ 16) :
    (b.mgmtWrite .oe36 m (ob 0xB102 0) (fun b => b.invalidate v)).oe.invals.length ≤ 16 := by
  obtain hreset | hserved | hbusError := mgmtWrite_oe_cases b m (ob 0xB102 0) (fun b => b.invalidate v)
  · rw [hreset]; exact h
  · rw [hserved]; exact invalidate_invals_le v h
  · rw [hbusError]; exact h

/-- The oldest invalidation completes once its conditions hold (R55). -/
theorem invalComplete_acts {b : Block} {i : Inval} {r : List Inval} (hi : b.oe.invals = i :: r) (hready : b.invalReady i = true) :
    Acts .invalComplete b { b with
      ep := b.ep.setFld (ob 0xB102 2) 0 16 (b.ep.fld (ob 0xB102 2) 0 16 + 1)
      oe := { b.oe with invals := r } } :=
  acts (fun _ => rfl) (by simp only [hi, hready, if_true]; rfl)

/-! ### The fault ring (R60) -/

theorem setFaultCons_of_within {b : Block} {v : Nat} (h : (b.ep.fld (ob 0xB103 1) 0 16 + 2 ^ 16 - v % 2 ^ 16) % 2 ^ 16 ≤ 128) :
    b.setFaultCons v = { b with ep := b.ep.setFld (ob 0xB103 2) 0 16 v } :=
  if_pos h

theorem faultCons_acts {b : Block} {m : Master} {v : BitVec 16} (hw : b.ep.writable m (ob 0xB103 2) = true)
    (h : (b.ep.fld (ob 0xB103 1) 0 16 + 2 ^ 16 - v.toNat) % 2 ^ 16 ≤ 128) :
    Acts (.faultCons m v) b { b with ep := (b.ep.renew m).setFld (ob 0xB103 2) 0 16 v.toNat } := by
  refine acts (fun _ => rfl) ((mgmtWrite_oe b m _ _ hw).trans (setFaultCons_of_within ?_))
  rw [renew_fld, Nat.mod_eq_of_lt v.isLt]
  exact h

/-! ### Walks (R48, R51, R53) -/

/-- A free walker takes the oldest waiting miss and reads its entry of level 1. -/
theorem walkStart_acts {b : Block} {m : Miss} (hfree : (b.oe.misses.filter (fun m => m.walking)).length < 16)
    (hm : b.oe.misses.find? (fun m => !m.walking) = some m) :
    Acts .walkStart b { b with
      ep := (b.ep.emit (.memRd b.oe.nextMem (b.ep.ctxBase m.ctx + 8 * (m.granule / 64)) 8)).count (ob 0xB105 2) 0 64 1
      oe := { b.oe with nextMem := b.oe.nextMem + 1
                        misses := replaceFirst (fun x => x == m) (fun x => { x with walking := true, level := 1, stale := false }) b.oe.misses } } :=
  acts (fun _ => rfl) (by simp only [hfree, hm, if_true]; rfl)

/-- A valid, well-formed pointer of level 1 leads to the entry of level 2 that FVA[34:29] selects (R48). -/
theorem walkStep_of_pointer {v : BitVec 64} (granule : Nat) (hv : pteV v = true) (hl : pteL v = false) (hp : pointerInvalid v = false) :
    walkStep 1 granule v .ok = .second (bitsOf v 9 43 * 2 ^ 9 + 8 * (granule % 64)) := by
  simp [walkStep, hv, hl, hp]

/-- A walk that is not stale and has a second read to make makes it, and nothing else changes. -/
theorem walkReadDone_acts_of_second {b : Block} {m : Miss} {v : BitVec 64} {ctx : BitVec 6} {g : BitVec 23} {apa : Nat}
    (hm : b.oe.misses.find? (fun m => m.ctx == ctx.toNat && m.granule == g.toNat && m.walking) = some m) (hstale : m.stale = false)
    (hstep : walkStep m.level m.granule v .ok = .second apa) :
    Acts (.walkReadDone ctx g v .ok false) b { b with
      ep := b.ep.emit (.memRd b.oe.nextMem apa 8)
      oe := { b.oe with nextMem := b.oe.nextMem + 1
                        misses := replaceFirst (fun x => x == m) (fun x => { x with level := 2, l1 := v }) b.oe.misses } } := by
  have hdet : b.ep.detects 0x72 8 m.ctx false = true := rfl
  refine acts (fun _ => rfl) ?_
  simp only [hm, hdet, hstale, hstep, Bool.not_true, Bool.false_eq_true, if_false]
  rfl

end Sys2Proof.Machine

namespace Sys2Proof
open Machine

/-- Settles O7: an INVAL_CMD joins the pending ones only where fewer than 16 are, and one that R56 refuses is counted and logged. -/
theorem invalidationLimit : Obligations.InvalidationLimit := by
  unfold Obligations.InvalidationLimit
  refine ⟨fun m v s t hle hexec => ?_, fun b m v hw hrefused => invalCmd_acts hw (invalidate_of_refused hrefused)⟩
  rw [exec_invalCmd] at hexec
  cases hexec
  exact invalCmd_invals_le m v hle

/-- Settles O12: the oldest miss is walked from its context's table, and a pointer of level 1 is followed. -/
theorem walkersReadTheTables : Obligations.WalkersReadTheTables := by
  unfold Obligations.WalkersReadTheTables
  refine ⟨fun b m hfree hm => walkStart_acts hfree hm, fun b m v ctx g hm hstale hlevel hv hl hp => ?_⟩
  have hg : m.granule = g.toNat := by
    have hfound := List.find?_some hm
    simp only [Bool.and_eq_true, beq_iff_eq] at hfound
    exact hfound.1.2
  refine walkReadDone_acts_of_second hm hstale ?_
  rw [hlevel, hg]
  exact walkStep_of_pointer g.toNat hv hl hp

/-- Settles O13: an accepted INVAL_CMD, the completion of the oldest one, and a FAULT_CONS within the ring. -/
theorem invalidationsAndFaultRing : Obligations.InvalidationsAndFaultRing := by
  unfold Obligations.InvalidationsAndFaultRing
  refine ⟨⟨fun b m v hw hscope hres hroom => invalCmd_acts hw ?_, fun b i r hi hready => invalComplete_acts hi hready⟩,
    fun b m v hw h => faultCons_acts hw h⟩
  have haccepted : ¬ ({ b with ep := b.ep.renew m } : Block).invalRefused v := by
    rintro (h | h | h)
    · exact hscope h
    · exact h hres
    · exact absurd hroom (Nat.not_lt.2 h)
  rw [invalidate_of_accepted haccepted, renew_fld]
  rfl

end Sys2Proof
end

section
/-!
PROOFS. The home (04, R62 to R84; 16, R368): what a request that nothing holds back asks of accelerator memory, which packets wait or are refused, and how handoffs and snoops end.
-/
namespace Sys2Proof.Machine

/-! ### The memory part of an access, by opcode (R62, R82, R105) -/

section access
variable {t : Block} {via : Via} {p : Packet}

theorem access_of_rd (ho : pOpc p = 0x01) :
    (t.homeHolds via p none .queued).access (t.hopOf via p none .queued) = t.homeReads via p (t.ep.homeBase + pOffset p) (pBytes p) := by
  rw [← access_read]
  simp only [Block.access, Block.hopOf, ho]
  rfl

/-- Atomics and accumulating writes read their block. -/
theorem access_of_readModify (ho : pOpc p = 0x05 ∨ pOpc p = 0x06 ∨ pOpc p = 0x07) :
    (t.homeHolds via p none .queued).access (t.hopOf via p none .queued) = t.homeReads via p (t.ep.homeBase + pBlock p * 256) 256 := by
  rw [← access_read]
  obtain ho | ho | ho := ho <;> simp only [Block.access, Block.hopOf, ho] <;> rfl

/-- Coherent requests for a line read it. -/
theorem access_of_lineRead (ho : pOpc p = 0x0A ∨ pOpc p = 0x0B ∨ pOpc p = 0x0C) :
    (t.homeHolds via p none .queued).access (t.hopOf via p none .queued)
      = t.homeReads via p ((t.ep.homeBase + pOffset p) / 128 * 128) 128 := by
  rw [← access_read]
  obtain ho | ho | ho := ho <;> simp only [Block.access, Block.hopOf, ho] <;> rfl

theorem access_of_wr (ho : pOpc p = 0x02) :
    (t.homeHolds via p none .queued).access (t.hopOf via p none .queued)
      = t.homeWrites via p none (byteMask (pOffset p % 256) (pBytes p)) p.payload := by
  rw [← access_write]
  simp only [Block.access, Block.hopOf, ho]

theorem access_of_wrmData (half : List Byte) (ho : pOpc p = 0x04) :
    (t.homeHolds via p (some half) .queued).access (t.hopOf via p (some half) .queued)
      = t.homeWrites via p (some half) (BitVec.ofNat 256 (leAt half 0 32)) p.payload := by
  rw [← access_write]
  simp only [Block.access, Block.hopOf, ho]
  rfl

/-- Only the member that holds the line in E or M writes it back. -/
theorem access_of_writeback {d : DirEnt} (ho : pOpc p = 0x0D) (hd : t.dirEnt (pOffset p / 128) = some d) (hst : d.st ≠ 1)
    (hbit : bitAt d.vec (memberOf (pSlot p)) = true) :
    (t.homeHolds via p none .queued).access (t.hopOf via p none .queued)
      = t.homeWrites via p none (byteMask (pOffset p / 128 % 2 * 128) 128) (List.replicate (pOffset p / 128 % 2 * 128) 0 ++ slice p.payload 0 128) := by
  have hd' : (t.homeHolds via p none .queued).dirEnt (pOffset p / 128) = some d := hd
  rw [← access_write]
  simp only [Block.access, Block.hopOf, ho, hd']
  exact if_pos ⟨hst, hbit⟩

/-- A finished EVICT_CLEAN leaves the home without an answer or a table entry. -/
theorem finishOp_of_evictClean (s : Block) (h : HomeOp) (st : Nat) (data : List Byte) (poison : Bool) (old grant : Nat) (ho : pOpc h.p = 0x0E) :
    s.finishOp h st data poison old grant = s.dropOp h.seq := by
  simp only [Block.finishOp, Block.dedupWrite, stateChanging, Block.answerReq, ho]
  simp

theorem dirAfter_of_evictClean {s : Block} {d : DirEnt} (ho : pOpc p = 0x0E) (hd : s.dirEnt (pOffset p / 128) = some d) (hst : d.st ≠ 3)
    (hbit : bitAt d.vec (memberOf (pSlot p)) = true) :
    s.dirAfter p = (s.setDir (pOffset p / 128) 1 (d.vec - 2 ^ memberOf (pSlot p)), 0) := by
  simp only [Block.dirAfter, ho, hd, hst, hbit, ne_eq, not_false_eq_true, and_self, if_true]

theorem access_of_evictClean {d : DirEnt} (ho : pOpc p = 0x0E) (hd : t.dirEnt (pOffset p / 128) = some d) (hst : d.st ≠ 3)
    (hbit : bitAt d.vec (memberOf (pSlot p)) = true) :
    (t.homeHolds via p none .queued).access (t.hopOf via p none .queued)
      = { t with oe := { t.oe with hops := [], arrivals := t.oe.arrivals + 1
                                   dir := let rest := t.oe.dir.filter (fun e => e.line != pOffset p / 128)
                                          if d.vec - 2 ^ memberOf (pSlot p) = 0 then rest else rest ++ [⟨pOffset p / 128, 1, d.vec - 2 ^ memberOf (pSlot p)⟩] } } := by
  have hd' : (t.homeHolds via p none .queued).dirEnt (pOffset p / 128) = some d := hd
  have hp : (t.hopOf via p none .queued).p = p := rfl
  have hop : pOpc (t.hopOf via p none .queued).p = 0x0E := ho
  simp only [Block.access, hp, ho, dirAfter_of_evictClean ho hd' hst hbit, finishOp_of_evictClean _ (t.hopOf via p none .queued) _ _ _ _ _ hop]
  simp [Block.dropOp, Block.setDir, Block.modOe, Block.homeHolds, Block.hopOf, eraseFirst]

end access

/-! ### Requests at an idle home -/

theorem arrived_stroke (b : Block) (via : Via) (p : Packet) : (b.arrived via p).ep.stroke = b.ep.stroke := takeIn_stroke b via p

/-- A request of an opcode that enters no line in the directory begins its memory access. -/
theorem homeReq_serves_noFill {b : Block} {via : Via} {p : Packet} {opc : Nat} (hh : b.homeHears via p) (ht : b.inTurn via)
    (h : (b.arrived via p).homeServes p opc) (hopc : opc ∈ [0x01, 0x02, 0x05, 0x06, 0x07, 0x0D, 0x0E])
    (hs : pCc p = false ∨ (b.arrived via p).snoopsFor p = []) :
    b.homeReq opc via p = ((b.arrived via p).homeHolds via p none .queued).access ((b.arrived via p).hopOf via p none .queued) := by
  have hne : opc ≠ 9 ∧ (opc ≠ 0x23 ∧ opc ≠ 8 ∧ opc ≠ 0x22) ∧ opc ≠ 0x0A ∧ opc ≠ 0x0B ∧ opc ≠ 0x0C := by
    simp only [List.mem_cons, List.not_mem_nil, or_false] at hopc
    omega
  obtain ⟨h9, hc, hA, hB, hC⟩ := hne
  exact homeReq_serves b via p opc hh ht h h9 hc hs (dirFull_not _ _ (h.1 ▸ hA) (h.1 ▸ hB) (h.1 ▸ hC))

/-- A coherent request for a line without snoops that finds room in the directory begins its memory access. -/
theorem homeReq_serves_line {b : Block} {via : Via} {p : Packet} {opc : Nat} (hh : b.homeHears via p) (ht : b.inTurn via)
    (h : (b.arrived via p).homeServes p opc) (hopc : opc = 0x0A ∨ opc = 0x0B ∨ opc = 0x0C) (hs : (b.arrived via p).snoopsFor p = [])
    (hf : (b.arrived via p).dirFull p = false) :
    b.homeReq opc via p = (b.arrived via p).homeReads via p (((b.arrived via p).ep.homeBase + pOffset p) / 128 * 128) 128 := by
  rw [homeReq_serves b via p opc hh ht h (by omega) (by omega) (.inr hs) hf]
  exact access_of_lineRead (h.1 ▸ hopc)

/-- The units once the mask half of a request has joined its data half (R112). -/
def Block.joinMask (t : Block) (m : Packet) : Block := { t with oe := { t.oe with masks := eraseFirst (fun x => x == m) t.oe.masks } }

/-- A mask half of the request has come: its data half is served as one request with it. -/
theorem wrmData_serves {b : Block} {via : Via} {p m : Packet} (hh : b.homeHears via p) (ht : b.inTurn via)
    (hm : b.oe.masks.find? (fun m => sameRequest m p) = some m) (hs : pCc p = false ∨ (b.arrived via p).snoopsFor p = [])
    (h : ((b.arrived via p).joinMask m).homeServes p 0x04) :
    Acts (.wrmData via p) b (((b.arrived via p).joinMask m).homeWrites via p (some (slice m.payload 0 32))
      (BitVec.ofNat 256 (leAt (slice m.payload 0 32) 0 32)) p.payload) := by
  refine acts (fun _ => rfl) ?_
  have hsnoops : pCc p = false ∨ ((b.arrived via p).joinMask m).snoopsFor p = [] := hs
  have hfull : ((b.arrived via p).joinMask m).dirFull p = false := dirFull_not _ _ (by simp [h.1]) (by simp [h.1]) (by simp [h.1])
  have hlast : ((b.takeIn via p).joinMask m).oe.lastVia = b.oe.lastVia := takeIn_lastVia b via p
  have hstroke : ((b.takeIn via p).joinMask m).ep.stroke = b.ep.stroke := takeIn_stroke b via p
  calc b.atEp 0x04 via p _
      = ((b.takeIn via p).joinMask m).arrive via p (some (slice m.payload 0 32)) := by
        rw [atEp_hears b 0x04 via p _ hh h.1]
        simp only [hm]
        rfl
    _ = ((b.arrived via p).joinMask m).letIn ⟨0, ((b.arrived via p).joinMask m).ep.stroke, via, p, some (slice m.payload 0 32), .queued⟩ := by
        rw [arrive_turn b _ via p _ hlast hstroke ht, show ((b.arrived via p).joinMask m).ep.stroke = b.ep.stroke from hstroke]
        rfl
    _ = _ := by
        rw [homeArr_serves _ via p _ 0x04 h (by decide) (by decide) hsnoops hfull, access_of_wrmData _ h.1]

theorem wrmMask_acts {b : Block} {via : Via} {p : Packet} (hh : b.homeHears via p) (ho : pOpc p = 0x03) : let t := b.takeIn via p
    Acts (.wrmMask via p) b { t with oe := { t.oe with masks := t.oe.masks.filter (fun m => !(pSrc m == pSrc p && pTag m == pTag p)) ++ [p] } } :=
  acts (fun _ => rfl) (atEp_hears b 0x03 via p _ hh ho)

/-! ### Counters and handoffs (R79 to R81, R106) -/

/-- CTR_ADD names no block and needs no rights of a region: it is applied to its counter and answered at once. -/
theorem startOp_of_ctrAdd {s : Block} {h : HomeOp} (ho : pOpc h.p = 0x08) (hdup : s.duplicate? h.p = none) :
    s.startOp h = (s.ctrAdd (pArrCtr h.p) (pTenant h.p) (pSrc h.p) (bitsOf h.p.w3 0 32)).finishOp h stOk [] false 0 0 := by
  simp only [Block.startOp, hdup, ite_self, ho]
  rfl

theorem homeReq_of_ctrAdd {b : Block} {via : Via} {p : Packet} (hh : b.homeHears via p) (ht : b.inTurn via)
    (h : (b.arrived via p).homeServes p 0x08) : let t := b.arrived via p
    b.homeReq 0x08 via p = ((t.homeHolds via p none .queued).ctrAdd (pArrCtr p) (pTenant p) (pSrc p) (bitsOf p.w3 0 32)).finishOp
      (t.hopOf via p none .queued) stOk [] false 0 0 := by
  intro t
  have hdup : (t.homeHolds via p none .queued).duplicate? p = none := by
    obtain ⟨-, -, -, -, -, -, -, hdup, -⟩ := h
    exact hdup
  rw [homeReq_turn b via p 0x08 hh ht h.1, ← arrived_stroke b via p, arrive_serves t via p none 0x08 h (by decide)]
  exact startOp_of_ctrAdd h.1 hdup

/-- A request that keeps its region's rules lies in the window. -/
theorem region_lt_of_noViolation {b : Block} {p : Packet} (h : b.violationOf p = none) : pRegion p < b.ep.homeGranules := by
  refine Nat.lt_of_not_le fun hout => ?_
  unfold Block.violationOf at h
  simp only [if_pos hout] at h
  cases h

/-- A handoff that is alone at the home stays until HANDOFF_APPLY. -/
theorem homePump_of_handoff {s : Block} {h : HomeOp} (hs : s.oe.hops = [h]) (ho : pOpc h.p = 0x09) (hph : h.phase = .queued) : s.homePump = s :=
  homePump_stays s h hs (by simp [Block.mayStart, ho]) (by simp [Block.snoopsDone, hph])

/-- At an idle home a handoff stands first, and its region shows it pending. -/
theorem accept_of_handoff {t : Block} {via : Via} {p : Packet} (h : t.homeServes p 0x09) :
    t.accept ⟨0, t.ep.stroke, via, p, none, .queued⟩ = { t.homeHolds via p none .queued with ep := t.ep.setBit (regionKey (pRegion p)) 5 true } := by
  obtain ⟨ho, -, hhops, -, -, -, hen, -, hvio⟩ := h
  have hregion := region_lt_of_noViolation hvio
  unfold Block.accept
  simp only [hen, Bool.not_true, Bool.and_false, Bool.false_eq_true, if_false, hhops, List.takeWhile_nil, List.dropWhile_nil, List.nil_append,
    ho, hregion, and_self, if_true]
  rfl

theorem homeReq_of_handoff {b : Block} {via : Via} {p : Packet} (hh : b.homeHears via p) (ht : b.inTurn via)
    (h : (b.arrived via p).homeServes p 0x09) : let t := b.arrived via p
    b.homeReq 0x09 via p = { t.homeHolds via p none .queued with ep := t.ep.setBit (regionKey (pRegion p)) 5 true } := by
  have haccept := accept_of_handoff (via := via) h
  obtain ⟨ho, hord, -, -, -, hclear, -⟩ := h
  rw [homeReq_turn b via p 0x09 hh ht ho, ← arrived_stroke b via p]
  unfold Block.letIn Block.sequence
  simp only [hclear, Bool.false_and, Bool.false_eq_true, if_false, hord, Bool.not_false, if_true, haccept]
  exact homePump_of_handoff rfl ho rfl

/-! ### HANDOFF_APPLY (R77, R81) -/

section handoffApply
variable {b : Block} {region : BitVec 11} {h : HomeOp}

theorem handoffApply_waits (hhops : b.oe.hops = [h]) (ho : pOpc h.p = 0x09) (hr : pRegion h.p = region.toNat)
    (hw : h.at_ = b.ep.stroke ∨ b.ep.catchDue = true) : Acts (.handoffApply region) b b := by
  refine acts (fun _ => rfl) ?_
  simp only [hhops, List.find?_cons, ho, hr, beq_self_eq_true, Bool.and_self]
  exact if_pos (by simpa using hw)

/-- A handoff alone at the home that may be applied writes owner and mode, adds 1 to the generation, clears PENDING and is answered. -/
theorem handoffApply_applies (hhops : b.oe.hops = [h]) (ho : pOpc h.p = 0x09) (hr : pRegion h.p = region.toNat) (hwin : region.toNat < b.ep.homeGranules)
    (hat : h.at_ ≠ b.ep.stroke) (hcatch : b.ep.catchDue = false) {u : Block} (hu : u = { b with ep := b.ep.setBit (regionKey region.toNat) 5 false })
    (hdup : u.duplicate? h.p = none) (hvio : u.violationOf h.p = none) : let k := regionKey region.toNat
    Acts (.handoffApply region) b (({ u with ep := ((u.ep.setFld k 9 7 (bitsOf h.p.w3 0 7)).setFld k 7 2 (bitsOf h.p.w3 7 2)).setFld k 24 8 (u.ep.fld k 24 8 + 1) } : Block).finishOp
      h stOk [] false 0 0) := by
  subst hu
  refine acts (fun _ => rfl) ?_
  simp only [hhops, List.find?_cons, ho, hr, beq_self_eq_true, Bool.and_self, List.takeWhile_cons, bne_self_eq_false, Bool.false_eq_true, if_false,
    List.any_nil, hat, hcatch, decide_false, Bool.or_self, List.filter_cons, if_true, List.filter_nil, List.length_cons, List.length_nil, hwin, and_self,
    Block.modEp, hdup, hvio]
  exact homePump_nil _ (finishOp_hops _ h _ _ _ _ _ hhops ho)

end handoffApply

/-! ### Packets that wait, and packets that are refused (R62, R132) -/

/-- The commands that bring a request to the home with its only packet, each under the opcode that it hears. -/
def homeRequests (via : Via) (p : Packet) : List (Nat × Instr) :=
  [(0x01, .rd via p), (0x02, .wr via p), (0x05, .atomic via p), (0x06, .atomicCas via p), (0x07, .accWr via p), (0x08, .ctrAdd via p), (0x09, .handoff via p),
    (0x0A, .rdShared via p), (0x0B, .rdOwn via p), (0x0C, .upgrade via p), (0x0D, .writeback via p), (0x0E, .evictClean via p)]

theorem exec_homeRequests {via : Via} {p : Packet} :
    ∀ c ∈ homeRequests via p, ∀ s, exec c.2 s = s.act (fun b => b.homeReq c.1 via p) := by
  simp only [homeRequests, List.forall_mem_cons]
  exact ⟨fun _ => rfl, fun _ => rfl, fun _ => rfl, fun _ => rfl, fun _ => rfl, fun _ => rfl, fun _ => rfl, fun _ => rfl, fun _ => rfl, fun _ => rfl,
    fun _ => rfl, fun _ => rfl, fun _ hc => absurd hc List.not_mem_nil⟩

/-- All commands that bring the home a packet. -/
def homePackets (via : Via) (p : Packet) : List (Nat × Instr) :=
  [(0x01, .rd via p), (0x02, .wr via p), (0x03, .wrmMask via p), (0x04, .wrmData via p), (0x05, .atomic via p), (0x06, .atomicCas via p), (0x07, .accWr via p),
    (0x08, .ctrAdd via p), (0x09, .handoff via p), (0x0A, .rdShared via p), (0x0B, .rdOwn via p), (0x0C, .upgrade via p), (0x0D, .writeback via p),
    (0x0E, .evictClean via p), (0x16, .snoopAck via p), (0x17, .snoopData via p)]

/-- Each looks first whether its packet may be heard. -/
theorem exec_homePackets {via : Via} {p : Packet} :
    ∀ c ∈ homePackets via p, ∃ f, ∀ s, exec c.2 s = s.act (fun b => b.atEp c.1 via p f) := by
  simp only [homePackets, List.forall_mem_cons]
  exact ⟨⟨_, fun _ => rfl⟩, ⟨_, fun _ => rfl⟩, ⟨_, fun _ => rfl⟩, ⟨_, fun _ => rfl⟩, ⟨_, fun _ => rfl⟩, ⟨_, fun _ => rfl⟩, ⟨_, fun _ => rfl⟩, ⟨_, fun _ => rfl⟩,
    ⟨_, fun _ => rfl⟩, ⟨_, fun _ => rfl⟩, ⟨_, fun _ => rfl⟩, ⟨_, fun _ => rfl⟩, ⟨_, fun _ => rfl⟩, ⟨_, fun _ => rfl⟩, ⟨_, fun _ => rfl⟩, ⟨_, fun _ => rfl⟩,
    fun _ hc => absurd hc List.not_mem_nil⟩

/-- A request of a plane below one that the home has heard in this CCLK waits for the next. -/
theorem homeReq_late {b : Block} {via : Via} {p : Packet} {opc : Nat} (hh : b.homeHears via p) (hlate : ¬ b.inTurn via) (ho : pOpc p = opc) :
    let t := b.takeIn via p
    b.homeReq opc via p = { t with oe := { t.oe with late := t.oe.late ++ [⟨0, b.ep.stroke, via, p, none, .queued⟩] } } := by
  have hafter : (b.takeIn via p).oe.lastVia.1 = b.ep.stroke ∧ viaRank via < (b.takeIn via p).oe.lastVia.2 := by
    rw [takeIn_lastVia]
    exact Decidable.not_not.1 hlate
  unfold Block.homeReq
  rw [atEp_hears b opc via p _ hh ho]
  unfold Block.arrive
  simp only [takeIn_stroke, if_pos hafter]
  rfl

/-- A packet that fails checks 1 and 2 is refused whatever it asks. -/
theorem homePacket_refused {b : Block} {k : BitVec 4} {p : Packet} (hreset : b.ep.inReset = false) (hbad : classBad p (linkNets .oe36 k.toNat) = true)
    {c : Nat × Instr} (hc : c ∈ homePackets (.plane k) p) (ho : pOpc p = c.1) : Acts c.2 b { b with ep := b.ep.refuseHere k.toNat p } := by
  obtain ⟨f, hf⟩ := exec_homePackets c hc
  exact acts hf (atEp_bad b k p hreset hbad c.1 f ho)

/-! ### Snoops (R82 to R84) -/

/-- The reply to a snoop at a home without accesses ends the snoop, after the write of a dirty line. -/
theorem snoopReply_ends {b : Block} {opc : Nat} {via : Via} {p : Packet} {sn : Snoop} (hh : b.homeHears via p) (ho : pOpc p = opc)
    (hhops : (b.takeIn via p).oe.hops = [])
    (hsn : (b.takeIn via p).oe.snoops.find? (fun x => x.tag == pTag p && x.member == memberOf (pSlot p)) = some sn) :
    b.snoopReply opc via p = (if opc = 0x17 then (b.takeIn via p).writeDirty sn p.payload (pPoison p) else b.takeIn via p).snoopReplied sn := by
  unfold Block.snoopReply
  rw [atEp_hears b opc via p _ hh ho]
  simp only [hsn]
  refine homePump_nil _ ?_
  rw [snoopReplied_hops]
  split
  · exact hhops
  · exact hhops

section snoopTimeout
variable {b : Block} {line : BitVec 33} {member : BitVec 3} {sn : Snoop}

/-- A timeout that no error injection brings is always looked at. -/
theorem detects_of_noInjection (c : Common) (point w v : Nat) : c.detects point w v false = true := rfl

theorem snoopTimeout_resends (hreset : b.ep.inReset = false) (hsn : b.oe.snoops.find? (fun x => x.line == line.toNat && x.member == member.toNat) = some sn)
    (hdue : b.ep.e2eTimeout ≤ b.ep.since sn.sentAt) (htries : sn.tries < b.ep.retryMax) :
    Acts (.snoopTimeout line member false) b
      (({ b with oe := { b.oe with snoops := replaceFirst (fun x => x == sn) (fun x => { x with tries := x.tries + 1, sentAt := b.ep.stroke }) b.oe.snoops } } : Block).respond15
        (b.memberSlot sn.member) (b.ep.rgTenant (sn.line / 2 ^ 22)) (b.snoopPacket sn.inv sn.tag sn.line sn.member)) := by
  refine acts (fun _ => rfl) ?_
  simp only [hsn, hreset, detects_of_noInjection, Nat.not_lt.2 hdue, htries, decide_true, decide_false, Bool.not_true, Bool.not_false, Bool.and_true,
    Bool.and_false, Bool.false_eq_true, if_true, if_false]
  rfl

/-- The line of a member that never answered: poisoned in memory unless it is shared. -/
def Block.poisonLine (b : Block) (sn : Snoop) (d : DirEnt) : Block :=
  let w := b.memWrite (b.ep.homeBase + sn.line / 2 * 256) 0 (List.replicate 256 0) true
  if d.st = 1 then b else { w.1 with oe := { w.1.oe with wbs := w.1.oe.wbs ++ [(w.2, sn.op, sn.line / 2)] } }

theorem poisonLine_hops (b : Block) (sn : Snoop) (d : DirEnt) : (b.poisonLine sn d).oe.hops = b.oe.hops := by
  unfold Block.poisonLine
  dsimp only
  split
  · rfl
  · rfl

theorem snoopTimeout_forgets {d : DirEnt} (hreset : b.ep.inReset = false)
    (hsn : b.oe.snoops.find? (fun x => x.line == line.toNat && x.member == member.toNat) = some sn)
    (hdue : b.ep.e2eTimeout ≤ b.ep.since sn.sentAt) (htries : b.ep.retryMax ≤ sn.tries) (hhops : b.oe.hops = []) (hd : b.dirEnt sn.line = some d) :
    let u := (b.poisonLine sn d).snoopReplied { sn with inv := true }
    Acts (.snoopTimeout line member false) b { u with
      ep := (u.ep.count (ob 0xB11A 2) 0 32 1).log 0x7011 .uncorrected 0xFF (packArg [(3, sn.member), (33, sn.line)])
      oe := { u.oe with snoops := eraseFirst (fun x => x == sn) u.oe.snoops } } := by
  have hline : (if (d.st != 1) = true then
      let w := b.memWrite (b.ep.homeBase + sn.line / 2 * 256) 0 (List.replicate 256 0) true
      w.1.modOe (fun o => { o with wbs := o.wbs ++ [(w.2, sn.op, sn.line / 2)] }) else b) = b.poisonLine sn d := by
    simp only [bne_iff_ne, ne_eq, ite_not]
    rfl
  refine acts (fun _ => rfl) ?_
  simp only [hsn, hreset, detects_of_noInjection, Nat.not_lt.2 hdue, Nat.not_lt.2 htries, hd, decide_false, Bool.not_true, Bool.not_false, Bool.and_false,
    Bool.false_eq_true, if_false]
  refine (congrArg _ ?_).trans (homePump_nil _ ?_)
  · rw [hline]; rfl
  · exact (snoopReplied_hops _ _).trans ((poisonLine_hops b sn d).trans hhops)

end snoopTimeout

/-! ### The deduplication clear (R368) -/

theorem dedupClearDone_acts {b : Block} (hreset : b.ep.inReset = false) (hclear : b.oe.clearing = true) :
    Acts .dedupClearDone b
      (b.oe.intake.foldl (fun (u : Block) h => u.sequence h) { b with oe := { b.oe with clearing := false, intake := [] } }).homePump :=
  acts (fun _ => rfl) (by simp only [hclear, hreset, Bool.not_false, Bool.and_self, if_true]; rfl)

end Sys2Proof.Machine

namespace Sys2Proof
open Machine

/-- Settles O14: at an idle home each opcode that reads goes straight to the read of its bytes, its block or its line. -/
theorem homeReads : Obligations.HomeReads := by
  unfold Obligations.HomeReads
  intro b via p hh ht
  refine ⟨fun hcc => ⟨fun h => ?rd, fun h => ?atomic, fun h => ?atomicCas, fun h => ?accWr⟩, fun hs hf => ⟨fun h => ?rdShared, fun h => ?rdOwn, fun h => ?upgrade⟩⟩
  case rd => exact acts (fun _ => rfl) ((homeReq_serves_noFill hh ht h (by decide) (.inl hcc)).trans (access_of_rd h.1))
  case atomic => exact acts (fun _ => rfl) ((homeReq_serves_noFill hh ht h (by decide) (.inl hcc)).trans (access_of_readModify (.inl h.1)))
  case atomicCas => exact acts (fun _ => rfl) ((homeReq_serves_noFill hh ht h (by decide) (.inl hcc)).trans (access_of_readModify (.inr (.inl h.1))))
  case accWr => exact acts (fun _ => rfl) ((homeReq_serves_noFill hh ht h (by decide) (.inl hcc)).trans (access_of_readModify (.inr (.inr h.1))))
  case rdShared => exact acts (fun _ => rfl) (homeReq_serves_line hh ht h (.inl rfl) hs hf)
  case rdOwn => exact acts (fun _ => rfl) (homeReq_serves_line hh ht h (.inr (.inl rfl)) hs hf)
  case upgrade => exact acts (fun _ => rfl) (homeReq_serves_line hh ht h (.inr (.inr rfl)) hs hf)

/-- Settles O15: at an idle home WR, WRM_DATA and WRITEBACK go straight to the write of the bytes they enable, and EVICT_CLEAN ends in the directory. -/
theorem homeWrites : Obligations.HomeWrites := by
  unfold Obligations.HomeWrites
  intro b via p hh ht
  refine ⟨fun hs => ⟨fun h => ?wr, fun m hm h => ?wrmData, fun d hd hst hbit h => ?writeback, fun d hd hst hbit h => ?evictClean⟩, fun ho => ?wrmMask⟩
  case wr => exact acts (fun _ => rfl) ((homeReq_serves_noFill hh ht h (by decide) hs).trans (access_of_wr h.1))
  case wrmData => exact wrmData_serves hh ht hm hs h
  case writeback => exact acts (fun _ => rfl) ((homeReq_serves_noFill hh ht h (by decide) hs).trans (access_of_writeback h.1 hd hst hbit))
  case evictClean => exact acts (fun _ => rfl) ((homeReq_serves_noFill hh ht h (by decide) hs).trans (access_of_evictClean h.1 hd hst hbit))
  case wrmMask => exact wrmMask_acts hh ho

/-- Settles O16: what each packet, handoff and snoop does where nothing else stands at the home, and what waits or is refused. -/
theorem homeOrders : Obligations.HomeOrders := by
  unfold Obligations.HomeOrders
  intro b
  refine ⟨fun via p hh => ⟨fun ht => ⟨fun h => ?ctrAdd, fun h => ?handoff⟩, fun hhops sn hsn => ⟨fun ho => ?snoopAck, fun ho => ?snoopData⟩, fun hlate c hc ho => ?late⟩,
    fun k p hreset hbad c hc ho => ?refused, fun region h hhops ho hr hwin => ⟨fun hw => ?waits, fun hat hcatch hdup hvio => ?applies⟩,
    fun hreset line member sn hsn hdue => ⟨fun htries => ?resends, fun htries hhops d hd => ?forgets⟩, fun hreset hclear => ?clear⟩
  case ctrAdd => exact acts (fun _ => rfl) (homeReq_of_ctrAdd hh ht h)
  case handoff => exact acts (fun _ => rfl) (homeReq_of_handoff hh ht h)
  case snoopAck => exact acts (fun _ => rfl) (snoopReply_ends hh ho hhops hsn)
  case snoopData => exact acts (fun _ => rfl) (snoopReply_ends hh ho hhops hsn)
  case late => exact acts (exec_homeRequests c hc) (homeReq_late hh hlate ho)
  case refused => exact homePacket_refused hreset hbad hc ho
  case waits => exact handoffApply_waits hhops ho hr hw
  case applies => exact handoffApply_applies hhops ho hr hwin hat hcatch rfl hdup hvio
  case resends => exact snoopTimeout_resends hreset hsn hdue htries
  case forgets => exact snoopTimeout_forgets hreset hsn hdue htries hhops hd
  case clear => exact dedupClearDone_acts hreset hclear

end Sys2Proof
end

section
/-!
PROOFS. The load/store path, the waits and the doorbells (05, R88 to R93, R99): what each command does to the units, and the obligations that follow.
-/
namespace Sys2Proof.Machine

/-! ### Waits (R99) -/

/-- The model's comparison of two 32-bit values is that of their difference as integers. -/
theorem wrapDiff_lt_iff {v w : Nat} (hw : w < 2 ^ 32) :
    (v + 2 ^ 32 - w) % 2 ^ 32 < 2 ^ 31 ↔ ((v : Int) - (w : Int)) % 2 ^ 32 < 2 ^ 31 := by
  omega

/-- Wait `k` of a descriptor holds (R99). -/
abbrev Block.waitMet (b : Block) (ws : List (BitVec 64)) (k : Nat) : Prop :=
  ((b.ep.fld (ctrKey (dWaitId ws k)) 0 32 : Int) - (dWaitVal ws k : Int)) % 2 ^ 32 < 2 ^ 31

theorem waitsHold_iff (b : Block) (ws : List (BitVec 64)) : b.waitsHold ws = true ↔ ∀ k, k < 4 → dWen ws k = true → b.waitMet ws k := by
  have hval (k : Nat) : dWaitVal ws k < 2 ^ 32 := bitsOf_lt _ _ _
  simp only [Block.waitsHold, List.all_eq_true, List.mem_range, Bool.or_eq_true, Bool.not_eq_true', decide_eq_true_eq, wrapDiff_lt_iff (hval _)]
  refine forall₂_congr fun k _ => ?_
  cases dWen ws k <;> simp

/-- Of two numbers less than 2^31 apart the residues modulo 2^32 tell the larger. -/
theorem residues_compare {v w : Nat} (hvw : (v : Int) - (w : Int) < 2 ^ 31) (hwv : (w : Int) - (v : Int) < 2 ^ 31) :
    (((v % 2 ^ 32 : Nat) : Int) - ((w % 2 ^ 32 : Nat) : Int)) % 2 ^ 32 < 2 ^ 31 ↔ w ≤ v := by
  omega

/-! ### Doorbells (R93) -/

/-- The part of the endpoint once a doorbell has rung: TAIL moves, or the doorbell is discarded and counted. -/
def Common.rung (c : Common) (q tail : Nat) : Common :=
  if cntDiff (c.qTail q) (c.qHead q) + cntDiff tail (c.qTail q) ≤ c.qSize q then c.setFld (qk 0xB008 q) 16 16 tail
  else (c.count (ob 0xB042 1) 0 32 1).log 0x7021 .uncorrected 0xFF (packArg [(10, q), (16, tail)])

theorem ring_eq (b : Block) (q tail : Nat) : b.ring q tail = { b with ep := b.ep.rung q tail } := by
  unfold Block.ring Common.rung
  exact (apply_ite (fun c => ({ b with ep := c } : Block)) _ _ _).symm

theorem renew_qSize (c : Common) (m : Master) (q : Nat) : (c.renew m).qSize q = c.qSize q := by
  unfold Common.qSize
  rw [renew_fld]

/-! ### Load/store requests (R88 to R92) -/

section lsHit
variable {b : Block} {r : LsReq} {e : TlbEnt}

/-- The request once it holds its translation. -/
abbrev LsReq.found (r : LsReq) (e : TlbEnt) : LsReq := { r with xl := some (.ok e.leaf e.big), waitWalk := false }

/-- The only request of the path, translated, may be sent at once. -/
theorem lsMaySend_found (h : b.lsHit r e) : (b.lsFound r e).lsMaySend (r.found e) = true := by
  obtain ⟨-, -, -, -, -, -, -, -, hchan⟩ := h
  have hbefore : lsBefore (b.lsFound r e).oe.ls r.tag = [] := by simp [lsBefore, Block.lsFound]
  have hslot : (b.lsFound r e).epSlot = b.epSlot := rfl
  unfold Block.lsMaySend
  simp only [hbefore, List.any_nil, Bool.not_false, Bool.true_and]
  cases ho : r.ord with
  | false => rfl
  | true => simpa [LsReq.dst, LsReq.tenant, hslot] using hchan ho

theorem transmit_rotation (s : Block) (d : Nat) (p : Option Nat) (k : List Packet) : (s.transmit d p k).oe.rotation = s.oe.rotation := by
  unfold Block.transmit
  split
  · rfl
  · split <;> rfl

/-- An EVICT_CLEAN is sent as one packet and forgotten: it takes no transaction and has no answer (R91). -/
theorem lsSend_evict (h : b.lsHit r e) (hk : r.kind = .evict) (hs : r.sent = false) :
    let d := leafFpa e.leaf e.big r.fva / 2 ^ 40
    let f := b.lsFound r e
    f.lsSend r.tag = (if r.ord then
        let c := f.chanOf d r.ch (pteTenant e.leaf)
        (f.setChan { c with seq := (c.seq + 1) % 2 ^ 16 }).transmit d c.plane [f.reqPacket (r.spec e 14) d c.epoch c.seq]
      else (f.transmit d (f.relaxedPlane d).1 [f.reqPacket (r.spec e 14) d 0 0]).modOe (fun o => { o with
        rotation := if d == f.epSlot then o.rotation else (f.relaxedPlane d).2 })).dropLs r.tag := by
  intro d f
  have hfind : f.oe.ls.find? (fun x => x.tag == r.tag) = some (r.found e) := by simp [f, Block.lsFound]
  have hmay : f.lsMaySend (r.found e) = true := lsMaySend_found h
  have hspec : (lsSpecs (r.found e) e.leaf e.big).head? = some (r.spec e 14) := by simp [lsSpecs, hk, LsReq.spec]
  have hkind : (r.kind == .evict) = true := by rw [hk]; rfl
  have hcc : (r.kind == .rdShared || r.kind == .rdOwn || r.kind == .upgrade || r.kind == .writeback) = false := by rw [hk]; rfl
  unfold Block.lsSend
  simp only [hfind, hs, hcc, hspec, hkind, hmay, Bool.and_false, Bool.not_true, Bool.false_eq_true, if_false, if_true]
  rfl

end lsHit


/-- A request as a command of the accelerator brings it: not translated, not sent. -/
abbrev LsReq.fresh (r : LsReq) : Prop := r.waitWalk = true ∧ r.xl = none ∧ r.sent = false

/-- A request for plain data that hits leaves as the packets of its kind. -/
theorem lsAccept_plain {b : Block} {r : LsReq} {e : TlbEnt} {specs : List ReqSpec} (hf : r.fresh)
    (hk : r.kind = .read ∨ r.kind = .write ∨ r.kind = .atomic) (hs : lsSpecs (r.found e) e.leaf e.big = specs) (h : b.lsHit r e) :
    b.lsAccept r = b.lsLeft r e specs := by
  obtain ⟨hwait, hxl, hsent⟩ := hf
  rw [← hs]
  obtain hk | hk | hk := hk <;> exact accept_hit b r e h hwait hxl hsent (by simp [hk]) (by simp [hk]) (.inr (by simp [hk]))

/-- A coherent request that hits a granule with coherence leaves as the packet of its kind. -/
theorem lsAccept_coherent {b : Block} {r : LsReq} {e : TlbEnt} {specs : List ReqSpec} (hf : r.fresh) (hcc : pteCc e.leaf = true)
    (hk : r.kind = .rdShared ∨ r.kind = .rdOwn ∨ r.kind = .upgrade ∨ r.kind = .writeback) (hs : lsSpecs (r.found e) e.leaf e.big = specs)
    (h : b.lsHit r e) : b.lsAccept r = b.lsLeft r e specs := by
  obtain ⟨hwait, hxl, hsent⟩ := hf
  rw [← hs]
  obtain hk | hk | hk | hk := hk <;> exact accept_hit b r e h hwait hxl hsent (by simp [hk]) (by simp [hk]) (.inl hcc)

/-- Enabled bytes that are one run travel as a WR of that run (R112). -/
theorem lsSpecs_write_run {r : LsReq} {e : TlbEnt} {f n : Nat} (hk : r.kind = .write) (hrun : maskRun r.mask = some (f, n)) :
    lsSpecs (r.found e) e.leaf e.big
      = [{ r.spec e 2 with long := true, fpa := leafFpa e.leaf e.big r.fva / 256 * 256 + f, bytes := n, payload := onlyBytes f n r.data }] := by
  simp only [lsSpecs, hk, hrun, LsReq.spec]

/-- Any others travel as a WRM pair (R112). -/
theorem lsSpecs_write_masked {r : LsReq} {e : TlbEnt} (hk : r.kind = .write) (hrun : maskRun r.mask = none) :
    lsSpecs (r.found e) e.leaf e.big
      = [{ r.spec e 3 with long := true, payload := leBytes 32 r.mask.toNat },
         { r.spec e 4 with long := true, payload := onlyBytes (leafFpa e.leaf e.big r.fva % 256) r.size r.data }] := by
  simp only [lsSpecs, hk, hrun, LsReq.spec]

/-- Operation 7 is a compare-and-swap, which carries its comparand in the payload (R102, R112). -/
theorem lsSpecs_atomic {r : LsReq} {e : TlbEnt} (hk : r.kind = .atomic) :
    lsSpecs (r.found e) e.leaf e.big
      = if r.op = 7 then [{ r.spec e 6 with long := true, aop := 7, atype := r.typ, w3 := r.operand.toNat, payload := leBytes 8 r.compare.toNat }]
        else [{ r.spec e 5 with aop := r.op, atype := r.typ, w3 := r.operand.toNat }] := by
  simp only [lsSpecs, hk, LsReq.spec]
  split
  · next h7 => rw [h7]
  · rfl

/-! ### Fences, snoop replies and counter reads over UCIe (R73, R88, R90, R91) -/

/-- A fence that comes to an empty path stands there: it needs no translation and sends nothing. -/
theorem lsAccept_fence {b : Block} {r : LsReq} (hreset : b.ep.inReset = false) (hls : b.oe.ls = []) (hfree : b.tagFree r.tag = true)
    (hk : r.kind = .fence) (hxl : r.xl = none) : b.lsAccept r = { b with oe := { b.oe with ls := [r] } } := by
  have hform : lsMalformed r.kind r.fva r.size r.op r.typ = false := by rw [hk]; rfl
  have hfence : (r.kind == .fence) = true := by rw [hk]; rfl
  unfold Block.lsAccept
  simp only [hreset, hls, hfree, hform, List.length_nil, List.any_nil, Bool.not_true, Bool.or_false, Nat.reduceLeDiff, decide_false,
    Bool.false_eq_true, if_false]
  have hstays : ({ b with oe := { b.oe with ls := [r] } } : Block).lsTranslate r.tag = { b with oe := { b.oe with ls := [r] } } := by
    simp [Block.lsTranslate, hk]
  have hwaits : ({ b with oe := { b.oe with ls := [r] } } : Block).lsSend r.tag = { b with oe := { b.oe with ls := [r] } } := by
    simp [Block.lsSend, hxl]
  calc (b.modOe (fun o => { o with ls := o.ls ++ [r] })).lsPump
      = ({ b with oe := { b.oe with ls := [r] } } : Block).lsPump := by simp only [Block.modOe, hls, List.nil_append]
    _ = _ := by simp only [Block.lsPump, List.map_cons, List.map_nil, List.foldl_cons, List.foldl_nil, hstays, hwaits]

/-- A fence that stands first is answered, and leaves the path empty. -/
theorem fenceComplete_ls_acts {b : Block} {tag : BitVec 13} {r : LsReq} (hls : b.oe.ls = [r]) (hk : r.kind = .fence) (ht : r.tag = tag.toNat) :
    Acts (.fenceComplete (.ls tag)) b (({ b with ep := b.ep.emit (.ucieResponse tag.toNat stOk []) } : Block).dropLs tag.toNat) := by
  have hholds : b.fenceHolds (.ls tag) = true := by
    simp only [Block.fenceHolds, hls, List.head?_cons, hk, ht]
    simp
  refine acts (fun _ => rfl) ?_
  simp only [hholds, if_true]
  exact lsPump_nil _ (ht ▸ dropLs_nil _ r hls)

/-- One packet to another slot goes into the queue of its plane. -/
theorem transmit_plane {b : Block} {d p : Nat} (hd : d ≠ b.epSlot) (k : Packet) :
    b.transmit d (some p) [k] = { b with ep := b.ep.queueTx p k } := by
  unfold Block.transmit
  rw [if_neg (by simpa using hd)]
  rfl

theorem ctrRead_aligned {b : Block} {tag : BitVec 13} {off : BitVec 16} (hreset : b.ep.inReset = false) (hoff : off.toNat % 8 = 0) :
    Acts (.ctrRead tag off 8) b { b with ep := b.ep.emit (.ucieResponse tag.toNat stOk (leBytes 8 (b.ep.fld (ctrKey (off.toNat / 8)) 0 40))) } :=
  acts (fun _ => rfl) (by simp only [hreset, hoff, and_self, Bool.false_eq_true, if_false, if_true]; rfl)

theorem ctrRead_refused {b : Block} {tag : BitVec 13} {off : BitVec 16} {size : BitVec 9} (hreset : b.ep.inReset = false)
    (h : size ≠ 8 ∨ off.toNat % 8 ≠ 0) :
    Acts (.ctrRead tag off size) b { b with
      ep := (b.ep.emit (.ucieResponse tag.toNat stDescriptor [])).log 0x7023 .uncorrected 0xFF (packArg [(4, 10), (13, tag.toNat)]) } := by
  have hbad : ¬ (size = 8 ∧ off.toNat % 8 = 0) := Decidable.not_and_iff_or_not.2 h
  exact acts (fun _ => rfl) (by simp only [hreset, hbad, Bool.false_eq_true, if_false]; rfl)

end Sys2Proof.Machine

namespace Sys2Proof
open Machine

/-- Settles O8: the model's natural-number comparison of each wait is the signed one of R99. -/
theorem waitComparesModulo : Obligations.WaitComparesModulo := by
  unfold Obligations.WaitComparesModulo
  exact ⟨waitsHold_iff, fun _ _ => residues_compare⟩

/-- Settles O19: both ways to ring lead to the same check, and the lease that a management write renews is no part of it. -/
theorem doorbellsMoveTail : Obligations.DoorbellsMoveTail := by
  unfold Obligations.DoorbellsMoveTail
  intro b q tail
  refine ⟨fun hreset => acts (fun _ => rfl) ?_, fun m hw => acts (fun _ => rfl) ?_⟩
  · simp only [hreset, Bool.false_eq_true, if_false, ring_eq]
    rfl
  · obtain ⟨-, hhead, htail, -⟩ := renew_q b.ep m q.toNat
    rw [mgmtWrite_oe b m _ _ hw, ring_eq]
    simp only [Common.rung, hhead, htail, renew_qSize]

/-- Settles O17: each request that hits leaves at once as the packets of its kind; EVICT_CLEAN alone takes no transaction. -/
theorem loadStoreRequests : Obligations.LoadStoreRequests := by
  unfold Obligations.LoadStoreRequests
  refine ⟨fun b u e data mask op typ operand compare poison => ⟨fun h => ?read, fun f n hrun h => ?run, fun hrun h => ?masked, fun h => ?atomic,
    fun hcc => ⟨fun h => ?rdShared, fun h => ?rdOwn, fun h => ?upgrade, fun h => ?writeback⟩⟩,
    fun b u e h => ⟨fun ho => ?ordered, fun ho => ?relaxed⟩⟩
  case read => exact acts (fun _ => rfl) (lsAccept_plain ⟨rfl, rfl, rfl⟩ (.inl rfl) rfl h)
  case run => exact acts (fun _ => rfl) (lsAccept_plain ⟨rfl, rfl, rfl⟩ (.inr (.inl rfl)) (lsSpecs_write_run rfl hrun) h)
  case masked => exact acts (fun _ => rfl) (lsAccept_plain ⟨rfl, rfl, rfl⟩ (.inr (.inl rfl)) (lsSpecs_write_masked rfl hrun) h)
  case atomic =>
    have h7 : op.toNat = 7 ↔ op = 7 := BitVec.toNat_inj (y := 7#4)
    simp only [← h7]
    exact acts (fun _ => rfl) (lsAccept_plain ⟨rfl, rfl, rfl⟩ (.inr (.inr rfl)) (lsSpecs_atomic rfl) h)
  case rdShared => exact acts (fun _ => rfl) (lsAccept_coherent ⟨rfl, rfl, rfl⟩ hcc (.inl rfl) rfl h)
  case rdOwn => exact acts (fun _ => rfl) (lsAccept_coherent ⟨rfl, rfl, rfl⟩ hcc (.inr (.inl rfl)) rfl h)
  case upgrade => exact acts (fun _ => rfl) (lsAccept_coherent ⟨rfl, rfl, rfl⟩ hcc (.inr (.inr (.inl rfl))) rfl h)
  case writeback => exact acts (fun _ => rfl) (lsAccept_coherent ⟨rfl, rfl, rfl⟩ hcc (.inr (.inr (.inr rfl))) rfl h)
  case ordered =>
    refine acts (fun _ => rfl) ((accept_send b _ e h rfl rfl rfl nofun).trans ((lsSend_evict h rfl rfl).trans ?_))
    rw [if_pos ho]
  case relaxed =>
    refine acts (fun _ => rfl) ((accept_send b _ e h rfl rfl rfl nofun).trans ((lsSend_evict h rfl rfl).trans ?_))
    rw [if_neg (by simp [ho])]
    simp only [Block.modOe, transmit_rotation]
    rfl

/-- Settles O18: what a fence, a snoop reply and a counter read over UCIe lead to. -/
theorem ucieAnswers : Obligations.UcieAnswers := by
  unfold Obligations.UcieAnswers
  refine ⟨fun b tag hreset hls hfree => ?fence, fun b tag r hls hk ht => fenceComplete_ls_acts hls hk ht, fun b home tag dirty poison data p hreset hhome hp => ?snoop,
    fun b tag off hreset hoff => ctrRead_aligned hreset hoff, fun b tag off size hreset h => ctrRead_refused hreset h⟩
  case fence => exact acts (fun _ => rfl) (lsAccept_fence hreset hls hfree rfl rfl)
  case snoop =>
    refine acts (fun _ => rfl) ?_
    simp only [hreset, hp, Bool.false_eq_true, if_false, transmit_plane hhome]
    rfl

end Sys2Proof
end

section
/-!
PROOFS. What accelerator memory answers (04, R62, R66; 05, R94): a fetched descriptor that passes its head check, the data of a read and the acknowledgement of a write at the home.
-/
namespace Sys2Proof.Machine

/-- What a command does, said in other words. -/
theorem acts_congr {i : Instr} {b b' b'' : Block} (h : Acts i b b') (he : b' = b'') : Acts i b b'' := he ▸ h

/-! ### A descriptor comes from memory (R94, R97) -/

/-- No count stands before itself. -/
theorem cntBefore_self (n : Nat) : cntBefore n n = false := by
  have hdiff : cntDiff n n = 0 := by unfold cntDiff; omega
  simp [cntBefore, hdiff]

/-- A descriptor without a run is none of those issued. -/
theorem runs_any_of_noRun {b : Block} {q n : Nat} (h : b.run? q n = none) : b.oe.runs.any (fun r => r.q == q && r.n == n) = false :=
  List.any_eq_false.2 (List.find?_eq_none.1 h)

/-- The units with queue `q` as `x`. -/
def Block.setQueue (b : Block) (q : Nat) (x : Queue) : Block := { b with oe := { b.oe with queues := SMap.set {} b.oe.queues q x } }

@[simp] theorem queue_setQueue (b : Block) (q : Nat) (x : Queue) : (b.setQueue q x).queue q = x := SMap.get_set_same _ _ _
@[simp] theorem setQueue_ep (b : Block) (q : Nat) (x : Queue) : (b.setQueue q x).ep = b.ep := rfl

/-- The head checks look at objects alone. -/
theorem headCheck_congr {b b' : Block} (h : b.ep = b'.ep) (q : Nat) (ws : List (BitVec 64)) : b.headCheck q ws = b'.headCheck q ws := by
  unfold Block.headCheck
  rw [h]

theorem setQueue_setQueue {b : Block} {q : Nat} {x : Queue} (hx : x ≠ {}) (y : Queue) : (b.setQueue q x).setQueue q y = b.setQueue q y := by
  unfold Block.setQueue
  rw [SMap_set_set _ _ _ _ hx]

theorem modQueue_eq {b : Block} {q : Nat} {x : Queue} (h : b.queue q = x) (f : Queue → Queue) : b.modQueue q f = b.setQueue q (f x) := by
  subst h
  rfl

/-- A fetched descriptor that passes its head check is marked as checked. -/
theorem headPump_checks {b : Block} {q n k : Nat} {ws : List (BitVec 64)} (hq : b.queue q = { fetched := [⟨n, some ws, false⟩] })
    (hstate : b.ep.qState q = qRunning) (hrun : b.run? q n = none) (hcheck : b.headCheck q ws = none) :
    b.headPump q (k + 1) = b.setQueue q { fetched := [⟨n, some ws, true⟩] } := by
  unfold Block.headPump
  simp only [hq, hstate, runs_any_of_noRun hrun, hcheck, Option.isSome_none, bne_self_eq_false, List.contains_nil, Bool.or_self, Bool.false_eq_true, if_false,
    modQueue_eq hq, replaceFirst, beq_self_eq_true, if_true]

/-- The words of the descriptor that stands at HEAD have come: it is held, and HEAD passes its slot. -/
theorem fetched_atHead {b : Block} {q n : Nat} {data : List Byte} {ws : List (BitVec 64)} (hq : b.queue q = { fetched := [⟨n, none, false⟩] })
    (hhead : b.ep.qHead q = n) (hws : (List.range 8).map (fun i => BitVec.ofNat 64 (leAt data (8 * i) 8)) = ws) :
    let u : Block := { b with ep := b.ep.setFld (qk 0xB008 q) 0 16 (n + 1) }
    b.fetched q n data = (u.setQueue q { fetched := [⟨n, some ws, false⟩] }).headPump q 9 := by
  have hn : n % 65536 = n := Nat.mod_eq_of_lt (hhead ▸ Common.fld_lt _ _ _ _)
  have hone : ((List.range 9).takeWhile (fun i => decide (i < 1) && n == (n + i) % 2 ^ 16)).length = 1 := by
    rw [show List.range 9 = 0 :: [1, 2, 3, 4, 5, 6, 7, 8] from rfl]
    simp [hn]
  have hheld := modQueue_eq hq (fun x => { x with fetched := replaceFirst (fun d => d.n == n && d.words.isNone) (fun d => { d with words := some ws }) x.fetched })
  simp only [replaceFirst, beq_self_eq_true, Option.isNone_none, Bool.and_self, if_true] at hheld
  unfold Block.fetched
  simp only [hws, hheld, queue_setQueue, setQueue_ep, hq, hhead, Option.isSome_none, Bool.false_eq_true, if_false, List.filter_cons, List.filter_nil,
    Option.isSome_some, cntBefore_self, Bool.not_false, Bool.and_self, if_true, List.length_cons, List.length_nil, List.any_cons, List.any_nil,
    Bool.or_false, Nat.zero_add, hone]
  simp only [Block.modEp, Common.setHead, setQueue_ep, hhead]
  rfl

theorem qState_setFld_head (c : Common) (q v : Nat) : (c.setFld (qk 0xB008 q) 0 16 v).qState q = c.qState q := by
  unfold Common.qState
  exact Common.fld_setFld_beside c _ 0 16 v 32 2 (.inl (by decide))

/-- The descriptor at HEAD of a running queue that passes its head check joins the queue as checked. -/
theorem fetched_atHead_checked {b : Block} {q n : Nat} {data : List Byte} {ws : List (BitVec 64)} (hq : b.queue q = { fetched := [⟨n, none, false⟩] })
    (hlt : q < 1024) (hhead : b.ep.qHead q = n) (hws : (List.range 8).map (fun i => BitVec.ofNat 64 (leAt data (8 * i) 8)) = ws)
    (hstate : b.ep.qState q = qRunning) (hrun : b.run? q n = none) (hcheck : b.headCheck q ws = none) :
    b.fetched q n data = ({ b with ep := b.ep.setFld (qk 0xB008 q) 0 16 (n + 1) } : Block).setQueue q { fetched := [⟨n, some ws, true⟩] } := by
  refine (fetched_atHead hq hhead hws).trans ((headPump_checks (queue_setQueue _ _ _) ?state ?run ?check).trans (setQueue_setQueue (by simp) _))
  case state => rw [setQueue_ep, qState_setFld_head, hstate]
  case run => exact hrun
  case check => rw [headCheck_congr (setQueue_ep _ _ _), headCheck_setHead b q (n + 1) ws hlt, hcheck]

/-! ### The home's memory accesses end (R62, R66, R105) -/

/-- A home without accesses has nothing to start. -/
theorem homePump_respond {b : Block} (hhops : b.oe.hops = []) (d : Nat) (p : Packet) : (b.respond d p).homePump = b.respond d p :=
  homePump_nil _ ((respond_hops b d p).trans hhops)

/-- The only access at the home leaves it empty. -/
theorem dropOp_only {b : Block} {h : HomeOp} (hhops : b.oe.hops = [h]) : b.dropOp h.seq = { b with oe := { b.oe with hops := [] } } := by
  simp [Block.dropOp, Block.modOe, hhops, eraseFirst]

/-- The end of a RD is its answer: it changes no state, and no duplicate of it is remembered. -/
theorem finishOp_of_rd {b : Block} {h : HomeOp} (hhops : b.oe.hops = [h]) (ho : pOpc h.p = 0x01) (st : Nat) (data : List Byte) (poison : Bool) (old grant : Nat) :
    b.finishOp h st data poison old grant = ({ b with oe := { b.oe with hops := [] } } : Block).respond (pSlot h.p)
      ((b.rspHdr h.p 0x10 true st poison).packet (rspWord (pTag h.p) 0 0 (pBytes h.p)) 0 0 (List.replicate (pFpa h.p % 256) 0 ++ data)) := by
  simp only [Block.finishOp, dropOp_only hhops, Block.dedupWrite, stateChanging, Block.answerReq, ho]
  simp only [Nat.reduceBEq, Bool.or_self, Bool.and_false, Bool.false_eq_true, if_false]
  rfl

/-- The end of a WR that no arrival counter counts is its entry in the table of duplicates and its ACK. -/
theorem finishOp_of_wr {b : Block} {h : HomeOp} (hhops : b.oe.hops = [h]) (ho : pOpc h.p = 0x02) (harr : pArrEn h.p = false) (st : Nat) (data : List Byte)
    (poison : Bool) (old grant : Nat) :
    b.finishOp h st data poison old grant = (({ b with oe := { b.oe with hops := [] } } : Block).dedupWrite h.p poison old).respond (pSlot h.p)
      ((b.rspHdr h.p 0x11 false st false).packet (rspWord (pTag h.p) 0 0 1) 0 0 []) := by
  simp only [Block.finishOp, dropOp_only hhops, harr, Bool.false_and, Bool.false_eq_true, if_false, Block.answerReq, ho, Block.rspHdr, dedupWrite_epId]
  rfl

/-- The data of a read that the home has out reach it. -/
theorem memRdResponse_home_acts {b : Block} {id : BitVec 32} {data : List Byte} {h : HomeOp} {st : MemStatus} (hreset : b.ep.inReset = false)
    (hrds : b.oe.memRds = []) (hhops : b.oe.hops = [h]) (hph : h.phase = .reading id.toNat) :
    Acts (.memRdResponse id data st false) b (b.homeRead h data (st != .ok)).homePump := by
  refine acts (fun _ => rfl) ?_
  simp only [hreset, hrds, hhops, hph, List.any_nil, List.any_cons, List.find?_nil, List.find?_cons, beq_self_eq_true, Bool.or_false, Bool.false_or, Bool.not_true,
    detects_of_noInjection, Bool.false_eq_true, if_false]

/-- The words of the only descriptor that is being fetched reach its queue. -/
theorem memRdResponse_fetch_acts {b : Block} {id : BitVec 32} {data : List Byte} {q n : Nat} (hreset : b.ep.inReset = false)
    (hrds : b.oe.memRds = [(id.toNat, some (q, n))]) :
    Acts (.memRdResponse id data .ok false) b (({ b with oe := { b.oe with memRds := [] } } : Block).fetched q n data) := by
  refine acts (fun _ => rfl) ?_
  simp only [hreset, hrds, List.any_nil, List.any_cons, List.find?_cons, beq_self_eq_true, Bool.or_false, Bool.true_or, Bool.not_true,
    detects_of_noInjection, Bool.false_eq_true, if_false, Block.modOe, eraseFirst, if_true]

theorem memWrAck_acts {b : Block} {id : BitVec 32} {h : HomeOp} {old : BitVec 64} {bad : Bool} (hreset : b.ep.inReset = false) (hhops : b.oe.hops = [h])
    (hph : h.phase = .writing id.toNat old bad) (hopc : pOpc h.p ≠ 0x22) (hcc : pCc h.p = false) :
    Acts (.memWrAck id) b (b.finishOp h (if bad then stPoison else stOk) [] bad old.toNat 0).homePump := by
  refine acts (fun _ => rfl) ?_
  simp only [hreset, hhops, hph, hopc, hcc, List.find?_cons, beq_self_eq_true, Bool.false_eq_true, if_false]

end Sys2Proof.Machine

namespace Sys2Proof
open Machine

/-- Settles O20: what memory answers reaches the queue whose descriptor was fetched, or ends the access at the home. -/
theorem memoryAnswers : Obligations.MemoryAnswers := by
  unfold Obligations.MemoryAnswers
  refine ⟨fun b id q n data hreset hrds hq hlt hhead hstate hrun hcheck => ?fetch, fun b id data h st hreset hrds hhops hph ho => ?read,
    fun b id h old bad hreset hhops hph ho harr hcc => ?write⟩
  case fetch =>
    refine acts_congr (memRdResponse_fetch_acts hreset hrds) ?_
    exact fetched_atHead_checked hq hlt hhead rfl hstate hrun hcheck
  case read =>
    refine acts_congr (memRdResponse_home_acts hreset hrds hhops hph) ?_
    have hread : b.homeRead h data (st != .ok) = b.finishOp h (if (st != .ok) then stPoison else stOk) data (st != .ok) 0 0 := by
      simp only [Block.homeRead, ho]
    rw [hread, finishOp_of_rd hhops ho]
    exact homePump_respond rfl _ _
  case write =>
    refine acts_congr (memWrAck_acts hreset hhops hph (by simp [ho]) hcc) ?_
    rw [finishOp_of_wr hhops ho harr]
    exact homePump_respond (dedupWrite_hops _ _ _ _) _ _

end Sys2Proof
end

section
/-!
PROOFS. Responses (05, R90, R91; 16, R369): how the response of an outstanding transaction of the load/store path reaches the accelerator.
-/
namespace Sys2Proof.Machine

/-! ### What ends with a transaction -/

theorem firstStatus_single {st : Nat} (h : st ≤ 6) : firstStatus [st] = st := by
  revert st
  decide

/-- The status of a transaction that needed one attempt is its response's (R366). -/
theorem firstStatus_txnStatus {t : Txn} {st : Nat} (htries : t.tries = 0) (h : st ≤ 6) : firstStatus (txnStatus t st) = st := by
  simp only [txnStatus, htries, Nat.lt_irrefl, if_false, firstStatus_single h]

/-- The answers that UCIe gets for a request: for a line of the directory with the state granted. -/
def LsReq.reply (r : LsReq) (st grant : Nat) (data : List Byte) : Out :=
  if r.kind == .rdShared || r.kind == .rdOwn || r.kind == .upgrade then .ucieGrant r.tag st grant data else .ucieResponse r.tag st data

theorem reply_of_plain {r : LsReq} (hk : r.kind = .read ∨ r.kind = .write ∨ r.kind = .atomic) (st grant : Nat) (data : List Byte) :
    r.reply st grant data = .ucieResponse r.tag st data := by
  obtain hk | hk | hk := hk <;> simp [LsReq.reply, hk]

theorem reply_of_line {r : LsReq} (hk : r.kind = .rdShared ∨ r.kind = .rdOwn ∨ r.kind = .upgrade) (st grant : Nat) (data : List Byte) :
    r.reply st grant data = .ucieGrant r.tag st grant data := by
  obtain hk | hk | hk := hk <;> simp [LsReq.reply, hk]

/-- A response of another status than TIMEOUT ends a transaction of the load/store path, and answers its request unless that is an ordered READ. -/
theorem endTxn_ls {b : Block} {t : Txn} {r : LsReq} {st : Nat} {data : List Byte} {poison : Bool} {old : BitVec 64} {grant : Nat} (hown : t.owner = .ls)
    (htries : t.tries = 0) (hls : b.oe.ls = [r]) (htag : r.tag = t.tag) (hst : st ≤ 6) (htime : st ≠ stTimeout) (hread : (r.kind == .read && r.ord) = false) :
    let u := b.dropTxn t false
    b.endTxn t st data poison old grant = ({ u with ep := u.ep.emit (r.reply st grant data) } : Block).dropLs r.tag := by
  intro u
  have hfind : u.oe.ls.find? (fun x => x.tag == t.tag) = some r := by
    rw [show u.oe.ls = [r] from hls]
    simp [htag]
  have hlate : (st == stTimeout) = false := by simpa using htime
  have hpump (o : Out) : (({ u with ep := u.ep.emit o } : Block).dropLs r.tag).lsPump = ({ u with ep := u.ep.emit o } : Block).dropLs r.tag :=
    lsPump_nil _ (dropLs_nil _ r hls)
  unfold Block.endTxn
  simp only [hlate, hown, Owner.desc, show b.dropTxn t false = u from rfl, hfind, firstStatus_txnStatus htries hst]
  cases hline : r.kind == .rdShared || r.kind == .rdOwn || r.kind == .upgrade with
  | true =>
    have hreply : r.reply st grant data = .ucieGrant r.tag st grant data := if_pos hline
    have hne : (st != stTimeout) = true := bne_iff_ne.2 htime
    rw [hreply]
    simp only [hne, Bool.and_self, if_true]
    exact hpump _
  | false =>
    have hreply : r.reply st grant data = .ucieResponse r.tag st data := if_neg (by rw [hline]; exact Bool.false_ne_true)
    rw [hreply]
    simp only [Block.lsRespond, hfind, hread, firstStatus_txnStatus htries hst, Bool.false_and, Bool.false_eq_true, if_false]
    exact hpump _

/-! ### Responses -/

/-- The bytes that a response of an opcode carries for a transaction (R112, R115). -/
def Txn.dataOf (x : Txn) (opc : Nat) (p : Packet) : List Byte :=
  let size := (x.pkts.head?.map pBytes).getD 0
  match opc with
  | 0x10 => slice p.payload (x.fpa % 256) size
  | 0x12 => leBytes size p.w3.toNat
  | 0x13 => slice p.payload 0 128
  | _ => []

/-- A response of the opcode that an outstanding transaction awaits ends it. -/
theorem response_ends {b : Block} {via : Via} {p : Packet} {opc : Nat} {x : Txn} (hh : b.homeHears via p) (ho : pOpc p = opc)
    (hinj : b.ep.fld (ob 0x9010 1) 0 8 ≠ pSlot p)
    (hx : (b.takeIn via p).oe.txns.find? (fun x => x.tag == pTag p && x.dst == pSlot p && rspOpc x.opc == pOpc p) = some x) :
    b.response opc via p = (b.takeIn via p).endTxn x (pStatus p) (x.dataOf opc p) (pPoison p || pStatus p == stPoison) p.w3 (pGrant p) := by
  subst ho
  have hnone : (b.ep.fld (ob 0x9010 1) 0 8 == pSlot p) = false := by simpa using hinj
  unfold Block.response
  rw [atEp_hears b _ via p _ hh rfl]
  simp only [hnone, Bool.false_eq_true, if_false, Bool.not_false, Bool.and_true]
  rw [show (b.modEp (fun _ => b.ep)) = b from rfl, hx]
  cases hpk : x.pkts.head? <;> simp only [Txn.dataOf, hpk] <;> rfl

/-- A response that the only request of the path awaits answers it. -/
theorem response_answers {b : Block} {via : Via} {p : Packet} {opc : Nat} {x : Txn} {r : LsReq} (hh : b.homeHears via p)
    (hinj : b.ep.fld (ob 0x9010 1) 0 8 ≠ pSlot p) (htime : pStatus p ≠ stTimeout) (hst : pStatus p ≤ 6)
    (hx : (b.takeIn via p).oe.txns.find? (fun x => x.tag == pTag p && x.dst == pSlot p && rspOpc x.opc == pOpc p) = some x) (hown : x.owner = .ls)
    (htries : x.tries = 0) (hls : (b.takeIn via p).oe.ls = [r]) (htag : r.tag = x.tag) (ho : pOpc p = opc) (hread : (r.kind == .read && r.ord) = false) :
    let u := (b.takeIn via p).dropTxn x false
    b.response opc via p = ({ u with ep := u.ep.emit (r.reply (pStatus p) (pGrant p) (x.dataOf opc p)) } : Block).dropLs r.tag :=
  (response_ends hh ho hinj hx).trans (endTxn_ls hown htries hls htag hst htime hread)

end Sys2Proof.Machine

namespace Sys2Proof
open Machine

/-- Settles O26: every response that a first attempt awaits ends it and answers its request with its own bytes. -/
theorem responsesAnswer : Obligations.ResponsesAnswer := by
  unfold Obligations.ResponsesAnswer
  intro b via p x r hh hinj htime hst t hx hown htries hls htag
  have hanswers {opc : Nat} (ho : pOpc p = opc) (hread : (r.kind == .read && r.ord) = false) :=
    response_answers hh hinj htime hst hx hown htries hls htag ho hread
  refine ⟨fun ho hk hord => ?read, fun ho hk => ?write, fun ho hk => ?atomic, fun ho hk => ?line⟩
  case read => exact acts (fun _ => rfl) ((hanswers ho (by simp [hord])).trans (by rw [reply_of_plain (.inl hk)]; rfl))
  case write => exact acts (fun _ => rfl) ((hanswers ho (by simp [hk])).trans (by rw [reply_of_plain (.inr (.inl hk))]; rfl))
  case atomic => exact acts (fun _ => rfl) ((hanswers ho (by simp [hk])).trans (by rw [reply_of_plain (.inr (.inr hk))]; rfl))
  case line =>
    have hread : (r.kind == .read && r.ord) = false := by
      obtain hk | hk | hk := hk <;> simp [hk]
    exact acts (fun _ => rfl) ((hanswers ho hread).trans (by rw [reply_of_line hk]; rfl))

end Sys2Proof
end

section
/-!
PROOFS. The issue of descriptors (05, R95, R100 to R104): each kind takes its place among the runs, and its first granule waits for a walk.
-/
namespace Sys2Proof.Machine

/-- A run as descriptor `n` of queue `q` makes it: nothing is translated, `g` is its first granule. -/
abbrev Block.freshRun (b : Block) (q n : Nat) (ws : List (BitVec 64)) (g : Bool × Nat × Nat × Nat) (gs : List (Bool × Nat × Nat × Nat)) (r : Run) : Prop :=
  r.q = q ∧ r.n = n ∧ r.engine = b.ep.qEngine q ∧ r.words = ws ∧ r.grans = g :: gs ∧ r.xl = [] ∧ r.started = false ∧ r.stage = 0

section issue
variable {i : Instr} {b : Block} {q n kind : Nat} {ws : List (BitVec 64)} {pick : List (BitVec 64) → Bool} {f : Block → Nat → List (BitVec 64) → Block}
  {g : Bool × Nat × Nat × Nat} {gs : List (Bool × Nat × Nat × Nat)} {r : Run}

/-- A command that issues descriptors of a kind issues the one whose turn it is, as the run that it makes of it. -/
theorem issue_acts_waits {j : Nat} (hc : ∀ s, exec i s = s.act (fun s => s.issue q pick f)) (hw : b.walkNeeded (b.ep.qEngine q) (dCtx ws) g.2.1)
    (h : b.turn q n ws kind) (hp : pick ws = true) (hr : b.freshRun q n ws g gs r)
    (hf : f b n ws = (((b.taken q n).addRun r).runTranslate q n (j + 1)).headPump q 9) : Acts i b (b.issued q n r g) := by
  obtain ⟨hq, hn, he, hws, hg, hxl, hstart, hstage⟩ := hr
  refine issue_acts hc h hp (hf.trans (issue_waits b q n ws kind j r g gs h hq hn he hxl hstart hstage hg ?_))
  rw [he, hws]
  exact hw

end issue

theorem kind_beq_of_turn {ws : List (BitVec 64)} {b : Block} {q n k : Nat} (h : b.turn q n ws k) : (dKind ws == k) = true := by
  obtain ⟨-, -, -, -, hk⟩ := h
  exact beq_iff_eq.2 hk

/-- The units once a launch has its place in the order of issue (R75). -/
def Block.launchCounted (b : Block) : Block := { b with oe := { b.oe with launchOrder := b.oe.launchOrder + 1 } }

/-- The order of launches decides no descriptor's turn. -/
theorem turn_launchCounted {b : Block} {q n k : Nat} {ws : List (BitVec 64)} (h : b.turn q n ws k) : b.launchCounted.turn q n ws k := h

end Sys2Proof.Machine

namespace Sys2Proof
open Machine

/-- Settles O21: each kind passes its own checks at issue, and the run that it becomes waits for the walk of its first granule. -/
theorem descriptorsIssue : Obligations.DescriptorsIssue := by
  unfold Obligations.DescriptorsIssue
  intro b q n ws g gs hw
  refine ⟨fun h hrs hrd hacc hg => ?tileCopy, fun h hrd hg => ?fill, fun h hslot hmode hg => ?handoff, fun h hlist harea hg list => ?batch,
    fun h hcheck hg ext => ?launch, fun h hrs hlen hg header => ?decrypt⟩
  case tileCopy =>
    refine issue_acts_waits (j := 39) (fun _ => rfl) hw h (kind_beq_of_turn h) ⟨rfl, rfl, rfl, rfl, rfl, rfl, rfl, rfl⟩ ?_
    simp only [hrs, hrd, hacc, hg, Bool.or_self, Bool.false_eq_true, if_false]
  case fill =>
    refine issue_acts_waits (j := 39) (fun _ => rfl) hw h (kind_beq_of_turn h) ⟨rfl, rfl, rfl, rfl, rfl, rfl, rfl, rfl⟩ ?_
    simp only [hrd, hg, Bool.false_eq_true, if_false]
  case handoff =>
    refine issue_acts_waits (j := 39) (fun _ => rfl) hw h (kind_beq_of_turn h) ⟨rfl, rfl, rfl, rfl, rfl, rfl, rfl, rfl⟩ ?_
    have hok : (decide (71 < bitsOf (dw ws 5) 0 7) || bitsOf (dw ws 5) 7 2 == 3) = false :=
      Bool.or_eq_false_iff.2 ⟨decide_eq_false (Nat.not_lt.2 hslot), beq_false_of_ne hmode⟩
    simp only [hok, hg, Bool.false_eq_true, if_false]
    rfl
  case batch =>
    refine issue_acts_waits (j := 79) (fun _ => rfl) hw h (kind_beq_of_turn h) ⟨rfl, rfl, rfl, rfl, rfl, rfl, rfl, rfl⟩ ?_
    have hok : (bitsOf (dw ws 0) 42 1 == 1 && footprintBad (batchArea ws)) = false := by simpa using harea
    simp only [hlist, hok, hg, Bool.or_self, Bool.false_eq_true, if_false]
  case launch =>
    refine acts (fun _ => rfl) ((issue_turn b q.toNat n ws 4 _ _ h (kind_beq_of_turn h)).trans ?_)
    simp only [hcheck, hg]
    exact issue_waits b.launchCounted q.toNat n ws 4 79 _ g gs (turn_launchCounted h) rfl rfl rfl rfl rfl rfl rfl hw
  case decrypt =>
    refine issue_acts_waits (j := 79) (fun _ => rfl) hw h (kind_beq_of_turn h) ⟨rfl, rfl, rfl, rfl, rfl, rfl, rfl, rfl⟩ ?_
    simp only [hrs, Nat.not_lt.2 hlen, hg, Bool.false_eq_true, if_false]

end Sys2Proof
end

section
/-!
PROOFS. The control of command queues (05, R95, R96, R107): RESTART, ABORT, CQ_CONS, and the records that they write.
-/
namespace Sys2Proof.Machine

/-! ### The completion ring (R107) -/

/-- A completion record is written at CQ_PROD with its phase bit, and CQ_PROD moves on. -/
def Block.recordPut (b : Block) (q : Nat) (r : BitVec 128) : Block :=
  let prod := b.ep.cqProd q
  let w := b.memPost (b.ep.cqBase q + 16 * (prod % b.ep.cqSize q)) (leBytes 16 (r.toNat + prod / b.ep.cqSize q % 2 * 2 ^ 127))
  { w with ep := w.ep.setFld (qk 0xB008 q) 48 16 (prod + 1) }

/-- The ring has room for a record. -/
abbrev Common.cqRoom (c : Common) (q : Nat) : Prop := cntDiff (c.cqProd q) (c.cqCons q) ≠ c.cqSize q

theorem postRecord_room {b : Block} {q : Nat} {x : Queue} (r : BitVec 128) (hq : b.queue q = x) (hx : x.records = []) (hroom : b.ep.cqRoom q) :
    b.postRecord q r = (b.recordPut q r).setQueue q x :=
  postRecord_one b q r x hq hx hroom

theorem writeRecords_room {b : Block} {q : Nat} {x : Queue} {r : BitVec 128} (hq : b.queue q = x) (hx : x.records = [r]) (hroom : b.ep.cqRoom q) :
    b.writeRecords q = (b.recordPut q r).setQueue q { x with records := [] } :=
  writeRecords_one b q r x hq hx hroom

theorem writeRecords_none {b : Block} {q : Nat} (h : (b.queue q).records = []) : b.writeRecords q = b := by
  simp only [Block.writeRecords, h, List.foldl_nil]

/-- Writing a record looks at no queue's descriptors. -/
theorem recordPut_setQueue (b : Block) (q : Nat) (x : Queue) (r : BitVec 128) : (b.setQueue q x).recordPut q r = (b.recordPut q r).setQueue q x := rfl

/-- A field of the low 48 bits of a queue's state leaves its completion ring alone. -/
theorem cq_setFld (c : Common) (q : Nat) {lo w : Nat} (h : lo + w ≤ 48) (v : Nat) :
    let d := c.setFld (qk 0xB008 q) lo w v
    d.cqProd q = c.cqProd q ∧ d.cqCons q = c.cqCons q ∧ d.cqSize q = c.cqSize q ∧ d.cqBase q = c.cqBase q := by
  have hcons : qk 0xB008 q ≠ qk 0xB010 q := by unfold qk ob; omega
  have hconf : qk 0xB008 q ≠ qk 0xB004 q := by unfold qk ob; omega
  unfold Common.cqProd Common.cqCons Common.cqSize Common.cqBase
  refine ⟨Common.fld_setFld_beside _ _ _ _ _ _ _ (.inl h), Common.fld_setFld_ne _ _ _ _ _ _ _ _ hcons, ?_, ?_⟩
  · rw [Common.fld_setFld_ne _ _ _ _ _ _ _ _ hconf]
  · rw [Common.fld_setFld_ne _ _ _ _ _ _ _ _ hconf]

/-! ### RESTART and CQ_CONS (R96, R107) -/

theorem restart_halted {b : Block} {q : Nat} (h : b.ep.qState q = qHalted) : b.restart q = { b with ep := b.ep.setFld (qk 0xB008 q) 32 2 qRunning } := if_pos h

theorem restart_other {b : Block} {q : Nat} (h : b.ep.qState q ≠ qHalted) : b.restart q = b := if_neg h

/-! ### ABORT (R96) -/

theorem abortQueue_other {b : Block} {q : Nat} (hh : b.ep.qState q ≠ qHalted) (hr : b.ep.qState q ≠ qRunning) : b.abortQueue q = b :=
  if_neg (not_or.2 ⟨hh, hr⟩)

/-- HEAD stands at TAIL, and the queue runs. -/
def Common.aborted (c : Common) (q : Nat) : Common := (c.setFld (qk 0xB008 q) 0 16 (c.qTail q)).setFld (qk 0xB008 q) 32 2 qRunning

theorem aborted_stroke (c : Common) (q : Nat) : (c.aborted q).stroke = c.stroke := rfl

/-- An ABORT moves HEAD at once and then completes what the queue holds. -/
theorem abortQueue_begins {b : Block} {q : Nat} {x : Queue} (h : b.ep.qState q = qHalted ∨ b.ep.qState q = qRunning) (hq : b.queue q = x) :
    b.abortQueue q = (({ b with ep := b.ep.aborted q } : Block).setQueue q { x with abortTo := some (b.ep.qTail q), abortAt := b.nextFetch q }).abortPump q := by
  subst hq
  exact if_pos h

/-- Without descriptors that stand at HEAD or after it the next slot to fetch is HEAD's. -/
theorem nextFetch_head {b : Block} {q : Nat} (ha : (b.queue q).abortTo = none) (hf : ∀ d ∈ (b.queue q).fetched, cntBefore d.n (b.ep.qHead q) = true) :
    b.nextFetch q = b.ep.qHead q := by
  have hnone : (b.queue q).fetched.filter (fun d => !cntBefore d.n (b.ep.qHead q)) = [] := List.filter_eq_nil_iff.2 (fun d hd => by simp [hf d hd])
  have hlt : b.ep.qHead q < 2 ^ 16 := Common.fld_lt _ _ _ _
  unfold Block.nextFetch
  rw [ha, hnone]
  exact Nat.mod_eq_of_lt hlt

/-- An ABORT that holds no descriptor and has not fetched up to its TAIL waits for the fetches. -/
theorem abortPump_waits {b : Block} {q t : Nat} (ht : (b.queue q).abortTo = some t) (hf : (b.queue q).fetched = []) (hat : (b.queue q).abortAt ≠ t) :
    b.abortPump q = b := by
  have hne : ((b.queue q).abortAt == t) = false := beq_false_of_ne hat
  unfold Block.abortPump
  simp only [ht, hf, List.foldl_nil, hne, Bool.and_false, Bool.false_eq_true, if_false]

/-- The descriptor that an ABORT holds gets its record ABORTED; with its last slot fetched the ABORT ends. -/
theorem abortPump_one {b : Block} {q n t : Nat} {ws : List (BitVec 64)} {c : Bool}
    (hq : b.queue q = { fetched := [⟨n, some ws, c⟩], abortTo := some t, abortAt := t }) (hrun : b.run? q n = none) (hsig : dSigEn ws = false)
    (hroom : b.ep.cqRoom q) :
    b.abortPump q = (b.recordPut q (recordOf q n (dKind ws) stAborted 1 0 (b.ep.stroke % 2 ^ 40))).setQueue q { abortAt := t } := by
  have htaken : b.modQueue q (fun x => { x with fetched := x.fetched.filter (fun e => e.n != n) }) = b.setQueue q { abortTo := some t, abortAt := t } := by
    rw [modQueue_eq hq]
    simp only [List.filter_cons, bne_self_eq_false, Bool.false_eq_true, if_false, List.filter_nil]
  have hrecord := postRecord_room (b := b.setQueue q { abortTo := some t, abortAt := t }) (recordOf q n (dKind ws) stAborted 1 0 (b.ep.stroke % 2 ^ 40))
    (queue_setQueue _ _ _) rfl hroom
  rw [recordPut_setQueue, setQueue_setQueue (by simp)] at hrecord
  unfold Block.abortPump
  simp only [hq, List.foldl_cons, List.foldl_nil, htaken, runs_any_of_noRun hrun, hsig, hrecord, List.contains_nil, Bool.or_self, Bool.false_eq_true, if_false,
    queue_setQueue, List.isEmpty_nil, beq_self_eq_true, Bool.and_self, if_true]
  rw [modQueue_eq (queue_setQueue _ _ _), setQueue_setQueue (by simp)]
  rfl

/-- An ABORT of a queue that holds no descriptor fetches from the old HEAD up to TAIL. -/
theorem abortQueue_fetches {b : Block} {q : Nat} {x : Queue} (h : b.ep.qState q = qHalted ∨ b.ep.qState q = qRunning) (hq : b.queue q = x)
    (hf : x.fetched = []) (ha : x.abortTo = none) (hne : b.ep.qHead q ≠ b.ep.qTail q) :
    b.abortQueue q = ({ b with ep := b.ep.aborted q } : Block).setQueue q { x with abortTo := some (b.ep.qTail q), abortAt := b.ep.qHead q } := by
  have hnext : b.nextFetch q = b.ep.qHead q := nextFetch_head (hq ▸ ha) (by simp [hq, hf])
  rw [abortQueue_begins h hq, hnext]
  refine abortPump_waits (t := b.ep.qTail q) ?_ ?_ ?_
  · rw [queue_setQueue]
  · rw [queue_setQueue]; exact hf
  · rw [queue_setQueue]; exact hne

/-- An ABORT of a queue whose only descriptor has passed HEAD, with nothing more to fetch, completes that descriptor and ends. -/
theorem abortQueue_completes {b : Block} {q n : Nat} {ws : List (BitVec 64)} {c : Bool} (h : b.ep.qState q = qRunning)
    (hq : b.queue q = { fetched := [⟨n, some ws, c⟩] }) (hbefore : cntBefore n (b.ep.qHead q) = true) (heq : b.ep.qHead q = b.ep.qTail q)
    (hrun : b.run? q n = none) (hsig : dSigEn ws = false) (hroom : (b.ep.aborted q).cqRoom q) :
    b.abortQueue q = (({ b with ep := b.ep.aborted q } : Block).recordPut q (recordOf q n (dKind ws) stAborted 1 0 (b.ep.stroke % 2 ^ 40))).setQueue q
      { abortAt := b.ep.qTail q } := by
  have hnext : b.nextFetch q = b.ep.qTail q := (nextFetch_head (by rw [hq]) (by simp [hq, hbefore])).trans heq
  rw [abortQueue_begins (.inr h) hq, hnext]
  refine (abortPump_one (queue_setQueue _ _ _) ?run hsig ?room).trans ?queue
  case run => exact hrun
  case room => exact hroom
  case queue => rw [recordPut_setQueue, setQueue_setQueue (by simp), setQueue_ep, aborted_stroke]

/-- ABORT leaves the completion ring where it is. -/
theorem cq_aborted (c : Common) (q : Nat) :
    (c.aborted q).cqProd q = c.cqProd q ∧ (c.aborted q).cqCons q = c.cqCons q ∧ (c.aborted q).cqSize q = c.cqSize q ∧ (c.aborted q).cqBase q = c.cqBase q := by
  obtain ⟨hprod, hcons, hsize, hbase⟩ := cq_setFld c q (lo := 0) (w := 16) (by decide) (c.qTail q)
  obtain ⟨hprod', hcons', hsize', hbase'⟩ := cq_setFld (c.setFld (qk 0xB008 q) 0 16 (c.qTail q)) q (lo := 32) (w := 2) (by decide) qRunning
  exact ⟨hprod'.trans hprod, hcons'.trans hcons, hsize'.trans hsize, hbase'.trans hbase⟩

/-- A new CQ_CONS is read as it was written, and moves nothing else of the ring. -/
theorem cq_setCons (c : Common) (q : Nat) (v : BitVec 16) :
    let d := c.setFld (qk 0xB010 q) 0 16 v.toNat
    d.cqProd q = c.cqProd q ∧ d.cqCons q = v.toNat ∧ d.cqSize q = c.cqSize q ∧ d.cqBase q = c.cqBase q := by
  have hprod : qk 0xB010 q ≠ qk 0xB008 q := by unfold qk ob; omega
  have hconf : qk 0xB010 q ≠ qk 0xB004 q := by unfold qk ob; omega
  unfold Common.cqProd Common.cqCons Common.cqSize Common.cqBase
  refine ⟨Common.fld_setFld_ne _ _ _ _ _ _ _ _ hprod, (Common.fld_setFld _ _ _ _ _ (by decide)).trans (Nat.mod_eq_of_lt v.isLt), ?_, ?_⟩
  · rw [Common.fld_setFld_ne _ _ _ _ _ _ _ _ hconf]
  · rw [Common.fld_setFld_ne _ _ _ _ _ _ _ _ hconf]

end Sys2Proof.Machine

namespace Sys2Proof
open Machine

/-- Settles O23: RESTART and ABORT act by the queue's state; a record that is written goes to CQ_PROD with the phase of its turn of the ring. -/
theorem queueControl : Obligations.QueueControl := by
  unfold Obligations.QueueControl
  intro b m q
  obtain ⟨hstate, hhead, htail, hprod, hcons, hsize, hbase, hstroke⟩ := renew_q b.ep m q.toNat
  refine ⟨fun hw => ⟨fun h => ?restart, fun h => ?runs, fun hh hr => ?other, fun hst hf ha hne => ?waits, fun n ws c hst hx hbefore heq hrun hsig hroom => ?aborts⟩,
    fun v hw => ⟨fun h => ?frees, fun r hx hroom => ?writes⟩⟩
  case restart => exact acts (fun _ => rfl) ((mgmtWrite_oe b m _ _ hw).trans (restart_halted (hstate.trans h)))
  case runs => exact acts (fun _ => rfl) ((mgmtWrite_oe b m _ _ hw).trans (restart_other (hstate.symm ▸ h)))
  case other => exact acts (fun _ => rfl) ((mgmtWrite_oe b m _ _ hw).trans (abortQueue_other (hstate.symm ▸ hh) (hstate.symm ▸ hr)))
  case waits =>
    have hne' : (b.ep.renew m).qHead q.toNat ≠ (b.ep.renew m).qTail q.toNat := by rwa [hhead, htail]
    have hst' : (b.ep.renew m).qState q.toNat = qHalted ∨ (b.ep.renew m).qState q.toNat = qRunning := by rwa [hstate]
    refine acts (fun _ => rfl) ((mgmtWrite_oe b m _ _ hw).trans ((abortQueue_fetches (b := { b with ep := b.ep.renew m }) hst' rfl hf ha hne').trans ?_))
    simp only [Common.aborted, hhead, htail]
    rfl
  case aborts =>
    obtain ⟨hprod', hcons', hsize', hbase'⟩ := cq_aborted (b.ep.renew m) q.toNat
    have hbefore' : cntBefore n ((b.ep.renew m).qHead q.toNat) = true := by rwa [hhead]
    have heq' : (b.ep.renew m).qHead q.toNat = (b.ep.renew m).qTail q.toNat := hhead.trans (heq.trans htail.symm)
    have hroom' : ((b.ep.renew m).aborted q.toNat).cqRoom q.toNat := by rwa [Common.cqRoom, hprod', hcons', hsize', hprod, hcons, hsize]
    refine acts (fun _ => rfl) ((mgmtWrite_oe b m _ _ hw).trans
      ((abortQueue_completes (b := { b with ep := b.ep.renew m }) (hstate.trans hst) hx hbefore' heq' hrun hsig hroom').trans ?_))
    simp only [Block.recordPut, hprod', hsize', hbase', hprod, hsize, hbase, hstroke]
    simp only [Common.aborted, htail]
    rfl
  case frees => exact acts (fun _ => rfl) ((mgmtWrite_oe b m _ _ hw).trans (writeRecords_none h))
  case writes =>
    obtain ⟨hprod', hcons', hsize', hbase'⟩ := cq_setCons (b.ep.renew m) q.toNat v
    have hroom' : ((b.ep.renew m).setFld (qk 0xB010 q.toNat) 0 16 v.toNat).cqRoom q.toNat := by rwa [Common.cqRoom, hprod', hcons', hsize', hprod, hsize]
    refine acts (fun _ => rfl) ((mgmtWrite_oe b m _ _ hw).trans
      ((writeRecords_room (b := { b with ep := (b.ep.renew m).setFld (qk 0xB010 q.toNat) 0 16 v.toNat }) rfl hx hroom').trans ?_))
    simp only [Block.recordPut, hprod', hsize', hbase', hprod, hsize, hbase]
    rfl

end Sys2Proof
end

section
/-!
PROOFS. Bursts of the copy engines (05, R100 to R102; 04, R64, R78): each is one request, and its run goes on by what it asked for.
-/
namespace Sys2Proof.Machine

/-! ### One request of an engine -/

section burst
variable {b : Block} {r : Run} {fpa : Nat}

/-- A burst whose plane is a free choice draws that choice. -/
theorem burst_tick (spec : ReqSpec) (plane : Option Nat) (o : Owner) (a : Nat) (f : Run → Run) :
    ((b.issueReq [spec] plane o (dCtx r.words) a).tick).modRun r.q r.n f = (b.burst r spec plane o a f).tick := rfl

/-- A read of an address that is translated is one RD to its home. -/
theorem engineRead_of_fpa {a : Nat} (hfpa : r.fpa false a = some fpa) (tag pos n : Nat) (next : Run → Run) :
    b.engineRead r tag a pos n next = (b.burst r (reqOf 1 tag fpa (r.leaf false a) n) (b.anyPlane (fpa / 2 ^ 40)) (.tileRead r.q r.n pos n) a
      (fun x => { next x with outstanding := x.outstanding + 1 })).tick := by
  unfold Block.engineRead
  simp only [hfpa]
  exact burst_tick _ _ _ _ _

end burst

/-! ### The next burst of a run, by its kind -/

section kinds
variable {b : Block} {q : BitVec 10} {n : BitVec 16} {tag : BitVec 14} {r : Run} {fpa : Nat}

/-- The run that a burst names, with a free tag of its engine. -/
abbrev Block.burstOf (b : Block) (q : BitVec 10) (n : BitVec 16) (tag : BitVec 14) (r : Run) : Prop :=
  b.run? q.toNat n.toNat = some r ∧ engineTag r.engine tag.toNat = true ∧ b.tagFree tag.toNat = true

theorem tileBurst_record (h : b.burstOf q n tag r) (hstage : r.stage = 1) : Acts (.tileBurstIssue q n tag) b (b.recordRead r tag.toNat) := by
  obtain ⟨hrun, hengine, hfree⟩ := h
  exact acts (fun _ => rfl) (by simp only [hrun, hengine, hfree, hstage, Bool.not_true, Bool.or_self, Bool.false_eq_true, if_false, if_true])

/-- The next burst of a run that has started, by the kind of its descriptor. -/
theorem tileBurst_started (h : b.burstOf q n tag r) (hstage : r.stage ≠ 1) (hstart : r.started = true) :
    (dKind r.words = 1 → b.tileWrite r tag.toNat = b → Acts (.tileBurstIssue q n tag) b (b.tileRead r tag.toNat))
    ∧ (dKind r.words = 2 → Acts (.tileBurstIssue q n tag) b (b.tileWrite r tag.toNat))
    ∧ (dKind r.words = 3 → Acts (.tileBurstIssue q n tag) b (b.batchNext r tag.toNat)) := by
  obtain ⟨hrun, hengine, hfree⟩ := h
  refine ⟨fun hk hw => acts (fun _ => rfl) ?_, fun hk => acts (fun _ => rfl) ?_, fun hk => acts (fun _ => rfl) ?_⟩
  all_goals simp only [hrun, hengine, hfree, hstage, hstart, hk, Bool.not_true, Bool.or_self, Bool.false_eq_true, if_false]
  simp only [hw, if_true]

/-- A TILE_COPY reads on within its inner run and within a block of its source (R101). -/
theorem tileRead_of_fpa {t : Nat} (hk : dKind r.words = 1) :
    let dims := tileDims r.words
    let src := ((tileSide r.words false).addr dims r.rdPos).toNat
    let len := min (dims.1 - r.rdPos % dims.1) (256 - src % 256)
    r.rdPos < dims.1 * dims.2.1 * dims.2.2 → r.fpa false src = some fpa →
    b.tileRead r t = (b.burst r (reqOf 1 t fpa (r.leaf false src) len) (b.anyPlane (fpa / 2 ^ 40)) (.tileRead r.q r.n r.rdPos len) src
      (fun x => { x with rdPos := r.rdPos + len, outstanding := x.outstanding + 1 })).tick := by
  intro dims src len hpos hfpa
  have hopen : (decide (dims.1 * dims.2.1 * dims.2.2 ≤ r.rdPos) || dKind r.words != 1) = false := by
    rw [hk, decide_eq_false (Nat.not_le.2 hpos)]; rfl
  unfold Block.tileRead
  dsimp only
  rw [if_neg (Bool.eq_false_iff.1 hopen)]
  exact engineRead_of_fpa hfpa _ _ _ _

/-- A run that reads a record reads on within a block of it (R102, R223, R351). -/
theorem recordRead_of_fpa {t : Nat} :
    let a := r.recordAt.1 + r.srcPos
    let len := min (r.recordAt.2 - r.srcPos) (256 - a % 256)
    r.srcPos < r.recordAt.2 → r.fpa false a = some fpa →
    b.recordRead r t = (b.burst r (reqOf 1 t fpa (r.leaf false a) len) (b.anyPlane (fpa / 2 ^ 40)) (.tileRead r.q r.n r.srcPos len) a
      (fun x => { x with srcPos := x.srcPos + len, outstanding := x.outstanding + 1 })).tick := by
  intro a len hpos hfpa
  unfold Block.recordRead
  dsimp only
  rw [if_neg (Nat.not_le.2 hpos)]
  exact engineRead_of_fpa hfpa _ _ _ _

/-- A FILL writes its pattern on within its inner run and within a block of its destination, on the plane of its burst number (R100, R101, R119). -/
theorem tileWrite_fill {t dst len : Nat} {dims : Nat × Nat × Nat} {live : List Nat} (hk : dKind r.words = 2) (hdims : tileDims r.words = dims)
    (hdst : ((tileSide r.words true).addr dims r.wrPos).toNat = dst) (hlen : min (dims.1 - r.wrPos % dims.1) (256 - dst % 256) = len)
    (hlive : b.ep.liveFor (fpa / 2 ^ 40) = live) (hpos : r.wrPos < dims.1 * dims.2.1 * dims.2.2) (hfpa : r.fpa true dst = some fpa) :
    b.tileWrite r t = b.burst r
      { reqOf 2 t fpa (r.leaf true dst) len with long := true, arrCtr := dArrCtr r.words, arrEn := dArrEn r.words
                                                 payload := List.replicate (fpa % 256) 0 ++ (List.range len).map (fun i => fillByte r.words dims.1 (r.wrPos + i)) }
      (live[((r.q + r.n) % max 1 live.length + r.burst) % max 1 live.length]?) (.tileWrite r.q r.n len) dst
      (fun x => { x with wrPos := r.wrPos + len, burst := x.burst + 1, pieces := x.pieces.filter (fun p => decide (r.wrPos + len < p.pos + p.len)),
                         outstanding := x.outstanding + 1 }) := by
  have hall : List.takeWhile (fun _ => true) (List.range len) = List.range len := map_takeWhile_all _ _ (fun _ _ => rfl)
  have hnever : (List.range len).any (fun _ => false) = false := any_none _ _ (fun _ _ => rfl)
  unfold Block.tileWrite
  simp only [hk, hdims, hdst, hlen]
  rw [if_neg (Nat.not_le.2 hpos)]
  simp only [if_true, List.any_map, Function.comp_def, Option.isNone_some, hnever, Bool.false_eq_true, if_false, List.head?_map]
  -- no byte of a FILL is lost: the model looks at the first one, where the burst holds any
  cases (List.range len).head?
  all_goals
    simp only [Option.map_none, Option.map_some, Bool.false_eq_true, if_false, hfpa, hlive, List.takeWhile_map, Function.comp_def, beq_self_eq_true, hall,
      List.length_map, List.length_range, if_true, List.map_map, List.any_map, List.take_of_length_le, Nat.le_refl, hnever]
    rfl

/-- A relaxed ATOMIC_BATCH of an operation without a comparand sends its next atomic (R102). -/
theorem batchNext_atomic {t a : Nat} (hpos : r.rdPos ≤ bitsOf (dw r.words 0) 27 8) (hord : bitsOf (dw r.words 0) 43 1 = 0) (hop : bitsOf (dw r.words 0) 35 4 ≠ 7)
    (ha : leAt r.list (32 * r.rdPos) 8 % 2 ^ 52 = a) (hfpa : r.fpa true a = some fpa) :
    b.batchNext r t = (b.burst r
      { reqOf 5 t fpa (r.leaf true a) (atomSize (bitsOf (dw r.words 0) 39 3)) with
        aop := bitsOf (dw r.words 0) 35 4, atype := bitsOf (dw r.words 0) 39 3, w3 := leAt r.list (32 * r.rdPos + 8) 8, ch := bitsOf (dw r.words 0) 44 4 }
      (b.anyPlane (fpa / 2 ^ 40)) (.batch r.q r.n r.rdPos) a
      (fun x => { x with rdPos := r.rdPos + 1, outstanding := x.outstanding + 1
                         olds := if x.olds.isEmpty then List.replicate (bitsOf (dw r.words 0) 27 8 + 1) 0 else x.olds })).tick := by
  have hrelaxed : (bitsOf (dw r.words 0) 43 1 == 1) = false := by rw [hord]; rfl
  unfold Block.batchNext
  dsimp only
  rw [if_pos (Nat.lt_succ_of_le hpos)]
  simp only [ha, hfpa, hrelaxed, hop, Bool.false_and, Bool.false_eq_true, if_false]
  exact burst_tick _ _ _ _ _

/-- A handoff that nothing holds leaves its issuer (R78). -/
theorem handoffRelease_acts {a : Nat} (h : b.burstOf q n tag r) (ha : bitsOf (dw r.words 4) 0 52 = a) (hstart : r.started = true) (hk : dKind r.words = 5)
    (hpos : r.rdPos = 0) (hfpa : r.fpa false a = some fpa) (hheld : b.handoffHeld r fpa = false) :
    Acts (.handoffRelease q n tag) b ((b.burst r { reqOf 9 tag.toNat fpa (r.leaf false a) 1 with w3 := bitsOf (dw r.words 5) 0 9 }
      (b.anyPlane (fpa / 2 ^ 40)) (.handoff r.q r.n) a (fun x => { x with rdPos := 1, outstanding := 1 })).tick) := by
  obtain ⟨hrun, hengine, hfree⟩ := h
  refine acts (fun _ => rfl) ?_
  simp only [hrun, ha, hfpa, hstart, hk, hpos, hengine, hfree, hheld, Nat.lt_irrefl, decide_false, bne_self_eq_false, Bool.not_true, Bool.or_self,
    Bool.false_eq_true, if_false]
  exact burst_tick _ _ _ _ _

end kinds

end Sys2Proof.Machine

namespace Sys2Proof
open Machine

/-- Settles O24: by the kind of the run, its next burst is the request of its next bytes. -/
theorem engineBursts : Obligations.EngineBursts := by
  unfold Obligations.EngineBursts
  intro b q n tag r fpa hrun hengine hfree
  have hof : b.burstOf q n tag r := ⟨hrun, hengine, hfree⟩
  refine ⟨fun hstage hstart hk hpieces hw hpos hfpa => ?copy, fun hstage hstart hk hpos hfpa _ => ?fill,
    fun hstage hstart hk hpos hord hop => ?batch, fun hstart hk hpos hfpa hheld => ?handoff, fun hstage hpos hfpa => ?record⟩
  case copy =>
    obtain ⟨hcopy, -, -⟩ := tileBurst_started hof hstage hstart
    exact acts_congr (hcopy hk (tileRead_ne b r tag.toNat hpieces hk hw)) (tileRead_of_fpa hk hpos hfpa)
  case fill =>
    obtain ⟨-, hfill, -⟩ := tileBurst_started hof hstage hstart
    exact acts_congr (hfill hk) (tileWrite_fill hk rfl rfl rfl rfl hpos hfpa)
  case batch =>
    intro a hfpa
    obtain ⟨-, -, hbatch⟩ := tileBurst_started hof hstage hstart
    exact acts_congr (hbatch hk) (batchNext_atomic hpos hord hop rfl hfpa)
  case handoff => exact handoffRelease_acts hof rfl hstart hk hpos hfpa hheld
  case record => exact acts_congr (tileBurst_record hof hstage) (recordRead_of_fpa hpos hfpa)

end Sys2Proof
end

section
/-!
PROOFS. The completion of descriptors (05, R104, R107; 04, R70, R72; 15, R351): the signal and the record of a finished one, and the opening of a sealed segment.
-/
namespace Sys2Proof.Machine

/-! ### The signal (R72, R106) -/

/-- A counter gains `n`, and takes the first status under R16. -/
def Common.signalled (c : Common) (ctr n st : Nat) : Common :=
  (c.setFld (ctrKey ctr) 0 32 ((c.fld (ctrKey ctr) 0 32 + n) % 2 ^ 32)).setFld (ctrKey ctr) 32 8 (counterStatus (c.fld (ctrKey ctr) 32 8) st)

theorem ctrSignal_own {b : Block} {ctr tenant : Nat} (h : b.ep.fld (ctrKey ctr) 40 8 = tenant) (source n st : Nat) :
    b.ctrSignal ctr tenant source n st = { b with ep := b.ep.signalled ctr n st } := if_pos h

theorem fld_signalled_ne (c : Common) {ctr k : Nat} (h : ctrKey ctr ≠ k) (n st lo w : Nat) : (c.signalled ctr n st).fld k lo w = c.fld k lo w := by
  unfold Common.signalled
  rw [Common.fld_setFld_ne _ _ _ _ _ _ _ _ h, Common.fld_setFld_ne _ _ _ _ _ _ _ _ h]

/-- The objects of queues lie below those of counters. -/
theorem ctrKey_ne_qk (ctr : Nat) {base q : Nat} (hbase : base ≤ 0xB010) (hq : q < 1024) : ctrKey ctr ≠ qk base q := by
  unfold ctrKey qk ob
  omega

/-- A signal leaves the queues' objects alone. -/
theorem queue_signalled (c : Common) (ctr n st : Nat) {q : Nat} (hq : q < 1024) :
    let d := c.signalled ctr n st
    d.qState q = c.qState q ∧ d.qHead q = c.qHead q ∧ d.cqProd q = c.cqProd q ∧ d.cqCons q = c.cqCons q ∧ d.cqSize q = c.cqSize q ∧ d.cqBase q = c.cqBase q := by
  have hstate := ctrKey_ne_qk ctr (base := 0xB008) (by decide) hq
  have hcons := ctrKey_ne_qk ctr (base := 0xB010) (by decide) hq
  have hconf := ctrKey_ne_qk ctr (base := 0xB004) (by decide) hq
  simp only [Common.qState, Common.qHead, Common.cqProd, Common.cqCons, Common.cqSize, Common.cqBase, fld_signalled_ne c hstate, fld_signalled_ne c hcons,
    fld_signalled_ne c hconf, and_self]

/-! ### The end of a descriptor (R70, R107) -/

theorem launchOver_none {b : Block} (h : b.oe.launches = []) (q n : Nat) : b.launchOver q n = b := by
  simp only [Block.launchOver, h, List.find?_nil]

/-- Moving CQ_PROD leaves STATE and HEAD alone. -/
theorem head_recordPut (b : Block) (q : Nat) (r : BitVec 128) : (b.recordPut q r).ep.qState q = b.ep.qState q ∧ (b.recordPut q r).ep.qHead q = b.ep.qHead q :=
  ⟨Common.fld_setFld_beside _ _ 48 16 _ 32 2 (.inr (by decide)), Common.fld_setFld_beside _ _ 48 16 _ 0 16 (.inr (by decide))⟩

/-- A status that neither halts its queue nor is POISON. -/
theorem halting_of_mem {st : Nat} (h : st ∈ [stOk, stRetried, stTimeout]) : halting st 0 = false ∧ st ≠ stPoison := by
  revert st
  decide

/-- Such a status has no DETAIL. -/
theorem detailFor_of_mem (r : Run) {st : Nat} (h : st ∈ [stOk, stRetried, stTimeout]) : r.detailFor st = 0 := by
  have hno : ∀ st ∈ [stOk, stRetried, stTimeout], ¬ (st = stAborted ∨ st = stDescriptor ∨ st = stFault) := by decide
  exact if_neg (hno st h)

/-- The last run of an idle queue ends with a status that halts nothing: its counter is signalled, then its record is written. -/
theorem completeDesc_signals {b : Block} {q n st retries : Nat} {ws : List (BitVec 64)} (hq : q < 1024)
    (hruns : eraseFirst (fun r => r.q == q && r.n == n) b.oe.runs = []) (hlaunch : b.oe.launches = []) (hqueue : b.queue q = {})
    (hstate : b.ep.qState q = qRunning) (hbefore : cntBefore n (b.ep.qHead q) = true) (hsig : dSigEn ws = true)
    (htenant : b.ep.fld (ctrKey (dSigCtr ws)) 40 8 = b.ep.qTenant q) (hcrec : dCrec ws = true) (hst : st ∈ [stOk, stRetried, stTimeout]) (hroom : b.ep.cqRoom q) :
    let u : Block := { b with ep := b.ep.signalled (dSigCtr ws) 1 st, oe := { b.oe with runs := [] } }
    let w := u.recordPut q (recordOf q n (dKind ws) st 0 retries (b.ep.stroke % 2 ^ 40))
    b.completeDesc q n ws st 0 retries = { w with oe := { w.oe with queues := SMap.drop b.oe.queues q } } := by
  intro u w
  obtain ⟨hhalt, hpoison⟩ := halting_of_mem hst
  obtain ⟨hstate', hhead', hprod', hcons', hsize', -⟩ := queue_signalled b.ep (dSigCtr ws) 1 st hq
  have hroom' : u.ep.cqRoom q := by
    show cntDiff ((b.ep.signalled _ 1 st).cqProd q) ((b.ep.signalled _ 1 st).cqCons q) ≠ (b.ep.signalled _ 1 st).cqSize q
    rwa [hprod', hcons', hsize']
  have hsignal := ctrSignal_own (b := { b with oe := { b.oe with runs := [] } }) htenant b.epId 1 st
  have hrecord : u.postRecord q (recordOf q n (dKind ws) st 0 retries (b.ep.stroke % 2 ^ 40)) = w.setQueue q {} := postRecord_room _ hqueue rfl hroom'
  obtain ⟨hstate'', hhead''⟩ := head_recordPut u q (recordOf q n (dKind ws) st 0 retries (b.ep.stroke % 2 ^ 40))
  have hend := tail_end (w.setQueue q {}) q n rfl (queue_setQueue w q {}) ((hstate''.trans hstate').trans hstate) ((hhead''.trans hhead').symm ▸ hbefore)
  unfold Block.completeDesc
  simp only [launchOver_none hlaunch, Block.modOe, hruns, List.map_nil, hsig, hsignal, hpoison, hcrec, Bool.true_or, if_true, if_false]
  rw [hrecord]
  simp only [hhalt, Bool.false_eq_true, if_false]
  rw [hend]
  show ({ w with oe := { w.oe with queues := SMap.drop (SMap.set {} b.oe.queues q {}) q } } : Block) = _
  rw [SMap.drop_set]

/-- DESCRIPTOR_COMPLETE of the only run, a FILL whose bytes are written and acknowledged. -/
theorem descriptorComplete_fill {b : Block} {q : BitVec 10} {n : BitVec 16} {r : Run} (hq : r.q = q.toNat) (hn : r.n = n.toNat) (hruns : b.oe.runs = [r])
    (hstart : r.started = true) (hout : r.outstanding = 0) (hk : dKind r.words = 2)
    (htotal : (tileDims r.words).1 * (tileDims r.words).2.1 * (tileDims r.words).2.2 ≤ r.wrPos) (hlaunch : b.oe.launches = []) :
    Acts (.descriptorComplete q n) b
      ((b.completeDesc r.q r.n r.words (firstStatus r.status) (r.detailFor (firstStatus r.status)) r.retries).headPump r.q 9) := by
  have hrun : b.run? q.toNat n.toNat = some r := by simp [Block.run?, hruns, hq, hn]
  have hdone : b.runDone r = true := by
    simp only [Block.runDone, Run.done, hk, hstart, hout, htotal]
    simp
  have hnone : b.launchOf r = none := by simp only [Block.launchOf, hlaunch, List.find?_nil]
  exact acts (fun _ => rfl) (by simp only [hrun, hdone, hnone, if_true])

/-! ### DECRYPT_SEGMENT (R351) -/

/-- The segment that a DECRYPT_COPY opens next has been read whole, and it is not the last. -/
abbrev Run.segmentRead (r : Run) : Prop :=
  r.started = true ∧ r.finished = false ∧ dKind r.words = 8 ∧ r.list = [] ∧ r.hasBytes r.segAt.1 (r.segAt.2 + 16) = true
    ∧ r.anyLost r.segAt.1 (r.segAt.2 + 16) = false ∧ r.segment + 1 ≠ blobSegs r.header

/-- What opening the segment under the run's key gives: its plaintext, or nothing. -/
def Run.segmentPlain (r : Run) : Option (List Byte) :=
  let blob := r.bytesAt r.segAt.1 (r.segAt.2 + 16)
  Config.gcmOpen r.keyBytes (slice r.header 24 8 ++ leBytes 4 r.segment) r.header (blob.take r.segAt.2) (blob.drop r.segAt.2)

section segment
variable {b : Block} {q : BitVec 10} {n : BitVec 16} {r : Run} (hrun : b.run? q.toNat n.toNat = some r) (hreset : b.ep.inReset = false) (h : r.segmentRead)
include hrun hreset h

/-- A segment whose tag fails is logged and ends the copy; nothing of it is written. -/
theorem decryptSegment_fails (hplain : r.segmentPlain = none) (sealedBytes : List Byte) :
    Acts (.decryptSegment q n sealedBytes) b
      (({ b with ep := b.ep.log 0x8020 .uncorrected 0xFF (packArg [(10, r.q), (16, r.n), (8, bitsOf (dw r.words 6) 32 8)]) } : Block).modRun r.q r.n
        (fun x => { x with finished := true, status := x.status ++ [stAborted], detail := 3 })) := by
  obtain ⟨hstart, hfin, hk, hlist, hhas, hlost, -⟩ := h
  refine acts (fun _ => rfl) ?_
  simp only [Run.segmentPlain] at hplain
  simp only [hrun, hreset, hstart, hfin, hk, hlist, hhas, hlost, hplain, bne_self_eq_false, List.isEmpty_nil, Bool.not_true, Bool.or_self, Bool.false_eq_true, if_false]
  rfl

/-- One whose tag passes is written next, and its sealed bytes join the digest. -/
theorem decryptSegment_opens {plain : List Byte} (hplain : r.segmentPlain = some plain) (sealedBytes : List Byte) :
    Acts (.decryptSegment q n sealedBytes) b (b.modRun r.q r.n (fun x => { x with
      segment := x.segment + 1, digestInput := r.digestInput ++ r.bytesAt r.segAt.1 (r.segAt.2 + 16), finished := false, list := slice plain 0 r.segAt.2
      poisoned := x.poisoned || x.anyPoison r.segAt.1 (r.segAt.2 + 16)
      pieces := r.pieces.filter (fun p => decide (r.segAt.1 + r.segAt.2 + 16 < p.pos + p.len)) })) := by
  obtain ⟨hstart, hfin, hk, hlist, hhas, hlost, hlast⟩ := h
  refine acts (fun _ => rfl) ?_
  simp only [Run.segmentPlain] at hplain
  simp only [hrun, hreset, hstart, hfin, hk, hlist, hhas, hlost, hplain, hlast, decide_false, bne_self_eq_false, List.isEmpty_nil, Bool.not_true, Bool.or_self,
    Bool.false_eq_true, if_false]

end segment

end Sys2Proof.Machine

namespace Sys2Proof
open Machine

/-- Settles O25: a finished FILL signals before its record is written; a sealed segment opens only under its tag. -/
theorem descriptorCompletes : Obligations.DescriptorCompletes := by
  unfold Obligations.DescriptorCompletes
  refine ⟨?fill, ?segment⟩
  case fill =>
    intro b q n r hq hn hruns hstart hout hk htotal hlaunch hqueue hstate hbefore hsig htenant hcrec hst hroom
    refine acts_congr (descriptorComplete_fill hq hn hruns hstart hout hk htotal hlaunch) ?_
    rw [← hq] at hqueue hstate hbefore htenant hroom ⊢
    have hruns' : eraseFirst (fun x => x.q == r.q && x.n == r.n) b.oe.runs = [] := by simp [hruns, eraseFirst]
    have hcompleted := completeDesc_signals (retries := r.retries) (hq ▸ q.isLt) hruns' hlaunch hqueue hstate hbefore hsig htenant hcrec hst hroom
    obtain ⟨-, -, hprod, -, hsize, hbase⟩ := queue_signalled b.ep (dSigCtr r.words) 1 (firstStatus r.status) (q := r.q) (hq ▸ q.isLt)
    rw [detailFor_of_mem r hst, hcompleted, headPump_get _ _ _ (by simp [SMap.get_drop])]
    simp only [Block.recordPut, hprod, hsize, hbase, hk]
    rfl
  case segment =>
    intro b q n r hrun hreset hstart hfin hk hlist at_ size hhas hlost hlast blob goes sealedBytes
    have hread : r.segmentRead := ⟨hstart, hfin, hk, hlist, hhas, hlost, hlast⟩
    cases hplain : r.segmentPlain with
    | none =>
      refine acts_congr (decryptSegment_fails hrun hreset hread hplain sealedBytes) ?_
      simp only [Run.segmentPlain] at hplain
      simp only [blob, size, at_, hplain]
      rfl
    | some plain =>
      refine acts_congr (decryptSegment_opens hrun hreset hread hplain sealedBytes) ?_
      simp only [Run.segmentPlain] at hplain
      simp only [blob, size, at_, hplain]
      rfl

end Sys2Proof
end

section
/-!
PROOFS. Planes (06, R119, R121, R122): the pinned plane of a channel is the first live plane from its indirection entry upwards, counted cyclically.
-/
namespace Sys2Proof

/-! ### The first of some planes, going round (R122) -/

/-- Two tests that agree on a list find the same in it. -/
theorem find?_of_agree {p q : Nat → Bool} {l : List Nat} (h : ∀ k ∈ l, p k = q k) : l.find? p = l.find? q := by
  induction l with
  | nil => rfl
  | cons a l ih =>
    rw [List.find?_cons, List.find?_cons, h a List.mem_cons_self, ih fun k hk => h k (List.mem_cons_of_mem a hk)]

/-- Going once round `n` planes from `e`: those from `e` upwards, then those below it. -/
theorem map_range_around {n e : Nat} (he : e ≤ n) : (List.range n).map (fun i => (e + i) % n) = List.range' e (n - e) ++ List.range e := by
  apply List.ext_getElem
  · simp only [List.length_map, List.length_range, List.length_append, List.length_range']
    omega
  · intro i hi _
    have hlt : i < n := by rwa [List.length_map, List.length_range] at hi
    rw [List.getElem_map, List.getElem_range, List.getElem_append]
    split
    · next hup =>
      have hsum : e + i < n := by rw [List.length_range'] at hup; omega
      rw [List.getElem_range', Nat.mod_eq_of_lt hsum, Nat.one_mul]
    · next hdown =>
      have hsum : n ≤ e + i := by rw [List.length_range'] at hdown; omega
      rw [List.getElem_range, List.length_range', Nat.mod_eq_sub_mod hsum, Nat.mod_eq_of_lt (by omega)]
      omega

/-- Among ascending planes, the first one at or cyclically above `e` is the first that a walk round from `e` meets. -/
theorem firstAtOrAbove_filter_range {n e : Nat} (he : e ≤ n) (live : Nat → Bool) :
    Machine.firstAtOrAbove ((List.range n).filter live) e = ((List.range n).map (fun i => (e + i) % n)).find? live := by
  have hsplit : List.range n = List.range e ++ List.range' e (n - e) := by
    have happ := @List.range'_append_1 0 e (n - e)
    rw [Nat.zero_add, Nat.add_sub_cancel' he] at happ
    rw [List.range_eq_range', List.range_eq_range', happ]
  have hbelow : ((List.range e).filter live).find? (fun k => decide (e ≤ k)) = none := by
    refine List.find?_eq_none.2 fun k hk => ?_
    have hlt := List.mem_range.1 (List.mem_filter.1 hk).1
    rw [decide_eq_true_eq]
    exact Nat.not_le.2 hlt
  have habove : ((List.range' e (n - e)).filter live).find? (fun k => decide (e ≤ k)) = (List.range' e (n - e)).find? live := by
    rw [List.find?_filter]
    exact find?_of_agree fun k hk => by simp only [(List.mem_range'_1.1 hk).1, decide_true, and_true, Bool.decide_eq_true]
  rw [map_range_around he, List.find?_append, Machine.firstAtOrAbove, hsplit, List.filter_append, List.find?_append, hbelow, habove, Option.none_or,
    List.head?_append, List.head?_filter, List.head?_filter]
  cases hup : (List.range' e (n - e)).find? live <;> simp

end Sys2Proof

namespace Sys2Proof.Machine

theorem mem_planesOf {mask k : Nat} (h : k ∈ planesOf mask) : k < 16 := List.mem_range.1 (List.mem_filter.1 h).1

/-- Every entry of the indirection table is one of the 16 planes (R121). -/
theorem indirEntry_lt (mask i : Nat) : indirEntry mask i < 16 := by
  have hmod : i % 16 < 16 := Nat.mod_lt _ (by decide)
  unfold indirEntry
  split
  · exact hmod
  · dsimp only
    split
    · exact hmod
    · next hlive =>
      have hpos : 0 < (planesOf mask).length := List.length_pos_iff.2 fun hnil => hlive (List.isEmpty_iff.2 hnil)
      rw [List.getD_eq_getElem?_getD, List.getElem?_eq_getElem (Nat.mod_lt _ hpos), Option.getD_some]
      exact mem_planesOf (List.getElem_mem _)

/-- The planes live for a slot are those of LIVE_MASK that EXCLUDE leaves (R119). -/
theorem liveFor_eq_filter (c : Common) (d : Nat) : c.liveFor d = (List.range 16).filter (fun k => !bitAt (c.exclude d) k && bitAt c.liveMask k) :=
  List.filter_filter ..

/-- A filtered list of planes names just those among the planes that pass the filter. -/
theorem contains_filter_range {n k : Nat} (hk : k < n) (live : Nat → Bool) : ((List.range n).filter live).contains k = live k := by
  rw [Bool.eq_iff_iff, List.contains_iff_mem, List.mem_filter, List.mem_range]
  exact and_iff_right hk

end Sys2Proof.Machine

namespace Sys2Proof
open Machine

/-- Settles O9: the live planes stand in ascending order, so the first at or cyclically above an entry is the first that a walk round from it meets. -/
theorem pinnedPlane : Obligations.PinnedPlane := by
  unfold Obligations.PinnedPlane
  intro b d ch tenant e
  have hentry : e < 16 := indirEntry_lt _ _
  have hpinned : b.pinnedPlane d ch tenant = firstAtOrAbove (b.ep.liveFor d) e := rfl
  rw [hpinned, liveFor_eq_filter, firstAtOrAbove_filter_range (Nat.le_of_lt hentry)]
  refine find?_of_agree fun k hk => ?_
  obtain ⟨i, -, rfl⟩ := List.mem_map.1 hk
  have hplane : (e + i) % 16 < 16 := Nat.mod_lt _ (by decide)
  exact (contains_filter_range hplane (fun k => !bitAt (b.ep.exclude d) k && bitAt b.ep.liveMask k)).symm

end Sys2Proof
end

section
/-!
PROOFS. Packets as bytes (06, R110, R111; 12, R274, R283): a packet comes back from its flits, the fields of header word 0 read as they were packed, and the one field that does not: a switch ID of more than 10 bits.
-/
namespace Sys2Proof

/-! ### Slices and little-endian words -/

@[simp] theorem slice_length (l : List Byte) (lo n : Nat) : (slice l lo n).length = n := by simp [slice]

/-- A slice that begins behind the first of two lists is one of the second. -/
theorem slice_append_right (d r : List Byte) (k n : Nat) : slice (d ++ r) (d.length + k) n = slice r k n := by
  simp only [slice, List.getD_eq_getElem?_getD]
  refine List.map_congr_left fun i _ => ?_
  rw [Nat.add_assoc, List.getElem?_append_right (Nat.le_add_right _ _), Nat.add_sub_cancel_left]

/-- A slice of the front of a list is one of the list. -/
theorem slice_slice_zero (l : List Byte) {m n : Nat} (h : m ≤ n) : slice (slice l 0 n) 0 m = slice l 0 m := by
  simp only [slice, Nat.zero_add, List.getD_eq_getElem?_getD]
  refine List.map_congr_left fun i hi => ?_
  have hin : i < n := Nat.lt_of_lt_of_le (List.mem_range.1 hi) h
  simp [hin]

theorem leBytes_succ (n x : Nat) : leBytes (n + 1) x = BitVec.ofNat 8 x :: leBytes n (x / 256) := by
  simp only [leBytes, List.range_succ_eq_map, List.map_cons, List.map_map, Nat.mul_zero, Nat.pow_zero, Nat.div_one]
  refine congrArg _ (List.map_congr_left fun i _ => ?_)
  simp only [Function.comp_apply, Nat.div_div_eq_div_mul, Nat.mul_succ, Nat.pow_add, Nat.mul_comm (2 ^ (8 * i))]

/-- Bytes of a number spell what of it they hold. -/
theorem leNat_leBytes (n x : Nat) : leNat (leBytes n x) = x % 256 ^ n := by
  induction n generalizing x with
  | zero => simp [leBytes, leNat, Nat.mod_one]
  | succ n ih =>
    rw [leBytes_succ, leNat, ih, BitVec.toNat_ofNat]
    exact (Nat.pow_succ' (m := 256) ▸ Nat.mod_mul).symm

@[simp] theorem leBytes_length (n x : Nat) : (leBytes n x).length = n := by simp [leBytes]

/-- A 64-bit word among bytes reads as it was written. -/
theorem leAt_word (d r : List Byte) (w : BitVec 64) : leAt (d ++ (leBytes 8 w.toNat ++ r)) d.length 8 = w.toNat := by
  have hslice := slice_append_right d (leBytes 8 w.toNat ++ r) 0 8
  rw [Nat.add_zero, slice_take _ _ _ (leBytes_length 8 _)] at hslice
  rw [leAt, hslice, leNat_leBytes]
  exact Nat.mod_eq_of_lt w.isLt

/-- Bytes cut into `n` pieces of `k` and joined again. -/
theorem flatten_slices (n k : Nat) (b : List Byte) (h : b.length = k * n) : ((List.range n).map (fun i => slice b (k * i) k)).flatten = b := by
  induction n generalizing b with
  | zero => exact (List.eq_nil_of_length_eq_zero h).symm
  | succ n ih =>
    obtain ⟨d, r, rfl, hd⟩ : ∃ d r, b = d ++ r ∧ d.length = k :=
      ⟨b.take k, b.drop k, (List.take_append_drop k b).symm, List.length_take_of_le (by rw [h, Nat.mul_succ]; omega)⟩
    have hr : r.length = k * n := by rw [List.length_append, hd, Nat.mul_succ] at h; omega
    have hrest : (List.range n).map (fun i => slice (d ++ r) (k * (i + 1)) k) = (List.range n).map (fun i => slice r (k * i) k) :=
      List.map_congr_left fun i _ => by rw [Nat.mul_succ, Nat.add_comm, ← hd, slice_append_right]
    rw [List.range_succ_eq_map, List.map_cons, List.map_map, List.flatten_cons, Nat.mul_zero, slice_take _ _ _ hd]
    exact congrArg (d ++ ·) ((congrArg List.flatten hrest).trans (ih r hr))

/-! ### Packed fields (R111, R402) -/

/-- Bits that a list of fields takes. -/
def packWidth (l : List (Nat × Nat)) : Nat := (l.map Prod.fst).sum

/-- The fields behind others stand above them. -/
theorem packArg_append (l r : List (Nat × Nat)) : ∃ x, x < 2 ^ packWidth l ∧ packArg (l ++ r) = x + 2 ^ packWidth l * packArg r := by
  induction l with
  | nil => exact ⟨0, by simp [packWidth], by simp [packWidth]⟩
  | cons e l ih =>
    obtain ⟨w, v⟩ := e
    obtain ⟨x, hx, hpack⟩ := ih
    have hv : v % 2 ^ w < 2 ^ w := Nat.mod_lt _ (Nat.two_pow_pos w)
    have hw : packWidth ((w, v) :: l) = w + packWidth l := by simp [packWidth]
    refine ⟨v % 2 ^ w + 2 ^ w * x, ?_, ?_⟩
    · rw [hw, Nat.pow_add]
      calc v % 2 ^ w + 2 ^ w * x < 2 ^ w + 2 ^ w * x := Nat.add_lt_add_right hv _
        _ = 2 ^ w * (x + 1) := by rw [Nat.mul_succ, Nat.add_comm]
        _ ≤ 2 ^ w * 2 ^ packWidth l := Nat.mul_le_mul_left _ hx
    · rw [List.cons_append, packArg, hpack, hw, Nat.pow_add, Nat.mul_add, Nat.mul_assoc, Nat.add_assoc]

/-- The low `k` bits of the field behind the fields `l` of a packed word read as they were given. -/
theorem bitsOf_packArg {n w k : Nat} (l r : List (Nat × Nat)) (x : Nat) (hk : k ≤ w) (hn : packWidth l + k ≤ n) :
    bitsOf (BitVec.ofNat n (packArg (l ++ (w, x) :: r))) (packWidth l) k = x % 2 ^ k := by
  obtain ⟨y, hy, hpack⟩ := packArg_append l ((w, x) :: r)
  obtain ⟨m, rfl⟩ := Nat.exists_eq_add_of_le hn
  obtain ⟨j, rfl⟩ := Nat.exists_eq_add_of_le hk
  rw [bitsOf, BitVec.extractLsb'_toNat, BitVec.toNat_ofNat, Nat.shiftRight_eq_div_pow, hpack, Nat.add_assoc, Nat.pow_add, Nat.mod_mul_right_div_self,
    Nat.add_mul_div_left _ _ (Nat.two_pow_pos _), Nat.div_eq_of_lt hy, Nat.zero_add, Nat.pow_add 2 k m, Nat.mod_mul_right_mod, packArg, Nat.pow_add,
    Nat.mul_assoc, Nat.add_mul_mod_self_left, Nat.mod_mul_right_mod]

end Sys2Proof

namespace Sys2Proof.Machine

/-! ### A packet as flits (R110, R116, R274, R283) -/

theorem pBytesList_length (p : Packet) : (pBytesList p).length = 32 + p.payload.length := by
  simp only [pBytesList, List.length_append, leBytes_length]

@[simp] theorem pFlits_length (p : Packet) : (pFlits p).length = pCredits p := by simp [pFlits, pCredits]

/-- A flit is 32 bytes (R274). -/
theorem length_of_mem_pFlits {p : Packet} {f : List Byte} (h : f ∈ pFlits p) : f.length = 32 := by
  obtain ⟨i, -, rfl⟩ := List.mem_map.1 h
  exact slice_length _ _ _

/-- One credit for each 32 bytes (R116). -/
theorem pFrame_eq_credits (p : Packet) : 32 * pCredits p = pFrame p := by
  unfold pCredits pFrame
  split <;> rfl

/-- The flits of a packet joined are its bytes. -/
theorem flatten_pFlits {p : Packet} (h : p.payload.length = if pLong p then 256 else 0) : (pFlits p).flatten = pBytesList p := by
  refine flatten_slices _ 32 _ ?_
  rw [pBytesList_length, h]
  split <;> rfl

/-- The packet that bytes spell, when they are a packet's. -/
theorem flitsPacket_of_flatten {p : Packet} {fl : List (List Byte)} (h : fl.flatten = pBytesList p) : flitsPacket fl = p := by
  have hbytes : pBytesList p = leBytes 8 p.w0.toNat ++ (leBytes 8 p.w1.toNat ++ (leBytes 8 p.w2.toNat ++ (leBytes 8 p.w3.toNat ++ p.payload))) := by
    simp only [pBytesList, List.append_assoc]
  have h0 : leAt (pBytesList p) 0 8 = p.w0.toNat := hbytes ▸ leAt_word [] _ p.w0
  have h1 : leAt (pBytesList p) 8 8 = p.w1.toNat := hbytes ▸ leAt_word (leBytes 8 p.w0.toNat) _ p.w1
  have h2 : leAt (pBytesList p) 16 8 = p.w2.toNat := by
    have hread := leAt_word (leBytes 8 p.w0.toNat ++ leBytes 8 p.w1.toNat) (leBytes 8 p.w3.toNat ++ p.payload) p.w2
    rwa [List.append_assoc, ← hbytes] at hread
  have h3 : leAt (pBytesList p) 24 8 = p.w3.toNat := by
    have hread := leAt_word (leBytes 8 p.w0.toNat ++ (leBytes 8 p.w1.toNat ++ leBytes 8 p.w2.toNat)) p.payload p.w3
    rwa [List.append_assoc, List.append_assoc, ← hbytes] at hread
  have hpayload : (pBytesList p).drop 32 = p.payload := List.drop_left' (by simp only [List.length_append, leBytes_length])
  simp only [flitsPacket, h, h0, h1, h2, h3, hpayload, BitVec.ofNat_toNat, BitVec.setWidth_eq]

/-- The first flit of a packet begins with NET, which tells it from a control flit (R283). -/
theorem pFlits_first (p : Packet) : ∃ f r, pFlits p = f :: r ∧ leAt f 0 1 % 8 = pNet p := by
  obtain ⟨n, hn⟩ : ∃ n, (if pLong p then 9 else 1) = n + 1 := by split <;> exact ⟨_, rfl⟩
  refine ⟨slice (pBytesList p) 0 32, _, by rw [pFlits, hn, List.range_succ_eq_map]; rfl, ?_⟩
  have hbyte : slice (pBytesList p) 0 1 = [BitVec.ofNat 8 p.w0.toNat] := by
    rw [pBytesList, leBytes_succ]
    rfl
  have hnet : pNet p = p.w0.toNat % 8 := by
    simp [pNet, bitsOf]
  rw [leAt, slice_slice_zero _ (by decide), hbyte, leNat, leNat, hnet, BitVec.toNat_ofNat]
  omega

/-! ### Header word 0 (R111) -/

/-- The fields of header word 0 with their widths, from bit 0. -/
def Hdr.fields (h : Hdr) : List (Nat × Nat) :=
  [(3, h.net), (1, b2n h.long), (6, h.opc), (13, h.src), (1, b2n h.srcSw), (13, h.dst), (1, b2n h.dstSw),
    (8, h.tenant), (1, b2n h.ord), (4, h.ch), (4, h.epoch), (1, b2n h.poison), (8, h.nb)]

/-- The low `k` bits of field `i`, which begins at bit `lo`, read as they were given. -/
theorem bitsOf_word (h : Hdr) {i lo w k x : Nat} (hf : h.fields[i]? = some (w, x)) (hlo : packWidth (h.fields.take i) = lo) (hk : k ≤ w) (hn : lo + k ≤ 64) :
    bitsOf h.word lo k = x % 2 ^ k := by
  obtain ⟨hi, hget⟩ := List.getElem?_eq_some_iff.1 hf
  have hsplit : h.fields = h.fields.take i ++ (w, x) :: h.fields.drop (i + 1) := by
    rw [← hget, List.getElem_cons_drop, List.take_append_drop]
  have hword : h.word = BitVec.ofNat 64 (packArg (h.fields.take i ++ (w, x) :: h.fields.drop (i + 1))) := congrArg (fun l => BitVec.ofNat 64 (packArg l)) hsplit
  subst hlo
  rw [hword]
  exact bitsOf_packArg _ _ x hk hn

/-- A flag of header word 0 reads as it was given. -/
theorem flag_word (h : Hdr) {i lo : Nat} {f : Bool} (hf : h.fields[i]? = some (1, b2n f)) (hlo : packWidth (h.fields.take i) = lo) (hn : lo + 1 ≤ 64) :
    (bitsOf h.word lo 1 == 1) = f := by
  rw [bitsOf_word h hf hlo (Nat.le_refl _) hn]
  cases f <;> rfl

section header
variable (h : Hdr) (w1 w2 w3 : Nat) (payload : List Byte)

theorem pNet_packet : pNet (h.packet w1 w2 w3 payload) = h.net % 2 ^ 3 := bitsOf_word h (i := 0) rfl rfl (Nat.le_refl _) (by decide)
theorem pLong_packet : pLong (h.packet w1 w2 w3 payload) = h.long := flag_word h (i := 1) rfl rfl (by decide)
theorem pOpc_packet : pOpc (h.packet w1 w2 w3 payload) = h.opc % 2 ^ 6 := bitsOf_word h (i := 2) rfl rfl (Nat.le_refl _) (by decide)
theorem pSrcSw_packet : pSrcSw (h.packet w1 w2 w3 payload) = h.srcSw := flag_word h (i := 4) rfl rfl (by decide)
theorem pDstSw_packet : pDstSw (h.packet w1 w2 w3 payload) = h.dstSw := flag_word h (i := 6) rfl rfl (by decide)
theorem pTenant_packet : pTenant (h.packet w1 w2 w3 payload) = h.tenant % 2 ^ 8 := bitsOf_word h (i := 7) rfl rfl (Nat.le_refl _) (by decide)
theorem pOrd_packet : pOrd (h.packet w1 w2 w3 payload) = h.ord := flag_word h (i := 8) rfl rfl (by decide)
theorem pCh_packet : pCh (h.packet w1 w2 w3 payload) = h.ch % 2 ^ 4 := bitsOf_word h (i := 9) rfl rfl (Nat.le_refl _) (by decide)
theorem pEpoch_packet : pEpoch (h.packet w1 w2 w3 payload) = h.epoch % 2 ^ 4 := bitsOf_word h (i := 10) rfl rfl (Nat.le_refl _) (by decide)
theorem pPoison_packet : pPoison (h.packet w1 w2 w3 payload) = h.poison := flag_word h (i := 11) rfl rfl (by decide)
theorem pStatus_packet : pStatus (h.packet w1 w2 w3 payload) = h.nb % 2 ^ 8 := bitsOf_word h (i := 12) rfl rfl (Nat.le_refl _) (by decide)

/-- Bits that an ID of an endpoint or of a switch takes (R20, R21). -/
def idBits (sw : Bool) : Nat := if sw then 10 else 13

theorem idBits_le (sw : Bool) : idBits sw ≤ 13 := by cases sw <;> decide

/-- SRC reads as an ID of its kind: of a switch, its low 10 bits. -/
theorem pSrc_packet : pSrc (h.packet w1 w2 w3 payload) = h.src % 2 ^ idBits h.srcSw := by
  have hbits := idBits_le h.srcSw
  rw [pSrc, pSrcSw_packet]
  exact bitsOf_word h (i := 3) rfl rfl hbits (Nat.le_trans (Nat.add_le_add_left hbits 10) (by decide))

/-- DST reads as an ID of its kind: of a switch, its low 10 bits. -/
theorem pDst_packet : pDst (h.packet w1 w2 w3 payload) = h.dst % 2 ^ idBits h.dstSw := by
  have hbits := idBits_le h.dstSw
  rw [pDst, pDstSw_packet]
  exact bitsOf_word h (i := 5) rfl rfl hbits (Nat.le_trans (Nat.add_le_add_left hbits 24) (by decide))

/-- The packet of a header has a payload of its class. -/
theorem packet_payload_length : (h.packet w1 w2 w3 payload).payload.length = if pLong (h.packet w1 w2 w3 payload) then 256 else 0 := by
  rw [pLong_packet, Hdr.packet]
  dsimp only
  split
  · exact slice_length _ _ _
  · rfl

/-- Every field holds a value of its width, SRC and DST an ID of their kind. -/
structure Hdr.Fits (h : Hdr) : Prop where
  net : h.net < 2 ^ 3
  opc : h.opc < 2 ^ 6
  src : h.src < 2 ^ idBits h.srcSw
  dst : h.dst < 2 ^ idBits h.dstSw
  tenant : h.tenant < 2 ^ 8
  ch : h.ch < 2 ^ 4
  epoch : h.epoch < 2 ^ 4
  nb : h.nb < 2 ^ 8

/-- The second half of O10 where the IDs fit their kind: what the flits of a header's packet spell reads back every field. -/
theorem packet_reads_back (hfits : h.Fits) :
    let p := flitsPacket (pFlits (h.packet w1 w2 w3 payload))
    pNet p = h.net ∧ pLong p = h.long ∧ pOpc p = h.opc ∧ pSrc p = h.src ∧ pSrcSw p = h.srcSw ∧ pDst p = h.dst ∧ pDstSw p = h.dstSw
      ∧ pTenant p = h.tenant ∧ pOrd p = h.ord ∧ pCh p = h.ch ∧ pEpoch p = h.epoch ∧ pPoison p = h.poison ∧ pStatus p = h.nb := by
  rw [flitsPacket_of_flatten (flatten_pFlits (packet_payload_length h w1 w2 w3 payload))]
  dsimp only
  rw [pNet_packet, pLong_packet, pOpc_packet, pSrc_packet, pSrcSw_packet, pDst_packet, pDstSw_packet, pTenant_packet, pOrd_packet, pCh_packet, pEpoch_packet,
    pPoison_packet, pStatus_packet, Nat.mod_eq_of_lt hfits.net, Nat.mod_eq_of_lt hfits.opc, Nat.mod_eq_of_lt hfits.src, Nat.mod_eq_of_lt hfits.dst,
    Nat.mod_eq_of_lt hfits.tenant, Nat.mod_eq_of_lt hfits.ch, Nat.mod_eq_of_lt hfits.epoch, Nat.mod_eq_of_lt hfits.nb]
  simp only [and_self]

end header

/-- The first half of O10, which holds: a packet comes back from its flits, one of 32 bytes for each credit, the first of them no control flit. -/
theorem packet_survives_flits {p : Packet} (h : p.payload.length = if pLong p then 256 else 0) :
    flitsPacket (pFlits p) = p ∧ (pFlits p).length = pCredits p ∧ (∀ f ∈ pFlits p, f.length = 32) ∧ 32 * (pFlits p).length = pFrame p
      ∧ (pNet p ≠ 7 → ∃ f r, pFlits p = f :: r ∧ leAt f 0 1 % 8 ≠ 7) := by
  refine ⟨flitsPacket_of_flatten (flatten_pFlits h), pFlits_length p, fun _ hf => length_of_mem_pFlits hf, by rw [pFlits_length, pFrame_eq_credits], fun hnet => ?_⟩
  obtain ⟨f, r, hcons, hfirst⟩ := pFlits_first p
  exact ⟨f, r, hcons, hfirst ▸ hnet⟩

/-- A header with SRC_SW whose SRC is 1024: it fits the 13 bits of the field, and not the 10 of a switch ID (R111). -/
def wideSwitchHdr : Hdr := { src := 1024, srcSw := true }

end Sys2Proof.Machine

namespace Sys2Proof
open Machine

/-- Refutes O10: it bounds SRC and DST by 13 bits also where they name a switch, whose ID is read from 10 (R111); SRC 1024 of a switch reads back as 0. What holds is `packet_survives_flits`, the first half, and `packet_reads_back`, the second for the IDs that fit their kind. -/
theorem not_packetsSurviveFlits : ¬ Obligations.PacketsSurviveFlits := by
  unfold Obligations.PacketsSurviveFlits
  rintro ⟨-, hfields⟩
  obtain ⟨-, -, -, hsrc, -⟩ := hfields wideSwitchHdr 0 0 0 [] (by decide) (by decide) (by decide) (by decide) (by decide) (by decide) (by decide) (by decide)
  rw [pSrc_packet] at hsrc
  exact absurd hsrc (by decide)

end Sys2Proof
end

section
/-!
PROOFS. Sending (06, R112, R116, R118; 07, R169, R170): what PACKET_TRANSMIT sends on a link of either part and from the egress lists of a hall port.
-/
namespace Sys2Proof.Machine

/-! ### Links (R116, R118) -/

/-- A packet leaves the transmitter's queue over link `k`. -/
def Common.sendQueued (c : Common) (k : Nat) (x : Nat × Packet) : Common :=
  ({ c with txq := eraseFirst (fun y => y == x) c.txq } : Common).sendPacket k x.2

/-- A link of the switch, a hall link only for MGMT, sends the oldest packet of the network. -/
theorem packetTransmit_link_acts {b : Block} {pp : BitVec 7} {net : BitVec 3} {x : Nat × Packet} (hreset : b.sw.inReset = false)
    (hlink : hallLink .ox720 pp.toNat = false ∨ net ≠ 3) (hx : b.sw.txq.find? (fun x => x.1 == pp.toNat && pNet x.2 == net.toNat) = some x)
    (hsend : b.sw.maySend pp.toNat x.2 = true) :
    Acts (.packetTransmit .ox720 pp net) b ((b.modSw (fun c => c.sendQueued pp.toNat x)).modOx (fun o => o.fullDone pp.toNat)) := by
  have hqueue : (hallLink .ox720 pp.toNat && net.toNat == 3) = false := by
    rw [Bool.and_eq_false_iff, beq_eq_false_iff_ne]
    exact hlink.imp id fun hne heq => hne (BitVec.eq_of_toNat_eq heq)
  refine acts (fun _ => rfl) ?_
  simp only [Block.common_ox720, hreset, hqueue, show (Part.ox720 == Part.oe36) = false from rfl, beq_self_eq_true, Bool.true_or, Bool.and_true, hx, hsend,
    Bool.not_true, Bool.false_eq_true, if_false]
  rfl

/-- Is `x` the packet of network `n` that an endpoint sends next on link `k`: the second half of a masked write that has begun, or with none such the oldest that its shaper lets go (R112, R118, R170)? -/
def Block.epNext (b : Block) (k n : Nat) (x : Nat × Packet) : Prop :=
  b.otherHalf k = some x ∧ pNet x.2 = n
    ∨ b.otherHalf k = none ∧ b.ep.txq.find? (fun x => x.1 == k && pNet x.2 == n && b.injOpen x.2) = some x

/-- A crew link of an endpoint sends what is next, and remembers the first half of a masked write. -/
theorem packetTransmit_ep_acts {b : Block} {pp : BitVec 7} {net : BitVec 3} {x : Nat × Packet} (hreset : b.ep.inReset = false)
    (hnext : b.epNext pp.toNat net.toNat x) (hsend : b.ep.maySend pp.toNat x.2 = true) :
    Acts (.packetTransmit .oe36 pp net) b (((b.modEp (fun c => c.sendQueued pp.toNat x)).modOe (fun o =>
      { o with mid := o.mid.filter (fun m => m.1 != pp.toNat) ++ (if pOpc x.2 = 3 then [x] else []) })).injSent x.2) := by
  refine acts (fun _ => rfl) ?_
  simp only [Block.common_oe36, hreset, show hallLink .oe36 pp.toNat = false from rfl, show (Part.oe36 == Part.ox720) = false from rfl, beq_self_eq_true,
    Bool.false_and, Bool.false_or, Bool.false_eq_true, if_false, if_true]
  obtain ⟨hhalf, hnet⟩ | ⟨hhalf, hx⟩ := hnext
  · simp only [hhalf, hnet, hsend, Bool.not_true, Bool.false_eq_true, if_false, if_true]
    rfl
  · simp only [hhalf, hx, hsend, Bool.not_true, Bool.false_eq_true, if_false]
    rfl

/-! ### Egress lists of a hall port (R169) -/

/-- The head of an unlimited tenant's list leaves on the port's link, and its cell is freed. -/
theorem egressSend_unlimited {b : Block} {hp pp t k : Nat} {r : List Nat} {c : Cell} (hpp : 0x48 + hp = pp) (hlist : b.ox.egressOf hp t = k :: r)
    (hc : b.ox.cell k = some c) (hsend : b.sw.maySend pp c.pkt = true) (hrate : b.sw.shapeRate t = 0) :
    b.egressSend hp t = { b with
      sw := b.sw.sendPacket pp c.pkt
      ox := { (b.ox.unref k).fullDone pp with egress := SMap.set [] b.ox.egress (egressKey hp t) r, egressLast := SMap.set 255 b.ox.egressLast hp t } } := by
  subst hpp
  unfold Block.egressSend
  simp only [hlist, hc, hsend, hrate, Bool.not_true, Bool.false_eq_true, if_false, if_true]
  rfl

/-- A hall port with no packet of another network in its queue serves the next tenant. -/
theorem packetTransmit_hall_acts {b b' : Block} {pp : BitVec 7} {t : Nat} (hreset : b.sw.inReset = false) (hlink : hallLink .ox720 pp.toNat = true)
    (htxq : b.sw.txq = []) (ht : b.egressNext (pp.toNat - 0x48) = some t) (h : b.egressSend (pp.toNat - 0x48) t = b') :
    Acts (.packetTransmit .ox720 pp 3) b b' := by
  refine acts (fun _ => rfl) ?_
  simp only [Block.common_ox720, hreset, hlink, show ((3 : BitVec 3).toNat == 3) = true from rfl, htxq, ht, List.any_nil, Bool.and_self, Bool.false_eq_true, if_false,
    if_true]
  exact h

end Sys2Proof.Machine

namespace Sys2Proof
open Machine

/-- Settles O29: the first packet that may leave is what PACKET_TRANSMIT finds, on a link of either part and in the list of a hall port's next tenant. -/
theorem packetsLeave : Obligations.PacketsLeave := by
  unfold Obligations.PacketsLeave
  intro b pp net
  refine ⟨fun x hreset hlink hx hsend => packetTransmit_link_acts hreset hlink hx hsend, fun x hreset hnext hsend => ?endpoint,
    fun t k r c hreset hlow hlink hnet htxq ht hlist hc hsend hrate => ?hall⟩
  case endpoint => exact packetTransmit_ep_acts hreset hnext hsend
  case hall =>
    subst hnet
    exact packetTransmit_hall_acts hreset hlink htxq ht (egressSend_unlimited (Nat.add_sub_cancel' hlow) hlist hc hsend hrate)

end Sys2Proof
end

section
/-!
PROOFS. Ingress of the switch (06, R124, R126 to R132; 07, R142, R151, R171): what a crew port and a hall port do with a packet that a check refuses, that has no route, that is answered with NACK, that is policed away, or that takes a cell.
-/
namespace Sys2Proof.Machine

/-! ### Admission (R124, R126, R151) -/

theorem admitPacket_of_noRoute {b : Block} {pp : Nat} {fwd : Bool} {p : Packet} (h : (b.route false (linkInput pp p) fwd p).port = none) :
    b.admitPacket pp fwd p = b.refuse pp noRouteCause p := by
  unfold Block.admitPacket
  rw [h]

/-- A REQ packet for a crew port that is not ACTIVE is answered with NACK (R124). -/
theorem admitPacket_nacks {b : Block} {pp o : Nat} {fwd : Bool} {p : Packet} (h : (b.route false (linkInput pp p) fwd p).port = some o) (hreq : pNet p = 0)
    (ho : o < 72) (hdown : b.sw.lstate o ≠ lsActive) : b.admitPacket pp fwd p = (b.modSw (fun c => c.takeRx pp p)).sendNack p := by
  unfold Block.admitPacket
  simp only [h, hreq, ho, bne_iff_ne.2 hdown, beq_self_eq_true, decide_true, Bool.and_self, if_true]

/-- Any other packet with an output takes the next unused cell (R142, R151). -/
theorem admitPacket_enqueues {b : Block} {pp o : Nat} {fwd : Bool} {p : Packet} (h : (b.route false (linkInput pp p) fwd p).port = some o)
    (hup : pNet p ≠ 0 ∨ 72 ≤ o ∨ b.sw.lstate o = lsActive) (hpool : b.poolAllows (linkInput pp p) (pNet p) true = true) (hfresh : b.ox.fresh < numCells) :
    b.admitPacket pp fwd p = (b.enqueued (linkInput pp p) o p).modSw (fun c => c.rxDrop pp p) := by
  have hnoNack : (pNet p == 0 && decide (o < 72) && b.sw.lstate o != lsActive) = false := by
    obtain hnet | hout | hact := hup
    · simp [hnet]
    · simp [Nat.not_lt.2 hout]
    · simp [hact]
  unfold Block.admitPacket
  simp only [h, hnoNack, enq b _ o p hpool hfresh, Bool.false_eq_true, if_false]

/-! ### Crew ports (R132) -/

section crew
variable {b : Block} {port : BitVec 7} {p : Packet} (hreset : b.sw.inReset = false) (hstop : b.sw.parityStopped 5 = false) (hport : port.toNat < 72)
  (hnet : pNet p ≠ 2)
include hreset hstop hport hnet

/-- The first check that fails refuses a packet. -/
theorem crewPortIngress_refuses {k : Nat} (h : b.crewCause port.toNat p = some k) : Acts (.crewPortIngress port p) b (b.refuse port.toNat k p) := by
  refine acts (fun _ => rfl) ?_
  simp only [hreset, hstop, beq_eq_false_iff_ne.2 hnet, hport, h, Bool.or_self, Bool.false_and, Bool.false_eq_true, if_false, if_true]

/-- A packet that passes the checks, and that no injection takes, is admitted. -/
theorem crewPortIngress_admits {b' : Block} (h : b.crewCause port.toNat p = none) (hinj : b.sw.fld (ob 0x9010 1) 0 8 ≠ pSrc p % 128)
    (hadmit : b.admitPacket port.toNat false p = b') : Acts (.crewPortIngress port p) b b' := by
  refine acts (fun _ => rfl) ?_
  simp only [hreset, hstop, beq_eq_false_iff_ne.2 hnet, beq_eq_false_iff_ne.2 hinj, hport, h, Bool.or_self, Bool.false_and, Bool.and_false, Bool.false_eq_true,
    if_false, if_true]
  exact hadmit

end crew

/-! ### Hall ports (R128, R131, R171) -/

/-- A packet of HALL as its port routes it: one for a switch of another rack gets FWD (R128). -/
def Block.forwarded (b : Block) (p : Packet) : Packet :=
  if pDstSw p = true ∧ pDst p / 16 ≠ b.swRack then { p with w1 := setBits p.w1 31 1 1 } else p

theorem forwarded_eq (b : Block) (p : Packet) :
    b.forwarded p = if pDstSw p = true ∧ pDst p / 16 ≠ b.swRack then { p with w1 := setBits p.w1 31 1 1 } else p := rfl

/-- A packet of HALL that the policer lets pass: refused without a route, else in a VOQ once a cell is free (R126, R128). -/
def Block.hallAdmit (b : Block) (pp : Nat) (p : Packet) : Block :=
  match (b.route false (linkInput pp (b.forwarded p)) true (b.forwarded p)).port with
  | none => b.refuse pp noRouteCause p
  | some o =>
    match b.enqueue (linkInput pp (b.forwarded p)) o (b.forwarded p) with
    | some t => t.modSw (fun c => c.rxDrop pp p)
    | none => b

theorem hallAdmit_of_noRoute {b : Block} {pp : Nat} {p : Packet} (h : (b.route false (linkInput pp (b.forwarded p)) true (b.forwarded p)).port = none) :
    b.hallAdmit pp p = b.refuse pp noRouteCause p := by
  unfold Block.hallAdmit
  rw [h]

/-- A packet with an output takes the next unused cell (R142, R151). -/
theorem hallAdmit_enqueues {b : Block} {pp o : Nat} {p : Packet} (h : (b.route false (linkInput pp (b.forwarded p)) true (b.forwarded p)).port = some o)
    (hpool : b.poolAllows (linkInput pp (b.forwarded p)) (pNet (b.forwarded p)) true = true) (hfresh : b.ox.fresh < numCells) :
    b.hallAdmit pp p = (b.enqueued (linkInput pp (b.forwarded p)) o (b.forwarded p)).modSw (fun c => c.rxDrop pp p) := by
  unfold Block.hallAdmit
  simp only [h, enq b _ o _ hpool hfresh]

section hall
variable {b : Block} {hp : BitVec 4} {p : Packet} (hreset : b.sw.inReset = false) (hstop : b.sw.parityStopped 5 = false)
include hreset hstop

/-- The first check that fails refuses a packet. -/
theorem hallPortIngress_refuses {k : Nat} (h : b.hallCause (0x48 + hp.toNat) p = some k) : Acts (.hallPortIngress hp p) b (b.refuse (0x48 + hp.toNat) k p) := by
  refine acts (fun _ => rfl) ?_
  simp only [hreset, hstop, h, Bool.or_self, Bool.false_eq_true, if_false]

/-- A packet of HALL of a policed tenant without credit is dropped, counted and logged (R171). -/
theorem hallPortIngress_polices (h : b.hallCause (0x48 + hp.toNat) p = none) (hnet : pNet p = 3) (hrate : b.sw.fld (ob 0x5410 (pTenant p)) 0 16 ≠ 0)
    (hcredit : b.policeCredit hp.toNat (pTenant p) < pFrame p * 256) :
    Acts (.hallPortIngress hp p) b (b.modSw (fun c =>
      ((c.takeRx (0x48 + hp.toNat) p).count (ob 0x5420 (pTenant p)) 0 32 1).logLimited 0x3005 .info (0x48 + hp.toNat) (0x48 + hp.toNat)
        (packArg [(4, hp.toNat), (8, pTenant p)]))) := by
  refine acts (fun _ => rfl) ?_
  simp only [hreset, hstop, h, hnet, bne_iff_ne.2 hrate, hcredit, beq_self_eq_true, decide_true, Bool.or_self, Bool.and_self, Bool.false_eq_true, if_false, if_true]

/-- A packet of HALL of a tenant that is not policed is admitted. -/
theorem hallPortIngress_admits {b' : Block} (h : b.hallCause (0x48 + hp.toNat) p = none) (hnet : pNet p = 3) (hrate : b.sw.fld (ob 0x5410 (pTenant p)) 0 16 = 0)
    (hadmit : b.hallAdmit (0x48 + hp.toNat) p = b') : Acts (.hallPortIngress hp p) b b' := by
  subst hadmit
  refine acts (fun _ => rfl) ?_
  simp only [hreset, hstop, h, hnet, hrate, bne_self_eq_false, beq_self_eq_true, Bool.or_self, Bool.and_false, Bool.false_and, Bool.and_true, Bool.false_eq_true,
    if_false, Bool.and_eq_true, bne_iff_ne, ← forwarded_eq]
  rfl

end hall

end Sys2Proof.Machine

namespace Sys2Proof
open Machine

/-- Settles O28: at a crew port and at a hall port, a packet is refused by its first failing check, answered, dropped or queued. -/
theorem switchIngress : Obligations.SwitchIngress := by
  unfold Obligations.SwitchIngress
  refine fun b p hreset hstop => ⟨fun port hport hnet => ⟨fun k hcause => ?crewRefused, fun hcause hinj => ⟨fun hroute => ?crewNoRoute,
    fun o hroute => ⟨fun hreq ho hdown => ?crewNack, fun hup hpool hfresh => ?crewQueued⟩⟩⟩,
    fun hp => ⟨fun k hcause => ?hallRefused, fun hcause hnet => ⟨fun hrate hcredit => ?hallPoliced, fun hrate => ⟨fun hroute => ?hallNoRoute,
    fun o hroute hpool hfresh => ?hallQueued⟩⟩⟩⟩
  case crewRefused => exact crewPortIngress_refuses hreset hstop hport hnet hcause
  case crewNoRoute => exact crewPortIngress_admits hreset hstop hport hnet hcause hinj (admitPacket_of_noRoute hroute)
  case crewNack => exact crewPortIngress_admits hreset hstop hport hnet hcause hinj (admitPacket_nacks hroute hreq ho hdown)
  case crewQueued => exact crewPortIngress_admits hreset hstop hport hnet hcause hinj (admitPacket_enqueues hroute hup hpool hfresh)
  case hallRefused => exact hallPortIngress_refuses hreset hstop hcause
  case hallPoliced => exact hallPortIngress_polices hreset hstop hcause hnet hrate hcredit
  case hallNoRoute => exact hallPortIngress_admits hreset hstop hcause hnet hrate (hallAdmit_of_noRoute hroute)
  case hallQueued => exact hallPortIngress_admits hreset hstop hcause hnet hrate (hallAdmit_enqueues hroute hpool hfresh)

end Sys2Proof
end

section
/-!
PROOFS. Cells and calendars of the switch core (07, R154, R155, R161, R164, R165, R167 to R171): what head scans drop and audits reclaim, refills of head buffers, takes and flow-control pins, and the slots of shapers and policers.
-/
namespace Sys2Proof.Machine

/-! ### The parts of a VOQ's key (R142) -/

section voqKey
variable {i o n : Nat}

theorem voqKey_input (ho : o < 128) (hn : n < 8) : voqKey i o n / 1024 = i := by unfold voqKey; omega

theorem voqKey_output (ho : o < 128) (hn : n < 8) : voqKey i o n / 8 % 128 = o := by unfold voqKey; omega

theorem voqKey_net (hn : n < 8) : voqKey i o n % 8 = n := by unfold voqKey; omega

theorem voq_of_voqs {x : Ox} {v : Voq} (h : x.voqs = [(voqKey i o n, v)]) : x.voq i o n = v := by
  unfold Ox.voq
  rw [h]
  exact if_pos rfl

end voqKey

/-! ### Head scans (R154) -/

section ageVoq
variable {b : Block} {i o n k t : Nat} {c : Cell} (hv : b.ox.voq i o n = { cells := [(k, t)], passed := 0 })
include hv

theorem popVoq_of_one : b.popVoq i o n = { b with ox := b.ox.setVoq i o n { cells := [], passed := 0 } } := by
  simp only [Block.popVoq, Block.modOx, hv, List.drop_succ_cons, List.drop_zero]

/-- The only packet of a VOQ is dropped when it is too old. -/
theorem ageVoq_drops (hc : b.ox.cell k = some c) (hold : b.tooOld c = true) :
    b.ageVoq i o n 1 = ({ b with ox := b.ox.setVoq i o n { cells := [], passed := 0 } } : Block).ageDrop k c := by
  simp only [Block.ageVoq, hv, hc, hold, if_true, popVoq_of_one hv]

end ageVoq

/-- A scan of a switch with one VOQ and no egress list visits that VOQ. -/
theorem headScan_acts {b b' : Block} {i o n : Nat} {v : Voq} (hreset : b.sw.inReset = false) (ho : o < 128) (hn : n < 8)
    (hegress : b.ox.egress = []) (hvoqs : b.ox.voqs = [(voqKey i o n, v)]) (h : b.ageVoq i o n v.cells.length = b') : Acts .headScan b b' := by
  subst h
  refine acts (fun _ => rfl) ?_
  simp only [hreset, hegress, hvoqs, voqKey_input ho hn, voqKey_output ho hn, voqKey_net hn, List.foldl_cons, List.foldl_nil, Bool.false_eq_true, if_false]

/-! ### The audit (R155) -/

/-- Injection at one point has no occasion at another (R361). -/
theorem injects_elsewhere {c : Common} {point : Nat} (h : c.fld (ob 0x9010 0) 0 8 ≠ point) : c.injects point = false := by
  unfold Common.injects
  rw [beq_eq_false_iff_ne.2 h, Bool.false_and]

theorem occasion_elsewhere {c : Common} {point : Nat} (h : c.fld (ob 0x9010 0) 0 8 ≠ point) : c.occasion point = (false, c) := by
  unfold Common.occasion
  rw [beq_eq_false_iff_ne.2 h, Bool.false_and]
  rfl

section audit
variable {b : Block} {k : Nat} {c : Cell} (hreset : b.sw.inReset = false) (hdue : b.sw.fld (ob 0x5100 1) 0 16 * cclkMs ≤ b.sw.since b.ox.auditAt)
  (hinj : b.sw.fld (ob 0x9010 0) 0 8 ≠ 0x33) (hcells : b.ox.cells = [(k, some c)]) (hlinked : b.ox.linked = [])
include hreset hdue hinj hcells hlinked

/-- The first pass that finds a cell unlinked marks it. -/
theorem auditPass_marks (hs : c.suspect = false) : Acts .auditPass b { b with
    sw := b.sw.count (ob 0x5102 2) 0 32 1
    ox := { b.ox with auditAt := b.sw.stroke, cells := SMap.set none b.ox.cells k (some { c with seen := false, suspect := true }) } } := by
  refine acts (fun _ => rfl) ?_
  simp only [hreset, Nat.not_lt.2 hdue, injects_elsewhere hinj, Block.modSw, occasion_elsewhere hinj, hcells, hlinked, hs, List.foldl_cons, List.foldl_nil,
    List.contains_nil, List.filter_nil, decide_false, Bool.or_self, Bool.not_false, Bool.false_eq_true, if_false, if_true]
  rfl

/-- The second frees it. -/
theorem auditPass_frees (hs : c.suspect = true) : Acts .auditPass b { b with
    sw := ((b.sw.count (ob 0x5102 0) 0 32 1).log 0x3002 .corrected 0xFF (packArg [(19, k)])).count (ob 0x5102 2) 0 32 1
    ox := { b.ox with auditAt := b.sw.stroke, cells := [], freed := b.ox.freed ++ [k] } } := by
  have hdrop : SMap.drop [(k, some c)] k = [] := by simp [SMap.drop]
  refine acts (fun _ => rfl) ?_
  simp only [hreset, Nat.not_lt.2 hdue, injects_elsewhere hinj, Block.modSw, Block.modOx, occasion_elsewhere hinj, hcells, hlinked, hs, hdrop, List.foldl_cons,
    List.foldl_nil, List.contains_nil, List.filter_nil, decide_false, Bool.or_self, Bool.not_false, Bool.false_eq_true, if_false, if_true]

end audit

/-! ### Spill refills (R161) -/

/-- Where the head buffer of queue `ii` ends once it is refilled. -/
def QInst.refillEnd (q : QInst) (ii : Nat) : Nat := max q.headEnd (min q.tailStart (q.rp + instHead ii))

/-- A refill whose words come back clean moves the end of the head buffer and changes no packet. -/
theorem spillRefill_acts {b : Block} {inst : BitVec 8} {q : QInst} (hq : b.ox.inst inst.toNat = q) (hreset : b.sw.inReset = false)
    (hspill : instSpill inst.toNat = true) (hlog : inst.toNat ≠ 0xB0)
    (hclean : (List.range (q.refillEnd inst.toNat - q.headEnd)).any (fun i => (b.ox.bhRead (b.sw.spillAddr inst.toNat (q.headEnd + i)) 64).2) = false) :
    Acts (.spillRefill inst) b
      (({ b with ox := b.ox.setInst inst.toNat { q with headEnd := q.refillEnd inst.toNat } } : Block).settle inst.toNat) := by
  have hbad : ((List.range (q.refillEnd inst.toNat - q.headEnd)).map (fun i => q.headEnd + i)).filter
      (fun pos => (b.ox.bhRead (b.sw.spillAddr inst.toNat pos) 64).2) = [] := by
    rw [List.filter_eq_nil_iff, List.forall_mem_map]
    exact List.any_eq_false.1 hclean
  unfold QInst.refillEnd at hbad
  refine acts (fun _ => rfl) ?_
  simp only [hreset, hspill, hlog, hq, hbad, List.any_nil, Bool.not_true, Bool.or_self, Bool.false_eq_true, if_false, List.map_id']
  rfl

/-! ### Takes and flow-control pins (R164, R165) -/

/-- A take of the endpoint whose STALL_LIMIT has passed ends. -/
theorem stallLimitExpiry_acts {b : Block} {inst : BitVec 8} {m : Master} {t : Taker} (hreset : b.ep.inReset = false)
    (htake : b.ep.takers.find? (fun t => t.m == m) = some t) (hdue : t.until_ ≤ b.ep.stroke) (hwait : b.ep.evtWaits = false) :
    Acts (.stallLimitExpiry .oe36 inst m) b { b with ep := (b.ep.give m).pumpLog } := by
  refine acts (fun _ => rfl) ?_
  simp only [Block.modCommon_oe36, Block.modEp, htake, hreset, hdue, hwait, beq_self_eq_true, decide_true, Bool.not_false, Bool.true_or, Bool.and_self, if_true]

section fci
variable {b : Block} {k : BitVec 3}

/-- A pin that rises: the log's reads and the held replays follow it. -/
theorem fciChange_rises (h : bitAt b.sw.fci k.toNat = false) :
    Acts (.fciChange k true) b ({ b with sw := ({ b.sw with fci := b.sw.fci + 2 ^ k.toNat } : Common).pumpLog } : Block).nakRelease := by
  refine acts (fun _ => rfl) ?_
  simp only [Block.modSw, h, Bool.false_eq_true, if_false, if_true]

/-- One that falls. -/
theorem fciChange_falls (h : bitAt b.sw.fci k.toNat = true) :
    Acts (.fciChange k false) b ({ b with sw := ({ b.sw with fci := b.sw.fci - 2 ^ k.toNat } : Common).pumpLog } : Block).nakRelease := by
  refine acts (fun _ => rfl) ?_
  simp only [Block.modSw, h, Bool.false_eq_true, if_false, if_true]

end fci

/-! ### Calendar slots (R167 to R171) -/

theorem egressKey_port {hp t : Nat} (ht : t < 256) : egressKey hp t / 256 = hp := by unfold egressKey; omega

theorem egressKey_tenant {hp t : Nat} (ht : t < 256) : egressKey hp t % 256 = t := by unfold egressKey; omega

/-- The due slot of the endpoint's only shaper refills its tenant. -/
theorem shaperSlot_ep_acts {b : Block} {hp : BitVec 4} {t d : Nat} {sh : Shaper} (hshapers : b.oe.shapers = [(t, sh)]) (hsh : sh.due = some d)
    (hdue : d ≤ b.ep.slotNow) :
    Acts (.shaperSlot .oe36 hp) b (b.modOe (fun e => { e with
      shapers := SMap.set idleShaper e.shapers t ((sh.refill (b.ep.injRate t) (b.ep.injBurst t) b.ep.slotNow).rest (b.injEmpty t)) })) := by
  refine acts (fun _ => rfl) ?_
  simp only [hshapers, hsh, hdue, decide_true, List.filter_cons, List.filter_nil, if_true, List.foldl_cons, List.foldl_nil]

/-- The due slot of a hall port's only shaper refills its tenant. -/
theorem shaperSlot_hall_acts {b : Block} {hp : BitVec 4} {t d : Nat} {sh : Shaper} (ht : t < 256) (hshapers : b.ox.shapers = [(egressKey hp.toNat t, sh)])
    (hsh : sh.due = some d) (hdue : d ≤ b.sw.slotNow) :
    Acts (.shaperSlot .ox720 hp) b (b.modOx (fun x => { x with
      shapers := SMap.set idleShaper x.shapers (egressKey hp.toNat t)
        ((sh.refill (b.sw.shapeRate t) (b.sw.shapeBurst t) b.sw.slotNow).rest (b.ox.egressOf hp.toNat t).isEmpty) })) := by
  refine acts (fun _ => rfl) ?_
  simp only [hshapers, hsh, hdue, egressKey_port ht, egressKey_tenant ht, beq_self_eq_true, decide_true, Bool.and_self, List.filter_cons, List.filter_nil,
    if_true, List.foldl_cons, List.foldl_nil]
  rfl

/-- The first refill of a slot adds a policed tenant's rate to its credit, up to the burst. -/
theorem policerRefill_acts {b : Block} {hp : BitVec 4} {t c : Nat} (ht : t < 256) (hpolicers : b.ox.policers = [(egressKey hp.toNat t, some c)])
    (hrate : b.sw.fld (ob 0x5410 t) 0 16 ≠ 0) (hfirst : SMap.get 0 b.ox.policeAt hp.toNat ≠ b.sw.slotNow + 1) :
    Acts (.policerRefill hp) b (b.modOx (fun x => { x with
      policeAt := SMap.set 0 x.policeAt hp.toNat (b.sw.slotNow + 1)
      policers := SMap.set none x.policers (egressKey hp.toNat t)
        (some (min (c + rateUnits (b.sw.fld (ob 0x5410 t) 0 16)) (burstUnits (b.sw.fld (ob 0x5410 t) 16 16)))) })) := by
  refine acts (fun _ => rfl) ?_
  simp only [hpolicers, hrate, beq_eq_false_iff_ne.2 hfirst, egressKey_port ht, egressKey_tenant ht, beq_self_eq_true, Bool.false_eq_true, List.filter_cons,
    List.filter_nil, if_true, if_false, List.foldl_cons, List.foldl_nil, Block.modOx_sw]
  rfl

end Sys2Proof.Machine

namespace Sys2Proof
open Machine

/-- Settles O30: each clause is what its command does with the one VOQ, cell, spill queue, take, pin, shaper or policer that it finds. -/
theorem cellsAndShapers : Obligations.CellsAndShapers := by
  unfold Obligations.CellsAndShapers
  intro b
  refine ⟨fun k t n i o c hreset ho hn hegress hvoqs hc hold => ?headScan, fun k c hreset hdue hinj hcells hlinked => ⟨fun hs => ?marks, fun hs => ?frees⟩,
    fun inst hreset hspill hlog hclean => ?refill, fun inst m t hreset htake hdue hwait => ?take, fun k hlow => ?rises, fun k hhigh => ?falls,
    fun hp t sh d hshapers hsh hdue => ?endpoint, fun hp t sh d ht hshapers hsh hdue => ?hall, fun hp t c ht hpolicers hrate hfirst => ?policer⟩
  case headScan => exact headScan_acts hreset ho hn hegress hvoqs (ageVoq_drops (voq_of_voqs hvoqs) hc hold)
  case marks => exact auditPass_marks hreset hdue hinj hcells hlinked hs
  case frees => exact auditPass_frees hreset hdue hinj hcells hlinked hs
  case refill => exact spillRefill_acts rfl hreset hspill hlog hclean
  case take => exact stallLimitExpiry_acts hreset htake hdue hwait
  case rises => exact fciChange_rises hlow
  case falls => exact fciChange_falls hhigh
  case endpoint => exact shaperSlot_ep_acts hshapers hsh hdue
  case hall => exact shaperSlot_hall_acts ht hshapers hsh hdue
  case policer => exact policerRefill_acts ht hpolicers hrate hfirst

end Sys2Proof
end

section
/-!
PROOFS. The slot match with one eligible packet (07, R143 to R145, R153): what the match finds before it grants, and the transfer that its one grant starts.
-/
namespace Sys2Proof.Machine

/-! ### What a match finds (R143, R145) -/

theorem pktFor_of_no_copies {c : Cell} (o : Nat) (h : c.copies = []) : c.pktFor o = c.pkt := by
  unfold Cell.pktFor
  rw [h]
  rfl

/-- What a crew output takes rests on its link and on the transfers under way to it. -/
theorem outputTakes_congr {b b' : Block} {o : Nat} (p : Packet) (ho : o < 72) (hstate : b'.sw.lstate o = b.sw.lstate o) (hlinks : b'.sw.links = b.sw.links)
    (htxq : b'.sw.txq = b.sw.txq) (hflight : b'.ox.flight = b.ox.flight) (hcells : b'.ox.cells = b.ox.cells) : b'.outputTakes o p = b.outputTakes o p := by
  have hahead : b'.ox.flightTo o = b.ox.flightTo o := by simp only [Ox.flightTo, Ox.cell, hflight, hcells]
  unfold Block.outputTakes Common.linkTakes Common.queuedCredits Common.link
  rw [if_pos ho, if_pos ho, hahead, hstate, hlinks, htxq]

/-- A cell's age rests on the stroke count and on AGE_LIMIT. -/
theorem tooOld_congr {b b' : Block} (c : Cell) (hstroke : b'.sw.stroke = b.sw.stroke) (hlimit : b'.sw.fld (ob 0x5100 0) 0 16 = b.sw.fld (ob 0x5100 0) 0 16) :
    b'.tooOld c = b.tooOld c := by
  unfold Block.tooOld Common.since
  rw [hstroke, hlimit]

theorem reservedPairs_of_pattern_zero {b : Block} (h : b.ox.pattern = 0) : b.reservedPairs = [] := by
  unfold Block.reservedPairs
  exact if_pos h

/-- The one VOQ is eligible once its packet was enqueued before and its output takes it. -/
theorem eligible_one {b : Block} {i o n k t e : Nat} {c : Cell} (hfence : b.sw.isFenced = false) (ho : o < 128) (hn : n < 8)
    (hvoqs : b.ox.voqs = [(voqKey i o n, { cells := [(k, t)], passed := 0 })]) (hc : b.ox.cell k = some c) (ht : t < e)
    (htakes : b.outputTakes o (c.pktFor o) = true) : b.eligible e = [(i, o, n)] := by
  simp only [Block.eligible, hvoqs, List.filter_cons, List.filter_nil, voqKey_input ho hn, voqKey_output ho hn, voqKey_net hn, hfence, hc, ht, htakes,
    decide_true, Bool.false_and, Bool.not_false, Bool.and_self, if_true, List.map_cons, List.map_nil]

/-! ### The match of one pair (R145) -/

/-- The units once the writers that wait for a full queue are found (R160). -/
def Block.writersFound (b : Block) (waiting : List Nat) : Block := b.modOx (fun x => { x with fullWaiting := waiting })

/-- The units as the match of the pair (i, o) leaves them for its grant: both pointers past the pair, no reserved slot counted as unused. -/
def Block.matched (b : Block) (waiting : List Nat) (i o : Nat) : Block :=
  ((b.writersFound waiting).modSw (fun c => c.count (ob 0x5001 2) 0 64 0)).modOx
    (fun x => { x with gptr := SMap.set 0 b.ox.gptr o ((i + 1) % 124), aptr := SMap.set 0 b.ox.aptr i ((o + 1) % 124) })

section oneMatch
variable {b : Block} {i o n k t : Nat} {c : Cell} (hvoqs : b.ox.voqs = [(voqKey i o n, { cells := [(k, t)], passed := 0 })]) (hc : b.ox.cell k = some c)
  (hcopies : c.copies = []) (ho : o < 72) (hn : n < 5) (ht : t < b.sw.stroke) (htakes : b.outputTakes o c.pkt = true)
include hvoqs hc hcopies ho hn ht htakes

/-- With one packet and nothing reserved, deferred or spilled, the match is one iteration that serves the packet's pair. -/
theorem slotMatch_serves_one (hreset : b.sw.inReset = false) (hfence : b.sw.isFenced = false) (heven : b.sw.stroke % 2 = 0) (hunit : b.ox.unitQ = [])
    (hinsts : b.ox.insts = []) (hpattern : b.ox.pattern = 0) (hdefer : b.ox.deferDynamic = false) :
    ∃ waiting, Acts .slotMatch b ((b.matched waiting i o).serve [(i, o, n)] b.sw.stroke i o) := by
  obtain ⟨waiting, hscan⟩ : ∃ waiting, b.fullScan = b.writersFound waiting := fullScan_one b i o n k t c ho hn hvoqs hc
  have helig : (b.writersFound waiting).eligible b.sw.stroke = [(i, o, n)] :=
    eligible_one hfence (by omega) (by omega) hvoqs hc ht ((pktFor_of_no_copies o hcopies).symm ▸ htakes)
  have hres : (b.writersFound waiting).reservedPairs = [] := reservedPairs_of_pattern_zero hpattern
  have hinsts' : (b.writersFound waiting).ox.insts = [] := hinsts
  have hdistinct : ([(i, o)] : List (Nat × Nat)).eraseDups = [(i, o)] := by simp [List.eraseDups_cons]
  refine ⟨waiting, acts (fun _ => rfl) ?_⟩
  simp only [hreset, heven, unitPump_nil b hunit, rerouteAll_one b i o n _ ho hn hvoqs, hscan, hinsts', helig, hres, hdefer, hdistinct, iterate_one, iterate_nil,
    List.foldl_cons, List.foldl_nil, List.filter_cons, List.filter_nil, List.map_cons, List.map_nil, List.contains_nil, List.contains_cons, List.cons_append,
    List.nil_append, beq_self_eq_true, bne_self_eq_false, Bool.not_false, Bool.not_true, Bool.or_self, Bool.true_or, Bool.and_self, Bool.false_eq_true,
    if_true, if_false]
  rfl

/-- The grant moves the packet out of its VOQ and across to its output. -/
theorem matched_serve (waiting : List Nat) (hold : b.tooOld c = false) (hframe : pFrame c.pkt ≤ 512) :
    let u := (b.matched waiting i o).serve [(i, o, n)] b.sw.stroke i o
    u.ox = { (b.matched waiting i o).ox with voqs := [], flight := b.ox.flight ++ [⟨i, o, k⟩] } ∧ u.sw.txq = b.sw.txq ∧ u.ep = b.ep ∧ u.oe = b.oe := by
  have hold' : (b.matched waiting i o).tooOld c = false := by
    rw [← hold]
    exact tooOld_congr c rfl (Common.fld_count_ne _ _ _ _ _ _ _ _ (by decide))
  have htakes' : (b.matched waiting i o).outputTakes o c.pkt = true := by
    rw [← htakes]
    exact outputTakes_congr c.pkt ho (Common.fld_count_ne _ _ _ _ _ _ _ _ (by unfold ob; omega)) rfl rfl rfl rfl
  exact serve_one (b.matched waiting i o) i o n k t c hn hvoqs hc hcopies ht hold' htakes' ho hframe

end oneMatch

end Sys2Proof.Machine

namespace Sys2Proof
open Machine

/-- Settles O31: the match has one pair to grant, and its grant has one packet to move. -/
theorem slotMatchMoves : Obligations.SlotMatchMoves := by
  unfold Obligations.SlotMatchMoves
  intro s i o n k t c hreset hfence heven hunit hinsts hpattern hdefer _ ho hn hvoqs hc hcopies ht hold htakes hframe
  obtain ⟨waiting, hacts⟩ := slotMatch_serves_one hvoqs hc hcopies ho hn ht htakes hreset hfence heven hunit hinsts hpattern hdefer
  obtain ⟨hox, htxq, hep, hoe⟩ := matched_serve hvoqs hc hcopies ho hn ht htakes waiting hold hframe
  refine ⟨_, hacts s rfl, ?flight, ?voq, ?cell, htxq, hep, hoe, rfl, rfl, rfl⟩
  case flight => exact congrArg Ox.flight hox
  case voq => exact congrArg (fun x => (x.voq i o n).cells) hox
  case cell => exact (congrArg (fun x => x.cell k) hox).trans hc

end Sys2Proof
end

section
/-!
PROOFS. The vector operations of a tile group (09, R195 to R197; 11, R249, R250): what the group's operation does when its operands are registers or constants, then the lanes and the time of each operation.
-/
namespace Sys2Proof.Machine

/-! ### A group in its table (R194) -/

@[simp] theorem group_setGroup (x : Ox) (g : Nat) (v : Group) : (x.setGroup g v).group g = v := SMap.get_set_same _ _ _

theorem setGroup_setGroup (x : Ox) (g : Nat) {v : Group} (w : Group) (h : v ≠ {}) : (x.setGroup g v).setGroup g w = x.setGroup g w := by
  unfold Ox.setGroup
  dsimp only
  rw [SMap_set_set _ _ _ _ h]

theorem modGroup_setGroup (s : Block) (g : Nat) {v : Group} (f : Group → Group) (h : v ≠ {}) :
    (s.modOx (fun x => x.setGroup g v)).modGroup g f = s.modOx (fun x => x.setGroup g (f v)) := by
  simp only [Block.modGroup, Block.modOx, group_setGroup, setGroup_setGroup _ _ _ h]

theorem ne_empty_of_bound {v : Group} {key : Nat} (h : v.bound = some key) : v ≠ {} := by
  rintro rfl
  exact absurd h nofun

/-! ### What the lanes report (R179, R189, R211) -/

section laneCounts
variable (s : Block) (key : Nat) (block : Nat → Nat) (l : List LaneRes) (act : List Bool)

theorem laneCounts_modOx (f : Ox → Ox) : (s.modOx f).laneCounts key block l act = (s.laneCounts key block l act).modOx f := by
  unfold Block.laneCounts
  dsimp only
  rw [show (s.modOx f).modSw = fun c => (s.modSw c).modOx f from rfl]
  refine List.foldl_hom (fun s : Block => s.modOx f) fun s i => ?_
  split <;> rfl

/-- Counting changes the switch's objects and nothing else. -/
theorem laneCounts_eq : s.laneCounts key block l act = { s with sw := (s.laneCounts key block l act).sw } := by
  unfold Block.laneCounts
  dsimp only
  refine List.foldlRecOn (motive := fun t : Block => t = { s with sw := t.sw }) _ _ rfl fun t ht i _ => ?_
  split
  · rw [ht]; rfl
  · exact ht

theorem laneCounts_ox : (s.laneCounts key block l act).ox = s.ox := by rw [laneCounts_eq]

end laneCounts

/-- Nothing is noted unless the operation shows the gradient of a REDUCE_UPDATE_GATHER. -/
theorem noteSkips_unshown {s : Block} {key : Nat} {shows : Bool} (v : VReg) (block : Nat → Nat) (act : List Bool)
    (h : shows = false ∨ ∀ l, s.slaunch? key = some l → l.cfg.op ≠ 9) : s.noteSkips key shows v block act = s := by
  unfold Block.noteSkips
  split
  case h_1 l hl =>
    refine if_neg ?_
    rcases h with rfl | h
    · simp
    · simp [h l hl]
  case h_2 => rfl

theorem cfgOf_of_slaunch {s : Block} {key : Nat} {l : SLaunch} (h : s.slaunch? key = some l) : s.cfgOf key = l.cfg := by
  unfold Block.cfgOf
  rw [h]

theorem showsGradient_of_not_gscale {vop ksel : Nat} {usesK narrow : Bool} (hv : vop ≠ 0x13) (hk : usesK = true → ksel ≠ 0) :
    showsGradient vop ksel usesK narrow = false := by
  unfold showsGradient
  cases usesK
  case false => simp only [beq_eq_false_iff_ne.2 hv, Bool.and_false, Bool.false_and, Bool.or_self]
  case true => simp only [beq_eq_false_iff_ne.2 hv, beq_eq_false_iff_ne.2 (hk rfl), Bool.and_false, Bool.false_and, Bool.or_self]

/-! ### Operands (R249) -/

theorem not_port_of_opReg {b : Block} {g r : Nat} (h : b.opReg g r) : r ≠ 28 ∧ r ≠ 30 := by
  rcases h with h | ⟨h, -⟩ <;> omega

/-- A constant among two such operands is not GSCALE. -/
theorem ksel_ne_zero_of_opReg {b : Block} {g r r' : Nat} (h : b.opReg g r) (h' : b.opReg g r') (hk : (r == 31 || r' == 31) = true) :
    (b.ox.group g).ksel ≠ 0 := by
  simp only [Bool.or_eq_true, beq_iff_eq] at hk
  rcases hk with rfl | rfl
  · exact (h.resolve_left (by decide)).2
  · exact (h'.resolve_left (by decide)).2

/-- The units with a group's own record written back: what an operation starts from. -/
def Block.regroup (b : Block) (g : Nat) : Block := b.modOx (fun x => x.setGroup g (b.ox.group g))

/-- Reading a register or a constant leaves the units as they are and enables every block. -/
theorem source_of_opReg {b : Block} {g r : Nat} (key : Nat) (h : b.opReg g r) :
    (b.regroup g).source g key r = (b.opSrc g key r, List.replicate numBlocks true, b.regroup g) := by
  have hgr : (b.regroup g).ox.group g = b.ox.group g := group_setGroup _ _ _
  unfold Block.opSrc
  rcases h with h | ⟨rfl, -⟩
  · rw [source_reg _ _ _ _ h, hgr, if_neg (by omega)]
  · have hk : (b.regroup g).readK g key = b.readK g key := by
      unfold Block.readK
      rw [hgr]
      rfl
    unfold Block.source
    rw [if_neg (by decide), if_neg (by decide), if_pos rfl, if_pos rfl, hk]

/-- Operand A, in the form of operand B where nothing has written it; `rb`: the operation reads B. -/
def Block.operandA (b : Block) (g key gop : Nat) (rb : Bool) : VReg := (b.opSrc g key (gA gop)).like (if rb then b.opSrc g key (gB gop) else {})
/-- Operand B, blank where the operation does not read it. -/
def Block.operandB (b : Block) (g key gop : Nat) (rb : Bool) : VReg := (if rb then b.opSrc g key (gB gop) else {}).like (b.operandA g key gop rb)
/-- The destination as an operand, blank where the operation does not read it (`rd`). -/
def Block.operandD (b : Block) (g key gop : Nat) (rb rd : Bool) : VReg :=
  (if rd then (b.ox.group g).reg (gD gop) else {}).like (b.operandA g key gop rb)

/-! ### What an operation works under (R182, R212, R249) -/

/-- The operation is no AXOUT of a REDUCE_UPDATE_GATHER (which shows the gradient) and no MMA of a ROTATE_REDUCE (which has a matrix of its own). -/
abbrev Block.plainOp (b : Block) (key vop : Nat) : Prop := (vop = 0x13 → (b.cfgOf key).op ≠ 9) ∧ (vop = 0x18 → (b.cfgOf key).op ≠ opRotateReduce)

/-- The format in which an operation's result stands in a register: an area's format for CVT SUB 3, else the output format. -/
def Block.outFormat (b : Block) (g key vop sub : Nat) : Nat × Bool :=
  if vop = 7 ∧ sub = 3 then ((b.areaForm key (b.ox.group g).bhPtr).1, false) else ((b.cfgOf key).outFmt, (b.cfgOf key).outScaled)

/-- The context of an operation for a register. -/
def Block.opContext (b : Block) (g key vop sub : Nat) : OpCtx :=
  let gr := b.ox.group g
  let cfg := b.cfgOf key
  { cfg := cfg, launch := b.launchOfKey key
    stream := if vop = 7 ∧ cfg.op = opRotateReduce ∧ cfg.xform = false then 3 else 0
    index := fun i => b.blockIndex (!gr.sendHall || (finalOp vop false && cfg.reduces)) key (gr.sendBlock + i)
    outCode := (b.outFormat g key vop sub).1, outScaled := (b.outFormat g key vop sub).2, n := grpN cfg.grp
    residual := fun i => b.residualOf key (gr.sendBlock + i / 32) (i % 32), macs := b.macsOf key gr [], free := b.free + lanesPerGroup }

/-- The result of an operation for a register: form, format code and lanes. -/
def Block.opResult (b : Block) (g key gop vop : Nat) (rb rd : Bool) : Nat × Nat × List LaneRes :=
  (b.opContext g key vop (gSub gop)).run vop (gSub gop) (gLn gop * 128 + gSub gop * 32 + gB gop)
    (b.operandA g key gop rb) (b.operandB g key gop rb) (b.operandD g key gop rb rd) (b.opActs g key gop)

/-- Its occupancy and its latency. -/
def Block.opSpan (b : Block) (g key gop vop : Nat) (rb rd : Bool) : Nat × Nat :=
  opTime vop (gSub gop) (b.outFormat g key vop (gSub gop)).1 (b.cfgOf key)
    [b.operandA g key gop rb, b.operandB g key gop rb, b.operandD g key gop rb rd] (b.operandA g key gop rb)

theorem stream_ne_one (b : Block) (g key vop sub : Nat) : (b.opContext g key vop sub).stream ≠ 1 := by
  unfold Block.opContext
  dsimp only
  split <;> decide

/-- The random stream of CVT (R182): ROTATE_REDUCE quantises under stream 3. -/
theorem stream_of_cvt (b : Block) (g key sub : Nat) :
    (b.opContext g key 0x07 sub).stream = if (b.cfgOf key).op = opRotateReduce ∧ (b.cfgOf key).xform = false then 3 else 0 := by
  simp only [Block.opContext, true_and]

theorem macs_of_plain {b : Block} {g key vop sub : Nat} (h : (b.cfgOf key).op ≠ opRotateReduce) : (b.opContext g key vop sub).macs = none :=
  if_pos (bne_iff_ne.2 h)

theorem residualCheck_unused (s : Block) (g key : Nat) (block : Nat → Nat) : s.residualCheck g key (fun _ => false) block = ([], s) := by
  have hbad : (List.range numBlocks).filter (fun i => false && !s.bhAllowed key (s.residualAt key (block i) 0) 128) = [] :=
    List.filter_eq_nil_iff.2 fun _ _ => Bool.false_ne_true
  unfold Block.residualCheck
  rw [hbad]
  rfl

theorem mmaBasis_of_plain {s : Block} {g key vop : Nat} (h : vop = 0x18 → (s.cfgOf key).op ≠ opRotateReduce) : s.mmaBasis g key vop = ([], true, s) := by
  unfold Block.mmaBasis
  refine if_pos ?_
  by_cases hv : vop = 0x18
  · simp [h hv]
  · simp [hv]

/-- The units once an operation on registers or constants has counted what its lanes report. -/
theorem counted_of_plain {b : Block} {g key gop vop : Nat} (hA : b.opReg g (gA gop)) (hB : b.opReg g (gB gop)) (hplain : b.plainOp key vop)
    (v : VReg) (block : Nat → Nat) (l : List LaneRes) (act : List Bool) :
    ((b.regroup g).laneCounts key block l act).noteSkips key (showsGradient vop (b.ox.group g).ksel (gA gop == 31 || gB gop == 31) false) v block act
      = (b.laneCounts key block l act).modOx (fun x => x.setGroup g (b.ox.group g)) := by
  refine (noteSkips_unshown _ _ _ ?_).trans (laneCounts_modOx b key block l act _)
  by_cases hv : vop = 0x13
  · refine .inr fun launch hl => ?_
    rw [Block.slaunch?, laneCounts_ox] at hl
    exact cfgOf_of_slaunch (s := b) hl ▸ hplain.1 hv
  · exact .inl (showsGradient_of_not_gscale hv (ksel_ne_zero_of_opReg hA hB))

/-! ### The operation of a group -/

theorem getD_map_range {α : Type} {n i : Nat} {f : Nat → α} {d : α} (h : i < n) : ((List.range n).map f).getD i d = f i := by
  rw [List.getD_eq_getElem?_getD, List.getElem?_map, List.getElem?_range h, Option.map_some, Option.getD_some]

theorem getD_replicate_of_lt {α : Type} {n i : Nat} {x d : α} (h : i < n) : (List.replicate n x).getD i d = x := by
  rw [List.getD_eq_getElem?_getD, List.getElem?_replicate_of_lt h, Option.getD_some]

theorem opGoes_congr_read {b : Block} {g key gop reg form code : Nat} {lanes : List LaneRes} {time : Nat × Nat} {read read' : List VReg}
    (h : ∀ i, read.any (fun r => r.poison.contains i) = read'.any (fun r => r.poison.contains i)) :
    b.opGoes g key gop reg form code lanes time read = b.opGoes g key gop reg form code lanes time read' := by
  simp only [Block.opGoes, h]

/-- A blank operand poisons nothing. -/
theorem any_poison (va vb vd : VReg) (rd : Bool) (i : Nat) (h : rd = false → vd.poison = []) :
    (va.poison.contains i || vb.poison.contains i || (rd && vd.poison.contains i)) = [va, vb, vd].any (fun r => r.poison.contains i) := by
  cases rd
  · simp [h rfl]
  · simp [Bool.or_assoc]

section goes
variable {b : Block} {g key gop vop : Nat}

theorem opResult_of_sub {sub : Nat} {rb rd : Bool} (h : gSub gop = sub) : b.opResult g key gop vop rb rd =
    (b.opContext g key vop sub).run vop sub (gLn gop * 128 + sub * 32 + gB gop)
      (b.operandA g key gop rb) (b.operandB g key gop rb) (b.operandD g key gop rb rd) (b.opActs g key gop) := by
  subst h
  rfl

theorem opSpan_of_sub {sub : Nat} {rb rd : Bool} (h : gSub gop = sub) : b.opSpan g key gop vop rb rd =
    opTime vop sub (b.outFormat g key vop sub).1 (b.cfgOf key)
      [b.operandA g key gop rb, b.operandB g key gop rb, b.operandD g key gop rb rd] (b.operandA g key gop rb) := by
  subst h
  rfl

/-- A group that takes an operation on registers computes its result and writes it to the register, or to the mask, once its latency has passed.
The values that the operation binds are replaced, in its own order, by what they are for registers: no port, no narrowing, no residual and no matrix of its own. -/
theorem gop_of_takes {rb rd : Bool} (h : b.opTakes g key gop vop) (hrd : opReads vop = (true, rb, rd)) (hplain : b.plainOp key vop) :
    b.gop g gop = b.opGoes g key gop (if vop = 0x06 then 32 else gD gop)
      (b.opResult g key gop vop rb rd).1 (b.opResult g key gop vop rb rd).2.1 (b.opResult g key gop vop rb rd).2.2 (b.opSpan g key gop vop rb rd)
      [b.operandA g key gop rb, b.operandB g key gop rb, b.operandD g key gop rb rd] := by
  obtain ⟨-, -, -, -, -, rfl, hbound, hpend, hbusy, hA, hB, hD⟩ := h
  have hvop0 : gVop gop ≠ 0 := by
    intro h
    rw [h] at hrd
    exact absurd hrd (by simp [opReads])
  unfold Block.gop
  extract_lets now vop gr0 s0 reads blank d0 lnd toXb toBh block ln k
  have hgr0 : gr0 = b.ox.group g := settle_nil _ _ hpend
  have hnotXb : toXb = false := by simp only [toXb, beq_eq_false_iff_ne.2 (show gD gop ≠ 29 by omega), Bool.false_and]
  have hnotBh : toBh = false := by simp only [toBh, beq_eq_false_iff_ne.2 (show gD gop ≠ 30 by omega), Bool.false_and]
  have hnotLnd : lnd = false := by
    simp only [lnd, beq_eq_false_iff_ne.2 (not_port_of_opReg hA).1, beq_eq_false_iff_ne.2 (not_port_of_opReg hB).1, Bool.and_false, Bool.or_self]
  have hreads : reads = (true, rb, rd) := hrd
  clear_value gr0 lnd toXb toBh reads
  subst hgr0 hnotLnd hnotXb hnotBh hreads
  have hs0 : s0 = b.regroup g := rfl
  clear_value s0
  subst hs0
  split
  case h_1 hnone => exact absurd (hbound.symm.trans hnone) nofun
  case h_2 key' hkey =>
  obtain rfl : key' = key := Option.some.inj (hkey.symm.trans hbound)
  rw [if_neg (by omega)]
  extract_lets cfg sa sb a bb d narrow final live en act stream out rc mb s1 o r v shown s2 t s3 s4 s5 n
  have hsa : sa = (b.opSrc g key' (gA gop), List.replicate numBlocks true, b.regroup g) := source_of_opReg key' hA
  clear_value sa
  subst hsa
  have hsb : sb = (if rb then b.opSrc g key' (gB gop) else {}, List.replicate numBlocks true, b.regroup g) := by
    cases rb
    · rfl
    · exact source_of_opReg key' hB
  clear_value sb
  subst hsb
  have ha : a = b.operandA g key' gop rb := by cases rb <;> rfl
  clear_value a
  subst ha
  have hact : act = b.opActs g key' gop := by
    unfold Block.opActs
    refine List.map_congr_left fun i hi => ?_
    have hblock : i / 32 < numBlocks := Nat.div_lt_of_lt_mul (List.mem_range.1 hi)
    have hen : en.getD (i / 32) false = b.workEnabled key' (b.ox.group g) (i / 32) := by
      simp only [en, live, getD_map_range hblock, getD_replicate_of_lt hblock, Bool.true_and, Bool.false_eq_true, if_false, Bool.false_or]
      rfl
    rw [hen]
  have hnarrow : narrow = none := by simp only [narrow, Bool.and_false, Bool.false_eq_true, if_false]
  clear_value act narrow
  subst hact hnarrow
  have hstream : stream = (b.opContext g key' vop (gSub gop)).stream := by
    simp only [stream, Block.opContext, Option.isSome_none, Bool.false_and, Bool.and_eq_true, Bool.not_eq_true', decide_eq_true_eq,
      Bool.false_eq_true, if_false, and_assoc]
    rfl
  have hrc : rc = ([], b.regroup g) := by
    simp only [rc, hstream, beq_eq_false_iff_ne.2 (stream_ne_one b g key' vop (gSub gop)), Bool.false_and]
    exact residualCheck_unused _ _ _ _
  have hout : out = b.outFormat g key' vop (gSub gop) := by
    have hop9 : (decide (vop = 0x13) && decide (cfg.op = 9)) = false := by
      rw [Bool.and_eq_false_imp]
      exact fun hv => decide_eq_false (hplain.1 (of_decide_eq_true hv))
    simp only [out, hop9, Option.isSome_none, Bool.and_false, Bool.and_eq_true, decide_eq_true_eq, Bool.false_eq_true, if_false]
    rfl
  clear_value stream rc out
  subst hrc hstream hout
  have hmb : mb = ([], true, b.regroup g) := mmaBasis_of_plain hplain.2
  clear_value mb
  subst hmb
  have hr : r = b.opResult g key' gop vop rb rd := rfl
  have hs2 : s2 = (b.laneCounts key' block r.2.2 (b.opActs g key' gop)).modOx (fun x => x.setGroup g (b.ox.group g)) :=
    counted_of_plain hA hB hplain _ _ _ _
  clear_value r s2
  subst hr hs2
  have hpoison : v.poison = (List.range numBlocks).filter (fun i =>
      [b.operandA g key' gop rb, b.operandB g key' gop rb, b.operandD g key' gop rb rd].any (fun r => r.poison.contains i)) :=
    List.filter_congr fun i _ => any_poison _ _ (b.operandD g key' gop rb rd) rd i (by rintro rfl; rfl)
  have hs4 : s4 = Block.modOx { b.laneCounts key' block (b.opResult g key' gop vop rb rd).2.2 (b.opActs g key' gop) with free := s3.free }
      (fun x => x.setGroup g { b.ox.group g with busyUntil := now + t.1, computing := true }) :=
    modGroup_setGroup { b.laneCounts key' block _ _ with free := s3.free } g _ (ne_empty_of_bound hbound)
  rw [if_neg Bool.false_ne_true, if_neg Bool.false_ne_true, hs4,
    modGroup_setGroup _ _ _ (ne_empty_of_bound (v := { b.ox.group g with busyUntil := now + t.1, computing := true }) hbound)]
  unfold Block.opGoes
  dsimp only [v] at hpoison ⊢
  rw [hpoison, hpend]
  dsimp only [s3]
  rw [laneCounts_eq]
  rfl

end goes

/-! ### One row of the table (R195) -/

theorem vrow_of_takes {b : Block} {g : BitVec 4} {gop : BitVec 24} {key vop : Nat} (h : b.opTakes g.toNat key gop.toNat vop) :
    b.vrow vop g gop = b.gop g.toNat gop.toNat := by
  obtain ⟨hreset, hheld, hfailed, hbusy, hfenced, rfl, -, -, -, hA, hB, -⟩ := h
  have hfree : b.gopHeld g.toNat gop.toNat = false := by
    have hfence : (!(b.ox.group g.toNat).computing && b.fencedWaits g.toNat) = false := by
      rw [← Bool.not_eq_true', Bool.not_and, Bool.not_not]
      exact hfenced
    simp [Block.gopHeld, hfailed, hbusy, hfence, not_port_of_opReg hA, not_port_of_opReg hB]
  unfold Block.vrow
  rw [if_neg (by simp [hreset, hheld, hfree])]

/-- NOP leaves the units as they are, whether its group is free or not. -/
theorem vrow_nop {b : Block} {g : BitVec 4} {gop : BitVec 24} (h : gVop gop.toNat = 0) : b.vrow 0x00 g gop = b := by
  have hgop : b.gop g.toNat gop.toNat = b := by
    unfold Block.gop
    dsimp only
    split
    · rfl
    · exact if_pos (.inl h)
  unfold Block.vrow
  rw [hgop, ite_self]

section rows
variable {b : Block} {g : BitVec 4} {gop : BitVec 24} {key vop form code : Nat} {lanes : List LaneRes} {time : Nat × Nat}

/-- Once the result and the time of an operation are known, so is what it leaves; one lemma for each number of operands follows. -/
theorem vrow_goes {rb rd : Bool} (h : b.opTakes g.toNat key gop.toNat vop) (hrd : opReads vop = (true, rb, rd)) (hplain : b.plainOp key vop)
    (hrun : b.opResult g.toNat key gop.toNat vop rb rd = (form, code, lanes)) (htime : b.opSpan g.toNat key gop.toNat vop rb rd = time) :
    b.vrow vop g gop = b.opGoes g.toNat key gop.toNat (if vop = 0x06 then 32 else gD gop.toNat) form code lanes time
      [b.operandA g.toNat key gop.toNat rb, b.operandB g.toNat key gop.toNat rb, b.operandD g.toNat key gop.toNat rb rd] := by
  rw [vrow_of_takes h, gop_of_takes h hrd hplain, hrun, htime]

theorem vrow_unary (h : b.opTakes g.toNat key gop.toNat vop) (hrd : opReads vop = (true, false, false)) (hplain : b.plainOp key vop)
    (hrun : b.opResult g.toNat key gop.toNat vop false false = (form, code, lanes)) (htime : b.opSpan g.toNat key gop.toNat vop false false = time) :
    b.vrow vop g gop = b.opGoes g.toNat key gop.toNat (if vop = 0x06 then 32 else gD gop.toNat) form code lanes time
      [b.operandA g.toNat key gop.toNat false] :=
  (vrow_goes h hrd hplain hrun htime).trans (opGoes_congr_read fun _ => rfl)

theorem vrow_binary (h : b.opTakes g.toNat key gop.toNat vop) (hrd : opReads vop = (true, true, false)) (hplain : b.plainOp key vop)
    (hrun : b.opResult g.toNat key gop.toNat vop true false = (form, code, lanes)) (htime : b.opSpan g.toNat key gop.toNat vop true false = time) :
    b.vrow vop g gop = b.opGoes g.toNat key gop.toNat (if vop = 0x06 then 32 else gD gop.toNat) form code lanes time
      [b.operandA g.toNat key gop.toNat true, b.operandB g.toNat key gop.toNat true] :=
  (vrow_goes h hrd hplain hrun htime).trans (opGoes_congr_read fun _ => rfl)

theorem vrow_ternary (h : b.opTakes g.toNat key gop.toNat vop) (hrd : opReads vop = (true, true, true)) (hplain : b.plainOp key vop)
    (hrun : b.opResult g.toNat key gop.toNat vop true true = (form, code, lanes)) (htime : b.opSpan g.toNat key gop.toNat vop true true = time) :
    b.vrow vop g gop = b.opGoes g.toNat key gop.toNat (if vop = 0x06 then 32 else gD gop.toNat) form code lanes time
      [b.operandA g.toNat key gop.toNat true, b.operandB g.toNat key gop.toNat true, b.operandD g.toNat key gop.toNat true true] :=
  vrow_goes h hrd hplain hrun htime

end rows

/-! ### Forms and times of arithmetic (R183, R196, R250) -/

/-- The form of floating results: FP64 where an operand is FP64, else FP32. -/
def floatForm (l : List VReg) : Nat := if l.any (fun v => v.form == 1) then 1 else 0

theorem floatForm_ne_two (l : List VReg) : floatForm l ≠ 2 := by
  unfold floatForm
  split <;> decide

theorem floatForm_singleton (v : VReg) : (if v.form == 1 then 1 else 0) = floatForm [v] := by
  simp [floatForm]

theorem arithForm_of_float {l : List VReg} (h : l.any VReg.isFloat = true) : arithForm l = floatForm l := by
  unfold arithForm floatForm
  rw [h]
  rfl

/-- A blank operand takes the form of the first one and so changes no result's form. -/
theorem arithForm_blank (x y : VReg) : arithForm [x, y, ({} : VReg).like x] = arithForm [x, y] := by
  have hany : ∀ p : VReg → Bool, p (({} : VReg).like x) = p x → [x, y, ({} : VReg).like x].any p = [x, y].any p := by
    intro p hp
    simp only [List.any_cons, List.any_nil, hp]
    cases p x <;> simp
  unfold arithForm
  rw [hany _ rfl, hany _ rfl]

theorem any_form_of_same {l : List VReg} {f : Nat} (hne : l ≠ []) (h : ∀ v ∈ l, v.form = f) (k : Nat) : l.any (fun v => v.form == k) = (f == k) := by
  obtain ⟨v, r, rfl⟩ := List.exists_cons_of_ne_nil hne
  rw [Bool.eq_iff_iff, List.any_eq_true]
  refine ⟨fun ⟨w, hw, hk⟩ => h w hw ▸ hk, fun hk => ⟨v, List.mem_cons_self, ?_⟩⟩
  rw [h v List.mem_cons_self]
  exact hk

theorem forms_of_pair {x y : VReg} {f : Nat} (hx : x.form = f) (hy : y.form = f) : ∀ v ∈ [x, y], v.form = f :=
  List.forall_mem_cons.2 ⟨hx, List.forall_mem_cons.2 ⟨hy, nofun⟩⟩

theorem forms_of_triple {x y z : VReg} {f : Nat} (hx : x.form = f) (hy : y.form = f) (hz : z.form = f) : ∀ v ∈ [x, y, z], v.form = f :=
  List.forall_mem_cons.2 ⟨hx, forms_of_pair hy hz⟩

theorem arithForm_of_integers {l : List VReg} (hne : l ≠ []) (h : ∀ v ∈ l, v.form = 2) : arithForm l = 2 := by
  have hfloat : l.any VReg.isFloat = false := by
    rw [List.any_eq_false]
    intro v hv
    simp [VReg.isFloat, h v hv]
  unfold arithForm
  rw [any_form_of_same hne h, hfloat]
  rfl

/-- The forms that hold numbers: FP32, FP64, integers and elements. -/
abbrev numberForm (f : Nat) : Prop := f = 0 ∨ f = 1 ∨ f = 2 ∨ f = 5

theorem numberForm_of_isFloat {v : VReg} (h : v.isFloat = true) : numberForm v.form ∧ v.form ≠ 2 := by
  simp only [VReg.isFloat, Bool.or_eq_true, beq_iff_eq] at h
  omega

theorem exactForm_of_same {l : List VReg} {f : Nat} (hne : l ≠ []) (h : ∀ v ∈ l, v.form = f) (hf : numberForm f) : exactForm l = f := by
  unfold exactForm
  simp only [any_form_of_same hne h]
  rcases hf with rfl | rfl | rfl | rfl <;> rfl

/-- MIN and MAX take the time of the form that their operands share. -/
theorem exactTime_of_same {l : List VReg} {f : Nat} (hne : l ≠ []) (h : ∀ v ∈ l, v.form = f) (hf : numberForm f) :
    timeOf (if l.any (fun v => v.form == 1) then 1 else if l.any (fun v => v.form == 0) then 0 else 5) = timeOf f := by
  simp only [any_form_of_same hne h]
  rcases hf with rfl | rfl | rfl | rfl <;> rfl

/-- MMA without a matrix of its own multiplies tile by tile (R197). -/
theorem run_mma_of_float {o : OpCtx} {x y z : VReg} {sub k : Nat} {act : List Bool} (hmacs : o.macs = none) (hx : x.form = 0) :
    o.run 0x18 sub k x y z act
      = (0, 1, ((List.range 6).map (fun t => (mmaTile x y z (64 * t) (sub == 1)).map (fun w => ({ w := w } : LaneRes)))).flatten) := by
  simp only [OpCtx.run, hmacs, hx]
  rfl

section arith
variable {form f : Nat} (code : Nat) (op : Val → Val → Val → Val) (opInt : Int → Int → Int → LaneRes) (x y z : VReg)

theorem arith_of_float (hform : form = f) (hf : f ≠ 2) :
    (form, code, arith form op opInt x y z) = (f, code, perLane (fun i => laneRes f (op (x.val i) (y.val i) (z.val i)))) := by
  subst hform
  unfold arith
  rw [if_neg hf]

theorem arith_of_integers (hform : form = 2) :
    (form, code, arith form op opInt x y z) = (2, code, perLane (fun i => opInt (x.at_ i).toInt (y.at_ i).toInt (z.at_ i).toInt)) := by
  subst hform
  rfl

theorem lanes_of_form (hform : form = f) (v : Nat → Val) :
    (form, code, perLane (fun i => laneRes form (v i))) = (f, code, perLane (fun i => laneRes f (v i))) := by
  rw [hform]

end arith

end Sys2Proof.Machine

namespace Sys2Proof
open Machine

/-- Settles O32: each row evaluated on its operands; their forms give the form of the result and the time it takes. -/
theorem vectorLanes : Obligations.VectorLanes := by
  unfold Obligations.VectorLanes
  intro b g gop key q gr src x y z w takes goes wide
  refine ⟨?nop, ?floats, ?exacts, ?cmp, ?integers, ?single, ?rsqrt, ?sign, ?and, ?or, ?xor, ?isum⟩
  case nop => exact fun h => acts (fun _ => rfl) (vrow_nop h)
  case floats =>
    intro hx _
    have hform : arithForm [x, y] = floatForm [x, y] := arithForm_of_float (List.any_eq_true.2 ⟨x, List.mem_cons_self, hx⟩)
    have htime : timeOf (arithForm [x, y, ({} : VReg).like x]) = timeOf (floatForm [x, y]) := congrArg timeOf ((arithForm_blank x y).trans hform)
    refine ⟨fun h => ?add, fun h => ?mul, fun h _ => ?fma⟩
    case add => exact acts (fun _ => rfl) (vrow_binary h rfl ⟨nofun, nofun⟩ (arith_of_float _ _ _ _ _ _ hform (floatForm_ne_two _)) htime)
    case mul => exact acts (fun _ => rfl) (vrow_binary h rfl ⟨nofun, nofun⟩ (arith_of_float _ _ _ _ _ _ hform (floatForm_ne_two _)) htime)
    case fma =>
      have hform3 : arithForm [x, y, z] = floatForm [x, y, z] := arithForm_of_float (List.any_eq_true.2 ⟨x, List.mem_cons_self, hx⟩)
      exact acts (fun _ => rfl) (vrow_ternary h rfl ⟨nofun, nofun⟩ (arith_of_float _ _ _ _ _ _ hform3 (floatForm_ne_two _)) (congrArg timeOf hform3))
  case exacts =>
    intro hx hy
    obtain ⟨hnumber, hne⟩ := numberForm_of_isFloat hx
    have hform : exactForm [x, y] = x.form := exactForm_of_same nofun (forms_of_pair rfl hy) hnumber
    have htime := exactTime_of_same (l := [x, y, ({} : VReg).like x]) nofun (forms_of_triple rfl hy rfl) hnumber
    refine ⟨fun h => ?min, fun h => ?max, fun h hz => ?clamp⟩
    case min => exact acts (fun _ => rfl) (vrow_binary h rfl ⟨nofun, nofun⟩ (arith_of_float _ _ _ _ _ _ hform hne) htime)
    case max => exact acts (fun _ => rfl) (vrow_binary h rfl ⟨nofun, nofun⟩ (arith_of_float _ _ _ _ _ _ hform hne) htime)
    case clamp =>
      have hform3 : exactForm [x, y, z] = x.form := exactForm_of_same nofun (forms_of_triple rfl hy hz) hnumber
      exact acts (fun _ => rfl) (vrow_ternary h rfl ⟨nofun, nofun⟩ (arith_of_float _ _ _ _ _ _ hform3 hne) rfl)
  case cmp => exact fun h => acts (fun _ => rfl) (vrow_binary h rfl ⟨nofun, nofun⟩ rfl rfl)
  case integers =>
    intro hx hy n
    have hxy : ∀ v ∈ [x, y], v.form = 2 := forms_of_pair hx hy
    have hblank : ∀ v ∈ [x, y, ({} : VReg).like x], v.form = 2 := forms_of_triple hx hy hx
    have hform : arithForm [x, y] = 2 := arithForm_of_integers nofun hxy
    have htime : timeOf (arithForm [x, y, ({} : VReg).like x]) = (1, 4) := congrArg timeOf (arithForm_of_integers (List.cons_ne_nil _ _) hblank)
    have hexact : exactForm [x, y] = 2 := exactForm_of_same nofun hxy (by decide)
    have hexactTime := exactTime_of_same (List.cons_ne_nil _ _) hblank (by decide)
    refine ⟨fun h => ?add, fun h => ?mul, fun h hz => ?fma, fun h => ?min, fun h => ?max, fun h hz => ?clamp⟩
    case add => exact acts (fun _ => rfl) (vrow_binary h rfl ⟨nofun, nofun⟩ (arith_of_integers _ _ _ _ _ _ hform) htime)
    case mul => exact acts (fun _ => rfl) (vrow_binary h rfl ⟨nofun, nofun⟩ (arith_of_integers _ _ _ _ _ _ hform) htime)
    case fma =>
      have hform3 : arithForm [x, y, z] = 2 := arithForm_of_integers nofun (forms_of_triple hx hy hz)
      exact acts (fun _ => rfl) (vrow_ternary h rfl ⟨nofun, nofun⟩ (arith_of_integers _ _ _ _ _ _ hform3) (congrArg timeOf hform3))
    case min => exact acts (fun _ => rfl) (vrow_binary h rfl ⟨nofun, nofun⟩ (arith_of_integers _ _ _ _ _ _ hexact) hexactTime)
    case max => exact acts (fun _ => rfl) (vrow_binary h rfl ⟨nofun, nofun⟩ (arith_of_integers _ _ _ _ _ _ hexact) hexactTime)
    case clamp =>
      have hexact3 : exactForm [x, y, z] = 2 := exactForm_of_same nofun (forms_of_triple hx hy hz) (by decide)
      exact acts (fun _ => rfl) (vrow_ternary h rfl ⟨nofun, nofun⟩ (arith_of_integers _ _ _ _ _ _ hexact3) rfl)
  case single =>
    intro hw f
    have hform : arithForm [w] = floatForm [w] := arithForm_of_float (List.any_eq_true.2 ⟨w, List.mem_cons_self, hw⟩)
    refine ⟨fun h hsub => ?cvt, fun h => ?scale⟩
    case cvt => exact acts (fun _ => rfl) (vrow_unary h rfl ⟨nofun, nofun⟩ (opResult_of_sub hsub) (opSpan_of_sub hsub))
    case scale => exact acts (fun _ => rfl) (vrow_unary h rfl ⟨nofun, nofun⟩ (lanes_of_form _ hform _) rfl)
  case rsqrt => exact fun h => acts (fun _ => rfl) (vrow_unary h rfl ⟨nofun, nofun⟩ rfl rfl)
  case sign => exact fun h => acts (fun _ => rfl) (vrow_unary h rfl ⟨nofun, nofun⟩ (lanes_of_form _ (floatForm_singleton w) _) rfl)
  case and => exact fun h hsub => acts (fun _ => rfl) ((if_pos hsub).trans (vrow_binary h rfl ⟨nofun, nofun⟩ (opResult_of_sub hsub) rfl))
  case or => exact fun h hsub => acts (fun _ => rfl) ((if_pos hsub).trans (vrow_binary h rfl ⟨nofun, nofun⟩ (opResult_of_sub hsub) rfl))
  case xor => exact fun h hsub => acts (fun _ => rfl) ((if_pos hsub).trans (vrow_binary h rfl ⟨nofun, nofun⟩ (opResult_of_sub hsub) rfl))
  case isum => exact fun h => acts (fun _ => rfl) (vrow_binary h rfl ⟨nofun, nofun⟩ rfl rfl)

/-- Settles O33: each row evaluated on its operands; CVT takes its random stream from the collective, and MMA has no matrix of its own. -/
theorem vectorBlocks : Obligations.VectorBlocks := by
  unfold Obligations.VectorBlocks
  intro b g gop key q gr cfg src x y z w takes goes p blocks bits
  refine ⟨?expmax, ?axcvt, ?axadd, ?axout, ?toOutput, ?toLane, ?toArea, ?mma⟩
  case expmax => exact fun h => acts (fun _ => rfl) (vrow_binary h rfl ⟨nofun, nofun⟩ rfl rfl)
  case axcvt =>
    have hlane : ∀ i, (y.at_ (i / 32 * 32)).toNat % 256 = p y (i / 32) := fun i => by rw [Nat.mul_comm]
    have hres := fun i => congrArg (fun k => (if x.fromHall then axBack else axOf) k (grpN cfg.grp) (x.val i)) (hlane i)
    exact fun h => acts (fun _ => rfl) (vrow_binary h rfl ⟨nofun, nofun⟩ (congrArg (fun f => (3, 0, perLane f)) (funext hres)) rfl)
  case axadd => exact fun h => acts (fun _ => rfl) (vrow_binary h rfl ⟨nofun, nofun⟩ rfl rfl)
  case axout => exact fun h hop => acts (fun _ => rfl) (vrow_binary h rfl ⟨fun _ => hop, nofun⟩ rfl rfl)
  case toOutput =>
    intro h hsub
    have hstream := congrArg (fun stream => (formOf cfg.outFmt cfg.outScaled, cfg.outFmt, blocks (fun k =>
      convertLanes cfg.outFmt cfg.outScaled cfg.rnd (bits stream k) (w.block k)))) (stream_of_cvt b g.toNat key 1)
    exact acts (fun _ => rfl) (vrow_unary h rfl ⟨nofun, nofun⟩ ((opResult_of_sub hsub).trans hstream) (opSpan_of_sub hsub))
  case toLane => exact fun h hsub => acts (fun _ => rfl) (vrow_unary h rfl ⟨nofun, nofun⟩ (opResult_of_sub hsub) (opSpan_of_sub hsub))
  case toArea => exact fun h hsub => acts (fun _ => rfl) (vrow_unary h rfl ⟨nofun, nofun⟩ (opResult_of_sub hsub) (opSpan_of_sub hsub))
  case mma =>
    intro h hop hx
    exact acts (fun _ => rfl) (vrow_ternary h rfl ⟨nofun, fun _ => hop⟩ (run_mma_of_float (macs_of_plain hop) hx) rfl)

end Sys2Proof
end

section
/-!
PROOFS. Checks of a block, its recomputation on a spare tile, and fences (09, R193 to R205): what BLOCK_RELEASE, RECOMPUTE_DONE and FENCE_MASK find, and the strike, the loan and the rewind that follow.
-/
namespace Sys2Proof.Machine

/-! ### Fences (R204) -/

theorem moveTiles_of_no_fencing {b : Block} (h : b.ox.fencing = []) : b.moveTiles = b := by
  unfold Block.moveTiles
  rw [h]
  rfl

/-- A spare serves no logical tile, so its fence moves none. -/
theorem fenceTile_of_spare {b : Block} {p : Nat} (hp : p < 104) (hspare : b.sw.tileState p = 1) (hfencing : b.ox.fencing = []) :
    b.fenceTile p = { b with sw := (b.sw.setTile p 3 0x7F).log 0x4002 .corrected p (packArg [(7, p), (7, b.sw.tileLogical p)]) } := by
  have hfence : (decide (104 ≤ p) || b.sw.tileState p == 3) = false := by simp [hp, hspare]
  have hserving : (b.sw.tileState p == 0) = false := by simp [hspare]
  simp only [Block.fenceTile, hfence, hserving, Bool.false_eq_true, if_false]
  exact moveTiles_of_no_fencing hfencing

theorem fenceMask_acts {b : Block} {mask : BitVec 104} (hreset : b.sw.inReset = false) :
    Acts (.fenceMask mask) b (((List.range 104).filter (fun p => bitAt mask.toNat p)).foldl (fun (u : Block) p => u.fenceTile p) b) :=
  acts (fun _ => rfl) (if_neg (Bool.eq_false_iff.1 hreset))

theorem fenceMask_acts_of_spare {b : Block} {mask : BitVec 104} {p : Nat} (hreset : b.sw.inReset = false)
    (hmask : (List.range 104).filter (fun p => bitAt mask.toNat p) = [p]) (hspare : b.sw.tileState p = 1) (hfencing : b.ox.fencing = []) :
    Acts (.fenceMask mask) b { b with sw := (b.sw.setTile p 3 0x7F).log 0x4002 .corrected p (packArg [(7, p), (7, b.sw.tileLogical p)]) } := by
  have hp : p < 104 := List.mem_range.1 (List.mem_filter.1 (hmask ▸ List.mem_singleton_self p)).1
  refine acts_congr (fenceMask_acts hreset) ?_
  rw [hmask]
  exact fenceTile_of_spare hp hspare hfencing

/-! ### Strikes and loans (R202 to R204) -/

/-- The first strike against a tile is counted and its time kept. -/
theorem strike_first {b : Block} {p : Nat} (h : SMap.get [] b.ox.strikes p = []) : b.strike p = { b with
    sw := b.sw.count (ob 0x6004 0) 0 64 1
    ox := { b.ox with strikes := SMap.set [] b.ox.strikes p [b.sw.stroke] } } := by
  simp only [Block.strike, h]
  rfl

theorem returnTile_of_not_borrowed {b : Block} {r : Recomp} (h : r.borrowed = false) : b.returnTile r = b := by
  simp only [Block.returnTile, h, Bool.false_and, Bool.false_eq_true, if_false]

theorem lendTile_of_spare {b : Block} {p : Nat} (r : Recomp) (h : b.sw.lowestSpare = some p) : b.lendTile r = { b with
    sw := b.sw.setTile p 2 0x7F
    ox := { b.ox with recomps := b.ox.recomps ++ [{ r with tile := p, borrowed := true }] } } := by
  simp only [Block.lendTile, h]
  rfl

/-- The only recomputation takes the lowest spare, and its group's reader goes back to the mark. -/
theorem recompute_alone {b : Block} {g key block l p fails sp : Nat} (hnone : b.ox.recomps = []) (hspare : b.sw.lowestSpare = some sp) :
    b.recompute g key block l p fails = { b with
      sw := b.sw.setTile sp 2 0x7F
      ox := { b.ox with
        recomps := [{ g := g, ctx := key, block := block, logical := l, failedTile := p, tile := sp, borrowed := true, fails := fails, at_ := b.sw.stroke }]
        groups := SMap.set {} b.ox.groups g { b.ox.group g with replayTo := max (b.ox.group g).replayTo (b.ox.inst (0xA0 + g)).rp }
        insts := SMap.set {} b.ox.insts (0xA0 + g) { b.ox.inst (0xA0 + g) with rp := (b.ox.inst (0xA0 + g)).mp } } } := by
  have hone : ∀ r, insertRecomp r [] = [r] := fun _ => rfl
  simp only [Block.recompute, hnone, List.filter_nil, List.foldl_nil, hone, List.foldl_cons]
  rw [lendTile_of_spare (b := b.modOx _) _ hspare]
  simp only [Block.modOx, hnone, List.filter_nil, List.nil_append]
  rfl

/-! ### BLOCK_RELEASE (R201, R202) -/

section blockRelease
variable {b : Block} {g : BitVec 4} {ctx : BitVec 12} {block : BitVec 32} {pos : BitVec 3} {key : Nat} (hreset : b.sw.inReset = false)
  (hkey : b.blockKey g.toNat ctx.toNat block.toNat = some key)
  (hidle : b.ox.recomps.any (fun r => r.g == g.toNat && r.ctx == key && r.block == block.toNat) = false)
include hreset hkey hidle

theorem blockRelease_acts_of_good (hmem : (b.ox.group g.toNat).badMem.contains (key, block.toNat) = false) :
    Acts (.blockRelease g ctx block false pos false) b ((b.releaseBlock g.toNat key block.toNat false).closePump key).moveTiles := by
  refine acts (fun _ => rfl) ?_
  simp only [hreset, hkey, hidle, hmem, Bool.false_and, Bool.false_eq_true, if_false]
  rfl

/-- A block whose tile memory was struck is recomputed without a strike (R363). -/
theorem blockRelease_acts_of_badMem (hmem : (b.ox.group g.toNat).badMem.contains (key, block.toNat) = true) :
    let l := 6 * b.ox.carrier g.toNat + pos.toNat % 6
    Acts (.blockRelease g ctx block false pos false) b
      ((b.modGroup g.toNat (fun q => { q with badMem := q.badMem.filter (fun m => m != (key, block.toNat)) })).recompute g.toNat key block.toNat l (b.sw.physical l) 0) := by
  refine acts (fun _ => rfl) ?_
  simp only [hreset, hkey, hidle, hmem, Bool.false_and, Bool.false_eq_true, if_false, if_true]

theorem blockRelease_acts_of_bad :
    let l := 6 * b.ox.carrier g.toNat + pos.toNat % 6
    Acts (.blockRelease g ctx block true pos false) b ((b.strike (b.sw.physical l)).recompute g.toNat key block.toNat l (b.sw.physical l) 0) := by
  refine acts (fun _ => rfl) ?_
  simp only [hreset, hkey, hidle, detects_of_noInjection, Bool.and_self, Bool.false_eq_true, if_false, if_true]

/-- The first strike of a tile, with nothing recomputed meanwhile. -/
theorem blockRelease_acts_of_first_strike {sp : Nat} (hstrikes : SMap.get [] b.ox.strikes (b.sw.physical (6 * b.ox.carrier g.toNat + pos.toNat % 6)) = [])
    (hnone : b.ox.recomps = []) (hspare : (b.sw.count (ob 0x6004 0) 0 64 1).lowestSpare = some sp) :
    let l := 6 * b.ox.carrier g.toNat + pos.toNat % 6
    let p := b.sw.physical l
    let gr := b.ox.group g.toNat
    let ii := 0xA0 + g.toNat
    Acts (.blockRelease g ctx block true pos false) b { b with
      sw := (b.sw.count (ob 0x6004 0) 0 64 1).setTile sp 2 0x7F
      ox := { b.ox with
        strikes := SMap.set [] b.ox.strikes p [b.sw.stroke]
        recomps := [{ g := g.toNat, ctx := key, block := block.toNat, logical := l, failedTile := p, tile := sp, borrowed := true, fails := 0, at_ := b.sw.stroke }]
        groups := SMap.set {} b.ox.groups g.toNat { gr with replayTo := max gr.replayTo (b.ox.inst ii).rp }
        insts := SMap.set {} b.ox.insts ii { b.ox.inst ii with rp := (b.ox.inst ii).mp } } } := by
  refine acts_congr (blockRelease_acts_of_bad hreset hkey hidle) ?_
  rw [strike_first hstrikes]
  exact recompute_alone hnone hspare

end blockRelease

/-! ### RECOMPUTE_DONE (R202, R203) -/

/-- The units with no recomputation under way. -/
def Block.noRecomps (b : Block) : Block := b.modOx (fun x => { x with recomps := [] })

/-- What the check of a recomputed block leads to, once its recomputation `r` is under way no more: release, release with poison after three failures, or another try. -/
def Block.recomputeChecked (b : Block) (r : Recomp) : Bool → Block
  | false => (((b.modSw (fun c => (c.count (ob 0x6004 1) 0 64 1).logLimited 0x4001 .corrected r.failedTile r.failedTile
      (packArg [(7, r.failedTile), (7, r.logical), (12, r.ctx % 4096), (32, r.block)]))).releaseBlock r.g r.ctx r.block false).closePump r.ctx).moveTiles
  | true =>
    if 2 ≤ r.fails then
      ((((b.strike r.tile).modSw (fun c => (c.count (ob 0x6004 2) 0 32 1).log 0x4003 .uncorrected 0xFF (packArg [(12, r.ctx % 4096), (32, r.block)]))).releaseBlock
        r.g r.ctx r.block true).closePump r.ctx).moveTiles
    else (b.strike r.tile).recompute r.g r.ctx r.block r.logical r.tile (r.fails + 1)

/-- The only recomputation, on the tile that failed, is the one that the command names. -/
theorem recomputeDone_acts {b : Block} {r : Recomp} {g : BitVec 4} {ctx : BitVec 12} {block : BitVec 32} (bad : Bool) (hreset : b.sw.inReset = false)
    (hreplayed : b.replayed? g.toNat = true) (hrecomps : b.ox.recomps = [r]) (hg : r.g = g.toNat) (hctx : r.ctx % 4096 = ctx.toNat)
    (hblock : r.block = block.toNat) (hborrowed : r.borrowed = false) :
    Acts (.recomputeDone g ctx block bad) b (b.noRecomps.recomputeChecked r bad) := by
  have hsame : (r.g == g.toNat && r.ctx % 4096 == ctx.toNat && r.block == block.toNat) = true := by simp [hg, hctx, hblock]
  refine acts (fun _ => rfl) ?_
  simp only [hreset, hreplayed, hrecomps, hsame, List.find?_cons, eraseFirst, Block.modOx, returnTile_of_not_borrowed hborrowed, Bool.not_true, Bool.or_self,
    Bool.false_eq_true, if_false, if_true]
  cases bad <;> rfl

end Sys2Proof.Machine

namespace Sys2Proof
open Machine

/-- Settles O35: each outcome of a block's checks, of its recomputation and of a fence is what its command does. -/
theorem blocksAndTiles : Obligations.BlocksAndTiles := by
  unfold Obligations.BlocksAndTiles
  intro b hreset
  refine ⟨?release, ?done, ?fences, ?spare⟩
  case release =>
    intro g ctx block pos key hkey hidle
    exact ⟨blockRelease_acts_of_good hreset hkey hidle, blockRelease_acts_of_badMem hreset hkey hidle, blockRelease_acts_of_bad hreset hkey hidle,
      fun _ => blockRelease_acts_of_first_strike hreset hkey hidle⟩
  case done =>
    intro r g ctx block hreplayed hrecomps hg hctx hblock hborrowed
    have hacts := fun bad => recomputeDone_acts bad hreset hreplayed hrecomps hg hctx hblock hborrowed
    exact ⟨hacts false, fun hfails => acts_congr (hacts true) (if_pos hfails), fun hfails => acts_congr (hacts true) (if_neg (Nat.not_le.2 hfails))⟩
  case fences => exact fun _ => fenceMask_acts hreset
  case spare => exact fun _ _ => fenceMask_acts_of_spare hreset

end Sys2Proof
end

section
/-!
PROOFS. The stroke engine (10, R242; 11, R246, R254 to R258): how it takes a launch and starts it, the pattern it presents, and one CCLK of a bundle that waits or that does nothing but wait.
-/
namespace Sys2Proof.Machine

/-! ### Taking and starting a launch (R242, R256) -/

/-- While HALL_SYNCED is set and no launch was held back for it, none changes its place. -/
theorem hallSort_of_synced {b : Block} (hsynced : b.sw.bit (ob 0xC000 2) 2 = true) (hheld : b.ox.hallHeld = []) : b.hallSort = b := by
  simp only [Block.hallSort, hsynced, hheld, List.isEmpty_nil, Bool.not_true, Bool.false_eq_true, if_false, if_true]

theorem Engine.inner_of_idle {e : Engine} (h : e.state = engIdle) : e.inner = engIdle :=
  (if_neg (by rw [h]; decide)).trans h

/-- An IDLE engine takes the head of the ready queue. -/
theorem engineKick_takes {b : Block} {k : Nat} {r : List Nat} {l : SLaunch} (hidle : b.ox.eng.state = engIdle) (hready : b.ox.ready = k :: r)
    (hopen : b.engineOpen = true) (hl : b.slaunch? k = some l) :
    b.engineKick = { b with ox := { b.ox with
      ready := r
      eng := { b.ox.eng with ctx := k, state := engDispatch, dispatchAt := some (max (l.readyAt.getD b.sw.stroke) b.sw.stroke + 4) } } } := by
  simp only [Block.engineKick, hready, Engine.inner_of_idle hidle, hopen, hl, decide_true, Bool.and_self, if_true, Block.modEng, Block.modOx, Engine.to, hidle]
  rfl

section dispatch
variable {b : Block} (hreset : b.sw.inReset = false)
include hreset

/-- DISPATCH of an engine that has taken no launch lets it take one. -/
theorem dispatch_acts_of_idle (hidle : b.hallSort.ox.eng.state = engIdle) : Acts .dispatch b b.hallSort.engineKick := by
  refine acts (fun _ => rfl) ?_
  simp only [hreset, hallSort_reset, hidle, Bool.false_eq_true, if_false]
  rfl

/-- At its time the launch that the engine has taken starts at its ENTRY bundle. -/
theorem dispatch_acts_of_taken {l : SLaunch} {d : Nat} (hstate : b.hallSort.ox.eng.state = engDispatch)
    (hl : b.hallSort.slaunch? b.hallSort.ox.eng.ctx = some l) (hd : b.hallSort.ox.eng.dispatchAt = some d) (htime : d ≤ b.hallSort.sw.stroke)
    (hopen : b.hallSort.engineOpen = true) : let u := b.hallSort
    Acts .dispatch b { u with ox := { u.ox with
      launches := replaceFirst (fun m => m.key == l.key) (fun m => { m with dispatched := true }) u.ox.launches
      eng := { state := engRun, pc := l.entry.entry, ctx := u.ox.eng.ctx, running := true, image := l.image, base := u.sw.stroke, before := u.ox.eng.before } } } := by
  refine acts (fun _ => rfl) ?_
  simp only [hreset, hallSort_reset, hstate, hl, hd, htime, hopen, and_self, Bool.false_eq_true, if_false, if_true]
  rfl

end dispatch

/-! ### One CCLK of a bundle (R248, R257) -/

/-- A fold of which no step changes anything. -/
theorem foldl_of_fixed {α β : Type} (l : List α) (x : β) : l.foldl (fun y _ => y) x = x := by
  induction l with
  | nil => rfl
  | cons _ _ ih => exact ih

/-- A bundle that does nothing but wait: none of its other fields acts, and it is not repeated. -/
structure OnlyWaits (B : Nat) : Prop where
  gctl : bGctl B = false
  steer : bSteer B = false
  ann : bAnnEn B = false
  align : bAlign B = false
  gops : ∀ g, gVop (bGop B g) = 0
  repeats : bRepeat B = 0
  sen : bSen B = false
  ckpt : bCkpt B = false
  lop : bLop B = 0

section bundle
variable {b : Block} {B : Nat} (h : OnlyWaits B)
include h

theorem firstFields_of_onlyWaits : b.firstFields B = b.modEng (fun e => { e with acted := true }) := by
  simp only [Block.firstFields, h.gctl, h.steer, h.ann, h.align, Bool.false_eq_true, if_false]

/-- No group has an operation left to do, -/
theorem gopsDone_of_onlyWaits : b.gopsDone B = true := by
  simp [Block.gopsDone, h.gops]

/-- and none acts. -/
theorem bundleGops_of_onlyWaits : b.bundleGops B = b := by
  simp only [Block.bundleGops, h.gops, beq_self_eq_true, Bool.true_or, if_true]
  exact foldl_of_fixed _ b

/-- The only repetition is the last, and the next bundle is presented. -/
theorem bundleStep_of_onlyWaits : b.bundleStep B = (b.modEng (fun e => { e with executed := e.executed + 1 })).goto b.nextPc := by
  have hend : b.bundleEnd B = (b.modEng (fun e => { e with executed := e.executed + 1 })).goto b.nextPc := by
    simp only [Block.bundleEnd, h.sen, h.ckpt, h.lop, Bool.false_and, Bool.false_eq_true, if_false]
    rfl
  simp only [Block.bundleStep, gopsDone_of_onlyWaits h, bundleGops_of_onlyWaits h, h.repeats, Nat.not_lt_zero, Bool.not_true, Bool.and_false, Bool.false_eq_true,
    if_false, hend]

end bundle

section wait
variable {b : Block}

/-- The engine presents a bundle that has not acted in this CCLK. -/
theorem presents_of_running (hreset : b.sw.inReset = false) (hrun : b.ox.eng.running = true) (hstate : b.ox.eng.state = engRun ∨ b.ox.eng.state = engWait)
    (hlast : b.ox.eng.lastAct ≠ some b.sw.stroke) (hsweep : b.ox.sweepFailed = false) : b.presents = true := by
  simp [Block.presents, hreset, hrun, hstate, hlast, hsweep]

theorem wait_acts (h : b.presents = true) : Acts .wait b (b.modEng (fun e => { e with lastAct := some b.sw.stroke })).runBundle :=
  acts (fun _ => rfl) (if_pos h)

/-- Until its wait holds a bundle only puts the engine into WAIT. -/
theorem runBundle_of_waiting (hpassed : b.ox.eng.passed = false) (hwait : b.waitHolds = false) : b.runBundle = b.modEng (fun e => { e with state := engWait }) := by
  simp only [Block.runBundle, hpassed, hwait, Bool.not_false, Bool.or_true, Bool.and_self, if_true]

/-- Once its wait holds, in an engine that has not crabbed, its fields act. -/
theorem runBundle_of_passing (hcrab : b.ox.hold.crabbed = false) (hacted : b.ox.eng.acted = false) (hwait : b.waitHolds = true) :
    b.runBundle = ((b.modEng (fun e => { e with state := engRun, passed := true })).firstFields b.presented).bundleStep b.presented := by
  simp only [Block.runBundle, hcrab, hwait, Bool.not_true, Bool.or_self, Bool.and_false, Bool.false_eq_true, if_false]
  simp only [Block.modEng, Block.modOx, hacted, Bool.false_eq_true, if_false]

/-- A bundle that does nothing but wait is executed, and the next one is presented. -/
theorem runBundle_of_onlyWaits (hcrab : b.ox.hold.crabbed = false) (hacted : b.ox.eng.acted = false) (hwait : b.waitHolds = true) (h : OnlyWaits b.presented) :
    b.runBundle = b.modEng (fun e => { e with
      state := engRun, executed := e.executed + 1, pc := (e.pc + 1) % 65536, rep := 0, passed := false, acted := false, half := false, gdone := [] }) := by
  rw [runBundle_of_passing hcrab hacted hwait, firstFields_of_onlyWaits h, bundleStep_of_onlyWaits h]
  simp only [Block.goto, Block.nextPc, Block.modEng, Block.modOx, Nat.mod_mod]

end wait

end Sys2Proof.Machine

namespace Sys2Proof
open Machine

/-- Settles O38: each command of the engine does what its state, its ready queue and the presented bundle call for. -/
theorem engineBundles : Obligations.EngineBundles := by
  unfold Obligations.EngineBundles
  refine fun b => ⟨⟨fun l d hreset hstate hl hd htime hopen => ?starts, fun k r l hreset hidle hready hopen hl => ?takes, hallSort_of_synced⟩,
    fun hreset heven => ?pattern, fun hreset hrun hstate hlast hsweep hpassed => ?bundle⟩
  case starts => exact dispatch_acts_of_taken hreset hstate hl hd htime hopen
  case takes => exact acts_congr (dispatch_acts_of_idle hreset hidle) (engineKick_takes hidle hready hopen hl)
  case pattern => exact acts (fun _ => rfl) (if_neg (by simp [hreset, heven]))
  case bundle =>
    have hacts := wait_acts (presents_of_running hreset hrun hstate hlast hsweep)
    refine ⟨fun hwait => acts_congr hacts (runBundle_of_waiting hpassed hwait),
      fun hwait hcrab hacted hgctl hsteer hann halign hgops _ hrepeat hsen hckpt hlop => acts_congr hacts ?_⟩
    exact runBundle_of_onlyWaits hcrab hacted hwait ⟨hgctl, hsteer, hann, halign, hgops, hrepeat, hsen, hckpt, hlop⟩

end Sys2Proof
end

section
/-!
PROOFS. The switch's side of a collective (10, R236, R237, R240, R241; 11, R251, R256, R266; 14, R337): how a chunk is answered or staged, what CHUNK_LAND does with the one at the front, and timeouts, mirrored records and replayed landings.
-/
namespace Sys2Proof.Machine

/-! ### CONTRIB and PREPASS (R237, R240, R241) -/

/-- The units once a chunk has left the receive buffer of its port. -/
def Block.chunkTaken (b : Block) (port : Nat) (p : Packet) : Block := b.modSw (fun c => c.rxDrop (unitRx port) p)

/-- The units once a chunk of a member stands in the staging queue `ii` of its port: the member has joined, and the last chunk of its stream is noted. -/
def Block.chunkStaged (b : Block) (ii port key m : Nat) (bk pre : Bool) (p : Packet) : Block :=
  let j := (b.chunkTaken port p).joinChunk key m bk pre p
  (if cLast p then j.lastChunk key m bk pre else j).instWrite ii p b.sw.stroke port

theorem stageChunk_of_room {b : Block} {key port m : Nat} {bk pre : Bool} {p : Packet} (h : b.instRoom (0xA0 + (port - xpQueue)) p = true) :
    b.stageChunk key port m bk pre p = b.chunkStaged (0xA0 + (port - xpQueue)) port key m bk pre p := by
  simp only [Block.stageChunk, h, Bool.not_true, Bool.false_eq_true, if_false]
  rfl

theorem stageChunk_of_full {b : Block} {key port m : Nat} {bk pre : Bool} {p : Packet} (h : b.instRoom (0xA0 + (port - xpQueue)) p = false) :
    b.stageChunk key port m bk pre p = b.fullWait (0xA0 + (port - xpQueue)) := by
  simp only [Block.stageChunk, h, Bool.not_false, if_true]

theorem collHere_of_own {b : Block} {p : Packet} (hsw : pDstSw p = true) (hdst : pDst p = b.swId) : b.collHere p = true := by
  simp [Block.collHere, hsw, hdst]

/-- Both commands bring the switch a chunk, of a stream of its own each. -/
theorem chunk_acts {b : Block} {p : Packet} {f : Bool → Block} (hreset : b.sw.inReset = false) (hsw : pDstSw p = true) (hdst : pDst p = b.swId)
    (h : ∀ pre, b.collArrive pre p = f pre) :
    (pOpc p = 0x20 → Acts (.contrib p) b (f false)) ∧ (pOpc p = 0x21 → Acts (.prepass p) b (f true)) := by
  have hhere := collHere_of_own hsw hdst
  exact ⟨fun ho => acts (fun _ => rfl) ((if_neg (by simp [hreset, ho, hhere])).trans (h false)),
    fun ho => acts (fun _ => rfl) ((if_neg (by simp [hreset, ho, hhere])).trans (h true))⟩

section collArrive
variable {b : Block} {p : Packet} {pre : Bool} (hdst : pDst p = b.swId) (hfence : b.sw.isFenced = false)
include hdst hfence

theorem collArrive_of_no_entry (he : b.entryFor false (cCtx p) = none) :
    b.collArrive pre p = (b.chunkTaken (b.consumer false p) p).noProgram (cCtx p) p 0x0C := by
  simp only [Block.collArrive, hdst, bne_self_eq_false, hfence, he, b2n, Bool.false_eq_true, if_false]
  rfl

theorem collArrive_of_disabled {e : Entry} (he : b.entryFor false (cCtx p) = some e) (hl : b.slaunch? (cCtx p) = none)
    (hen : (b.sw.cfg (cCtx p)).en = false) : b.collArrive pre p = (b.chunkTaken (b.consumer false p) p).noProgram (cCtx p) p 0x06 := by
  simp only [Block.collArrive, hdst, bne_self_eq_false, hfence, he, b2n, Bool.false_eq_true, if_false, Nat.mul_zero, Nat.add_zero, hl, hen, Bool.not_false, if_true]
  rfl

/-- A chunk of a member of the launch under way is staged for it, -/
theorem collArrive_of_current {e : Entry} {l : SLaunch} {m : Nat} {bk : Bool} (he : b.entryFor false (cCtx p) = some e) (hl : b.slaunch? (cCtx p) = some l)
    (hen : l.cfg.en = true) (hm : b.chunkMember l.cfg p = some (m, bk)) (hseq : cLseq p = l.launch % 16) :
    b.collArrive pre p = b.stageChunk (cCtx p) (b.consumer false p) m bk pre p := by
  simp only [Block.collArrive, hdst, bne_self_eq_false, hfence, he, b2n, Bool.false_eq_true, if_false, Nat.mul_zero, Nat.add_zero, hl, hen, Bool.not_true,
    Bool.false_and, hm, hseq, beq_self_eq_true, if_true]

/-- and one of the next launch begins it. -/
theorem collArrive_of_next {e : Entry} {m : Nat} {bk : Bool} (he : b.entryFor false (cCtx p) = some e) (hl : b.slaunch? (cCtx p) = none)
    (hen : (b.sw.cfg (cCtx p)).en = true) (hm : b.chunkMember (b.sw.cfg (cCtx p)) p = some (m, bk)) (hseq : cLseq p = b.launchCount (cCtx p) % 16) :
    b.collArrive pre p = (b.newLaunch (cCtx p) e).stageChunk (cCtx p) (b.consumer false p) m bk pre p := by
  simp only [Block.collArrive, hdst, bne_self_eq_false, hfence, he, b2n, Bool.false_eq_true, if_false, Nat.mul_zero, Nat.add_zero, hl, hen, Bool.not_true,
    Bool.false_and, hm, hseq, beq_self_eq_true, if_true]

end collArrive

/-! ### CHUNK_LAND (R236, R251, R337) -/

/-- The units with the mark of a staging queue at its reader, where no landed block still needs an earlier word. -/
def Block.markedFront (b : Block) (ii : Nat) : Block := if (b.ox.inst ii).fp = (b.ox.inst ii).rp then b.instMarkHere ii else b

theorem markedFront_eq (b : Block) (ii : Nat) : (if (b.ox.inst ii).fp = (b.ox.inst ii).rp then b.instMarkHere ii else b) = b.markedFront ii := rfl

/-- What the reader of a group does with the chunk at its front: one of an undecided repechage slot waits at the tail, as does one without free slots, the copy of a member that lost goes, and the others land, now or at the time that a replay names. -/
def Block.readChunk (u : Block) (g : Nat) (it : QItem) (c : Chunk) : Block :=
  if u.inSlot c && (u.winner c).isNone then u.writeBack (0xA0 + g) it false
  else if u.inSlot c && u.winner c != some c.backup then ((u.instAdvance (0xA0 + g) it).discardLoser c it.pkt).stagingRelease g
  else if !u.slotsFree g c it.pkt then u.writeBack (0xA0 + g) it true
  else
    let r := u.gwArrive (c.key % 4096) c.input c.hall (u.launchOfKey c.key) it.arrived it.pkt.payload
    match r.1 with
    | some t => (r.2.instAdvance (0xA0 + g) it).modOx (fun x => { x with gwHeld := x.gwHeld ++ [⟨g, t, it.pos, it.pkt, it.arrived⟩] })
    | none => (r.2.instAdvance (0xA0 + g) it).landChunk g c it.pos it.pkt

theorem chunkLand_acts {b : Block} {g : BitVec 4} {it : QItem} {c : Chunk} (hreset : b.sw.inReset = false) (hfci : b.fciHolds (0xA0 + g.toNat) = false)
    (hfront : (b.ox.inst (0xA0 + g.toNat)).front = some it) (hreplay : (b.ox.group g.toNat).replayTo ≤ it.pos)
    (hc : (b.markedFront (0xA0 + g.toNat)).chunkOfPacket it.pkt = some c) :
    Acts (.chunkLand g false) b ((b.markedFront (0xA0 + g.toNat)).readChunk g.toNat it c) := by
  refine acts (fun _ => rfl) ?_
  simp only [hreset, hfci, hfront, Nat.not_lt.2 hreplay, markedFront_eq, hc, ite_self, detects_of_noInjection, Bool.or_self, Bool.not_true, Bool.false_eq_true, if_false]
  rfl

section readChunk
variable {u : Block} {g : Nat} {it : QItem} {c : Chunk}

/-- The copy of a member that lost its repechage slot. -/
theorem readChunk_of_loser {bk : Bool} (hslot : u.inSlot c = true) (hwin : u.winner c = some bk) (hbk : bk ≠ c.backup) :
    u.readChunk g it c = ((u.instAdvance (0xA0 + g) it).discardLoser c it.pkt).stagingRelease g := by
  simp [Block.readChunk, hslot, hwin, hbk]

variable (huse : u.inSlot c = false ∨ u.winner c = some c.backup)
include huse

/-- A chunk that is used waits where no slot is free, -/
theorem readChunk_of_no_slot (hfree : u.slotsFree g c it.pkt = false) : u.readChunk g it c = u.writeBack (0xA0 + g) it true := by
  rcases huse with h | h <;> simp [Block.readChunk, h, hfree]

/-- lands in a free slot, -/
theorem readChunk_lands (hfree : u.slotsFree g c it.pkt = true)
    (hnow : (u.gwArrive (c.key % 4096) c.input c.hall (u.launchOfKey c.key) it.arrived it.pkt.payload).1 = none) :
    u.readChunk g it c = ((u.gwArrive (c.key % 4096) c.input c.hall (u.launchOfKey c.key) it.arrived it.pkt.payload).2.instAdvance (0xA0 + g) it).landChunk
      g c it.pos it.pkt := by
  rcases huse with h | h <;> simp [Block.readChunk, h, hfree, hnow]

/-- or is held until its replayed time. -/
theorem readChunk_holds {t : Nat} (hfree : u.slotsFree g c it.pkt = true)
    (hlater : (u.gwArrive (c.key % 4096) c.input c.hall (u.launchOfKey c.key) it.arrived it.pkt.payload).1 = some t) :
    u.readChunk g it c = ((u.gwArrive (c.key % 4096) c.input c.hall (u.launchOfKey c.key) it.arrived it.pkt.payload).2.instAdvance (0xA0 + g) it).modOx
      (fun x => { x with gwHeld := x.gwHeld ++ [⟨g, t, it.pos, it.pkt, it.arrived⟩] }) := by
  rcases huse with h | h <;> simp [Block.readChunk, h, hfree, hlater]

end readChunk

/-- The only held chunk lands once its time has come. -/
theorem griwardReplayLanding_acts {b : Block} {ctx : BitVec 12} {input : BitVec 7} {h : GwHold} {c : Chunk} (hreset : b.sw.inReset = false)
    (hheld : b.ox.gwHeld = [h]) (htime : h.at_ ≤ b.sw.stroke) (hc : b.chunkOfPacket h.pkt = some c) (hctx : c.key % 4096 = ctx.toNat)
    (hinput : c.input = input.toNat) (hfree : b.slotsFree h.g c h.pkt = true) :
    Acts (.griwardReplayLanding ctx input) b ((b.modOx (fun x => { x with gwHeld := [] })).landChunk h.g c h.pos h.pkt) := by
  refine acts (fun _ => rfl) ?_
  simp only [hreset, hheld, List.find?_cons, htime, hc, hctx, hinput, hfree, beq_self_eq_true, decide_true, Bool.and_self, Bool.false_eq_true, if_false, if_true,
    Block.modOx, eraseFirst]

/-! ### COLL_TIMEOUT and MIRROR (R241, R266) -/

theorem collTimeout_acts {b : Block} {ctx : BitVec 12} {l : SLaunch} (hreset : b.sw.inReset = false)
    (hl : b.ox.launches.find? (fun l => l.ctx == ctx.toNat && !l.ended && decide (b.sw.collTimeout ≤ b.launchAge l)) = some l) :
    Acts (.collTimeout ctx) b (b.timeoutLaunch l.key true) := by
  refine acts (fun _ => rfl) ?_
  simp only [hreset, hl, Bool.false_eq_true, if_false]

section mirror
variable {b : Block} {p : Packet} (hreset : b.sw.inReset = false) (hopc : pOpc p = 0x26) (hsw : pDstSw p = true) (hdst : pDst p = b.swId)
  (hfence : b.sw.isFenced = false) (hsecure : b.sw.secureReady = true)
include hreset hopc hsw hdst hfence hsecure

/-- The record of a context of the twin, which belongs to no tenant, -/
theorem mirror_acts_of_record (hkind : field (p.w3.toNat / 2 ^ 14) 14 2 = 0) (hsize : 256 * cCtx p + 256 ≤ b.sw.fld (ob 0x6103 1) 20 20 * 2 ^ 20) :
    Acts (.mirror p) b { b with
      sw := b.sw.rxDrop (unitRx xpEngine) p
      ox := b.ox.bhWrite (b.sw.fld (ob 0x6103 1) 0 20 * 2 ^ 20 + 256 * cCtx p) (slice p.payload 0 256) (pPoison p) 0 (SMap.get 0 b.ox.keyGen 0) } := by
  refine acts (fun _ => rfl) ?_
  simp only [hreset, hopc, collHere_of_own hsw hdst, hfence, hsecure, hkind, Nat.not_lt.2 hsize, Nat.not_lt_zero, bne_self_eq_false, decide_false, Bool.not_true,
    Bool.or_self, Bool.false_eq_true, if_false, if_true]
  rfl

/-- and a block of state of one. -/
theorem mirror_acts_of_state (hkind : field (p.w3.toNat / 2 ^ 14) 14 2 = 1)
    (hsize : 2 ^ 20 + field (p.w3.toNat / 2 ^ 14) 16 30 * 256 + 256 ≤ b.sw.fld (ob 0x6103 1) 20 20 * 2 ^ 20) :
    Acts (.mirror p) b { b with
      sw := b.sw.rxDrop (unitRx xpEngine) p
      ox := b.ox.bhWrite (b.sw.fld (ob 0x6103 1) 0 20 * 2 ^ 20 + (2 ^ 20 + field (p.w3.toNat / 2 ^ 14) 16 30 * 256)) (slice p.payload 0 256) (pPoison p) (pTenant p)
        (SMap.get 0 b.ox.keyGen (pTenant p)) } := by
  refine acts (fun _ => rfl) ?_
  simp only [hreset, hopc, collHere_of_own hsw hdst, hfence, hsecure, hkind, Nat.not_lt.2 hsize, Nat.lt_irrefl, Nat.one_ne_zero, bne_self_eq_false, decide_false,
    Bool.not_true, Bool.or_self, Bool.false_eq_true, if_false]
  rfl

end mirror

end Sys2Proof.Machine

namespace Sys2Proof
open Machine

/-- Settles O37: each command of the switch's side of a collective does what the chunk, the launch or the record that it meets calls for. -/
theorem switchTakesChunks : Obligations.SwitchTakesChunks := by
  unfold Obligations.SwitchTakesChunks
  refine fun b hreset => ⟨fun p hsw hdst hfence => ?arrival, fun g it c hfci hfront hreplay hc => ?landing, fun ctx l hl => collTimeout_acts hreset hl,
    fun p hopc hsw hdst hfence hsecure => ⟨mirror_acts_of_record hreset hopc hsw hdst hfence hsecure, mirror_acts_of_state hreset hopc hsw hdst hfence hsecure⟩,
    fun ctx input h c hheld htime hc hctx hinput hfree => griwardReplayLanding_acts hreset hheld htime hc hctx hinput hfree⟩
  case arrival =>
    refine ⟨fun he => ?noEntry, fun e he hl hen => ?disabled, fun e l m bk he hl hen hm hseq => ⟨fun hroom => ?staged, fun hroom => ?full⟩,
      fun e m bk he hl hen hm hseq hroom => ?begins⟩
    case noEntry => exact chunk_acts hreset hsw hdst (fun pre => collArrive_of_no_entry hdst hfence he)
    case disabled => exact chunk_acts hreset hsw hdst (fun pre => collArrive_of_disabled hdst hfence he hl hen)
    case staged => exact chunk_acts hreset hsw hdst (fun pre => (collArrive_of_current hdst hfence he hl hen hm hseq).trans (stageChunk_of_room hroom))
    case full => exact chunk_acts hreset hsw hdst (fun pre => (collArrive_of_current hdst hfence he hl hen hm hseq).trans (stageChunk_of_full hroom))
    case begins => exact chunk_acts hreset hsw hdst (fun pre => (collArrive_of_next hdst hfence he hl hen hm hseq).trans (stageChunk_of_room hroom))
  case landing =>
    have hacts := chunkLand_acts hreset hfci hfront hreplay hc
    exact ⟨fun huse => ⟨fun hfree => ⟨fun hnow => acts_congr hacts (readChunk_lands huse hfree hnow),
      fun t hlater => acts_congr hacts (readChunk_holds huse hfree hlater)⟩, fun hfree => acts_congr hacts (readChunk_of_no_slot huse hfree)⟩,
      fun bk hslot hwin hbk => acts_congr hacts (readChunk_of_loser hslot hwin hbk)⟩

end Sys2Proof
end

section
/-!
PROOFS. Members of launches (05, R108; 10, R225, R226, R233, R239, R241, R443, R444; 16, R370): the chunks that COLL_CHUNK_SEND sends or asks the bytes of, what the four packets of a switch do, and the planes that MEMBER_COLL_TIMEOUT gives up.
-/
namespace Sys2Proof.Machine

/-- A launch found by a context is of that context. -/
theorem ctx_of_found {ls : List MLaunch} {k : Nat} {l : MLaunch} (h : ls.find? (fun l => l.ctx == k) = some l) : l.ctx = k :=
  eq_of_beq (List.find?_some (p := fun l : MLaunch => l.ctx == k) h)

/-! ### COLL_CHUNK_SEND (R108, R225, R226) -/

/-- The bytes that a launch awaits for a chunk have been read. -/
def MLaunch.chunkRead (l : MLaunch) (r : Run) (p : Nat) (pre : Bool) (i : Nat) : Prop :=
  l.want = some (p, pre, i) ∧ needBytes (l.needs p pre i) ≤ r.srcPos ∧ r.outstanding = 0

section send
variable {b : Block} {plane : BitVec 4} {ctx : BitVec 12} {pre : Bool} {data : List Byte} {poison : Bool} {l : MLaunch} {r : Run} {i : Nat} {again : Bool}

section command
variable (hl : b.oe.launches.find? (fun l => l.ctx == ctx.toNat) = some l) (hreset : b.ep.inReset = false) (hplane : l.planes.contains plane.toNat = true)
  (hactive : b.ep.active (b.ep.collLink plane.toNat) = true) (hrun : b.run? l.q l.n = some r) (hnext : l.nextChunk plane.toNat pre = some (i, again))
include hl hreset hplane hactive hrun hnext

/-- A chunk that needs no bytes, or whose bytes have been read, leaves. -/
theorem collChunkSend_acts (h : l.needs plane.toNat pre i = [] ∨ l.chunkRead r plane.toNat pre i) :
    Acts (.collChunkSend ctx plane pre data poison) b (b.sendChunk l r plane.toNat pre i again data poison) := by
  have hready : ((l.needs plane.toNat pre i).isEmpty ||
      (l.want == some (plane.toNat, pre, i) && decide (needBytes (l.needs plane.toNat pre i) ≤ r.srcPos) && r.outstanding == 0)) = true := by
    rcases h with hneeds | ⟨hwant, hbytes, hout⟩
    · simp [hneeds]
    · simp [hwant, hbytes, hout]
  refine acts (fun _ => rfl) ?_
  simp only [hl, hreset, hplane, hactive, hrun, hnext, hready, Bool.not_true, Bool.or_self, Bool.false_eq_true, if_false, if_true]

/-- One whose bytes have not been asked for asks for them. -/
theorem collChunkSend_acts_of_unread (hneeds : l.needs plane.toNat pre i ≠ []) (hwant : l.want ≠ some (plane.toNat, pre, i)) (hout : r.outstanding = 0) :
    Acts (.collChunkSend ctx plane pre data poison) b
      ((b.modOe (modLaunch l.ctx (fun l => { l with want := some (plane.toNat, pre, i) }))).modRun l.q l.n (fun r => { r with pieces := [], srcPos := 0 })) := by
  have hwaits : (l.want == some (plane.toNat, pre, i)) = false := beq_eq_false_iff_ne.2 hwant
  refine acts (fun _ => rfl) ?_
  simp only [hl, hreset, hplane, hactive, hrun, hnext, List.isEmpty_eq_false_iff.2 hneeds, hwaits, hout, bne, beq_self_eq_true, Bool.not_true, Bool.not_false,
    Bool.or_self, Bool.false_and, Bool.and_self, Bool.false_eq_true, if_false, if_true]

end command

/-- A chunk of the member's own bytes: its packet joins those of the plane's link, its launch has sent it, and nothing outside the endpoint differs. -/
theorem sendChunk_of_own {p : Nat} (hstage : l.cfg.pkgStage l.latency = false) (hweight : l.chunkIs p pre i ≠ 2) :
    let bad := (l.needs p pre i).any (fun x => r.anyLost (x.1 * 2 ^ 40 + x.2.1) x.2.2 || r.anyPoison (x.1 * 2 ^ 40 + x.2.1) x.2.2)
    let u := b.sendChunk l r p pre i again data poison
    u.ep = b.ep.queueTx (b.ep.collLink p) (b.chunkPacket l p pre i (l.chunkPayload r b.free p pre i data) bad)
      ∧ u.oe.launches = replaceFirst (fun x => x.ctx == l.ctx) (fun l => l.chunkSent r p pre i again data) b.oe.launches
      ∧ u.sw = b.sw ∧ u.ox = b.ox ∧ u.free = b.free := by
  simp only [Block.sendChunk, hstage, if_neg hweight, Bool.false_and, Bool.or_false, Bool.false_eq_true, if_false]
  exact ⟨rfl, rfl, rfl, rfl, rfl⟩

end send

/-! ### RESULT, COMPLETE, RESEND_REQ and RELEASE (R239, R443, R444) -/

section packets
variable {b : Block} {opc : Nat} {plane : BitVec 4} {p : Packet} {f : Block → MLaunch → Block} (hh : b.homeHears (.plane plane) p)
include hh

/-- A packet of no launch is counted and discarded, -/
theorem collIn_of_no_launch (ho : pOpc p = opc) (hl : (b.takeIn (.plane plane) p).oe.launches.find? (fun l => l.ctx == cCtx p) = none) :
    let t := b.takeIn (.plane plane) p
    b.collIn opc plane p f = { t with ep := t.ep.count (ob 0x7500 2) 0 32 1 } := by
  unfold Block.collIn
  rw [atEp_hears b opc _ p _ hh ho]
  simp only [hl]
  rfl

/-- and one of a launch, from a switch of its path, takes effect. -/
theorem collIn_of_launch {l : MLaunch} (ho : pOpc p = opc) (hl : (b.takeIn (.plane plane) p).oe.launches.find? (fun l => l.ctx == cCtx p) = some l)
    (hsw : pSrcSw p = true) (hrack : pSrc p % 1024 / 16 = b.epRack) (hplane : l.planes.contains (pSrc p % 16) = true) :
    b.collIn opc plane p f = f (b.takeIn (.plane plane) p) l := by
  unfold Block.collIn
  rw [atEp_hears b opc _ p _ hh ho]
  simp only [hl, hsw, hrack, hplane, beq_self_eq_true, Bool.and_self, if_true]

end packets

/-- The first COMPLETE of a switch, in a launch without a counter of its own, is remembered. -/
theorem applyComplete_remembers {t : Block} {p : Packet} {l : MLaunch} (hl : t.oe.launches.find? (fun l => l.ctx == cCtx p) = some l) (hplane : l.planes.contains (pSrc p % 16) = true)
    (hfirst : l.completed.any (fun c => c.1 == pSrc p % 16) = false) (hcounter : l.rcEn = false) :
    t.applyComplete p = t.modOe (modLaunch l.ctx (fun x => { x with completed := x.completed ++ [(pSrc p % 16, pStatus p, cDetail p)] })) := by
  simp only [Block.applyComplete, hl, hplane, hfirst, hcounter, Bool.not_true, Bool.or_self, Bool.false_and, Bool.false_eq_true, if_false]
  rfl

section complete
variable {t : Block} {p : Packet} (ho : pOpc p = 0x23)
include ho

/-- A COMPLETE stands alone at an idle home, -/
theorem accept_of_complete (hhops : t.oe.hops = []) : t.accept ⟨0, 0, .selfServed, p, none, .queued⟩ = t.homeHolds .selfServed p none .queued := by
  simp only [Block.accept, stateChanging, ho, hhops, Bool.false_and, Bool.false_eq_true, if_false, List.takeWhile_nil, List.dropWhile_nil, List.nil_append,
    Nat.reduceEqDiff, false_and]
  rfl

/-- starts at once, as no access or snoop is before it, -/
theorem homePump_of_complete (hsnoops : t.oe.snoops = []) (hwbs : t.oe.wbs = []) :
    (t.homeHolds .selfServed p none .queued).homePump = (t.homeHolds .selfServed p none .queued).startOp (t.hopOf .selfServed p none .queued) := by
  simp [Block.homePump, Block.mayStart, Block.lineBusy, Block.homeHolds, Block.hopOf, ho, hsnoops, hwbs]

/-- and is remembered. -/
theorem complete_remembers {l : MLaunch} (hhops : t.oe.hops = []) (hsnoops : t.oe.snoops = []) (hwbs : t.oe.wbs = [])
    (hl : t.oe.launches.find? (fun l => l.ctx == cCtx p) = some l) (hplane : l.planes.contains (pSrc p % 16) = true)
    (hfirst : l.completed.any (fun c => c.1 == pSrc p % 16) = false) (hcounter : l.rcEn = false) :
    (t.accept ⟨0, 0, .selfServed, p, none, .queued⟩).homePump = { t with oe := { t.oe with
      arrivals := t.oe.arrivals + 1
      launches := replaceFirst (fun x => x.ctx == l.ctx) (fun x => { x with completed := x.completed ++ [(pSrc p % 16, pStatus p, cDetail p)] }) t.oe.launches } } := by
  have hstart : (t.homeHolds .selfServed p none .queued).startOp (t.hopOf .selfServed p none .queued) =
      ((t.homeHolds .selfServed p none .queued).dropOp (t.hopOf .selfServed p none .queued).seq).applyComplete p := by
    simp only [Block.startOp, Block.hopOf, stateChanging, ho, Bool.false_eq_true, if_false, if_true]
  rw [accept_of_complete ho hhops, homePump_of_complete ho hsnoops hwbs, hstart, dropOp_only rfl, ← hhops]
  exact applyComplete_remembers (t := { t with oe := { t.oe with arrivals := t.oe.arrivals + 1 } }) hl hplane hfirst hcounter

end complete

/-! ### MEMBER_COLL_TIMEOUT (R370) -/

/-- At COLL_TIMEOUT the planes without either link are given up. -/
theorem memberCollTimeout_acts {b : Block} {ctx : BitVec 12} {l : MLaunch} (hreset : b.ep.inReset = false)
    (hl : b.oe.launches.find? (fun l => l.ctx == ctx.toNat) = some l) (htime : b.ep.collTimeout ≤ b.ep.since l.issuedAt) :
    let dead := l.planes.filter (fun p => !(l.completed.any (fun c => c.1 == p)) && !(b.ep.active p) && !(b.ep.active (Nat.xor p 1)))
    Acts (.memberCollTimeout ctx) b
      (b.modOe (modLaunch l.ctx (fun l => { l with completed := l.completed ++ dead.map (fun p => (p, stTimeout, 0)), released := l.released ++ dead }))) := by
  refine acts (fun _ => rfl) ?_
  simp only [hl, hreset, Nat.not_lt.2 htime, decide_false, Bool.or_self, Bool.false_eq_true, if_false]

end Sys2Proof.Machine

namespace Sys2Proof
open Machine

/-- Settles O36: a member's chunk leaves or asks for its bytes, and each packet of a switch does what the launch that it names calls for. -/
theorem membersOfLaunches : Obligations.MembersOfLaunches := by
  unfold Obligations.MembersOfLaunches
  refine fun b plane => ⟨fun ctx pre data poison l r i again hl hreset hplane hactive hrun hnext => ⟨fun hready => ?sends, fun hready hstage hweight => ?own,
    fun hneeds hwant hout => ?asks⟩, fun p hh => ⟨fun hl => ?stray, fun l hl hsw hrack hplane => ?packets⟩,
    fun ctx l hreset hl htime => memberCollTimeout_acts hreset hl htime⟩
  case sends => exact collChunkSend_acts hl hreset hplane hactive hrun hnext hready
  case own =>
    refine ⟨_, collChunkSend_acts hl hreset hplane hactive hrun hnext hready, ?_⟩
    rw [← ctx_of_found hl]
    exact sendChunk_of_own hstage hweight
  case asks =>
    rw [← ctx_of_found hl]
    exact collChunkSend_acts_of_unread hl hreset hplane hactive hrun hnext hneeds hwant hout
  case stray =>
    have hcounts {opc : Nat} {f : Block → MLaunch → Block} (ho : pOpc p = opc) := collIn_of_no_launch (f := f) hh ho hl
    exact ⟨fun ho => acts (fun _ => rfl) (hcounts ho), fun ho => acts (fun _ => rfl) (hcounts ho), fun ho => acts (fun _ => rfl) (hcounts ho),
      fun ho => acts (fun _ => rfl) (hcounts ho)⟩
  case packets =>
    have htakes {opc : Nat} {f : Block → MLaunch → Block} (ho : pOpc p = opc) := collIn_of_launch (f := f) hh ho hl hsw hrack hplane
    refine ⟨fun ho => ?result, fun ho hhops hsnoops hwbs hfirst hcounter => ?complete, fun ho hheld => ?resend, fun ho => ?release⟩
    case result => exact acts (fun _ => rfl) (htakes ho)
    case complete => exact acts (fun _ => rfl) ((htakes ho).trans (complete_remembers ho hhops hsnoops hwbs hl hplane hfirst hcounter))
    case resend => exact acts (fun _ => rfl) ((htakes ho).trans (if_neg (Bool.eq_false_iff.1 hheld)))
    case release => exact acts (fun _ => rfl) (htakes ho)

end Sys2Proof
end

section
/-!
PROOFS. Group controls (11, R250, R252, R253, R261): what BIND, SEEK, BHPTR and KSEL set in their group, and what the end of a boathouse read leaves.
-/
namespace Sys2Proof.Machine

section groups
variable {b : Block} {g : BitVec 4} (hreset : b.sw.inReset = false)
include hreset

/-- Outside HELD a group control acts, whatever the row. -/
theorem groupControl_acts {i : Instr} {f : Block → Block} {b' : Block} (hheld : b.held = false)
    (hc : ∀ s, exec i s = s.act (fun s => if s.sw.inReset || s.held then s else f s)) (h : f b = b') : Acts i b b' :=
  acts hc ((if_neg (by simp [hreset, hheld])).trans h)

/-- A read without an error makes the group's pointer ready. -/
theorem bhFetchDone_acts_of_good (hready : (b.ox.group g.toNat).bhReady = false) :
    Acts (.bhFetchDone g false false) b (b.modGroup g.toNat (fun q => { q with bhReady := true })) := by
  refine acts (fun _ => rfl) ?_
  simp only [hreset, hready, Common.undetected, Common.passed, Bool.false_and, Bool.or_self, Bool.false_eq_true, if_false]
  rfl

/-- An uncorrectable read is counted, and the block at the pointer is poisoned (R364). -/
theorem bhFetchDone_acts_of_bad (hready : (b.ox.group g.toNat).bhReady = false) :
    Acts (.bhFetchDone g true false) b
      (((b.modSw (fun c => c.count (ob 0x9021 1) 0 32 1)).modOx (fun x => { x with
        bhPoison := insertNat x.bhPoison ((b.areaBase ((b.ox.group g.toNat).bound.getD 0) + (b.ox.group g.toNat).bhPtr) / 256) })).modGroup g.toNat
          (fun q => { q with bhReady := true })) := by
  refine acts (fun _ => rfl) ?_
  simp only [hreset, hready, detects_of_noInjection, Bool.and_self, Bool.or_self, Bool.false_eq_true, if_false, if_true]

end groups

/-! ### The two cursors of SEEK (R252, R253) -/

section seek
variable {b : Block} {g a : Nat} {twin : Bool}

/-- Input 0x7F names the send cursor, -/
theorem gctl_seek_send (h : a % 128 = 0x7F) :
    b.gctl g 1 a twin = b.modGroup g (fun q => { q with sendBlock := field a 9 14, sendHall := bitAt a 7, work := none }) := if_pos h

/-- any other the read cursor of that input. -/
theorem gctl_seek_read (h : a % 128 ≠ 0x7F) : b.gctl g 1 a twin = b.modGroup g (fun q => { q with
    rdInput := a % 128, rdHall := bitAt a 7, rdPre := bitAt a 8, rdBlock := field a 9 14
    member := if bitAt a 7 then q.member else a % 128, work := some (a % 128, bitAt a 7, field a 9 14) }) := if_neg h

end seek

/-- An argument of 23 bits is a pointer of a multiple of 256 as it stands. -/
theorem gctl_bhptr (b : Block) (g : Nat) (arg : BitVec 23) (twin : Bool) :
    b.gctl g 2 arg.toNat twin = b.modGroup g (fun q => { q with bhPtr := arg.toNat * 256, bhReady := false }) := by
  simp only [Block.gctl, Nat.mod_eq_of_lt arg.isLt]

end Sys2Proof.Machine

namespace Sys2Proof
open Machine

/-- Settles O34: each control is its row of `gctl` outside HELD, and the end of a read makes the pointer ready. -/
theorem groupControls : Obligations.GroupControls := by
  unfold Obligations.GroupControls
  intro b g arg hreset hheld
  have hcontrol {i : Instr} {f : Block → Block} {b' : Block} := groupControl_acts (i := i) (f := f) (b' := b') hreset hheld
  refine ⟨?bind, fun hsend => ?seekSend, fun hread => ?seekRead, ?bhptr, ?ksel, fun hready => ?good, fun hready => ?bad⟩
  case bind => exact hcontrol (fun _ => rfl) rfl
  case seekSend => exact hcontrol (fun _ => rfl) (gctl_seek_send hsend)
  case seekRead => exact hcontrol (fun _ => rfl) (gctl_seek_read hread)
  case bhptr => exact hcontrol (fun _ => rfl) (gctl_bhptr b g.toNat arg false)
  case ksel => exact hcontrol (fun _ => rfl) rfl
  case good => exact bhFetchDone_acts_of_good hreset hready
  case bad => exact bhFetchDone_acts_of_bad hreset hready

end Sys2Proof
end

section
/-!
PROOFS. What the fields of a bundle do (11, R248, R255 to R258, R263 to R265; 18, R411): control flow, steers, LOAD_ANN, checkpoints, ALIGN and signals of the engine in RUN.
-/
namespace Sys2Proof.Machine

/-! ### Presenting a bundle (R248) -/

/-- The engine at another bundle, none of whose fields has acted. -/
def Engine.present (e : Engine) (pc : Nat) : Engine := { e with pc := pc, rep := 0, passed := false, acted := false, half := false, gdone := [] }

section control
variable {b : Block}

theorem engineRuns_of_run (hreset : b.sw.inReset = false) (hrun : b.ox.eng.running = true) (hstate : b.ox.eng.state = engRun) : b.engineRuns = true := by
  simp [Block.engineRuns, hreset, hrun, hstate]

/-- A field acts while the engine runs, whatever the row. -/
theorem field_acts {i : Instr} {f : Block → Block} {b' : Block} (hruns : b.engineRuns = true)
    (hc : ∀ s, exec i s = s.act (fun s => if s.engineRuns then f s else s)) (h : f b = b') : Acts i b b' :=
  acts hc ((if_pos hruns).trans h)

theorem goto_eq {pc : Nat} (h : pc < 65536) : b.goto pc = b.modEng (fun e => e.present pc) := by
  simp only [Block.goto, Nat.mod_eq_of_lt h]
  rfl

theorem nextPc_lt (b : Block) : b.nextPc < 65536 := Nat.mod_lt _ (by decide)

theorem goto_nextPc (s b : Block) : s.goto b.nextPc = s.modEng (fun e => e.present b.nextPc) := goto_eq (nextPc_lt b)

/-! ### Loops (R255) -/

theorem lopBegin_pushes (n : Nat) (h : b.ox.eng.loops.length < 4) :
    b.lopBegin n = b.modEng (fun e => { e with loops := (b.nextPc, n + 1) :: e.loops }.present b.nextPc) := by
  simp only [Block.lopBegin, h, if_true, goto_nextPc]
  rfl

theorem lopBegin_of_full (n : Nat) (h : 4 ≤ b.ox.eng.loops.length) : b.lopBegin n = b.modEng (fun e => e.present b.nextPc) := by
  simp only [Block.lopBegin, Nat.not_lt.2 h, if_false, goto_nextPc]

section lopEnd
variable {top n : Nat} {r : List (Nat × Nat)} (h : b.ox.eng.loops = (top, n) :: r)
include h

theorem lopEnd_repeats (hn : 1 < n) (htop : top < 65536) : b.lopEnd = b.modEng (fun e => { e with loops := (top, n - 1) :: r }.present top) := by
  simp only [Block.lopEnd, h, hn, if_true, goto_eq htop]
  rfl

theorem lopEnd_leaves (hn : n ≤ 1) : b.lopEnd = b.modEng (fun e => { e with loops := r }.present b.nextPc) := by
  simp only [Block.lopEnd, h, Nat.not_lt.2 hn, if_false, goto_nextPc]
  rfl

end lopEnd

theorem lopEnd_of_empty (h : b.ox.eng.loops = []) : b.lopEnd = b.modEng (fun e => e.present b.nextPc) := by
  simp only [Block.lopEnd, h, goto_nextPc]

/-! ### FINISH and DONE (R256) -/

theorem finishLaunch_marks (hfinished : b.ox.eng.finished = false) (habandoned : b.ox.eng.abandoned = false) :
    b.finishLaunch = ((b.modEng (fun e => { e with finished := true })).modSL b.ox.eng.ctx (fun l => { l with finishing := true })).closePump b.ox.eng.ctx := by
  simp only [Block.finishLaunch, hfinished, habandoned, Bool.or_self, Bool.false_eq_true, if_false]

theorem engineKick_of_none_ready (h : b.ox.ready = []) : b.engineKick = b := by
  simp only [Block.engineKick, h]

/-- The engine with nothing presented, whatever its state. -/
def Engine.cleared (e : Engine) : Engine :=
  { e with running := false, finished := false, abandoned := false, loops := [], dispatchAt := none, gdone := [], half := false, acted := false, passed := false, rep := 0 }

/-- Outside HELD, with no launch ready, a free engine is IDLE. -/
theorem engineFree_idles (hheld : b.ox.eng.state ≠ engHeld) (hready : b.ox.ready = []) :
    b.engineFree = (b.modEng (fun e => { e.cleared with state := engIdle })).pruneImages := by
  have hidle : b.ox.eng.cleared.to engIdle = { b.ox.eng.cleared with state := engIdle } := if_neg hheld
  have hfree : b.engineFree = ((b.modEng (fun _ => b.ox.eng.cleared.to engIdle)).pruneImages).engineKick := rfl
  rw [hfree, hidle]
  exact engineKick_of_none_ready hready

/-- DONE of an abandoned launch, which has ended already, frees the engine. -/
theorem lopDone_of_abandoned (h : b.ox.eng.abandoned = true) : b.lopDone = b.engineFree := by
  simp only [Block.lopDone, h, if_true]

/-- DONE of a launch under way: FINISH, its last record, its end, and the next launch. -/
theorem lopDone_of_launch {l : SLaunch} (h : b.ox.eng.abandoned = false) (hl : b.slaunch? b.ox.eng.ctx = some l) :
    b.lopDone = (((((b.finishLaunch.checkpoint b.ox.eng.ctx true false b.nextPc).modSw (fun c => c.count (ob 0x6080 0) 0 64 (b.arrivalStages l))).gwDoneAt
      l.ctx l.launch b.lag).endLaunch b.ox.eng.ctx l).engineFree) := by
  simp only [Block.lopDone, h, hl, Bool.false_eq_true, if_false]

/-! ### Checkpoints (R265) -/

/-- CKPT with no record on its way sends one over an ACTIVE bridge, for a launch of this switch. -/
theorem ckpt_sends {l : SLaunch} (hwait : b.ox.ckptWait = false) (hl : b.slaunch? b.ox.eng.ctx = some l) (htwin : l.twin = false)
    (hbridge : b.sw.lstate 0x58 = lsActive) (hfence : b.sw.isFenced = false) :
    let p := b.mirrorPacket l.ctx l.cfg.tenant 0 0 (b.checkpointBytes l false false b.nextPc) false
    b.ckpt = ((b.unitSend xpEngine [bridgeOutput p] p).modOx (fun x => { x with
      mirrorsOut := x.mirrorsOut ++ [⟨b.ox.eng.ctx, none, 0, 0⟩], ckptWait := true, ckptSeq := x.ckptSeq + 1 })).modSw (fun c => c.count (ob 0x6104 4) 0 64 1) := by
  simp only [Block.ckpt, Block.checkpoint, hwait, hl, htwin, hbridge, hfence, bne_self_eq_false, Bool.or_self, Bool.false_eq_true, if_false]

end control

/-! ### Steers (R263, R313) -/

section steer
variable {b : Block} {k : Nat} (pos : Nat)

/-- Of a port that is not in PROGRAM mode a steer is refused. -/
theorem bundleSteer_refused (h : b.sw.fld (ob 0x4010 k) 1 2 ≠ 1) : b.bundleSteer k pos = b.modSw (fun c => c.count (ob 0x4013 k) 48 16 1) := by
  simp only [Block.bundleSteer, beq_eq_false_iff_ne.2 h, Bool.false_eq_true, if_false]

variable (hmode : b.sw.fld (ob 0x4010 k) 1 2 = 1)
include hmode

theorem bundleSteer_starts (hnone : (b.ox.hport k).steer = none) (hstate : b.sw.hstate k = psActive ∨ b.sw.hstate k = psNoLink) :
    b.bundleSteer k pos = b.startSteer k ⟨pos, true, b.sw.stroke⟩ := by
  have hrests : (b.sw.hstate k == psActive || b.sw.hstate k == psNoLink) = true := by simpa using hstate
  simp only [Block.bundleSteer, Block.orderSteer, hmode, hnone, hrests, beq_self_eq_true, Option.isSome_none, Bool.false_eq_true, if_false, if_true]

theorem bundleSteer_waits (hsteer : (b.ox.hport k).steer ≠ none) :
    b.bundleSteer k pos = b.modHport k (fun h => { h with next := h.next ++ [⟨pos, true, b.sw.stroke⟩] }) := by
  simp only [Block.bundleSteer, Block.orderSteer, hmode, Option.isSome_iff_ne_none.2 hsteer, beq_self_eq_true, if_true]

end steer

/-! ### Announcements (R264, R411) -/

section ann
variable {b : Block} {v : Nat}

theorem driveAnn_same (h : v = b.ox.ann) : b.driveAnn v = b := if_pos h

theorem driveAnn_ends (h : b.ox.ann ≠ 0) :
    b.driveAnn 0 = (b.modOx (fun x => { x with ann := 0, annPend := [], annEffect := 0 })).modSw (fun c => c.emit (.pin "LOAD_ANN" 0)) := by
  simp only [Block.driveAnn, h.symm, if_false, if_true]

/-- A higher value takes effect later: it waits from the next CCLK on. -/
theorem driveAnn_rises (h : b.ox.ann < v) :
    b.driveAnn v = (b.modOx (fun x => { x with ann := v, annPend := x.annPend ++ [(v, b.sw.stroke + 1, b.sw.schedCur)] })).modSw (fun c => c.emit (.pin "LOAD_ANN" v)) := by
  have hne : v ≠ b.ox.ann := Nat.ne_of_gt h
  have hpos : v ≠ 0 := Nat.ne_zero_of_lt h
  simp only [Block.driveAnn, Block.modOx, hne, hpos, h, if_false, if_true]

/-- A lower value replaces the one driven at once, in effect or on its way. -/
theorem driveAnn_falls (hpos : 0 < v) (h : v < b.ox.ann) :
    b.driveAnn v = (b.modOx (fun x => { x with
      ann := v
      annPend := x.annPend.map (fun e => if v < e.1 then (v, e.2.1, b.sw.schedCur) else e)
      annEffect := min v x.annEffect
      annBase := if v < x.annEffect then b.sw.schedCur else x.annBase })).modSw (fun c => c.emit (.pin "LOAD_ANN" v)) := by
  simp only [Block.driveAnn, Block.modOx, Nat.ne_of_lt h, Nat.ne_of_gt hpos, Nat.lt_asymm h, if_false]

end ann

end Sys2Proof.Machine

namespace Sys2Proof
open Machine

/-- Settles O39: each field acts while the engine runs, and does what its rule gives for the state it finds. -/
theorem bundleFields : Obligations.BundleFields := by
  unfold Obligations.BundleFields
  intro b hreset hrun hstate
  have hruns := engineRuns_of_run hreset hrun hstate
  have hfield {i : Instr} {f : Block → Block} {b' : Block} := field_acts (i := i) (f := f) (b' := b') hruns
  refine ⟨fun n hroom => ?begins, fun n hfull => ?full, fun top n r hloops => ⟨fun hn htop => ?again, fun hn => ?leaves⟩, fun hloops => ?noLevel, fun n => ?jump,
    fun hfinished habandoned => ?finish, fun habandoned hready => ?abandoned, fun l habandoned hl => ?done,
    fun port pos => ⟨fun hmode => ?refused, fun hmode hnone hrests => ?starts, fun hmode hsteer => ?queued⟩,
    fun a => ⟨fun hsame => ?same, fun hzero hann => ?ends, fun hrise => ?rises, fun hpos hfall => ?falls⟩,
    fun l hwait hl htwin hbridge hfence => ?ckpt, ?align, fun i hi => ?signal⟩
  case begins => exact hfield (fun _ => rfl) (lopBegin_pushes n.toNat hroom)
  case full => exact hfield (fun _ => rfl) (lopBegin_of_full n.toNat hfull)
  case again => exact hfield (fun _ => rfl) (lopEnd_repeats hloops hn htop)
  case leaves => exact hfield (fun _ => rfl) (lopEnd_leaves hloops hn)
  case noLevel => exact hfield (fun _ => rfl) (lopEnd_of_empty hloops)
  case jump => exact hfield (fun _ => rfl) (goto_eq n.isLt)
  case finish => exact hfield (fun _ => rfl) (congrArg (fun s : Block => s.goto b.nextPc) (finishLaunch_marks hfinished habandoned))
  case abandoned =>
    have hheld : b.ox.eng.state ≠ engHeld := by rw [hstate]; decide
    exact hfield (fun _ => rfl) ((lopDone_of_abandoned habandoned).trans (engineFree_idles hheld hready))
  case done => exact hfield (fun _ => rfl) (lopDone_of_launch habandoned hl)
  case refused => exact hfield (fun _ => rfl) (bundleSteer_refused pos.toNat hmode)
  case starts => exact hfield (fun _ => rfl) (bundleSteer_starts pos.toNat hmode hnone hrests)
  case queued => exact hfield (fun _ => rfl) (bundleSteer_waits pos.toNat hmode hsteer)
  case same => exact hfield (fun _ => rfl) (driveAnn_same hsame)
  case ends => exact hfield (fun _ => rfl) (hzero ▸ driveAnn_ends hann)
  case rises => exact hfield (fun _ => rfl) (driveAnn_rises hrise)
  case falls => exact hfield (fun _ => rfl) (driveAnn_falls hpos hfall)
  case ckpt => exact hfield (fun _ => rfl) (ckpt_sends hwait hl htwin hbridge hfence)
  case align => exact hfield (fun _ => rfl) rfl
  case signal => exact acts (fun _ => rfl) (if_pos (by simp [hruns, hi]))

end Sys2Proof
end

section
/-!
PROOFS. Crabs and holding water (11, R259 to R262): when the crabbing switch drives the line and releases it, when the engine enters HELD and leaves it, and what the limit abandons.
-/
namespace Sys2Proof.Machine

section hold
variable {b : Block} (hreset : b.sw.inReset = false)
include hreset

theorem at256_of_multiple (h : b.sw.stroke % 256 = 0) : b.at256 = true := by
  simp [Block.at256, hreset, h]

/-! ### A crab (R259) -/

theorem crab_acts (hrun : b.ox.eng.running = true) (hstate : b.ox.eng.state = engWait) (hcrab : b.ox.hold.crabbed = false) (hpassed : b.ox.eng.passed = false)
    (hwait : b.waitHolds = false) (hslack : bSlack b.presented ≠ 0xFFFF) (hlag : bSlack b.presented < b.lag) :
    Acts .crab b ((b.modHold (fun h => { h with crabbed := true, crabAt := some b.sw.stroke, limited := false })).modSw (fun c =>
      (c.count (ob 0x6104 0) 0 32 1).logLimited 0x5001 .corrected 0xFF 0
        (packArg [(12, b.ox.eng.ctx), (16, b.ox.eng.pc), (7, bWid b.presented + 64 * b2n (bWsrc b.presented)), (32, b.lag)]))) :=
  acts (fun _ => rfl) (if_pos (by simp [hreset, hrun, hstate, hcrab, hpassed, hwait, hslack, hlag]))

/-! ### The line as the switch drives it (R260) -/

/-- At the multiple of 256 after its crab a switch that is no stand-in pulls the line low. -/
theorem holdDriveStart_acts {t : Nat} (hmultiple : b.sw.stroke % 256 = 0) (hcrab : b.ox.hold.crabbed = true) (hdrive : b.ox.hold.drive = false)
    (hat : b.ox.hold.crabAt = some t) (hdue : after256 t ≤ b.sw.stroke) (hstand : b.ox.hold.standDrive = none) (hfrom : b.ox.hold.standFrom = none) :
    Acts .holdDriveStart b ((b.modHold (fun h => { h with drive := true })).modSw (fun c => c.emit (.pin "HOLD_WATER_N" 0))) := by
  refine acts (fun _ => rfl) ?_
  simp only [at256_of_multiple hreset hmultiple, hcrab, hdrive, hat, hdue, hstand, hfrom, decide_true, Option.isNone_none, Bool.not_false, Bool.and_self, Bool.and_false,
    Bool.or_true, Bool.or_false, Bool.false_eq_true, if_false, if_true, Block.when, Block.modHold, Block.modOx]

/-- HELD, at a multiple of 256, with its wait holding or its launch abandoned, it lets the line go. -/
theorem holdDriveRelease_acts (hmultiple : b.sw.stroke % 256 = 0) (hdrive : b.ox.hold.drive = true) (hheld : b.ox.eng.state = engHeld)
    (hover : b.waitHolds = true ∨ b.ox.hold.limited = true) (hstand : b.ox.hold.standDrive = none) :
    Acts .holdDriveRelease b ((b.modHold (fun h => { h with drive := false, crabbed := false, crabAt := none, limited := false })).modSw
      (fun c => c.emit (.pin "HOLD_WATER_N" 1))) := by
  have hends : (b.waitHolds || b.ox.hold.limited) = true := by simpa using hover
  refine acts (fun _ => rfl) ?_
  simp only [at256_of_multiple hreset hmultiple, hdrive, hheld, hends, hstand, beq_self_eq_true, Option.isSome_none, Bool.and_self, Bool.false_and, Bool.or_false,
    Bool.false_eq_true, if_false, if_true, Block.modHold, Block.modOx]

/-! ### The line as the rack shows it (R260) -/

theorem holdWaterSeenLow_acts (hline : b.ox.hold.lineLow = false) :
    Acts .holdWaterSeenLow b ((b.modHold (fun h => { h with lineLow := true, seenLow := some b.sw.stroke, seenHigh := none })).gwHoldAt true) :=
  acts (fun _ => rfl) (if_neg (by simp [hreset, hline]))

theorem holdWaterSeenHigh_acts (hline : b.ox.hold.lineLow = true) :
    Acts .holdWaterSeenHigh b ((b.modHold (fun h => { h with lineLow := false, seenHigh := some b.sw.stroke })).gwHoldAt false) :=
  acts (fun _ => rfl) (if_neg (by simp [hreset, hline]))

/-! ### HELD (R260, R261) -/

theorem heldEnter_acts {t : Nat} (hmultiple : b.sw.stroke % 256 = 0) (hseen : b.ox.hold.seenLow = some t) (hdue : after256 t ≤ b.sw.stroke)
    (hstate : b.ox.eng.state ≠ engHeld) (hat : b.ox.hold.heldAt = none) :
    Acts .heldEnter b ((b.modEng (fun e => { e with before := e.state, state := engHeld })).modHold (fun h => { h with heldAt := some b.sw.stroke })) := by
  refine acts (fun _ => rfl) ?_
  simp only [hseen]
  exact if_pos (by simp [at256_of_multiple hreset hmultiple, hstate, hdue, hat])

/-- What passed in HELD is counted, and delays the nominal count (R258). -/
theorem heldExit_acts {t : Nat} (hmultiple : b.sw.stroke % 256 = 0) (hseen : b.ox.hold.seenHigh = some t) (hdue : after256 t ≤ b.sw.stroke)
    (hstate : b.ox.eng.state = engHeld) :
    Acts .heldExit b (((b.modEng (fun e => { e with state := e.before, held := e.held + b.heldNow })).modHold (fun h =>
      { h with heldAt := none, seenLow := none, seenHigh := none })).modSw (fun c => c.count (ob 0x6104 1) 0 64 b.heldNow)) := by
  refine acts (fun _ => rfl) ?_
  simp only [hseen]
  exact if_pos (by simp [at256_of_multiple hreset hmultiple, hstate, hdue])

/-! ### The limit (R262) -/

theorem holdLimit_acts (hdrive : b.ox.hold.drive = true) (hlimited : b.ox.hold.limited = false) (hstate : b.ox.eng.state = engHeld)
    (hrun : b.ox.eng.running = true) (hlimit : b.sw.fld (ob 0x6103 0) 0 16 * cclkUs ≤ b.heldNow) :
    Acts .holdLimit b (((b.modHold (fun h => { h with limited := true })).modSw (fun c =>
      c.log 0x5002 .uncorrected 0xFF (packArg [(12, b.ox.eng.ctx), (32, b.launchOfKey b.ox.eng.ctx)]))).timeoutLaunch b.ox.eng.ctx true) :=
  acts (fun _ => rfl) (if_pos (by simp [hreset, hdrive, hlimited, hstate, hrun, hlimit]))

end hold

end Sys2Proof.Machine

namespace Sys2Proof
open Machine

/-- Settles O40: under its condition each command of holding water acts, and the units that it leaves are those of the statement. -/
theorem holdingWater : Obligations.HoldingWater := by
  unfold Obligations.HoldingWater
  refine fun b hreset => ⟨?crab, fun t => ?start, ?low, fun t => ?enter, ?release, ?high, fun t => ?exit, ?limit⟩
  case crab => exact crab_acts hreset
  case start => exact holdDriveStart_acts hreset
  case low => exact holdWaterSeenLow_acts hreset
  case enter => exact heldEnter_acts hreset
  case release => exact holdDriveRelease_acts hreset
  case high => exact holdWaterSeenHigh_acts hreset
  case exit => exact heldExit_acts hreset
  case limit => exact holdLimit_acts hreset

end Sys2Proof
end

section
/-!
PROOFS. The wire and back (12, R276, R277, R280): stuffing and scrambling are undone by the receiver, and the fields of a lane marker read as they were sent.
-/
namespace Sys2Proof.Machine

/-! ### Stuffing (R277) -/

/-- With the same run before them, the receiver drops just the two UI that the transmitter inserted. -/
theorem unstuff_stuff (l : List Nat) (last run : Nat) : unstuff last run 0 (stuff last run l) = l := by
  induction l generalizing last run with
  | nil => rfl
  | cons x l ih =>
    rw [stuff]
    by_cases hfull : (if x = last then run + 1 else 1) = 64
    · simp only [hfull, if_true, unstuff, ih]
    · simp only [hfull, if_false, unstuff, ih]

/-! ### Scrambling (R276) -/

/-- The register advances alike whatever the data, so the same bits are added twice. -/
theorem scramble_scramble (l : List Bool) (r : BitVec 31) : (scramble r (scramble r l).1).1 = l := by
  induction l generalizing r with
  | nil => rfl
  | cons d l ih => simp only [scramble, Bool.xor_assoc, Bool.xor_self, Bool.xor_false, ih]

/-! ### Lane markers (R280) -/

/-- Field `i` of a packed word, which begins at bit `lo`, reads as it was given. -/
theorem bitsOf_packedField {n lo w x i : Nat} {fields : List (Nat × Nat)} (hf : fields[i]? = some (w, x)) (hlo : packWidth (fields.take i) = lo) (hn : lo + w ≤ n) :
    bitsOf (BitVec.ofNat n (packArg fields)) lo w = x % 2 ^ w := by
  obtain ⟨hi, hget⟩ := List.getElem?_eq_some_iff.1 hf
  have hsplit : fields = fields.take i ++ (w, x) :: fields.drop (i + 1) := by rw [← hget, List.getElem_cons_drop, List.take_append_drop]
  subst hlo
  have hfield := bitsOf_packArg (fields.take i) (fields.drop (i + 1)) x (Nat.le_refl w) hn
  rwa [← hsplit] at hfield

/-- The sync word is the lowest 64 bits. -/
theorem markerSync_marker (x : BitVec 128) : markerSync (marker x) = true := by
  have hsync : (marker x).extractLsb' 0 64 = 0xC3A55A3C0FF096E1#64 := BitVec.extractLsb'_append_eq_right
  rw [markerSync, bitsOf, hsync]
  rfl

/-- Bits of the content stand 64 bits up in the marker. -/
theorem extractLsb'_marker (x : BitVec 128) {lo w : Nat} (h : lo + w ≤ 128) : (marker x).extractLsb' (64 + lo) w = x.extractLsb' lo w := by
  rw [marker, BitVec.extractLsb'_append_eq_of_le (Nat.le_add_right 64 lo), Nat.add_sub_cancel_left, BitVec.extractLsb'_append_eq_of_add_le h]

/-- The copy above the content is its complement. -/
theorem marker_complement (x : BitVec 128) : (marker x).extractLsb' 192 128 = ~~~x := by
  rw [marker, BitVec.extractLsb'_append_eq_of_le (by decide)]
  exact BitVec.extractLsb'_append_eq_left

theorem markerAgrees_marker (x : BitVec 128) : markerAgrees (marker x) = true := by
  have hcontent : (marker x).extractLsb' 64 128 = x := (extractLsb'_marker x (Nat.le_refl _)).trans BitVec.extractLsb'_eq_self
  rw [markerAgrees, hcontent, marker_complement, BitVec.not_not, beq_self_eq_true]

/-- Field `i` of a marker's content, which begins at bit `lo` of it, reads as it was sent. -/
theorem bitsOf_marker_packArg {lo w x i : Nat} {fields : List (Nat × Nat)} (hf : fields[i]? = some (w, x)) (hlo : packWidth (fields.take i) = lo) (hn : lo + w ≤ 128)
    (hx : x < 2 ^ w) : bitsOf (marker (BitVec.ofNat 128 (packArg fields))) (64 + lo) w = x := by
  rw [bitsOf, extractLsb'_marker _ hn]
  exact (bitsOf_packedField hf hlo hn).trans (Nat.mod_eq_of_lt hx)

/-- Every field of a marker's content reads as it was sent. -/
theorem marker_reads_back {phys logical link m : Nat} (group : Nat) (wake : Bool) (hphys : phys < 2 ^ 5) (hlogical : logical < 2 ^ 5) (hlink : link < 2 ^ 7)
    (hm : m < 2 ^ 16) :
    let x := marker (markerContent phys logical link m group wake)
    mkPhys x = phys ∧ mkLogical x = logical ∧ mkLink x = link ∧ mkCount x = m ∧ mkWake x = wake := by
  have hread {i lo w x : Nat} := bitsOf_marker_packArg (i := i) (lo := lo) (w := w) (x := x)
    (fields := [(5, phys), (5, logical), (7, link), (16, m), (9, group), (1, b2n wake)])
  refine ⟨hread (i := 0) (lo := 0) rfl rfl (by decide) hphys, hread (i := 1) (lo := 5) rfl rfl (by decide) hlogical,
    hread (i := 2) (lo := 10) rfl rfl (by decide) hlink, hread (i := 3) (lo := 17) rfl rfl (by decide) hm, ?_⟩
  exact (congrArg (· == 1) (hread (i := 5) (lo := 42) rfl rfl (by decide) (b2n_lt wake))).trans (by cases wake <;> rfl)

end Sys2Proof.Machine

namespace Sys2Proof
open Machine

/-- Settles O11: the receiver keeps the transmitter's run and register, so it drops and adds the same; the marker's fields stand where they are read. -/
theorem lanesAreUndone : Obligations.LanesAreUndone := by
  unfold Obligations.LanesAreUndone
  refine ⟨fun l _ => unstuff_stuff l 4 0, fun r l => scramble_scramble l r, fun phys logical link m group wake hphys hlogical hlink hm _ => ?_⟩
  exact ⟨markerSync_marker _, markerAgrees_marker _, marker_reads_back group wake hphys hlogical hlink hm⟩

end Sys2Proof
end

section
/-!
PROOFS. Commands of a link (12): those that act while the part is up, and what one changed link of a part leaves of it.
-/
namespace Sys2Proof.Machine

/-- A command that asks no more than that its part is up acts. -/
theorem linkCommand_acts {i : Instr} {p : Part} {f : Block → Block} {b b' : Block} (hup : (b.common p).up = true)
    (hc : ∀ s, exec i s = s.act (fun s => if s.linkUp p then f s else s)) (h : f b = b') : Acts i b b' :=
  acts hc ((if_pos hup).trans h)

theorem modCommon_modCommon (b : Block) (p : Part) (f g : Common → Common) : (b.modCommon p f).modCommon p g = b.modCommon p (fun c => g (f c)) := by cases p <;> rfl

section modLink
variable (b : Block) (p : Part) (k : Nat) (f : Link → Link)

theorem link_modLink_common : ((b.modLink p k f).common p).link k = f ((b.common p).link k) := by
  rw [Block.modLink, Block.modCommon_common, link_modLink]

theorem lstate_modLink_common : ((b.modLink p k f).common p).lstate k = (b.common p).lstate k := by
  rw [Block.modLink, Block.modCommon_common, lstate_modLink]

theorem catchDue_modLink_common : ((b.modLink p k f).common p).catchDue = (b.common p).catchDue := by
  rw [Block.modLink, Block.modCommon_common]
  rfl

end modLink

end Sys2Proof.Machine
end

section
/-!
PROOFS. Launch (12, R281, R287, R290, R291; 15, R346; 06, R137): what takes a link from DETECT through TRAIN, LOCK and EXCHANGE to ACTIVE, and what fails its launch.
-/
namespace Sys2Proof.Machine

section launch
variable {b : Block} {p : Part} {pp : BitVec 7} (hup : (b.common p).up = true)
include hup

/-! ### DETECT, TRAIN and LOCK (R281, R287) -/

theorem presencePulse_acts (hstate : (b.common p).lstate pp.toNat = lsDetect) (henabled : (b.common p).linkEnabled pp.toNat = true)
    (hdue : ∀ t, ((b.common p).link pp.toNat).pulseAt = some t → 100 * cclkUs ≤ (b.common p).since t) :
    Acts (.presencePulse p pp) b (b.modCommon p (fun c =>
      (c.modLink pp.toNat (fun l => { l with pulseAt := some c.stroke })).emit (.linkSignal pp.toNat "PRESENCE" 0))) := by
  refine acts (fun _ => rfl) ?_
  cases hpulse : ((b.common p).link pp.toNat).pulseAt with
  | none => simp only [Block.linkUp, hup, hstate, henabled, hpulse, beq_self_eq_true, Bool.and_self, if_true]
  | some t => simp only [Block.linkUp, hup, hstate, henabled, hpulse, hdue t hpulse, beq_self_eq_true, decide_true, Bool.and_self, if_true]

theorem farEndPresent_acts {lanes : BitVec 20} (hstate : (b.common p).lstate pp.toNat = lsDetect) (hmay : b.mayLaunch p pp.toNat = true)
    (hlanes : laneCount p pp.toNat ≤ popcount (physLanes p pp.toNat) lanes.toNat) :
    Acts (.farEndPresent p pp lanes) b (b.modCommon p (fun c => c.setLstate pp.toNat lsTrain)) :=
  acts (fun _ => rfl) (if_pos (by simp [Block.linkUp, hup, hstate, hmay, hlanes]))

/-- Of a link that is no hall port TRAIN sets the lanes alone. -/
theorem trainComplete_acts {lanes : BitVec 20} (hstate : (b.common p).lstate pp.toNat = lsTrain) (hhall : hallLink p pp.toNat = false)
    (hlanes : laneCount p pp.toNat ≤ popcount (physLanes p pp.toNat) lanes.toNat) :
    Acts (.trainComplete p pp lanes) b (b.modCommon p (fun c => (c.setLanes pp.toNat lanes.toNat).setLstate pp.toNat lsLock)) := by
  refine acts (fun _ => rfl) ((if_pos (by simp [Block.linkUp, hup, hstate, hlanes])).trans ?_)
  simp only [hhall, Bool.false_eq_true, if_false]

section lock
variable {skew : BitVec 16} (hstate : (b.common p).lstate pp.toNat = lsLock) (hsteer : (b.common p).steering pp.toNat = false)
include hstate hsteer

theorem lockComplete_acts (hskew : skew.toNat ≤ skewLimit p pp.toNat) : Acts (.lockComplete p pp skew) b (b.enterExchange p pp.toNat) := by
  refine acts (fun _ => rfl) ((if_neg ?_).trans (if_neg (Nat.not_lt.2 hskew)))
  simp [Block.linkUp, hup, hstate, hsteer]

theorem lockComplete_acts_of_skew (hskew : skewLimit p pp.toNat < skew.toNat) : Acts (.lockComplete p pp skew) b (b.launchFail p pp.toNat) := by
  refine acts (fun _ => rfl) ((if_neg ?_).trans (if_pos hskew))
  simp [Block.linkUp, hup, hstate, hsteer]

end lock

/-! ### Time-outs (R287) -/

/-- A link that is not steered fails its launch once the limit of its state has passed. -/
theorem launchTimeout_acts {n : Nat} (hsteer : (b.common p).steering pp.toNat = false) (hlimit : (b.common p).launchLimit pp.toNat = some n)
    (htime : n ≤ (b.common p).since ((b.common p).link pp.toNat).since) : Acts (.launchTimeout p pp) b (b.launchFail p pp.toNat) := by
  refine acts (fun _ => rfl) ?_
  simp only [hlimit, Block.linkUp, hup, hsteer, htime, decide_true, Bool.not_false, Bool.and_self, if_true]

end launch

section limit
variable {c : Common} {k : Nat}

theorem launchLimit_of_train (h : c.lstate k = lsTrain) : c.launchLimit k = some (10 * cclkMs) := if_pos h

theorem launchLimit_of_lock (h : c.lstate k = lsLock) : c.launchLimit k = some (500 * cclkUs) := by
  simp only [Common.launchLimit, h]
  rfl

section exchange
variable (hstate : c.lstate k = lsExchange)
include hstate

theorem launchLimit_of_negotiation (hkey : (c.link k).keyStage ≠ 0) : c.launchLimit k = some (5 * cclkMs) := by
  simp only [Common.launchLimit, hstate, hkey, ne_eq, not_false_eq_true, if_true]
  rfl

/-- While one end still lacks the other's record, EXCHANGE has a limit. -/
theorem launchLimit_of_records (hkey : (c.link k).keyStage = 0) (hwaits : (c.link k).waits = false) (hlacks : (c.link k).farRec = none ∨ (c.link k).farPass = none) :
    c.launchLimit k = some (100 * cclkUs) := by
  have hopen : ((c.link k).farRec.isSome && !(c.link k).unheard) = false := by
    obtain hfar | hpass := hlacks
    · rw [hfar]; rfl
    · rw [Link.unheard, hpass]; exact Bool.and_false _
  simp only [Common.launchLimit, hstate, hkey, hwaits, hopen, ne_eq, not_true_eq_false, Bool.or_self, Bool.false_eq_true, if_false]
  rfl

end exchange
end limit

/-! ### The far record (R290, R291, R137) -/

/-- The fragments of a link's far record with one more. -/
def Link.withFrag (l : Link) (f : Nat) (bytes : List Byte) : List (Nat × List Byte) := SMap.insert l.frags f (slice bytes 0 30)

/-- The far record that four fragments make. -/
def joinFrags (frags : List (Nat × List Byte)) : List Byte := ((List.range 4).map (fun i => SMap.get [] frags i)).flatten

/-- The units once a link holds its far record; `due`: it is looked at after the catch of this CCLK. -/
def Block.heldRecord (b : Block) (p : Part) (k : Nat) (r : List Byte) (due : Bool) : Block :=
  b.modCommon p (fun c => (c.modLink k (fun l => { l with frags := [] })).modLink k (fun l => { l with farRec := some r, judgeDue := due }))

theorem modLink_modLink_record (b : Block) (p : Part) (k : Nat) (r : List Byte) (due : Bool) :
    (b.modLink p k (fun l => { l with frags := [] })).modLink p k (fun l => { l with farRec := some r, judgeDue := due }) = b.heldRecord p k r due :=
  modCommon_modCommon ..

/-! After a launch from DETECT the record goes through discovery. -/

section judge
variable {b : Block} {p : Part} {k : Nat} {r : List Byte} (hfull : ((b.common p).link k).shortExchange = false)
include hfull

theorem judge_quarantines {e : Nat} (hbad : (b.heldRecord p k r false).discover p k r = .mismatch e) :
    (b.modLink p k (fun l => { l with frags := [] })).judge p k r = (b.heldRecord p k r false).quarantine p k e r := by
  simp only [Block.judge, link_modLink_common, modLink_modLink_record, hfull, hbad, Bool.false_eq_true, if_false]

theorem judge_passes (hgood : (b.heldRecord p k r false).discover p k r = .pass) :
    (b.modLink p k (fun l => { l with frags := [] })).judge p k r = (b.heldRecord p k r false).discovered p k r := by
  simp only [Block.judge, link_modLink_common, modLink_modLink_record, hfull, hgood, Bool.false_eq_true, if_false]

end judge

section frag
variable {b : Block} {p : Part} {k f : Nat} {bytes : List Byte} (hstate : (b.common p).lstate k = lsExchange) (hf : f < 4)
include hstate hf

theorem exchFrag_collects (hfew : (((b.common p).link k).withFrag f bytes).length < 4) :
    b.exchFrag p k f bytes = b.modLink p k (fun l => { l with frags := ((b.common p).link k).withFrag f bytes }) := by
  rw [Link.withFrag] at hfew ⊢
  simp only [Block.exchFrag, hstate, Nat.mod_eq_of_lt hf, hfew, bne_self_eq_false, Bool.false_eq_true, if_false, if_true]

section complete
variable (hfar : ((b.common p).link k).farRec = none) (hfour : 4 ≤ (((b.common p).link k).withFrag f bytes).length)
include hfar hfour

/-- The fourth fragment completes the record. -/
theorem exchFrag_completes :
    b.exchFrag p k f bytes = (b.modLink p k (fun l => { l with frags := [] })).recordHere p k (joinFrags (((b.common p).link k).withFrag f bytes)) := by
  rw [Link.withFrag] at hfour ⊢
  simp only [Block.exchFrag, hstate, hfar, Nat.mod_eq_of_lt hf, Nat.not_lt.2 hfour, bne_self_eq_false, Bool.false_eq_true, if_false, joinFrags]

/-- Where a catch is due in this CCLK the record waits for the values that it leaves (R137). -/
theorem exchFrag_waits (hcatch : (b.common p).catchDue = true) :
    b.exchFrag p k f bytes = b.heldRecord p k (joinFrags (((b.common p).link k).withFrag f bytes)) true := by
  rw [exchFrag_completes hstate hf hfar hfour, Block.recordHere, catchDue_modLink_common, if_pos hcatch]
  exact modLink_modLink_record ..

/-- Otherwise it is judged at once. -/
theorem exchFrag_judges (hcatch : (b.common p).catchDue = false) :
    b.exchFrag p k f bytes = (b.modLink p k (fun l => { l with frags := [] })).judge p k (joinFrags (((b.common p).link k).withFrag f bytes)) := by
  rw [exchFrag_completes hstate hf hfar hfour, Block.recordHere, catchDue_modLink_common, if_neg (Bool.eq_false_iff.1 hcatch)]

end complete
end frag

/-! ### EXCH_ACK, the record again, SPDM messages (R290, R291, R346) -/

section exchange
variable {b : Block} {p : Part} {pp : BitVec 7} (hup : (b.common p).up = true) (hstate : (b.common p).lstate pp.toNat = lsExchange)
include hup hstate

theorem exchAck_acts {pass : Bool} {b' : Block} (h : (b.modLink p pp.toNat (fun l => { l with farPass := some pass })).tryActive p pp.toNat = b') :
    Acts (.exchAck p pp true pass) b b' := by
  refine linkCommand_acts hup (fun _ => rfl) ((if_neg ?_).trans h)
  simp [hstate]

theorem exchResend_acts (hfar : ((b.common p).link pp.toNat).farPass = none) (hdue : cclkUs ≤ (b.common p).since ((b.common p).link pp.toNat).recAt) :
    Acts (.exchResend p pp) b (b.sendRecord p pp.toNat) :=
  acts (fun _ => rfl) (if_pos (by simp [Block.linkUp, hup, hstate, Link.unheard, hfar, hdue]))

/-- A piece joins those before it; a first one begins a message. -/
theorem keyx_acts {f : BitVec 7} {bytes : List Byte} (last : Bool) (hkey : ((b.common p).link pp.toNat).keyStage ≠ 0) :
    let m := (if f.toNat = 0 then [] else ((b.common p).link pp.toNat).keyMsg) ++ bytes
    Acts (.keyx p pp f last bytes) b
      (if last then (b.modLink p pp.toNat (fun l => { l with keyMsg := [] })).keyMessage p pp.toNat m else b.modLink p pp.toNat (fun l => { l with keyMsg := m })) := by
  refine linkCommand_acts hup (fun _ => rfl) (if_neg ?_)
  simp [hstate, hkey]

end exchange

section tryActive
variable {b : Block} {p : Part} {k : Nat}

theorem tryActive_enters (hstate : (b.common p).lstate k = lsExchange) (hmine : ((b.common p).link k).myPass = some true) (hfar : ((b.common p).link k).farPass = some true) :
    b.tryActive p k = b.enterActive p k (!((b.common p).link k).shortExchange) := if_pos (by simp [hstate, hmine, hfar])

theorem tryActive_waits (hmine : ((b.common p).link k).myPass ≠ some true) : b.tryActive p k = b := if_neg (by simp [hmine])

end tryActive

end Sys2Proof.Machine

namespace Sys2Proof
open Machine

/-- Settles O41: each command of launch acts in its state; the fourth fragment brings the record to discovery, and EXCH_ACK of both ends enters ACTIVE. -/
theorem linkLaunches : Obligations.LinkLaunches := by
  unfold Obligations.LinkLaunches
  intro b p pp k c l w hup
  refine ⟨fun hstate henabled hdue => presencePulse_acts hup hstate henabled hdue, fun lanes hstate hmay hlanes => farEndPresent_acts hup hstate hmay hlanes,
    fun lanes hstate hhall hlanes => trainComplete_acts hup hstate hhall hlanes, fun skew hstate hsteer hskew => lockComplete_acts hup hstate hsteer hskew,
    fun skew hstate hsteer hskew => lockComplete_acts_of_skew hup hstate hsteer hskew, fun hsteer => ?timeouts, fun f bytes hstate hfar => ?record,
    fun hstate hmine pass => ?noted, fun hstate hmine => ?enters, fun hstate hfar hdue => exchResend_acts hup hstate hfar hdue, fun f bytes hstate hkey => ?pieces⟩
  case timeouts =>
    have hfails {n : Nat} (hlimit : c.launchLimit k = some n) := launchTimeout_acts hup hsteer hlimit
    exact ⟨fun hstate => hfails (launchLimit_of_train hstate), fun hstate => hfails (launchLimit_of_lock hstate),
      fun hstate hkey => hfails (launchLimit_of_negotiation hstate hkey),
      fun hstate hkey hwaits hlacks => hfails (launchLimit_of_records hstate hkey hwaits hlacks)⟩
  case record =>
    have hexch {b' : Block} (h : b.exchFrag p k f.toNat bytes = b') : Acts (.exch p pp f bytes) b b' := linkCommand_acts hup (fun _ => rfl) h
    refine ⟨fun hfew => ?few, fun hfour hcatch => ?waits, fun hfour hcatch hfull => ⟨fun e hbad => ?mismatch, fun hgood => ?pass⟩⟩
    case few => exact hexch (exchFrag_collects hstate f.isLt hfew)
    case waits => exact hexch (exchFrag_waits hstate f.isLt hfar hfour hcatch)
    case mismatch => exact hexch ((exchFrag_judges hstate f.isLt hfar hfour hcatch).trans (judge_quarantines hfull hbad))
    case pass => exact hexch ((exchFrag_judges hstate f.isLt hfar hfour hcatch).trans (judge_passes hfull hgood))
  case noted =>
    refine exchAck_acts hup hstate (tryActive_waits ?_)
    rwa [link_modLink_common]
  case enters =>
    refine exchAck_acts hup hstate ((tryActive_enters ?_ ?_ ?_).trans ?_)
    · rwa [lstate_modLink_common]
    · rwa [link_modLink_common]
    · rw [link_modLink_common]
    · rw [link_modLink_common]; rfl
  case pieces => exact ⟨keyx_acts hup hstate false hkey, keyx_acts hup hstate true hkey⟩

end Sys2Proof
end

section
/-!
PROOFS. An ACTIVE link (12, R279, R282, R284 to R286, R293; 07, R165): what a group, an acknowledgement, a request for replay and a credit do, and what its timers send.
-/
namespace Sys2Proof.Machine

/-! ### What a group that passes or fails does (R282, R285, R288, R293) -/

/-- A part once NAK with a count has left on a link. -/
def Common.nakSent (c : Common) (k next : Nat) : Common :=
  (c.ctrl k (wordFlit ctNak [next])).modLink k (fun l => { l with waitReplay := some next, partial_ := [], nakRun := l.nakRun + 1 })

theorem nakOut_eq (s : Block) (p : Part) (k : Nat) : s.nakOut p k = s.modCommon p (fun c => c.nakSent k ((s.common p).link k).dlvCount) := rfl

section verdict
variable {s : Block} {p : Part} {k : Nat}

/-- Each flit of a passing group is taken in. -/
theorem groupPassed_delivers (fl : List (List Byte)) (hnak : ((s.common p).link k).swapNak = false) (hwait : ((s.common p).link k).waitReplay = none) :
    s.groupPassed p k fl = fl.foldl (fun s f => s.flitIn p k f) (s.modCommon p (fun c => c.modLink k (fun l => { l with lastRx := c.stroke }))) := by
  simp only [Block.groupPassed, Block.modCommon_common, link_modLink, hnak, hwait, Bool.false_eq_true, if_false]

/-- The first one after a swap is answered with NAK (R293). -/
theorem groupPassed_naks (fl : List (List Byte)) (hnak : ((s.common p).link k).swapNak = true) :
    s.groupPassed p k fl = s.modCommon p (fun c => ((c.modLink k (fun l => { l with lastRx := c.stroke })).modLink k (fun l => { l with swapNak := false })).nakSent k
      ((s.common p).link k).dlvCount) := by
  simp only [Block.groupPassed, nakOut_eq, Block.modLink, modCommon_modCommon, Block.modCommon_common, link_modLink, hnak, if_true]

/-- During a swap a failed group changes nothing. -/
theorem groupFailed_in_swap (h : ((s.common p).link k).swapNak = true ∨ ((s.common p).link k).swapRx ≠ []) : s.groupFailed p k = s :=
  if_pos (by obtain hnak | hswap := h <;> simp [*])

/-- Otherwise NAK leaves, -/
theorem groupFailed_sends (hstate : (s.common p).lstate k = lsActive) (hwait : ((s.common p).link k).waitReplay = none) (hswap : ((s.common p).link k).swapRx = [])
    (hnak : ((s.common p).link k).swapNak = false) : s.groupFailed p k = s.sendNak p k :=
  if_neg (by simp [hstate, hwait, hswap, hnak])

theorem sendNak_below_limit (h : (((s.nakOut p k).common p).link k).nakRun < ((s.nakOut p k).common p).replayLimit k) : s.sendNak p k = s.nakOut p k :=
  if_neg (Nat.not_le.2 h)

/-- and REPLAY_LIMIT of them take the link down (R288). -/
theorem sendNak_at_limit (h : ((s.nakOut p k).common p).replayLimit k ≤ (((s.nakOut p k).common p).link k).nakRun) :
    s.sendNak p k = (s.nakOut p k).leaveActive p k 2 := if_pos h

end verdict

/-! ### Groups of a link without a session (R279) -/

/-- A part once the verdicts of FEC on a group are counted. -/
def Common.groupCounted (c : Common) (k : Nat) (cws : List (Option (List (BitVec 5)))) : Common :=
  (c.fecCount k cws).modLink k (fun l => { l with session := none })

section counted
variable {c : Common} {k : Nat} (cws : List (Option (List (BitVec 5)))) (h : (c.link k).session = none)
include h

/-- Of the link only the counts of corrected symbols differ. -/
theorem groupCounted_link : ∃ x y, (c.groupCounted k cws).link k = { c.link k with symErrors := x, symSince := y } := by
  obtain ⟨x, y, hlink⟩ := fecCount_link c k cws
  refine ⟨x, y, ?_⟩
  rw [Common.groupCounted, link_modLink, hlink, ← h]

/-- A link without a session has no group to number in one. -/
theorem fecCount_modLink_session (f : Session → Session) :
    (c.fecCount k cws).modLink k (fun l => { l with session := l.session.map f }) = c.groupCounted k cws := by
  obtain ⟨x, y, hlink⟩ := fecCount_link c k cws
  exact modLink_congr (by rw [hlink, h]; rfl)

end counted

/-- The units once they are counted. -/
def Block.groupCounted (b : Block) (p : Part) (k : Nat) (cws : List (Option (List (BitVec 5)))) : Block := b.modCommon p (fun c => c.groupCounted k cws)

section group
variable {b : Block} {p : Part} {pp : BitVec 7} {bytes : List Byte} {cws : List (Option (List (BitVec 5)))} {b' : Block}
  (hup : (b.common p).up = true) (hstate : (b.common p).lstate pp.toNat = lsActive) (hsession : ((b.common p).link pp.toNat).session = none)
include hsession

theorem link_groupCounted : ∃ x y, ((b.groupCounted p pp.toNat cws).common p).link pp.toNat = { (b.common p).link pp.toNat with symErrors := x, symSince := y } := by
  rw [Block.groupCounted, Block.modCommon_common]
  exact groupCounted_link cws hsession

/-- NAK of a group asks for the count that the link had reached before it. -/
theorem nakOut_groupCounted : (b.groupCounted p pp.toNat cws).nakOut p pp.toNat
    = b.modCommon p (fun c => (c.groupCounted pp.toNat cws).nakSent pp.toNat ((b.common p).link pp.toNat).dlvCount) := by
  obtain ⟨x, y, hlink⟩ := link_groupCounted hsession (cws := cws)
  rw [nakOut_eq, hlink]
  exact modCommon_modCommon ..

include hup hstate

/-- A group is counted, then it passes or fails. -/
theorem flitGroup_acts {unc : Bool}
    (h : (if unc || cws.contains none || !groupOk bytes then (b.groupCounted p pp.toNat cws).groupFailed p pp.toNat
      else (b.groupCounted p pp.toNat cws).groupPassed p pp.toNat (groupFlits bytes 8)) = b') :
    Acts (.flitGroup p pp bytes cws unc false) b b' := by
  have hcounted (f : Session → Session) : b.modCommon p (fun c => (c.fecCount pp.toNat cws).modLink pp.toNat (fun l => { l with session := l.session.map f }))
    = b.groupCounted p pp.toNat cws := congrArg (b.setCommon p) (fecCount_modLink_session cws hsession f)
  refine acts (fun _ => rfl) (Eq.trans ?_ h)
  simp only [Block.linkUp, hup, hstate, hsession, hcounted, beq_self_eq_true, if_true, Bool.false_and, Bool.false_eq_true, if_false, Common.passed, Option.isSome_none,
    Bool.and_false, Bool.or_false, Bool.not_true, bne_self_eq_false, Bool.or_self]

section good
variable (hok : groupOk bytes = true) (hfec : cws.contains none = false)
include hok hfec

theorem flitGroup_acts_of_good (h : (b.groupCounted p pp.toNat cws).groupPassed p pp.toNat (groupFlits bytes 8) = b') :
    Acts (.flitGroup p pp bytes cws false false) b b' :=
  flitGroup_acts hup hstate hsession ((if_neg (by rw [hok, hfec]; decide)).trans h)

theorem flitGroup_delivers (hnak : ((b.common p).link pp.toNat).swapNak = false) (hwait : ((b.common p).link pp.toNat).waitReplay = none) :
    Acts (.flitGroup p pp bytes cws false false) b ((groupFlits bytes 8).foldl (fun s f => s.flitIn p pp.toNat f)
      (b.modCommon p (fun c => (c.groupCounted pp.toNat cws).modLink pp.toNat (fun l => { l with lastRx := c.stroke })))) := by
  obtain ⟨x, y, hlink⟩ := link_groupCounted hsession (cws := cws)
  refine flitGroup_acts_of_good hup hstate hsession hok hfec ((groupPassed_delivers _ ?_ ?_).trans ?_)
  · rw [hlink]; exact hnak
  · rw [hlink]; exact hwait
  · rw [Block.groupCounted, modCommon_modCommon]; rfl

theorem flitGroup_naks_after_swap (hnak : ((b.common p).link pp.toNat).swapNak = true) :
    Acts (.flitGroup p pp bytes cws false false) b (b.modCommon p (fun c =>
      (((c.groupCounted pp.toNat cws).modLink pp.toNat (fun l => { l with lastRx := c.stroke })).modLink pp.toNat (fun l => { l with swapNak := false })).nakSent pp.toNat
        ((b.common p).link pp.toNat).dlvCount)) := by
  obtain ⟨x, y, hlink⟩ := link_groupCounted hsession (cws := cws)
  refine flitGroup_acts_of_good hup hstate hsession hok hfec ((groupPassed_naks _ ?_).trans ?_)
  · rw [hlink]; exact hnak
  · rw [hlink, Block.groupCounted, modCommon_modCommon]; rfl

end good

section bad
variable {unc : Bool} (hbad : unc = true ∨ cws.contains none = true ∨ groupOk bytes = false)
include hbad

theorem flitGroup_acts_of_bad (h : (b.groupCounted p pp.toNat cws).groupFailed p pp.toNat = b') : Acts (.flitGroup p pp bytes cws unc false) b b' :=
  flitGroup_acts hup hstate hsession ((if_pos (by obtain h | h | h := hbad <;> simp only [h, Bool.true_or, Bool.or_true, Bool.not_false])).trans h)

theorem flitGroup_counts_in_swap (hswap : ((b.common p).link pp.toNat).swapNak = true ∨ ((b.common p).link pp.toNat).swapRx ≠ []) :
    Acts (.flitGroup p pp bytes cws unc false) b (b.groupCounted p pp.toNat cws) := by
  obtain ⟨x, y, hlink⟩ := link_groupCounted hsession (cws := cws)
  refine flitGroup_acts_of_bad hup hstate hsession hbad (groupFailed_in_swap ?_)
  rw [hlink]; exact hswap

section nak
variable (hwait : ((b.common p).link pp.toNat).waitReplay = none) (hswap : ((b.common p).link pp.toNat).swapRx = [])
  (hnak : ((b.common p).link pp.toNat).swapNak = false)
include hwait hswap hnak

theorem flitGroup_acts_of_nak (h : (b.groupCounted p pp.toNat cws).sendNak p pp.toNat = b') : Acts (.flitGroup p pp bytes cws unc false) b b' := by
  obtain ⟨x, y, hlink⟩ := link_groupCounted hsession (cws := cws)
  have hactive : ((b.groupCounted p pp.toNat cws).common p).lstate pp.toNat = lsActive := by
    rw [Block.groupCounted, Block.modCommon_common, Common.groupCounted, lstate_modLink, fecCount_lstate, hstate]
  refine flitGroup_acts_of_bad hup hstate hsession hbad ((groupFailed_sends hactive ?_ ?_ ?_).trans h)
  · rw [hlink]; exact hwait
  · rw [hlink]; exact hswap
  · rw [hlink]; exact hnak

theorem flitGroup_naks
    (hfew : let c := ((b.common p).groupCounted pp.toNat cws).nakSent pp.toNat ((b.common p).link pp.toNat).dlvCount; (c.link pp.toNat).nakRun < c.replayLimit pp.toNat) :
    Acts (.flitGroup p pp bytes cws unc false) b
      (b.modCommon p (fun c => (c.groupCounted pp.toNat cws).nakSent pp.toNat ((b.common p).link pp.toNat).dlvCount)) := by
  have hsent := nakOut_groupCounted hsession (cws := cws)
  refine flitGroup_acts_of_nak hup hstate hsession hbad hwait hswap hnak ((sendNak_below_limit ?_).trans hsent)
  rw [hsent, Block.modCommon_common]; exact hfew

theorem flitGroup_leaves
    (hlimit : let c := ((b.common p).groupCounted pp.toNat cws).nakSent pp.toNat ((b.common p).link pp.toNat).dlvCount; c.replayLimit pp.toNat ≤ (c.link pp.toNat).nakRun) :
    Acts (.flitGroup p pp bytes cws unc false) b
      ((b.modCommon p (fun c => (c.groupCounted pp.toNat cws).nakSent pp.toNat ((b.common p).link pp.toNat).dlvCount)).leaveActive p pp.toNat 2) := by
  have hsent := nakOut_groupCounted hsession (cws := cws)
  refine flitGroup_acts_of_nak hup hstate hsession hbad hwait hswap hnak ((sendNak_at_limit ?_).trans ?_)
  · rw [hsent, Block.modCommon_common]; exact hlimit
  · rw [hsent]

end nak
end bad
end group

/-! ### Acknowledgement (R284) -/

/-- A link once the flits up to a count are acknowledged. -/
def Link.released (l : Link) (now count : Nat) : Link :=
  let n := countDiff count l.relCount
  { l with relCount := count, replayBuf := l.replayBuf.drop n, ends := l.ends.filter (fun e => !decide (countDiff e.1 l.relCount ≤ n)),
           idleSince := if n = 0 then l.idleSince else now }

section link
variable {b : Block} {p : Part} {k : Nat}

/-- A count ahead of what was sent is ignored. -/
theorem acked_ignores {count : Nat} (h : ((b.common p).link k).replayBuf.length < countDiff count ((b.common p).link k).relCount) : b.acked p k count = b :=
  if_pos (by simp [h])

variable (hstate : (b.common p).lstate k = lsActive)
include hstate

/-- With no RESULT or MIRROR packet to report, the release concerns the link alone. -/
theorem acked_releases {count : Nat} (hcount : count < 2 ^ 16) (h : countDiff count ((b.common p).link k).relCount ≤ ((b.common p).link k).replayBuf.length)
    (hends : p = .oe36 ∨ ((b.common p).link k).ends = []) :
    b.acked p k count = b.modLink p k (fun l => l.released (b.common p).stroke count) := by
  have hreleased : b.modLink p k (fun m => { m with
      relCount := count % 2 ^ 16, replayBuf := m.replayBuf.drop (countDiff count ((b.common p).link k).relCount),
      ends := m.ends.filter (fun e => !decide (countDiff e.1 ((b.common p).link k).relCount ≤ countDiff count ((b.common p).link k).relCount)),
      idleSince := if countDiff count ((b.common p).link k).relCount = 0 then m.idleSince else (b.common p).stroke })
    = b.modLink p k (fun l => l.released (b.common p).stroke count) := congrArg (b.setCommon p) (modLink_congr (by rw [Nat.mod_eq_of_lt hcount]; rfl))
  simp only [Block.acked, hstate, hreleased, Nat.not_lt.2 h, bne_self_eq_false, decide_false, Bool.or_self, Bool.false_eq_true, if_false]
  obtain rfl | hnone := hends
  · rfl
  · rw [hnone, List.filter_nil, List.foldl_nil, ite_self]

end link

/-! ### Replay (R285, R165) -/

/-- A replay disturbs no launch on a link of an endpoint, on a hall port, or where none is under way (R333). -/
theorem disturbed_of_calm {b : Block} {p : Part} {k : Nat} (h : p = .oe36 ∨ hallLink p k = true ∨ b.ox.launches.any (fun l => !l.ended) = false)
    (c : Common) : (b.setCommon p c).disturbed p k = b.setCommon p c := by
  have hox : (b.setCommon p c).ox = b.ox := Block.modCommon_ox b p (fun _ => c)
  refine if_pos ?_
  rw [hox]
  obtain hendpoint | hhall | hnone := h
  · simp [hendpoint]
  · simp [hhall]
  · simp [hnone]

/-- REPLAY and the flits from a count on leave; the replay is counted and logged. -/
def Common.replaySent (c : Common) (k next : Nat) : Common :=
  let fl := (c.link k).replayBuf.drop (countDiff next (c.link k).relCount)
  let c1 := (c.ctrl k (wordFlit ctReplay [next])).modLink k (fun l => { l with
    replaying := some (next, c.stroke), session := l.session.map (fun x => x.sent (groupsOf true (fl.length + 1))) })
  (((c1.emit (.flits k fl)).count (ob 0x3006 k) 32 32 1).logReplay k)

section nak
variable {b : Block} {p : Part} {k next : Nat} (hstate : (b.common p).lstate k = lsActive) (hnext : next < 2 ^ 16)
  (h : countDiff next ((b.common p).link k).relCount ≤ ((b.common p).link k).replayBuf.length)
  (hagain : ((b.common p).link k).replaying ≠ some (next, (b.common p).stroke))
include hstate hnext h hagain

/-- Such a NAK is not ignored. -/
theorem naked_heard : ((b.common p).lstate k != lsActive || ((b.common p).link k).replaying == some (next % 2 ^ 16, (b.common p).stroke)
    || decide (((b.common p).link k).replayBuf.length < countDiff next ((b.common p).link k).relCount)) = false := by
  rw [Nat.mod_eq_of_lt hnext]
  simp [hstate, hagain, Nat.not_lt.2 h]

/-- While flow control holds the buffer of a switch's port, NAK waits. -/
theorem naked_waits (hswitch : p = .ox720) (hheld : b.fciHolds k = true) : b.naked p k next = b.modLink p k (fun l => { l with nakHeld := some next }) := by
  have hholds : (p == .ox720 && b.fciHolds k) = true := by rw [hswitch, hheld]; rfl
  exact (if_neg (Bool.eq_false_iff.1 (naked_heard hstate hnext h hagain))).trans (if_pos hholds)

/-- Otherwise the flits leave again; of a launch under way nothing is disturbed. -/
theorem naked_replays (hfree : p = .ox720 → b.fciHolds k = false) (hcalm : p = .oe36 ∨ hallLink p k = true ∨ b.ox.launches.any (fun l => !l.ended) = false) :
    b.naked p k next = b.modCommon p (fun c => c.replaySent k next) := by
  have hopen : (p == .ox720 && b.fciHolds k) = false := by
    cases p with
    | oe36 => rfl
    | ox720 => exact hfree rfl
  have hcount : next % 2 ^ 16 = next := Nat.mod_eq_of_lt hnext
  refine (if_neg (Bool.eq_false_iff.1 (naked_heard hstate hnext h hagain))).trans ((if_neg (Bool.eq_false_iff.1 hopen)).trans ?_)
  refine (disturbed_of_calm hcalm _).trans ?_
  rw [hcount]
  rfl

end nak

section link
variable {b : Block} {p : Part} {pp : BitVec 7} (hup : (b.common p).up = true) (hstate : (b.common p).lstate pp.toNat = lsActive)
include hup hstate

/-- REPLAY with the count that the receiver waits for ends the wait. -/
theorem replay_acts {first : BitVec 16} (hwait : ((b.common p).link pp.toNat).waitReplay = some first.toNat) :
    Acts (.replay p pp first) b (b.modLink p pp.toNat (fun l => { l with waitReplay := none, partial_ := [] })) := by
  refine acts (fun _ => rfl) ((if_pos (by simp [Block.linkUp, hup, hstate])).trans (congrArg (b.setCommon p) (modLink_congr ?_)))
  rw [hwait, Nat.mod_eq_of_lt first.isLt]
  exact if_pos (beq_self_eq_true _)

/-! ### Credits, and the timers of both (R284, R286) -/

theorem credit_acts (c0 c1 c2 c3 c4 : BitVec 16) :
    Acts (.credit p pp [c0, c1, c2, c3, c4]) b (b.modLink p pp.toNat (fun l => { l with freed := [c0.toNat, c1.toNat, c2.toNat, c3.toNat, c4.toNat] })) := by
  have hcounts : (List.range 5).map (fun n => ([c0, c1, c2, c3, c4].map (fun c => c.toNat)).getD n 0 % 2 ^ 16) = [c0.toNat, c1.toNat, c2.toNat, c3.toNat, c4.toNat] := by
    simp [List.range_succ, Nat.mod_eq_of_lt (BitVec.isLt _)]
  refine linkCommand_acts hup (fun _ => rfl) ((if_neg (by simp [hstate])).trans ?_)
  rw [hcounts]

theorem ackTimer_acts (h : ((b.common p).link pp.toNat).ackOwed = true) : Acts (.ackTimer p pp) b (b.modCommon p (fun c => c.sendAck pp.toNat)) :=
  acts (fun _ => rfl) (if_pos (by simp [Block.linkUp, hup, hstate, h]))

theorem creditTimer_acts (h : 0 < ((b.common p).link pp.toNat).unreported) : Acts (.creditTimer p pp) b (b.modCommon p (fun c => c.sendCredit pp.toNat)) :=
  acts (fun _ => rfl) (if_pos (by simp [Block.linkUp, hup, hstate, h]))

end link

end Sys2Proof.Machine

namespace Sys2Proof
open Machine

/-- Settles O42: FEC leaves of a group's link all that its verdict turns on, so the group passes or fails as the link stood; ACK and NAK count from what was sent. -/
theorem linkDelivers : Obligations.LinkDelivers := by
  unfold Obligations.LinkDelivers
  intro b p pp k c l hup hstate
  refine ⟨fun hsession hwait bytes cws => ?groups, fun count => ⟨fun h => ?ahead, fun h hends => ?acked⟩,
    fun next h hagain => ⟨fun hswitch hheld => ?held, fun hfree hcalm => ?replayed⟩, fun first hwait => replay_acts hup hstate hwait,
    fun c0 c1 c2 c3 c4 => credit_acts hup hstate c0 c1 c2 c3 c4, fun h => ackTimer_acts hup hstate h, fun h => creditTimer_acts hup hstate h⟩
  case groups =>
    exact ⟨fun hok hfec => ⟨fun hnak => flitGroup_delivers hup hstate hsession hok hfec hnak hwait, fun hnak => flitGroup_naks_after_swap hup hstate hsession hok hfec hnak⟩,
      fun unc hbad => ⟨fun hswap => flitGroup_counts_in_swap hup hstate hsession hbad hswap, fun hnak hswap =>
        ⟨fun hfew => flitGroup_naks hup hstate hsession hbad hwait hswap hnak hfew, fun hlimit => flitGroup_leaves hup hstate hsession hbad hwait hswap hnak hlimit⟩⟩⟩
  case ahead => exact linkCommand_acts hup (fun _ => rfl) (acked_ignores h)
  case acked => exact linkCommand_acts hup (fun _ => rfl) (acked_releases hstate count.isLt h hends)
  case held => exact linkCommand_acts hup (fun _ => rfl) (naked_waits hstate next.isLt h hagain hswitch hheld)
  case replayed => exact linkCommand_acts hup (fun _ => rfl) (naked_replays hstate next.isLt h hagain hfree hcalm)

end Sys2Proof
end

section
/-!
PROOFS. The lanes of an ACTIVE link (12, R280, R288, R292 to R294): what a marker says, how a lost lane is swapped for a spare at both ends, and what silence or LINK_DOWN does.
-/
namespace Sys2Proof.Machine

/-! ### Which lanes are swapped, and when (R293, R294) -/

/-- Physical lane `lane` of an ACTIVE link carries logical lane `g`, and no swap is asked for or under way. -/
structure Block.SwapFree (b : Block) (p : Part) (k lane g : Nat) : Prop where
  active : (b.common p).lstate k = lsActive
  carries : (b.common p).logicalOf k lane = some g
  idle : ((b.common p).link k).swapRx = []
  unasked : ((b.common p).link k).swapAsk = []

/-- A link once it has asked, at the end of the CCLK, for the last spare. -/
def Link.asksSwap (l : Link) (g lane : Nat) (lost : Bool) : Link := { l with swapAsk := l.swapAsk.filter (fun e => e.1 != g) ++ [(g, lane, lost)] }

/-- A part once SPARE_SWAP of the link's first swap has left. -/
def Common.swapSent (c : Common) (k g sp : Nat) : Common :=
  (c.modLink k (fun l => { l with swapRx := [(g, sp, none)], nakRun := 0 })).ctrl k (ctrlFlit ctSwap [BitVec.ofNat 8 g, BitVec.ofNat 8 sp])

/-- With no swap under way every spare in standby is free. -/
theorem spares_of_idle {l : Link} (h : l.swapRx = []) : l.spares = l.standby := by
  simp only [Link.spares, h, List.any_nil, Bool.not_false, List.filter_true]

section swap
variable {b : Block} {p : Part} {k lane g : Nat}

/-- A link's count of corrected symbols has no part in it. -/
theorem Block.SwapFree.modLink_symErrors (h : b.SwapFree p k lane g) (f : Link → SMap Nat) : (b.modLink p k (fun l => { l with symErrors := f l })).SwapFree p k lane g where
  active := (lstate_modLink_common ..).trans h.active
  carries := by rw [Block.modLink, Block.modCommon_common]; exact h.carries
  idle := by rw [link_modLink_common]; exact h.idle
  unasked := by rw [link_modLink_common]; exact h.unasked

theorem beginSwap_sends {lost : Bool} {sp : Nat} {r : List Nat} (hidle : ((b.common p).link k).swapRx = []) (hspare : ((b.common p).link k).standby = sp :: r) :
    b.beginSwap p k g lost = b.modCommon p (fun c => c.swapSent k g sp) := by
  have hsent : (b.common p).modLink k (fun l => { l with swapRx := l.swapRx ++ [(g, sp, none)], nakRun := 0 })
    = (b.common p).modLink k (fun l => { l with swapRx := [(g, sp, none)], nakRun := 0 }) := modLink_congr (by rw [hidle]; rfl)
  simp only [Block.beginSwap, spares_of_idle hidle, hspare, Block.modCommon, hsent, Common.swapSent]

/-- For a lost lane without a spare SPARE_EXHAUSTED is logged, and the link leaves ACTIVE. -/
theorem beginSwap_exhausts (hidle : ((b.common p).link k).swapRx = []) (hnone : ((b.common p).link k).standby = []) :
    b.beginSwap p k g true = (b.modCommon p (fun c => c.log 0x1005 .uncorrected k (packArg [(7, k), (5, g)]))).leaveActive p k 0 := by
  simp only [Block.beginSwap, spares_of_idle hidle, hnone, if_true]

section free
variable (h : b.SwapFree p k lane g) (lost : Bool)
include h

/-- Where one spare is left the lane asks for it at the end of the CCLK (R300). -/
theorem swapLane_asks {sp : Nat} (hspare : ((b.common p).link k).standby = [sp]) :
    b.swapLane p k lane lost = b.modLink p k (fun l => l.asksSwap g lane lost) := by
  obtain ⟨hstate, hcarries, hidle, hunasked⟩ := h
  simp only [Block.swapLane, hstate, hcarries, hidle, hunasked, spares_of_idle hidle, hspare, bne_self_eq_false, List.any_nil, Bool.or_self, List.length_singleton,
    Bool.false_eq_true, if_false, if_true]
  rfl

/-- Otherwise the swap begins at once. -/
theorem swapLane_begins (hspares : ((b.common p).link k).standby.length ≠ 1) : b.swapLane p k lane lost = b.beginSwap p k g lost := by
  obtain ⟨hstate, hcarries, hidle, hunasked⟩ := h
  simp only [Block.swapLane, hstate, hcarries, hidle, hunasked, spares_of_idle hidle, hspares, bne_self_eq_false, List.any_nil, Bool.or_self, Bool.false_eq_true, if_false]

theorem swapLane_sends {sp : Nat} {r : List Nat} (hspare : ((b.common p).link k).standby = sp :: r) (hmore : r ≠ []) :
    b.swapLane p k lane lost = b.modCommon p (fun c => c.swapSent k g sp) := by
  refine (swapLane_begins h lost ?_).trans (beginSwap_sends h.idle hspare)
  rw [hspare, List.length_cons]
  exact fun hone => hmore (List.eq_nil_of_length_eq_zero (Nat.succ.inj hone))

end free

/-- Only a hall port shows a wavelength out of service. -/
theorem wlOut_of_no_hall {c : Common} {k : Nat} (h : hallLink c.kind k = false) (lane : Nat) : c.wlOut k lane = c := if_neg (Bool.eq_false_iff.1 h)

/-- A spare that is lost stands by no longer. -/
theorem swapLane_drops_spare (hstate : (b.common p).lstate k = lsActive) (hspare : (b.common p).logicalOf k lane = none) (hhall : hallLink (b.common p).kind k = false) :
    b.swapLane p k lane true = b.modLink p k (fun l => { l with standby := l.standby.filter (fun x => x != lane), outLanes := insertNat l.outLanes lane }) := by
  simp only [Block.swapLane, hstate, hspare, bne_self_eq_false, Bool.false_eq_true, if_false, if_true]
  exact congrArg (b.setCommon p) (wlOut_of_no_hall (by exact hhall) lane)

end swap

/-! ### The commands of a lane (R280, R292 to R294) -/

section lanes
variable {b : Block} {p : Part} {pp : BitVec 7} (hup : (b.common p).up = true)
include hup

theorem laneLossOfLock_acts {lane : BitVec 5} {b' : Block} (h : b.swapLane p pp.toNat lane.toNat true = b') : Acts (.laneLossOfLock p pp lane false) b b' := by
  refine acts (fun _ => rfl) (Eq.trans ?_ h)
  simp only [Block.linkUp, hup, detects_of_noInjection, Block.when, Bool.not_true, Bool.false_eq_true, if_false]

section errors
variable {lane : BitVec 5} {n : BitVec 32}

/-- Past its limit of corrected symbols a lane is swapped; -/
theorem laneErrorLimit_acts {b' : Block} (hlimit : (b.common p).laneErrLimit pp.toNat < n.toNat)
    (h : (b.modLink p pp.toNat (fun l => { l with symErrors := SMap.set 0 l.symErrors lane.toNat n.toNat })).swapLane p pp.toNat lane.toNat false = b') :
    Acts (.laneErrorLimit p pp lane n false) b b' := by
  refine acts (fun _ => rfl) (Eq.trans ?_ h)
  simp only [Block.linkUp, hup, detects_of_noInjection, hlimit, Block.when, Bool.not_true, Bool.false_eq_true, if_false, if_true]

/-- below it the symbols are noted. -/
theorem laneErrorLimit_acts_of_few (hlimit : n.toNat ≤ (b.common p).laneErrLimit pp.toNat) :
    Acts (.laneErrorLimit p pp lane n false) b (b.modLink p pp.toNat (fun l => { l with symErrors := SMap.set 0 l.symErrors lane.toNat n.toNat })) := by
  refine acts (fun _ => rfl) ?_
  simp only [Block.linkUp, hup, detects_of_noInjection, Nat.not_lt.2 hlimit, Block.when, Bool.not_true, Bool.false_eq_true, if_false]

end errors

/-- The ACK is remembered with the swap that it answers. -/
theorem spareSwapAck_acts {logical phys : BitVec 5} {cw m : BitVec 16} {r : List (Nat × Nat × Option (Nat × Nat))}
    (h : ((b.common p).link pp.toNat).swapRx = (logical.toNat, phys.toNat, none) :: r) :
    Acts (.spareSwapAck p pp logical phys cw m) b
      (b.modLink p pp.toNat (fun l => { l with swapRx := (logical.toNat, phys.toNat, some (cw.toNat, m.toNat)) :: r })) := by
  refine linkCommand_acts hup (fun _ => rfl) (congrArg (b.setCommon p) (modLink_congr ?_))
  simp only [h, replaceFirst, beq_self_eq_true, Bool.and_self, if_true]

variable (hstate : (b.common p).lstate pp.toNat = lsActive)
include hstate

/-- The transmitter answers with two numbers that the spec leaves free. -/
theorem spareSwap_acts {logical phys : BitVec 5} (hlogical : logical.toNat < laneCount p pp.toNat) (hphys : phys.toNat < physLanes p pp.toNat) :
    let cw := (Config.freeWord b.free).toNat % 16384
    let m := (Config.freeWord (b.free + 1)).toNat % 65536
    Acts (.spareSwap p pp logical phys) b { b.modCommon p (fun c => (c.modLink pp.toNat (fun l => { l with swapTx := l.swapTx ++ [(logical.toNat, phys.toNat, cw, m)] })).ctrl pp.toNat
      (ctrlFlit ctSwapAck ([BitVec.ofNat 8 logical.toNat, BitVec.ofNat 8 phys.toNat] ++ leBytes 2 cw ++ leBytes 2 m))) with free := b.free + 2 } := by
  refine linkCommand_acts hup (fun _ => rfl) ((if_neg (by simp [hstate, Nat.not_le.2 hlogical, Nat.not_le.2 hphys])).trans ?_)
  simp only [Block.tick, Block.modCommon_free]

section codeword
variable {g sp : Nat}

/-- At the codeword the receiver takes the lane from the spare, -/
theorem spareSwapCodeword_acts_at_receiver {at_ : Nat × Nat} {r : List (Nat × Nat × Option (Nat × Nat))} (h : ((b.common p).link pp.toNat).swapRx = (g, sp, some at_) :: r)
    (hhall : hallLink (b.common p).kind pp.toNat = false) :
    Acts (.spareSwapCodeword p pp true) b (b.modCommon p (fun c => ((c.setFld (ob 0x3002 pp.toNat) (5 * g) 5 sp).modLink pp.toNat (fun l => { l with
      swapRx := r, standby := l.standby.filter (fun x => x != sp), outLanes := insertNat l.outLanes (c.laneOf pp.toNat g), swapNak := true, nakRun := 0,
      lastRx := c.stroke })).logSwap pp.toNat 1 g sp)) := by
  have hfind : ((b.common p).link pp.toNat).swapRx.find? (fun e => e.2.2.isSome) = some (g, sp, some at_) := by rw [h]; rfl
  have herase : eraseFirst (fun x => x == (g, sp, some at_)) ((b.common p).link pp.toNat).swapRx = r := by rw [h, eraseFirst, beq_self_eq_true, if_pos rfl]
  refine acts (fun _ => rfl) ?_
  simp only [Block.linkUp, hup, hstate, hfind, Bool.not_true, bne_self_eq_false, Bool.or_self, Bool.false_eq_true, if_false, if_true]
  refine congrArg (fun c : Common => b.setCommon p (c.logSwap pp.toNat 1 g sp)) ((wlOut_of_no_hall (by exact hhall) _).trans (modLink_congr ?_))
  rw [link_setFld, herase]

/-- and the transmitter sends it there. -/
theorem spareSwapCodeword_acts_at_transmitter {cw m : Nat} {r : List (Nat × Nat × Nat × Nat)} (h : ((b.common p).link pp.toNat).swapTx = (g, sp, cw, m) :: r) :
    Acts (.spareSwapCodeword p pp false) b (b.modCommon p (fun c => (c.modLink pp.toNat (fun l => { l with swapTx := r, txMap := l.txMap.set g sp })).logSwap pp.toNat 0 g sp)) := by
  refine acts (fun _ => rfl) ?_
  simp only [Block.linkUp, hup, hstate, h, Bool.not_true, bne_self_eq_false, Bool.or_self, Bool.false_eq_true, if_false]

end codeword

section marker
variable {lane : BitVec 5} {m : BitVec 320} (hsync : markerSync m = true) (hagrees : markerAgrees m = true)
include hsync hagrees

/-- A marker on its place brings the marker count or, with WAKE, ends FEATHER (R280, R295). -/
theorem laneMarker_acts :
    Acts (.laneMarker p pp lane m true) b (b.modCommon p (fun c =>
      if mkWake m then (c.setBit (ob 0x3001 pp.toNat) 4 false).modLink pp.toNat (fun l => { l with lastRx := c.stroke })
      else c.modLink pp.toNat (fun l => { l with mcount := mkCount m }))) := by
  refine acts (fun _ => rfl) ?_
  simp only [Block.linkUp, Block.modCommon, hup, hstate, hsync, hagrees, beq_self_eq_true, Bool.not_true, Bool.and_false, Bool.or_self, Bool.true_or, Bool.false_eq_true,
    if_false, if_true]
  cases mkWake m <;> rfl

end marker

/-! ### Silence and LINK_DOWN (R288) -/

theorem keepalive_acts (hfeather : (b.common p).bit (ob 0x3001 pp.toNat) 4 = false) (hswap : ((b.common p).link pp.toNat).swapRx = [])
    (htime : cclkUs ≤ (b.common p).since ((b.common p).link pp.toNat).lastRx) : Acts (.keepalive p pp false) b (b.leaveActive p pp.toNat 1) := by
  refine acts (fun _ => rfl) ?_
  simp only [Block.linkUp, hup, hstate, hfeather, hswap, htime, Bool.false_and, Bool.false_eq_true, if_false, if_true, Bool.not_true, bne_self_eq_false, Bool.not_false,
    List.isEmpty_nil, decide_true, Bool.and_self]

end lanes

theorem farDown_eq {b : Block} {p : Part} {k cause : Nat} (h : cause < 8) : b.farDown p k cause = (b.modLink p k (fun l => { l with farCause := cause })).leaveActive p k 3 := by
  rw [Block.farDown, Nat.mod_eq_of_lt h]

end Sys2Proof.Machine

namespace Sys2Proof
open Machine

/-- Settles O43: a lane that carries data goes to the first spare, waits for the last one or takes the link down; each command of a swap does its end's part of it. -/
theorem lanesSwap : Obligations.LanesSwap := by
  unfold Obligations.LanesSwap
  intro b p pp k c l hup hstate
  refine ⟨fun lane m hsync hagrees hwake => ?count, fun lane m hsync hagrees hwake => ?wake, fun lane g sp r hcarries hidle hunasked hspare => ?carried,
    fun lane g hcarries hidle hunasked hnone => ?exhausted, fun lane hfree hhall => laneLossOfLock_acts hup (swapLane_drops_spare hstate hfree hhall),
    fun logical phys hlogical hphys => ?asked, fun logical phys cw m r h => spareSwapAck_acts hup h,
    fun g sp at_ r h hhall => spareSwapCodeword_acts_at_receiver hup hstate h hhall, fun g sp cw m r h => spareSwapCodeword_acts_at_transmitter hup hstate h,
    fun hfeather hswap htime => keepalive_acts hup hstate hfeather hswap htime, fun cause => linkCommand_acts hup (fun _ => rfl) (farDown_eq cause.isLt)⟩
  case count =>
    have hacts := laneMarker_acts hup hstate hsync hagrees (lane := lane)
    rwa [hwake] at hacts
  case wake =>
    have hacts := laneMarker_acts hup hstate hsync hagrees (lane := lane)
    rwa [hwake] at hacts
  case carried =>
    have hfree : b.SwapFree p k lane.toNat g := ⟨hstate, hcarries, hidle, hunasked⟩
    refine ⟨fun hmore => laneLossOfLock_acts hup (swapLane_sends hfree true hspare hmore), fun hlast => ?last,
      fun n => ⟨fun hlimit => ?beyond, fun hlimit => laneErrorLimit_acts_of_few hup hlimit⟩⟩
    case last =>
      subst hlast
      exact laneLossOfLock_acts hup (swapLane_asks hfree true hspare)
    case beyond =>
      have hnoted := hfree.modLink_symErrors (fun l => SMap.set 0 l.symErrors lane.toNat n.toNat)
      have hstill : (((b.modLink p k (fun l => { l with symErrors := SMap.set 0 l.symErrors lane.toNat n.toNat })).common p).link k).standby = sp :: r := by
        rw [link_modLink_common]; exact hspare
      refine ⟨fun hmore => laneErrorLimit_acts hup hlimit ((swapLane_sends hnoted false hstill hmore).trans (modCommon_modCommon ..)), fun hlast => ?_⟩
      subst hlast
      exact laneErrorLimit_acts hup hlimit ((swapLane_asks hnoted false hstill).trans (modCommon_modCommon ..))
  case exhausted =>
    have hfree : b.SwapFree p k lane.toNat g := ⟨hstate, hcarries, hidle, hunasked⟩
    have hcount : l.standby.length ≠ 1 := by rw [hnone]; decide
    exact laneLossOfLock_acts hup ((swapLane_begins hfree true hcount).trans (beginSwap_exhausts hidle hnone))
  case asked => exact ⟨_, _, Nat.mod_lt _ (by decide), Nat.mod_lt _ (by decide), spareSwap_acts hup hstate hlogical hphys⟩

end Sys2Proof
end

section
/-!
PROOFS. Modes of a link (12, R288, R295 to R297, R299): FEATHER, DOCK, the ergo tests and relaunch of links other than hall links, and the views of the bridge token.
-/
namespace Sys2Proof.Machine

section modes
variable {b : Block} {p : Part} {pp : BitVec 7} (hup : (b.common p).up = true)
include hup

/-! ### FEATHER (R295) -/

section active
variable (hstate : (b.common p).lstate pp.toNat = lsActive)
include hstate

theorem featherExit_acts (hfeather : (b.common p).bit (ob 0x3001 pp.toNat) 3 = true) :
    Acts (.featherExit p pp) b (b.modCommon p (fun c =>
      ((((c.setBit (ob 0x3001 pp.toNat) 3 false).count (ob 0x3008 pp.toNat) 0 64 1).emit (.linkSignal pp.toNat "WAKE" (c.link pp.toNat).mcount)).modLink pp.toNat
        (fun l => { l with idleSince := c.stroke })))) := by
  refine acts (fun _ => rfl) ((if_pos (by simp [Block.linkUp, hup, hstate])).trans ?_)
  simp only [Block.modCommon, Common.wake, hfeather, if_true]

theorem dockTimeout_acts (hdocking : ((b.common p).link pp.toNat).docking = true) (htime : 2 * cclkUs ≤ (b.common p).since ((b.common p).link pp.toNat).since) :
    Acts (.dockTimeout p pp) b (b.enterDock p pp.toNat) :=
  acts (fun _ => rfl) (if_pos (by simp [Block.linkUp, hup, hstate, hdocking, htime]))

end active

/-! ### Commands of the control object (R296, R297) -/

/-- The catch that ends a test counts what the checker found, and the link launches again. -/
theorem ergoDone_acts (hstate : (b.common p).lstate pp.toNat = lsErgo) (bits errors : BitVec 64) :
    Acts (.ergoDone p pp bits errors) b ((b.modCommon p (fun c =>
      (((c.setFld (ob 0x3000 pp.toNat) 3 2 0).count (ob 0x3009 pp.toNat) 0 64 bits.toNat).count (ob 0x300A pp.toNat) 0 64 errors.toNat).log 0x1007 .info pp.toNat
        (packArg [(7, pp.toNat), (2, (b.common p).fld (ob 0x3000 pp.toNat) 3 2), (64, errors.toNat)]))).toDetect p pp.toNat) := by
  refine acts (fun _ => rfl) ((if_pos (by simp [Block.linkUp, hup, hstate])).trans ?_)
  rw [Block.ergoEnd, modCommon_modCommon]

section ctl
variable (hhall : hallLink p pp.toNat = false)
include hhall

theorem featherEntry_acts (hstate : (b.common p).lstate pp.toNat = lsActive) (henabled : (b.common p).bit (ob 0x3000 pp.toNat) 1 = true)
    (hawake : (b.common p).bit (ob 0x3001 pp.toNat) 3 = false) (hqueue : ∀ x ∈ (b.common p).txq, x.1 ≠ pp.toNat) (hreplay : ((b.common p).link pp.toNat).replayBuf = [])
    (hack : ((b.common p).link pp.toNat).ackOwed = false) (hcredit : ((b.common p).link pp.toNat).unreported = 0)
    (hidle : (b.common p).fld (ob 0x3004 pp.toNat) 0 16 * 7 ≤ (b.common p).since ((b.common p).link pp.toNat).idleSince * 4) :
    Acts (.featherEntry p pp) b (b.modCommon p (fun c => (c.emit (.ctrl pp.toNat (ctrlFlit ctFeather []))).setBit (ob 0x3001 pp.toNat) 3 true)) := by
  have hempty : (b.common p).txq.any (fun x => x.1 == pp.toNat) = false := List.any_eq_false.2 fun x hx => by simpa using hqueue x hx
  exact acts (fun _ => rfl) (if_pos (by simp only [Block.linkUp, hup, hstate, hhall, henabled, hawake, hempty, hreplay, hack, hcredit, hidle,
    List.isEmpty_nil, beq_self_eq_true, decide_true, Bool.not_false, Bool.and_self]))

/-- A command of the control object of a link that has one acts. -/
theorem ctlCommand_acts {i : Instr} {f : Block → Block} {b' : Block} (hc : ∀ s, exec i s = s.act (fun s => if s.linkUp p && hasCtl p pp.toNat then f s else s))
    (h : f b = b') : Acts i b b' :=
  acts hc ((if_pos (by simp [Block.linkUp, hup, hasCtl, hhall])).trans h)

/-- A mode takes the link out of ACTIVE, -/
theorem ergo_acts {mode : BitVec 2} (h : mode.toNat ≠ 0) :
    Acts (.ergo p pp mode) b ((b.modCommon p (fun c => c.setFld (ob 0x3000 pp.toNat) 3 2 mode.toNat)).ergoStart p pp.toNat) :=
  acts (fun _ => rfl) ((if_neg (by simp [Block.linkUp, hup, hasCtl, hhall])).trans (if_pos h))

/-- and where no test runs 0 ends none. -/
theorem ergo_acts_of_none (hstate : (b.common p).lstate pp.toNat ≠ lsErgo) :
    Acts (.ergo p pp 0) b (b.modCommon p (fun c => c.setFld (ob 0x3000 pp.toNat) 3 2 0)) :=
  acts (fun _ => rfl) ((if_neg (by simp [Block.linkUp, hup, hasCtl, hhall])).trans ((if_neg (by decide)).trans (if_neg (by simpa using hstate))))

end ctl
end modes

/-! ### What these commands do to the units (R295 to R297, R300) -/

section units
variable {b : Block} {p : Part} {k : Nat}

theorem feathered_eq (hstate : (b.common p).lstate k = lsActive) (hhall : hallLink p k = false) : b.feathered p k = b.modCommon p (fun c => c.setBit (ob 0x3001 k) 4 true) :=
  if_pos (by simp [hstate, hhall])

section dockFlit
variable (hstate : (b.common p).lstate k = lsActive) (hhall : hallLink p k = false)
include hstate hhall

theorem dockFlit_heard : ¬ ((b.common p).lstate k != lsActive || !hasCtl p k) = true := by simp [hstate, hasCtl, hhall]

theorem dockFlit_refuses (hlast : b.lastLink p k = true) : b.dockFlit p k false = b.modCommon p (fun c => c.log 0x1009 .info k (packArg [(7, k)])) :=
  (if_neg (dockFlit_heard hstate hhall)).trans ((if_neg Bool.false_ne_true).trans (if_pos hlast))

theorem dockFlit_follows (hlast : b.lastLink p k = false) : b.dockFlit p k false = (b.modCommon p (fun c => c.ctrl k (ctrlFlit ctDock [1]))).enterDock p k :=
  (if_neg (dockFlit_heard hstate hhall)).trans ((if_neg Bool.false_ne_true).trans (if_neg (Bool.eq_false_iff.1 hlast)))

theorem dockFlit_ends (hdocking : ((b.common p).link k).docking = true) : b.dockFlit p k true = b.enterDock p k :=
  (if_neg (dockFlit_heard hstate hhall)).trans ((if_pos rfl).trans (if_pos hdocking))

end dockFlit

theorem relaunch_eq (hstate : (b.common p).lstate k = lsActive) (hdock : (b.common p).bit (ob 0x3000 k) 2 = false) :
    b.relaunch p k = ((b.modLink p k (fun l => { l with swapRx := [], swapTx := [], swapNak := false })).leaveActive p k 4).toDetect p k :=
  if_neg (by simp [hstate, hdock])

/-! ### DOCK set and cleared (R296) -/

theorem dockStart_refuses (hlast : b.lastLink p k = true) : b.dockStart p k = b.modCommon p (fun c => c.log 0x1009 .info k (packArg [(7, k)])) := if_pos hlast

theorem dockStart_asks {now : Nat} (hnow : (b.common p).stroke = now) (hlast : b.lastLink p k = false) (hstate : (b.common p).lstate k = lsActive) :
    b.dockStart p k = b.modCommon p (fun c =>
      (c.modLink k (fun l => { l with docking := true, since := now, swapRx := [], swapTx := [], swapNak := false })).ctrl k (ctrlFlit ctDock [0])) := by
  subst hnow
  simp only [Block.dockStart, hlast, hstate, bne_self_eq_false, Bool.false_eq_true, if_false, Block.modCommon]

theorem dockStart_of_not_active (hlast : b.lastLink p k = false) (hstate : (b.common p).lstate k ≠ lsActive) : b.dockStart p k = b := by
  simp only [Block.dockStart, hlast, bne_iff_ne.2 hstate, Bool.false_eq_true, if_false, if_true]

/-- DOCK cleared at a link in DOCK resumes it through LOCK and a short EXCHANGE. -/
theorem dockEnd_resumes (hstate : (b.common p).lstate k = lsDock) :
    b.dockEnd p k = b.modCommon p (fun c => (c.setLstate k lsLock).modLink k (fun l => { l with shortExchange := true })) :=
  congrArg (b.setCommon p) (if_pos (beq_iff_eq.2 hstate))

theorem dockEnd_of_not_docked (hstate : (b.common p).lstate k ≠ lsDock) : b.dockEnd p k = b.modCommon p (fun c => c.modLink k (fun l => { l with docking := false })) :=
  congrArg (b.setCommon p) (if_neg (mt beq_iff_eq.1 hstate))

end units

end Sys2Proof.Machine

namespace Sys2Proof
open Machine

/-- Settles O44: each command of a mode acts on a link that has a control object; of the token commands the bow answers GIVE alone, the stern the three others. -/
theorem linkModes : Obligations.LinkModes := by
  unfold Obligations.LinkModes
  refine ⟨?links, ?token⟩
  case links =>
    intro b p pp k c l hup hhall
    have hlink {i : Instr} {f : Block → Block} {b' : Block} := linkCommand_acts (i := i) (f := f) (b' := b') hup
    have hctl {i : Instr} {f : Block → Block} {b' : Block} := ctlCommand_acts (i := i) (f := f) (b' := b') hup hhall
    refine ⟨fun hstate => ?active, ?dock, ?clear, fun hstate bits errors => ergoDone_acts hup hstate bits errors, fun hstate => ergo_acts_of_none hup hhall hstate⟩
    case active =>
      exact ⟨fun henabled hawake hqueue hreplay hack hcredit hidle => featherEntry_acts hup hhall hstate henabled hawake hqueue hreplay hack hcredit hidle,
        hlink (fun _ => rfl) (feathered_eq hstate hhall), fun hfeather => featherExit_acts hup hstate hfeather,
        fun hlast => hlink (fun _ => rfl) (dockFlit_refuses hstate hhall hlast), fun hlast => hlink (fun _ => rfl) (dockFlit_follows hstate hhall hlast),
        fun hdocking => hlink (fun _ => rfl) (dockFlit_ends hstate hhall hdocking), fun hdocking htime => dockTimeout_acts hup hstate hdocking htime,
        fun mode hmode => ergo_acts hup hhall hmode, fun hdock => hctl (fun _ => rfl) (relaunch_eq hstate hdock)⟩
    case dock =>
      have hnow : ((b.modCommon p (fun c => c.setBit (ob 0x3000 k) 2 true)).common p).stroke = c.stroke := by rw [Block.modCommon_common, Common.setBit_stroke]
      exact ⟨fun hlast => hctl (fun _ => rfl) (dockStart_refuses hlast), fun hlast hstate => hctl (fun _ => rfl) (dockStart_asks hnow hlast hstate),
        fun hlast hstate => hctl (fun _ => rfl) (dockStart_of_not_active hlast hstate)⟩
    case clear =>
      have hset : (b.modCommon p (fun c => c.setBit (ob 0x3000 k) 2 false)).common p = c.setBit (ob 0x3000 k) 2 false := Block.modCommon_common ..
      exact ⟨fun hstate => hctl (fun _ => rfl) ((dockEnd_resumes (by rw [hset]; exact hstate)).trans (modCommon_modCommon ..)),
        fun hstate => hctl (fun _ => rfl) ((dockEnd_of_not_docked (by rw [hset]; exact hstate)).trans (modCommon_modCommon ..))⟩
  case token =>
    intro b hup
    have htoken {i : Instr} {f : Block → Block} {b' : Block} := linkCommand_acts (i := i) (p := .ox720) (f := f) (b' := b') hup
    refine ⟨fun hbow => ?stern, fun hbow => ?bow⟩
    case stern =>
      have hstern : ¬ b.sw.isBow = true := Bool.eq_false_iff.1 hbow
      refine ⟨htoken (fun _ => rfl) (if_neg hstern), htoken (fun _ => rfl) (if_neg hstern), htoken (fun _ => rfl) (if_neg hstern),
        fun hbridge => htoken (fun _ => rfl) (if_neg ?_), fun hbridge => htoken (fun _ => rfl) (if_pos ?_)⟩
      · simp [hbow, hbridge]
      · simp [hbridge]
    case bow =>
      exact ⟨htoken (fun _ => rfl) (if_pos hbow), htoken (fun _ => rfl) (if_pos hbow), htoken (fun _ => rfl) (if_pos hbow),
        htoken (fun _ => rfl) (if_pos (by rw [hbow]; rfl))⟩

end Sys2Proof
end

section
/-!
PROOFS. Light (13, R306 to R308, R310, R312): line power and the coming of darkness, the host of the comb module, rings, wavelengths back in service, and relaunch.
-/
namespace Sys2Proof.Machine

/-! ### What the readings of light and rings say (R307, R308) -/

theorem lightChanged_eq {b : Block} {wasDark : Bool} (h : b.sw.isDark = false ∨ wasDark = true) : b.lightChanged wasDark = b :=
  if_pos (by simpa using h)

/-- The rings of a port that bad readings name; `true` is transmit. -/
def ringsRead (tx rx : BitVec 18) : List (Bool × Nat) :=
  ((List.range 18).filter (bitAt tx.toNat)).map (fun i => (true, i)) ++ ((List.range 18).filter (bitAt rx.toNat)).map (fun i => (false, i))

theorem ringsRead_one {tx : BitVec 18} {n : Nat} (hn : n < 18) (htx : tx.toNat = 2 ^ n) : ringsRead tx 0 = [(true, n)] := by
  have htransmit : (List.range 18).filter (bitAt tx.toNat) = [n] := filter_one 18 _ n hn fun j _ => by rw [htx, bitAt_pow]
  have hreceive : (List.range 18).filter (bitAt (0 : BitVec 18).toNat) = [] := by decide
  rw [ringsRead, htransmit, hreceive]
  rfl

section light
variable {b : Block} (hup : b.sw.up = true)
include hup

/-- A command of the switch that does nothing while the part is down acts. -/
theorem swCommand_acts {i : Instr} {f : Block → Block} {b' : Block} (hc : ∀ s, exec i s = s.act (fun s => if !s.sw.up then s else f s)) (h : f b = b') :
    Acts i b b' :=
  acts hc ((if_neg (by simp [hup])).trans h)

/-! ### Line power (R307) -/

/-- Without an injected low line every line is read against the threshold, and a change of the light follows. -/
theorem linePowerMeasure_acts (powers : List (BitVec 16)) :
    Acts (.linePowerMeasure powers false) b (({ b with sw := linesRead b.sw powers } : Block).lightChanged b.sw.isDark) := by
  refine swCommand_acts hup (fun _ => rfl) ((if_neg (by simp)).trans ?_)
  refine congrArg (fun u : Block => u.lightChanged b.sw.isDark) (fold_sw _ _ _ (fun c i => ?_) b)
  by_cases hok : toSigned 16 (b.sw.fld (ob 0x4000 1) 16 16) ≤ toSigned 16 (powers.getD i 0).toNat
  · simp only [lineRead, hok, decide_true, Bool.false_and, Bool.not_false, Bool.not_true, Bool.and_self, Bool.false_eq_true, if_false, if_true]
  · simp only [lineRead, hok, decide_false, Bool.false_and, Bool.not_false, Bool.true_and, if_false]

/-! ### The comb module (R306) -/

section host
variable (hhost : b.sw.combHost = true)
include hhost

/-- A module that lacks a line stays in low-power mode, and the host logs what it advertises. -/
theorem combPresenceChange_acts_of_unsuitable {adv : BitVec 18} (hadv : adv.toNat ≠ 2 ^ 18 - 1) :
    Acts (.combPresenceChange true adv) b (({ b with
      sw := ((b.sw.setFld (ob 0x4000 0) 1 2 1).emit (.pin "CMIS_LOW_POWER" 1)).log 0x2003 .uncorrected 0xFF (packArg [(18, adv.toNat)])
      ox := { b.ox with combSuitable := false } } : Block).lightChanged b.sw.isDark) :=
  swCommand_acts hup (fun _ => rfl) (congrArg (fun u : Block => u.lightChanged b.sw.isDark) ((if_neg (by simp [hhost])).trans (if_neg hadv)))

theorem combReset_acts :
    Acts .combReset b { b with sw := (b.sw.emit (.pin "COMB_RST_N" 0)).setBit (ob 0x4000 0) 2 false, ox := { b.ox with combRst := 10 * cclkUs } } :=
  linkCommand_acts (p := .ox720) hup (fun _ => rfl) (if_neg (by simp [hhost]))

section present
variable (hpresent : b.sw.bit (ob 0x4000 0) 1 = true) (flags : BitVec 64)
include hpresent

theorem combInt_acts : Acts (.combInt flags) b { b with ox := { b.ox with combFlags := flags.toNat } } :=
  acts (fun _ => rfl) (if_pos (by simp [hup, hhost, hpresent]))

theorem combPoll_acts (ready : Bool) :
    Acts (.combPoll flags ready) b { b with
      sw := b.sw.setBit (ob 0x4000 0) 2 (ready && b.ox.combSuitable && b.sw.bit (ob 0x4000 1) 0)
      ox := { b.ox with combFlags := flags.toNat } } :=
  acts (fun _ => rfl) (if_pos (by simp [hup, hhost, hpresent]))

end present
end host

section guest
variable (hguest : b.sw.combHost = false)
include hguest

/-- A part that is not the host sees the presence alone, -/
theorem combPresenceChange_acts_of_guest (present : Bool) (adv : BitVec 18) :
    Acts (.combPresenceChange present adv) b
      (({ b with sw := b.sw.setFld (ob 0x4000 0) 1 2 (b2n present), ox := { b.ox with combSuitable := false } } : Block).lightChanged b.sw.isDark) :=
  swCommand_acts hup (fun _ => rfl) (congrArg (fun u : Block => u.lightChanged b.sw.isDark) (if_pos (by simp [hguest])))

/-- and never resets the module. -/
theorem combReset_acts_of_guest : Acts .combReset b b := linkCommand_acts (p := .ox720) hup (fun _ => rfl) (if_pos (by simp [hguest]))

end guest

/-! ### Rings (R308, R310) -/

section rings
variable {kk : BitVec 4}

/-- Acquisition places the rings; a port that has light does no more. -/
theorem ringAcquisitionDone_acts (tx rx : BitVec 18) (hlight : b.sw.hstate kk.toNat ≠ psDark) :
    Acts (.ringAcquisitionDone kk tx rx) b { b with
      sw := (b.sw.setFld (ob 0x4012 kk.toNat) 0 18 tx.toNat).setFld (ob 0x4012 kk.toNat) 18 18 rx.toNat
      ox := b.ox.setHport kk.toNat { b.ox.hport kk.toNat with badRead := [] } } :=
  swCommand_acts hup (fun _ => rfl) (if_pos (by simp [hlight]))

theorem ringTrack_acts (henabled : b.sw.hstate kk.toNat ≠ psDisabled)
    (hdue : b.sw.dueAfter (b.ox.hport kk.toNat).trackAt (max (8 * cclkUs) (8 * intNs (b.sw.fld (ob 0x4002 0) 0 3) * 7 / 4)) = true) :
    Acts (.ringTrack kk) b { b with
      ox := b.ox.setHport kk.toNat { b.ox.hport kk.toNat with trackAt := some b.sw.stroke }
      sw := b.sw.emit (.linkSignal (0x48 + kk.toNat) "RING_TRACK" (b.sw.fld (ob 0x4002 0) 0 3)) } :=
  acts (fun _ => rfl) (if_pos (by simp [hup, henabled, hdue]))

section watchdog
variable (hdue : b.sw.dueAfter (b.ox.hport kk.toNat).watchAt cclkUs = true)
include hdue

/-- A ring is lost that is locked and whose reading is bad as it was the time before. -/
theorem ringWatchdog_acts (tx rx : BitVec 18) :
    Acts (.ringWatchdog kk tx rx false) b
      ((((ringsRead tx rx).filter (fun r => (b.ox.hport kk.toNat).badRead.contains r)).filter (fun r => b.sw.bit (ob 0x4012 kk.toNat) (18 * b2n (!r.1) + r.2))).foldl
        (fun s r => s.ringLost kk.toNat (b2n (!r.1)) r.2)
        (b.modHport kk.toNat (fun h => { h with badRead := ringsRead tx rx, watchAt := some b.sw.stroke }))) :=
  acts (fun _ => rfl) ((if_neg (by simp [hup, hdue])).trans (if_neg (by simp)))

theorem ringWatchdog_acts_of_first (tx rx : BitVec 18) (hbefore : (b.ox.hport kk.toNat).badRead = []) :
    Acts (.ringWatchdog kk tx rx false) b (b.modHport kk.toNat (fun h => { h with badRead := ringsRead tx rx, watchAt := some b.sw.stroke })) := by
  have h := ringWatchdog_acts hup hdue tx rx
  have hnone : (ringsRead tx rx).filter (fun r => (b.ox.hport kk.toNat).badRead.contains r) = [] := by
    rw [hbefore]; exact List.filter_eq_nil_iff.2 fun _ _ => Bool.false_ne_true
  rwa [hnone] at h

/-- The second bad reading of a locked transmit ring takes it. -/
theorem ringWatchdog_acts_of_second {tx : BitVec 18} {n : Nat} (hn : n < 18) (htx : tx.toNat = 2 ^ n)
    (hbefore : (b.ox.hport kk.toNat).badRead = [(true, n)]) (hlocked : b.sw.bit (ob 0x4012 kk.toNat) n = true) :
    Acts (.ringWatchdog kk tx 0 false) b
      ((b.modHport kk.toNat (fun h => { h with badRead := [(true, n)], watchAt := some b.sw.stroke })).ringLost kk.toNat 0 n) := by
  have h := ringWatchdog_acts hup hdue tx 0
  have hring : 18 * b2n (!true) + n = n := Nat.zero_add n
  simp only [ringsRead_one hn htx, hbefore, List.filter_cons, List.filter_nil, List.contains_cons, beq_self_eq_true, Bool.true_or, if_true, hring, hlocked] at h
  exact h

end watchdog
end rings

/-! ### Wavelengths back in service (R310) -/

/-- Of one port with one wavelength out whose line is usable, that wavelength comes back. -/
theorem wlRestore_acts {ports : BitVec 16} {k i : Nat} (hports : ports.toNat = 2 ^ k) (hi : i < 18)
    (hback : ∀ j, j < 18 → ((b.sw.bit (ob 0x4012 k) (36 + j) && b.sw.bit (ob 0x4000 0) (3 + j)) = true ↔ j = i)) :
    Acts (.wlRestore ports) b (b.modSw (fun c => (c.setBit (ob 0x4012 k) (36 + i) false).modLink (0x48 + k) (fun l => { l with
      outLanes := l.outLanes.filter (fun x => x != i)
      standby := if b.sw.logicalOf (0x48 + k) i = none ∧ i ∈ l.outLanes then insertNat l.standby i else l.standby }))) := by
  have hk : k < 16 := (Nat.pow_lt_pow_iff_right (by decide)).1 (hports ▸ ports.isLt)
  have hport : (List.range 16).filter (bitAt ports.toNat) = [k] := filter_one 16 _ k hk fun j _ => by rw [hports, bitAt_pow]
  refine linkCommand_acts (p := .ox720) hup (fun _ => rfl) ?_
  simp only [Block.wlRestore, hport, filter_one 18 _ i hi hback, List.foldl_cons, List.foldl_nil, Bool.and_eq_true, Option.isNone_iff_eq_none, List.contains_iff_mem]

/-! ### Relaunch (R312) -/

section relaunch
variable {kk : BitVec 4}

/-- A port that is DISABLED or DARK loses its profiles alone, -/
theorem hallRelaunch_acts_of_dark (h : b.sw.hstate kk.toNat = psDisabled ∨ b.sw.hstate kk.toNat = psDark) :
    Acts (.hallRelaunch kk) b ((List.range 4).foldl (fun s p => s.dropProfile kk.toNat p) b) :=
  linkCommand_acts (p := .ox720) hup (fun _ => rfl) (if_pos (by simpa using h))

/-- every other one surveys again. -/
theorem hallRelaunch_acts_of_lit (henabled : b.sw.hstate kk.toNat ≠ psDisabled) (hlit : b.sw.hstate kk.toNat ≠ psDark) :
    Acts (.hallRelaunch kk) b ((((List.range 4).foldl (fun s p => s.dropProfile kk.toNat p) b).hallStop kk.toNat psSurvey 4).surveyStart kk.toNat) :=
  linkCommand_acts (p := .ox720) hup (fun _ => rfl) (if_neg (by simp [henabled, hlit]))

end relaunch
end light

end Sys2Proof.Machine

namespace Sys2Proof
open Machine

/-- Settles O45: each command of light and rings does what the threshold, the host, the period or the state of the port calls for. -/
theorem lightAndRings : Obligations.LightAndRings := by
  unfold Obligations.LightAndRings
  intro b hup
  refine ⟨fun powers => ?lines, fun hguest present adv => ?guest, fun hhost => ?host, fun k tx rx => ringAcquisitionDone_acts hup tx rx, fun k => ringTrack_acts hup,
    fun k hdue hbefore tx rx => ringWatchdog_acts_of_first hup hdue tx rx hbefore, fun k tx n hn htx hdue => ringWatchdog_acts_of_second hup hdue hn htx,
    fun ports k i => wlRestore_acts hup, fun k => ?relaunch⟩
  case lines =>
    refine ⟨fun hsame => ?same, fun _ hlight => ?dark⟩
    case same =>
      have h := linePowerMeasure_acts hup powers
      rwa [lightChanged_eq (by exact hsame)] at h
    case dark => exact hlight ▸ linePowerMeasure_acts hup powers
  case guest => exact ⟨combPresenceChange_acts_of_guest hup hguest present adv, combReset_acts_of_guest hup hguest⟩
  case host =>
    exact ⟨fun adv => combPresenceChange_acts_of_unsuitable hup hhost, combReset_acts hup hhost,
      fun hpresent flags => ⟨combInt_acts hup hhost hpresent flags, combPoll_acts hup hhost hpresent flags⟩⟩
  case relaunch => exact ⟨hallRelaunch_acts_of_dark hup, hallRelaunch_acts_of_lit hup⟩

end Sys2Proof
end

section
/-!
PROOFS. Steers of hall ports (13, R312, R313, R315, R316): the order at an epoch of ROTATION, the drain, the new position, the relock there, and the full launch of a port without a link.
-/
namespace Sys2Proof.Machine

/-! ### A hall port's internals, its position and its profiles -/

section hport
variable (b : Block) (k : Nat) (f g : HPort → HPort)

@[simp] theorem hport_modHport : (b.modHport k f).ox.hport k = f (b.ox.hport k) := SMap.get_set_same ..

/-- Two changes of a port are one, unless the first leaves the internals that the map does not list. -/
theorem modHport_modHport (h : f (b.ox.hport k) ≠ {}) : (b.modHport k f).modHport k g = b.modHport k (fun h => g (f h)) := by
  have htwice := SMap_set_set b.ox.hports k (f (b.ox.hport k)) (g (f (b.ox.hport k))) h
  have hread : ((b.modHport k f).ox.hport k) = f (b.ox.hport k) := hport_modHport ..
  simp only [Block.modHport, Block.modOx] at hread ⊢
  rw [hread]
  simp only [Ox.setHport, htwice]

end hport

section position
variable (c : Common) (k : Nat) {pos : Nat}

theorem hpos_setHpos (h : pos < 4) : (c.setHpos k pos).hpos k = pos :=
  (Common.fld_setFld c (ob 0x4011 k) 3 2 pos (by decide)).trans (Nat.mod_eq_of_lt h)

/-- A port's position is no field of a profile. -/
theorem profileValid_setHpos (hk : k < 16) (j at_ : Nat) : (c.setHpos k pos).profileValid j at_ = c.profileValid j at_ :=
  Common.bit_setFld_ne c _ _ 3 2 pos 0 (by unfold ob fibreOf; omega)

end position

theorem useProfile_eq {b : Block} {k : Nat} (hvalid : b.sw.profileValid k (b.sw.hpos k) = true) :
    let p := SMap.get {} (b.ox.hport k).profiles (b.sw.hpos k)
    b.useProfile k = b.modSw (fun c => (c.setReg (ob 0x3002 (0x48 + k)) (BitVec.ofNat 128 (packArg (p.map.map (fun l => (5, l)))))).modLink (0x48 + k)
      (fun l => { l with session := p.session })) :=
  if_neg (by simp [hvalid])

/-- Moved to a position with a valid profile, the port takes that one. -/
theorem useProfile_moved {b : Block} {k pos : Nat} (o : Out) (hk : k < 16) (hpos : pos < 4) (hvalid : b.sw.profileValid k pos = true) :
    let p := SMap.get {} (b.ox.hport k).profiles pos
    (b.modSw (fun c => (c.setHpos k pos).emit o)).useProfile k = b.modSw (fun c =>
      (((c.setHpos k pos).emit o).setReg (ob 0x3002 (0x48 + k)) (BitVec.ofNat 128 (packArg (p.map.map (fun l => (5, l)))))).modLink (0x48 + k)
        (fun l => { l with session := p.session })) := by
  have hat : ((b.sw.setHpos k pos).emit o).hpos k = pos := (Common.emit_fld ..).trans (hpos_setHpos _ _ hpos)
  have hthere : ((b.sw.setHpos k pos).emit o).profileValid k pos = true := (Common.emit_bit ..).trans ((profileValid_setHpos _ _ hk _ _).trans hvalid)
  rw [useProfile_eq (by simpa only [Block.modSw_sw, hat] using hthere)]
  simp only [Block.modSw, hat]

theorem orderSteer_starts {b : Block} {k : Nat} (st : Steer) (hnone : (b.ox.hport k).steer = none) (hstate : b.sw.hstate k = psActive ∨ b.sw.hstate k = psNoLink) :
    b.orderSteer k st = b.startSteer k st :=
  (if_neg (by simp [hnone])).trans (if_pos (by simpa using hstate))

/-- A steer that begins right after a change of the port's internals keeps that change. -/
theorem startSteer_modHport {b : Block} {k : Nat} {f : HPort → HPort} (st : Steer) (h : f (b.ox.hport k) ≠ {}) :
    (b.modHport k f).startSteer k st = (b.modSw (fun c => ((c.setSteered k (b.sw.hpos k) false).setHstate k psSteering).count (ob 0x4013 k) 0 32 1)).modHport k
      (fun h => { f h with steer := some st, phase := 1 }) :=
  modHport_modHport (b.modSw (fun c => ((c.setSteered k (b.sw.hpos k) false).setHstate k psSteering).count (ob 0x4013 k) 0 32 1)) k f
    (fun h => { h with steer := some st, phase := 1 }) h

section steer
variable {b : Block} {kk : BitVec 4} (hup : b.sw.up = true)

/-! ### The order of a port in ROTATION (R316) -/

section rotation
variable (hmode : b.sw.fld (ob 0x4010 kk.toNat) 1 2 = 0)
include hmode

theorem namedPos_of_rotation : b.namedPos kk.toNat = (b.rotaE + 64 - b.swRack) % 4 := by
  simp only [Block.namedPos, hmode]

variable (hepoch : (b.ox.hport kk.toNat).rotaE ≠ some b.rotaE) (hnone : (b.ox.hport kk.toNat).steer = none)
include hup hepoch hnone

/-- A port that stands where the epoch puts it notes the epoch; -/
theorem rotaSteer_acts_of_there (hthere : (b.rotaE + 64 - b.swRack) % 4 = b.sw.hpos kk.toNat) :
    Acts (.rotaSteer kk) b (b.modHport kk.toNat (fun h => { h with rotaE := some b.rotaE })) :=
  acts (fun _ => rfl) ((if_neg (by simp [hup, hmode, hepoch])).trans (if_pos (by simp [namedPos_of_rotation hmode, hthere, hnone])))

/-- one that stands elsewhere and has a link, or none, begins to steer. -/
theorem rotaSteer_acts_of_elsewhere (helsewhere : (b.rotaE + 64 - b.swRack) % 4 ≠ b.sw.hpos kk.toNat)
    (hstate : b.sw.hstate kk.toNat = psActive ∨ b.sw.hstate kk.toNat = psNoLink) :
    Acts (.rotaSteer kk) b ((b.modSw (fun c => ((c.setSteered kk.toNat (b.sw.hpos kk.toNat) false).setHstate kk.toNat psSteering).count (ob 0x4013 kk.toNat) 0 32 1)).modHport
      kk.toNat (fun h => { h with rotaE := some b.rotaE, steer := some ⟨(b.rotaE + 64 - b.swRack) % 4, false, b.sw.stroke⟩, phase := 1 })) := by
  have hnoted : ({ b.ox.hport kk.toNat with rotaE := some b.rotaE } : HPort) ≠ {} := fun h => Option.some_ne_none _ (congrArg HPort.rotaE h)
  refine acts (fun _ => rfl) ((if_neg (by simp [hup, hmode, hepoch])).trans ((if_neg (by simp [namedPos_of_rotation hmode, helsewhere])).trans ?_))
  refine (orderSteer_starts _ (by simpa using hnone) (by exact hstate)).trans ?_
  rw [namedPos_of_rotation hmode]
  exact startSteer_modHport _ hnoted

end rotation

section ordered
variable {st : Steer} (hsteer : (b.ox.hport kk.toNat).steer = some st)
include hup hsteer

/-! ### The drain (R313) -/

section drain
variable (hphase : (b.ox.hport kk.toNat).phase = 1)
include hphase

/-- Nothing is left to send or to be acknowledged, or the link is lost: it parks, and what its egress lists hold is discarded. -/
theorem steerDrainDone_acts (hdone : b.sw.lstate (0x48 + kk.toNat) ≠ lsActive ∨
      ((b.sw.link (0x48 + kk.toNat)).replayBuf = [] ∧ b.ox.egressAll kk.toNat = [] ∧ ∀ x ∈ b.sw.txq, x.1 ≠ 0x48 + kk.toNat)) :
    let s := b.keepSession kk.toNat
    let x : Ox := { (s.ox.egressAll kk.toNat).foldl (fun x c => x.unref c) s.ox with egress := s.ox.egress.filter (fun e => e.1 / 256 != kk.toNat) }
    Acts (.steerDrainDone kk) b { s with
      sw := s.sw.setLstate (0x48 + kk.toNat) lsLock
      ox := x.setHport kk.toNat { x.hport kk.toNat with phase := 2 } } := by
  refine acts (fun _ => rfl) ((if_neg (by simp [hup, hsteer, hphase])).trans (if_neg ?_))
  obtain hlost | ⟨hreplay, hegress, hqueue⟩ := hdone
  · simp [hlost]
  · simpa [hreplay, hegress] using fun _ p hp => hqueue _ hp rfl

theorem steerDrainDone_waits (hstate : b.sw.lstate (0x48 + kk.toNat) = lsActive)
    (hleft : (b.sw.link (0x48 + kk.toNat)).replayBuf ≠ [] ∨ b.ox.egressAll kk.toNat ≠ [] ∨ ∃ x ∈ b.sw.txq, x.1 = 0x48 + kk.toNat) :
    Acts (.steerDrainDone kk) b b := by
  refine acts (fun _ => rfl) ((if_neg (by simp [hup, hsteer, hphase])).trans (if_pos ?_))
  simpa [hstate, or_assoc] using hleft

end drain

/-! ### The new position (R313, R315) -/

section moved
variable (hphase : (b.ox.hport kk.toNat).phase = 2)
include hphase

theorem selectorMoved_fails (hinvalid : b.sw.profileValid kk.toNat st.pos = false) : Acts (.selectorMoved kk) b (b.steerFails kk.toNat st) := by
  refine acts (fun _ => rfl) ?_
  simp only [hsteer]
  exact (if_neg (by simp [hup, hphase])).trans (if_pos (by simp [hinvalid]))

/-- The profile of the new position gives the lane map and the session. -/
theorem selectorMoved_acts (hpos : st.pos < 4) (hvalid : b.sw.profileValid kk.toNat st.pos = true) :
    let p := SMap.get {} (b.ox.hport kk.toNat).profiles st.pos
    Acts (.selectorMoved kk) b ((b.modSw (fun c =>
      (((c.setHpos kk.toNat st.pos).emit (.linkSignal (0x48 + kk.toNat) "WAKE_MARKERS" 4)).setReg (ob 0x3002 (0x48 + kk.toNat))
        (BitVec.ofNat 128 (packArg (p.map.map (fun l => (5, l)))))).modLink (0x48 + kk.toNat) (fun l => { l with session := p.session }))).modHport kk.toNat
          (fun h => { h with phase := 3 })) := by
  intro p
  refine acts (fun _ => rfl) ?_
  simp only [hsteer]
  refine (if_neg (by simp [hup, hphase])).trans ((if_neg (by simp [hvalid])).trans ?_)
  exact congrArg (fun u : Block => u.modHport kk.toNat (fun h => { h with phase := 3 })) (useProfile_moved _ kk.isLt hpos hvalid)

end moved

theorem steerRelockTimeout_acts (htime : 100 * cclkUs ≤ b.sw.since st.at_) : Acts (.steerRelockTimeout kk) b (b.steerFails kk.toNat st) := by
  refine acts (fun _ => rfl) ?_
  simp only [hsteer]
  exact if_pos (by simp [hup, htime])

end ordered

/-! ### The relock and the full launch (R312, R313) -/

section relock
variable (hvalid : b.sw.profileValid kk.toNat (b.sw.hpos kk.toNat) = true) (far : List Byte)
include hup hvalid

theorem steerRelockDone_acts_of_steering (hstate : b.sw.hstate kk.toNat = psSteering) (hphase : (b.ox.hport kk.toNat).phase = 3) :
    Acts (.steerRelockDone kk far) b (b.relock kk.toNat far) :=
  acts (fun _ => rfl) ((if_neg (by simp [hup, hvalid])).trans (if_pos (by simp [hstate, hphase])))

/-- Without a link and before its full launch a port relocks in the same way. -/
theorem steerRelockDone_acts_of_noLink (hstate : b.sw.hstate kk.toNat = psNoLink) (hfast : (b.ox.hport kk.toNat).full = false)
    (hnone : (b.ox.hport kk.toNat).steer = none) :
    Acts (.steerRelockDone kk far) b ((b.modHport kk.toNat (fun h => { h with fast := true })).relock kk.toNat far) :=
  acts (fun _ => rfl) ((if_neg (by simp [hup, hvalid])).trans ((if_neg (by simp [hstate])).trans (if_pos (by simp [hstate, hfast, hnone]))))

end relock

include hup in
theorem noLinkFullLaunch_acts (hstate : b.sw.hstate kk.toNat = psNoLink) (hfast : (b.ox.hport kk.toNat).full = false)
    (hnone : (b.ox.hport kk.toNat).steer = none) (htime : cclkMs ≤ b.sw.since (b.ox.hport kk.toNat).noLinkSince) :
    Acts (.noLinkFullLaunch kk) b ((b.modSw (fun c => c.setLstate (0x48 + kk.toNat) lsDetect)).modHport kk.toNat (fun h => { h with full := true, fast := false })) :=
  acts (fun _ => rfl) (if_pos (by simp [hup, hstate, hfast, hnone, htime]))

end steer

end Sys2Proof.Machine

namespace Sys2Proof
open Machine

/-- Settles O46: each command of a steer finds the port in the phase that it ends, and leaves it in the next one, at rest or with its steer failed. -/
theorem hallPortsSteer : Obligations.HallPortsSteer := by
  unfold Obligations.HallPortsSteer
  intro b kk k pp h put hup
  refine ⟨fun hmode hepoch hnone => ?rotation, fun st hsteer => ?ordered, fun hvalid far => ?relock, noLinkFullLaunch_acts hup⟩
  case rotation => exact ⟨rotaSteer_acts_of_there hup hmode hepoch hnone, rotaSteer_acts_of_elsewhere hup hmode hepoch hnone⟩
  case ordered =>
    exact ⟨steerDrainDone_acts hup hsteer, steerDrainDone_waits hup hsteer, selectorMoved_acts hup hsteer, selectorMoved_fails hup hsteer, steerRelockTimeout_acts hup hsteer⟩
  case relock => exact ⟨steerRelockDone_acts_of_steering hup hvalid far, steerRelockDone_acts_of_noLink hup hvalid far⟩

end Sys2Proof
end

section
/-!
PROOFS. The step and the queue (95; 16, R361): every command answers a next state with its queue as it was, and keeps both cox cores sound (17, R394, R384, R398).
-/
namespace Sys2Proof.Machine

/-! ### The queue through the operations of the cox cores -/

/-- An operation of the state leaves the queue of waiting commands alone. -/
def KeepsQueue (f : State → State) : Prop := ∀ s, (f s).pending = s.pending

section queue
variable (p : Part) (m : Master)

theorem announceOff_pending (s : State) : (s.announceOff p).pending = s.pending := by
  simp [State.announceOff]

theorem failCommit_pending (s : State) (obj : Nat) : (s.failCommit p obj).pending = s.pending := by
  unfold State.failCommit
  simp only []
  split
  · exact announceOff_pending p _
  · rfl

theorem commitNow_pending (s : State) : (s.commitNow p m).pending = s.pending := rfl

theorem commitAt_pending (s : State) : (s.commitAt p m).pending = s.pending := by
  unfold State.commitAt
  simp only []
  split
  · rfl
  · split
    · rfl
    · split
      · exact failCommit_pending p _ _
      · rfl

theorem commitAbort_pending (s : State) : (s.commitAbort p).pending = s.pending := by
  unfold State.commitAbort
  simp only []
  split
  · rfl
  · split <;> simp [announceOff_pending]

theorem stage_pending (s : State) (r : ObjRow) (key : Nat) (mask v : Obj) : (s.stage p r key mask v).pending = s.pending := by
  simp [State.stage]

theorem ite_pending {c : Prop} [Decidable c] {a b : State} {l : List Instr} (ha : a.pending = l) (hb : b.pending = l) : (if c then a else b).pending = l := by
  split <;> assumption

/-- What the immediate fields of a write do leaves the queue: a commit command, or an operation of the units or of the master's view. -/
theorem immediate_pending (s : State) (r : ObjRow) (key : Nat) (mask v : Obj) : (s.immediate p m r key mask v).pending = s.pending := by
  unfold State.immediate
  refine ite_pending rfl (ite_pending ?commit ?units)
  case commit =>
    split
    · rfl
    · exact commitAt_pending p m _
    · exact commitAbort_pending p _
  case units =>
    simp only [apply_ite State.pending, State.on_pending, State.modCommon_pending, State.modMg_pending, ite_self]
    repeat' split
    all_goals rfl

theorem writeApply_pending (s : State) (key : Nat) (mask v : Obj) : (s.writeApply p m key mask v).pending = s.pending := by
  unfold State.writeApply
  split
  · rfl
  · simp only [immediate_pending, apply_ite State.pending, stage_pending, State.modMg_pending, State.modCommon_pending, ite_self]

theorem writeObj_pending (s : State) (key : Nat) (mask v : Obj) : (s.writeObj p m key mask v).2.pending = s.pending := by
  unfold State.writeObj
  simp only []
  split
  · rfl
  · split
    · rfl
    · exact writeApply_pending p _ s key mask v
    · exact writeApply_pending p _ s key mask v

theorem writeSlots_pending (slots : List Obj) : ∀ (s : State) (key sub : Nat), (s.writeSlots p key sub slots).2.2.pending = s.pending := by
  induction slots with
  | nil => exact fun _ _ _ => rfl
  | cons v rest ih =>
    intro s key sub
    unfold State.writeSlots
    have hone := writeObj_pending p .fieldBus s key (BitVec.allOnes 128) v
    split
    · rfl
    · simp only []
      split
      · exact hone
      · exact (ih ..).trans hone

theorem mgmtWrite_pending (s : State) (key : Nat) {f : State → State} (hf : KeepsQueue f) : (s.mgmtWrite p m key f).pending = s.pending := by
  unfold State.mgmtWrite
  exact ite_pending rfl (ite_pending (hf _) rfl)

/-! ### Haoth -/

theorem haoth_pending (s : State) (via : Option Nat) (op : Nat) (r : HaothReq) (ok : Bool) (body : List Byte) {f : State → State} (hf : KeepsQueue f) :
    (s.haoth p via op r ok body f).pending = s.pending := by
  unfold State.haoth
  refine ite_pending rfl (ite_pending rfl ?_)
  split
  · rfl
  · split
    · exact hf s
    · exact ite_pending (ite_pending (by simp [State.relayRequest]) rfl) (ite_pending (hf s) rfl)

variable (via : Option Nat) (r : HaothReq)

theorem haothRead_pending (s : State) : (s.haothRead p via r).pending = s.pending := by
  refine haoth_pending p s via _ r _ _ fun s => ?_
  exact ite_pending (ite_pending rfl rfl) (ite_pending rfl rfl)

theorem haothWrite_pending (s : State) (slots : List Obj) : (s.haothWrite p via r slots).pending = s.pending := by
  refine haoth_pending p s via _ r _ _ fun s => ?_
  have hslots := writeSlots_pending p slots s (ob r.index.toNat r.sub.toNat) r.sub.toNat
  exact ite_pending (c := (s.writeSlots p (ob r.index.toNat r.sub.toNat) r.sub.toNat slots).2.1 = hsOk) hslots hslots

theorem eventRead_pending (s : State) : (s.eventRead p via r).pending = s.pending := haoth_pending p s via _ r _ _ fun _ => rfl

theorem haothCommit_pending (s : State) (cmd group at_ : Nat) : (s.haothCommit p via r cmd group at_).pending = s.pending := by
  refine haoth_pending p s via _ r _ _ fun s => ?_
  simp only [State.modCommon_pending]
  exact ite_pending rfl (ite_pending rfl (ite_pending (commitAt_pending p ..) (commitAbort_pending p _)))

theorem relayedRequest_pending (s : State) (link mac : Nat) (b : List Byte) : (s.relayedRequest link mac b).pending = s.pending := by
  unfold State.relayedRequest
  exact ite_pending rfl <| ite_pending (ite_pending (haothRead_pending ..) rfl) <| ite_pending (ite_pending (haothWrite_pending ..) rfl) <|
    ite_pending (ite_pending (haothCommit_pending ..) rfl) <| ite_pending (ite_pending (eventRead_pending ..) rfl) rfl

end queue

/-! ### What a command answers -/

/-- From `s` on the queue is as it was, and sound cox cores are sound. -/
def Keeps (s t : State) : Prop := t.pending = s.pending ∧ (s.Sound → t.Sound)

/-- The outcome of a command: a next state that keeps both. -/
def Answers (s : State) (o : Host.Outcome State Fault Refusal) : Prop := ∃ t, o = .next t ∧ Keeps s t

theorem Keeps.refl (s : State) : Keeps s s := ⟨rfl, id⟩

theorem Keeps.trans {s t u : State} (h : Keeps s t) (h' : Keeps t u) : Keeps s u := ⟨h'.1.trans h.1, fun hs => h'.2 (h.2 hs)⟩

theorem Keeps.on {s t : State} (h : Keeps s t) (f : Block → Block) : Keeps s (t.on f) := h

theorem keeps_ite {s a b : State} {c : Prop} [Decidable c] (ha : Keeps s a) (hb : Keeps s b) : Keeps s (if c then a else b) := by
  split <;> assumption

section keeps
variable (s : State) (p : Part)

theorem keeps_modCommon (f : Common → Common) : Keeps s (s.modCommon p f) := (Keeps.refl s).on _

theorem keeps_reset : Keeps s (s.setMg p {}) := ⟨State.setMg_pending .., sound_reset s p⟩

/-- A change of the cox core that stages nothing and hears no announcement. -/
theorem keeps_modMg {f : Mgmt → Mgmt} (hshadow : ∀ m, (f m).shadow = m.shadow) (hann : ∀ m, (f m).annSeen = m.annSeen) : Keeps s (s.modMg p f) :=
  ⟨State.modMg_pending .., fun h => sound_modMg h hshadow hann⟩

theorem keeps_failCommit (obj : Nat) : Keeps s (s.failCommit p obj) := ⟨failCommit_pending p s obj, (sameStaged_failCommit s p obj).sound⟩

theorem keeps_writeObj (m : Master) (key : Nat) (mask v : Obj) : Keeps s (s.writeObj p m key mask v).2 :=
  ⟨writeObj_pending p m s key mask v, sound_writeObj s p m key mask v⟩

theorem keeps_commitBy (by_ : CommitVia) (cmd : Nat) {f : State → Master → State} (hf : ∀ m s, Keeps s (f s m)) : Keeps s (s.commitBy p by_ cmd f) := by
  cases by_ with
  | window m => exact ⟨mgmtWrite_pending p m s _ fun s => (hf m s).1, fun h => sound_mgmtWrite s p m _ _ h fun s => (hf m s).2⟩
  | frame r group at_ => exact ⟨haothCommit_pending p none r s .., sound_haothCommit s p none r _ _ _⟩

theorem keeps_relayedRequest (link mac : Nat) (b : List Byte) : Keeps s (s.relayedRequest link mac b) :=
  ⟨relayedRequest_pending s link mac b, sound_relayedRequest s link mac b⟩

theorem keeps_relayedReply (mac : Nat) (b : List Byte) : Keeps s (s.relayedReply mac b) := by
  unfold State.relayedReply
  simp only []
  split
  · exact .refl s
  · exact (keeps_modMg s .ox720 (fun _ => rfl) fun _ => rfl).trans (keeps_modCommon ..)

/-- Taking in a piece of a relayed frame. -/
theorem keeps_gather (f : Common → Common) (k : Nat) (pk : Packet) : Keeps s ((s.modCommon p f).setMg p ((s.mg p).gather k pk).2) := by
  obtain ⟨hshadow, hann⟩ := gather_shadow (s.mg p) k pk
  cases p with
  | oe36 => exact ⟨rfl, SameStaged.sound ⟨hshadow, rfl, hann, rfl⟩⟩
  | ox720 => exact ⟨rfl, SameStaged.sound ⟨rfl, hshadow, rfl, hann⟩⟩

/-- Hearing an announcement: at most 16 are remembered. -/
theorem keeps_hearAnn (group at_ : Nat) : Keeps s (s.modMg p (fun m => m.hearAnn group at_)) := by
  have hears {q : Part} {m : Mgmt} (h : m.Sound q) : (m.hearAnn group at_).Sound q := by
    obtain ⟨hsize, hsorted, hrows, _⟩ := h
    exact ⟨hsize, hsorted, hrows, hearAnn_length m group at_⟩
  refine ⟨State.modMg_pending .., fun h => ?_⟩
  obtain ⟨hep, hsw⟩ := h
  cases p with
  | oe36 => exact ⟨hears hep, hsw⟩
  | ox720 => exact ⟨hep, hears hsw⟩

end keeps

section answers
variable (s : State) (p : Part)

/-- A command of the units leaves the cox cores. -/
theorem act_answers (f : Block → Block) : Answers s (s.act f) := ⟨_, rfl, (Keeps.refl s).on f⟩

/-- One that resets its part empties that part's cox core. -/
theorem actReset_answers (resets : Bool) (f : Block → Block) : Answers s (s.actReset p resets f) :=
  ⟨_, rfl, keeps_ite (((Keeps.refl s).on f).trans (keeps_reset _ p)) ((Keeps.refl s).on f)⟩

theorem mgmtData_answers (link : BitVec 7) (pk : Packet) : Answers s (execMgmtData p link pk s) := by
  refine ⟨_, rfl, keeps_ite (.refl s) ?_⟩
  cases p with
  | oe36 =>
    have htaken := keeps_gather s .oe36 (fun c => c.takeRx link.toNat pk) link.toNat pk
    refine keeps_ite (keeps_modCommon ..) ?_
    simp only []
    split
    · exact htaken.trans (keeps_relayedRequest ..)
    · exact htaken
  | ox720 =>
    have htaken := keeps_gather s .ox720 (fun c => c.rxDrop (unitRx xpCox) pk) link.toNat pk
    simp only []
    split
    · exact keeps_ite (htaken.trans (keeps_relayedReply ..)) htaken
    · exact htaken

theorem relayTimeout_answers (tid : BitVec 16) (src : BitVec 48) : Answers s (execRelayTimeout tid src s) := by
  refine ⟨_, rfl, ?_⟩
  split
  · exact keeps_ite ((keeps_modMg s .ox720 (fun _ => rfl) fun _ => rfl).trans (keeps_modCommon ..)) (.refl s)
  · exact .refl s

theorem registerWrite_answers (m : Master) (offset : BitVec 28) (width : BitVec 2) (data : BitVec 64) : Answers s (execRegisterWrite p m offset width data s) := by
  refine ⟨_, rfl, keeps_ite (.refl s) ?_⟩
  cases m with
  | fieldBus => exact keeps_ite (keeps_writeObj ..) (keeps_modCommon ..)
  | pcie => exact keeps_ite (keeps_modCommon ..) (keeps_ite (keeps_writeObj ..) (keeps_modCommon ..))

theorem aliasWrite_answers (m : Master) (offset : BitVec 18) (width : BitVec 2) (data : BitVec 64) : Answers s (execAliasWrite p m offset width data s) := by
  refine ⟨_, rfl, keeps_ite (.refl s) ?_⟩
  split
  · exact keeps_modCommon ..
  · exact keeps_ite (keeps_modCommon ..) (keeps_ite (keeps_writeObj ..) (keeps_modCommon ..))

theorem commitCheckDone_answers : Answers s (execCommitCheckDone p s) := by
  refine ⟨_, rfl, keeps_ite (.refl s) (keeps_ite (keeps_failCommit ..) ?_)⟩
  simp only []
  split
  · exact keeps_failCommit ..
  · exact keeps_modCommon ..

theorem catch_answers : Answers s (execCatch p s) := ⟨_, rfl, ite_pending (by simp [State.doCatch]) rfl, sound_catchNow s p⟩

theorem catchAnn_answers (link : BitVec 7) (pk : Packet) : Answers s (execCatchAnn p link pk s) := by
  have hheard (f : Common → Common) : Keeps s (((s.modCommon p f).modCommon p (fun c => c.hearAnn (bitsOf pk.w1 48 16) (bitsOf pk.w1 0 48))).modMg p
      (fun m => m.hearAnn (bitsOf pk.w1 48 16) (bitsOf pk.w1 0 48))) :=
    ((keeps_modCommon s p f).trans (keeps_modCommon _ p _)).trans (keeps_hearAnn _ p _ _)
  have hrelayed (t : State) (e : Nat × Nat) : Keeps t (t.modMg p (fun m => { m with annRelayed := m.annRelayed ++ [e] })) := keeps_modMg t p (fun _ => rfl) fun _ => rfl
  refine ⟨_, rfl, keeps_ite (.refl s) (keeps_ite (keeps_modCommon ..) ?_)⟩
  cases p <;> exact keeps_ite (hheard _) (((hheard _).trans (hrelayed _ _)).on _)

theorem owner_answers (m : Master) (v : BitVec 2) : Answers s (execOwner p m v s) :=
  ⟨_, rfl, keeps_ite (keeps_modCommon ..) ⟨mgmtWrite_pending p m s _ fun _ => rfl, fun h => sound_mgmtWrite _ _ _ _ _ h fun _ h => h⟩⟩

/-- Of every command: most are of the units alone; those of the cox cores keep what they stage within its bounds. -/
theorem exec_answers (i : Instr) : Answers s (exec i s) := by
  cases i with
  | porstN p straps => exact actReset_answers s p _ _
  | resetBallastDone p => exact actReset_answers s p _ _
  | tempTrip p sensor temp inj => exact actReset_answers s p _ _
  | catch_ p => exact catch_answers s p
  | commitCheckDone p => exact commitCheckDone_answers s p
  | catchGuard p => exact ⟨_, rfl, keeps_ite (keeps_failCommit ..) (.refl s)⟩
  | catchAnn p link pk => exact catchAnn_answers s p link pk
  | owner p m v => exact owner_answers s p m v
  | lockLease p => exact ⟨_, rfl, keeps_ite (keeps_modCommon ..) (.refl s)⟩
  | registerWrite p m offset width data => exact registerWrite_answers s p m offset width data
  | aliasWrite p m offset width data => exact aliasWrite_answers s p m offset width data
  | haothBadFrame p mac => exact ⟨_, rfl, keeps_ite (.refl s) (keeps_modCommon ..)⟩
  | haothRead p r => exact ⟨_, rfl, haothRead_pending p none r s, sound_haothRead s p none r⟩
  | haothWrite p r slots => exact ⟨_, rfl, haothWrite_pending p none r s slots, sound_haothWrite s p none r slots⟩
  | eventRead p r => exact ⟨_, rfl, eventRead_pending p none r s, sound_eventRead s p none r⟩
  | commitNow p by_ => exact ⟨_, rfl, keeps_commitBy s p by_ _ fun m s => ⟨commitNow_pending p m s, (sameStaged_commitNow s p m).sound⟩⟩
  | commitAt p by_ => exact ⟨_, rfl, keeps_commitBy s p by_ _ fun m s => ⟨commitAt_pending p m s, (sameStaged_commitAt s p m).sound⟩⟩
  | commitAbort p by_ => exact ⟨_, rfl, keeps_commitBy s p by_ _ fun _ s => ⟨commitAbort_pending p s, sound_commitAbort s p⟩⟩
  | mgmtData p link pk => exact mgmtData_answers s p link pk
  | relayTimeout tid src => exact relayTimeout_answers s tid src
  | _ => exact act_answers s _

end answers

/-- From a sound state a step answers a sound one: a command by what it does to the cox cores, an empty queue by a CCLK. -/
theorem step_keeps_sound {s t : State} (h : s.Sound) (hstep : step s = .next t) : t.Sound := by
  unfold step at hstep
  split at hstep
  next => exact (Host.Outcome.next.inj hstep) ▸ sound_cclk s h
  next i rest _ =>
    obtain ⟨u, hu, _, hsound⟩ := exec_answers { s with pending := rest } i
    exact (Host.Outcome.next.inj (hu.symm.trans hstep)) ▸ hsound h

end Sys2Proof.Machine

namespace Sys2Proof
open Machine

/-- Settles O1. -/
theorem stepRunsFront : Obligations.StepRunsFront := by
  unfold Obligations.StepRunsFront
  intro c s rest hqueue
  rw [step, hqueue]

/-- Settles O2, by what each command answers. -/
theorem everyCommandAnswers : Obligations.EveryCommandAnswers := by
  unfold Obligations.EveryCommandAnswers
  intro c s
  obtain ⟨t, hnext, hqueue, _⟩ := exec_answers s c
  exact ⟨t, hnext, hqueue⟩

/-- Settles O4, by the soundness that every command and a CCLK keep. -/
theorem soundKept : Obligations.SoundKept := by
  unfold Obligations.SoundKept
  exact fun _ _ => step_keeps_sound

end Sys2Proof
end

section
/-!
PROOFS. The SPDM mailbox (15, R340, R354 to R356, R358): one request at a time, what each one answers, and the response that is ready.
-/
namespace Sys2Proof.Machine

@[simp] theorem modCommon_setCommon (b : Block) (p : Part) (c : Common) (f : Common → Common) : (b.setCommon p c).modCommon p f = b.setCommon p (f c) := by
  cases p <;> rfl

/-- The units with a request in the mailbox: GO stands. -/
def Block.mailed (b : Block) (p : Part) : Block := b.setCommon p ((b.common p).setBit (ob 0x8102 0) 13 true)

section mailbox
variable {b : Block} {p : Part} (f : Block → Block)

/-- While a response is being made nothing is taken from the mailbox. -/
theorem spdm_of_busy {r : List Byte} (hbusy : (b.common p).spdmBusy = some r) : b.spdm p f = b :=
  if_pos (by rw [hbusy]; exact Bool.or_true _)

theorem spdm_of_free (hup : (b.common p).up = true) (hfree : (b.common p).spdmBusy = none) : b.spdm p f = f (b.mailed p) :=
  if_neg (by rw [hup, hfree]; decide)

theorem common_mailed : (b.mailed p).common p = (b.common p).setBit (ob 0x8102 0) 13 true := common_setCommon ..

theorem mailed_free : (b.mailed p).free = b.free := by cases p <;> rfl

theorem spdmRespond_setCommon (c : Common) (r : List Byte) : (b.setCommon p c).spdmRespond p r = b.setCommon p { c with spdmBusy := some r } :=
  modCommon_setCommon ..

theorem spdmRespond_mailed (r : List Byte) :
    (b.mailed p).spdmRespond p r = b.setCommon p { (b.common p).setBit (ob 0x8102 0) 13 true with spdmBusy := some r } := spdmRespond_setCommon ..

theorem spdmRandom_setCommon (c : Common) (r : List Byte) (at_ : Nat) :
    (b.setCommon p c).spdmRandom p r at_ = b.setCommon p { c with spdmBusy := some r, waiters := c.waiters ++ [⟨0, at_, c.stroke⟩] } := by
  rw [Block.spdmRandom, spdmRespond_setCommon, modCommon_setCommon]
  rfl

theorem spdmRandom_mailed (r : List Byte) (at_ : Nat) :
    (b.mailed p).spdmRandom p r at_ = b.setCommon p
      { (b.common p).setBit (ob 0x8102 0) 13 true with spdmBusy := some r, waiters := (b.common p).waiters ++ [⟨0, at_, (b.common p).stroke⟩] } :=
  spdmRandom_setCommon ..

/-- A command that brings a request acts on the units in which GO stands. -/
theorem request_acts {i : Instr} {b' : Block} (hc : ∀ s, exec i s = s.act fun s => s.spdm p f) (hup : (b.common p).up = true)
    (hfree : (b.common p).spdmBusy = none) (h : f (b.mailed p) = b') : Acts i b b' :=
  acts hc ((spdm_of_free f hup hfree).trans h)

/-- The response stands in RSP_BUF, and GO is clear. -/
theorem spdmResponseReady_acts {r : List Byte} (hup : (b.common p).up = true) (hbusy : (b.common p).spdmBusy = some r) (hserved : ∀ w ∈ (b.common p).waiters, w.consumer ≠ 0) :
    Acts (.spdmResponseReady p) b (b.setCommon p
      (({ (List.range 256).foldl (fun c i => if 16 * i < min r.length 4096 then c.setReg (ob 0x8101 i) (BitVec.ofNat 128 (leAt r (16 * i) 16)) else c) (b.common p)
        with spdmBusy := none } : Common).setFld (ob 0x8102 0) 13 14 (2 * min r.length 4096))) := by
  refine acts (fun _ => rfl) ?_
  simp only [hbusy]
  refine if_neg ?_
  simpa [hup] using hserved

end mailbox

/-! ### Each request of a free mailbox -/

section requests
variable {b : Block} {p : Part} (hup : (b.common p).up = true) (hfree : (b.common p).spdmBusy = none)
include hup hfree

theorem getDigests_acts :
    Acts (.getDigests p) b (b.setCommon p { (b.common p).setBit (ob 0x8102 0) 13 true with spdmBusy := some (spdmHead 0x01 1 1 ++ sha384 (Config.certChain p)) }) :=
  request_acts _ (fun _ => rfl) hup hfree (spdmRespond_mailed _)

/-- A portion of the chain in slot 0; no other slot holds one. -/
theorem getCertificate_acts (slot : BitVec 4) (off len : BitVec 16) :
    let chain := Config.certChain p
    let portion := (chain.drop off.toNat).take (min len.toNat 4088)
    Acts (.getCertificate p slot off len) b (b.setCommon p { (b.common p).setBit (ob 0x8102 0) 13 true with
      spdmBusy := some (if slot.toNat ≠ 0 ∨ chain.length ≤ off.toNat then spdmError errInvalid
        else spdmHead 0x02 0 0 ++ leBytes 2 portion.length ++ leBytes 2 (chain.length - off.toNat - portion.length) ++ portion) }) := by
  refine request_acts _ (fun _ => rfl) hup hfree ?_
  simp only [spdmRespond_mailed]
  split <;> rfl

theorem challenge_acts_of_slot {slot : BitVec 4} (nonce : BitVec 256) (hslot : slot.toNat ≠ 0) :
    Acts (.challenge p slot nonce) b (b.setCommon p { (b.common p).setBit (ob 0x8102 0) 13 true with spdmBusy := some (spdmError errInvalid) }) :=
  request_acts _ (fun _ => rfl) hup hfree ((if_pos hslot).trans (spdmRespond_mailed _))

theorem challenge_acts (nonce : BitVec 256) :
    Acts (.challenge p 0 nonce) b (b.setCommon p { (b.common p).setBit (ob 0x8102 0) 13 true with
      spdmBusy := some (spdmHead 0x03 0 1 ++ sha384 (Config.certChain p) ++ leBytes 32 0 ++ leBytes 2 0 ++ leBytes 32 nonce.toNat)
      waiters := (b.common p).waiters ++ [⟨0, 52, (b.common p).stroke⟩] }) :=
  request_acts _ (fun _ => rfl) hup hfree ((if_neg (by decide)).trans (spdmRandom_mailed _ _))

/-! GET_MEASUREMENTS (R356) -/

/-- The blocks that the part holds, ascending. -/
def Block.heldBlocks (u : Block) (p : Part) : List (List Byte) := (List.range 6).filterMap (fun k => (u.measurement p (k + 1)).map (measBlock (k + 1)))

/-- The blocks that an index asks for. -/
def Block.askedBlocks (u : Block) (p : Part) (i : Nat) : List (List Byte) :=
  if i = 0 then [] else if i = 0xFF then u.heldBlocks p else ((u.measurement p i).map (fun d => measBlock i d)).toList

/-- The head of the answer: the count `n`, the blocks and their length. -/
def measHead (n : Nat) (l : List (List Byte)) : List Byte := spdmHead 0x60 n 0 ++ leBytes 1 l.length ++ leBytes 3 l.flatten.length ++ l.flatten

omit hup hfree in
/-- Every part holds the measurement of its firmware. -/
theorem heldBlocks_ne_nil (u : Block) (p : Part) : u.heldBlocks p ≠ [] := by
  have hfirst : measBlock 1 (leBytes 48 (u.common p).fwDigest.toNat) ∈ u.heldBlocks p :=
    List.mem_filterMap.2 ⟨0, by simp, by cases p <;> rfl⟩
  exact List.ne_nil_of_mem hfirst

section measurements
variable {i : BitVec 8} (nonce : BitVec 256)

/-- An index with blocks, or the index 0, is answered with them, signed where it is asked. -/
theorem getMeasurements_acts {n : Nat} {l : List (List Byte)} (hn : (if i.toNat = 0 then ((b.mailed p).heldBlocks p).length else 0) = n)
    (hl : (b.mailed p).askedBlocks p i.toNat = l) (hsome : i.toNat = 0 ∨ l ≠ []) :
    Acts (.getMeasurements p i nonce false) b (b.setCommon p { (b.common p).setBit (ob 0x8102 0) 13 true with
        spdmBusy := some (measHead n l ++ leBytes 32 0 ++ leBytes 2 0) })
    ∧ Acts (.getMeasurements p i nonce true) b (b.setCommon p { (b.common p).setBit (ob 0x8102 0) 13 true with
        spdmBusy := some (measHead n l ++ leBytes 32 0 ++ leBytes 2 0 ++ leBytes 32 nonce.toNat)
        waiters := (b.common p).waiters ++ [⟨0, (measHead n l).length, (b.common p).stroke⟩] }) := by
  subst hn hl
  have hblocks : ¬ (i.toNat ≠ 0 ∧ ((b.mailed p).askedBlocks p i.toNat).isEmpty = true) := by
    rintro ⟨hi, hnone⟩
    exact hsome.elim hi fun h => h (List.isEmpty_iff.1 hnone)
  exact ⟨request_acts _ (fun _ => rfl) hup hfree ((if_neg hblocks).trans (spdmRespond_mailed _)),
    request_acts _ (fun _ => rfl) hup hfree ((if_neg hblocks).trans (spdmRandom_mailed _ _))⟩

theorem getMeasurements_acts_of_none (hzero : i.toNat ≠ 0) (hall : i.toNat ≠ 0xFF) (hnone : (b.mailed p).measurement p i.toNat = none) (sign : Bool) :
    Acts (.getMeasurements p i nonce sign) b (b.setCommon p { (b.common p).setBit (ob 0x8102 0) 13 true with spdmBusy := some (spdmError errInvalid) }) := by
  have hempty : (b.mailed p).askedBlocks p i.toNat = [] := by rw [Block.askedBlocks, if_neg hzero, if_neg hall, hnone]; rfl
  have hblocks : i.toNat ≠ 0 ∧ ((b.mailed p).askedBlocks p i.toNat).isEmpty = true := ⟨hzero, by rw [hempty]; rfl⟩
  exact request_acts _ (fun _ => rfl) hup hfree ((if_pos hblocks).trans (spdmRespond_mailed _))

end measurements

/-! Sessions (R354, R355) -/

theorem keyExchange_acts_of_full (hfull : 4 ≤ (b.common p).sessions.length) (t : BitVec 8) (dg : BitVec 384) (ma : Bool) (e : List Byte) :
    Acts (.keyExchange p t dg ma e) b (b.setCommon p { (b.common p).setBit (ob 0x8102 0) 13 true with spdmBusy := some (spdmError errSessions) }) := by
  refine request_acts _ (fun _ => rfl) hup hfree ((if_pos ?_).trans (spdmRespond_mailed _))
  rwa [common_mailed]

theorem keyExchange_acts (hroom : (b.common p).sessions.length < 4) (t : BitVec 8) (dg : BitVec 384) (ma : Bool) (e : List Byte) :
    let c := b.common p
    Acts (.keyExchange p t dg ma e) b { b.setCommon p { c.setBit (ob 0x8102 0) 13 true with
      nextSession := c.nextSession % 65535 + 1, sessions := c.sessions ++ [⟨c.nextSession, t.toNat, dg, ma, false⟩]
      spdmBusy := some (spdmHead 0x64 0 0 ++ leBytes 2 c.nextSession ++ leBytes 1 (b2n ma) ++ leBytes 1 0 ++ leBytes 32 0 ++ slice (Config.drbg b.free (leNat e)) 0 96 ++ leBytes 2 0)
      waiters := c.waiters ++ [⟨0, 8, c.stroke⟩] } with free := b.free + 1 } := by
  refine request_acts _ (fun _ => rfl) hup hfree ((if_neg ?_).trans ?_)
  · rw [common_mailed]
    exact Nat.not_le.2 hroom
  · cases p <;> rfl

section sessions
variable {id : BitVec 16}

omit hup hfree in
theorem noSession_of_forall (hnone : ∀ x ∈ (b.common p).sessions, x.id ≠ id.toNat) :
    (!((b.mailed p).common p).sessions.any (fun x => x.id == id.toNat)) = true := by
  rw [common_mailed]
  simpa using hnone

omit hup hfree in
theorem session_of_exists (hsome : ∃ x ∈ (b.common p).sessions, x.id = id.toNat) :
    ¬ (!((b.mailed p).common p).sessions.any (fun x => x.id == id.toNat)) = true := by
  rw [common_mailed]
  simpa using hsome

theorem session_acts_of_none (hnone : ∀ x ∈ (b.common p).sessions, x.id ≠ id.toNat) :
    let b' := b.setCommon p { (b.common p).setBit (ob 0x8102 0) 13 true with spdmBusy := some (spdmError errInvalid) }
    (∀ ok, Acts (.spdmFinish p id ok) b b') ∧ Acts (.endSession p id) b b' :=
  ⟨fun _ => request_acts _ (fun _ => rfl) hup hfree ((if_pos (noSession_of_forall hnone)).trans (spdmRespond_mailed _)),
    request_acts _ (fun _ => rfl) hup hfree ((if_pos (noSession_of_forall hnone)).trans (spdmRespond_mailed _))⟩

theorem session_acts (hsome : ∃ x ∈ (b.common p).sessions, x.id = id.toNat) :
    let c := b.common p
    let resp := fun (l : List Spdm) (r : List Byte) => b.setCommon p { c.setBit (ob 0x8102 0) 13 true with sessions := l, spdmBusy := some r }
    Acts (.spdmFinish p id true) b (resp (replaceFirst (fun x => x.id == id.toNat) (fun x => { x with finished := true }) c.sessions) (spdmHead 0x65 0 0))
    ∧ Acts (.spdmFinish p id false) b (resp (c.sessions.filter (fun x => x.id != id.toNat)) (spdmError errDecrypt))
    ∧ Acts (.endSession p id) b (resp (c.sessions.filter (fun x => x.id != id.toNat)) (spdmHead 0x6C 0 0)) := by
  have hopen := session_of_exists hsome
  refine ⟨request_acts _ (fun _ => rfl) hup hfree ((if_neg hopen).trans ((if_pos rfl).trans ?_)),
    request_acts _ (fun _ => rfl) hup hfree ((if_neg hopen).trans ((if_neg Bool.false_ne_true).trans ?_)),
    request_acts _ (fun _ => rfl) hup hfree ((if_neg hopen).trans ?_)⟩
  all_goals
    rw [Block.mailed, modCommon_setCommon, spdmRespond_setCommon]
    rfl

end sessions
end requests

end Sys2Proof.Machine

namespace Sys2Proof
open Machine

/-- Settles O48: a busy mailbox takes nothing, a free one answers each request as the part's responder does. -/
theorem mailboxRequests : Obligations.MailboxRequests := by
  unfold Obligations.MailboxRequests
  intro b p c hup resp asks go chain
  refine ⟨fun r hbusy => ⟨fun slot off len i nonce sign t dg ma e id ok => ?busy, spdmResponseReady_acts hup hbusy⟩, fun hfree => ?free⟩
  case busy =>
    have hstays (i : Instr) (f : Block → Block) (hc : ∀ s, exec i s = s.act fun s => s.spdm p f) : Acts i b b := acts hc (spdm_of_busy f hbusy)
    exact ⟨hstays _ _ fun _ => rfl, hstays _ _ fun _ => rfl, hstays _ _ fun _ => rfl, hstays _ _ fun _ => rfl, hstays _ _ fun _ => rfl, hstays _ _ fun _ => rfl,
      hstays _ _ fun _ => rfl⟩
  case free =>
    refine ⟨getDigests_acts hup hfree, getCertificate_acts hup hfree, fun slot nonce => challenge_acts_of_slot hup hfree nonce, challenge_acts hup hfree,
      fun i nonce => ⟨fun hzero => ?count, fun hall => ?all, fun hzero hall => ⟨fun d hd => ?one, fun hnone => ?none⟩⟩,
      keyExchange_acts_of_full hup hfree, keyExchange_acts hup hfree, fun id => session_acts_of_none hup hfree, fun id => session_acts hup hfree⟩
    case count => exact getMeasurements_acts hup hfree nonce (if_pos hzero) (if_pos hzero) (.inl hzero)
    case all =>
      have hzero : i.toNat ≠ 0 := by omega
      exact getMeasurements_acts hup hfree nonce (if_neg hzero) ((if_neg hzero).trans (if_pos hall)) (.inr (heldBlocks_ne_nil (b.mailed p) p))
    case one =>
      refine getMeasurements_acts hup hfree nonce (if_neg hzero) ((if_neg hzero).trans ((if_neg hall).trans ?_)) (.inr (List.cons_ne_nil _ _))
      rw [Block.mailed, hd]
      rfl
    case none => exact getMeasurements_acts_of_none hup hfree nonce hzero hall hnone

end Sys2Proof
end

section
/-!
PROOFS. Weight keys and boathouse keys (15, R350, R352, R353): what a vendor request, an erasing write and a retirement leave.
-/
namespace Sys2Proof.Machine

theorem renew_stroke (c : Common) (m : Master) : (c.renew m).stroke = c.stroke := by unfold Common.renew; split <;> rfl

theorem eraseKey_eq (b : Block) (slot cause : Nat) :
    b.eraseKey slot cause = { b with ep := (b.ep.setReg (wkKey slot) 0).log 0x8008 .info 0xFF (packArg [(8, slot), (2, cause)]), oe := b.withoutKey slot } := rfl

section vendor
variable {b : Block} {id : BitVec 16} {payload : List Byte} {x : Spdm} (hup : b.ep.up = true) (hfree : b.ep.spdmBusy = none)
  (hsession : b.ep.sessions.find? (fun x => x.id == id.toNat && x.finished && x.mutualAuth) = some x)

/-- The status of a request that its broker may make in a part that is ready: a set key's slot is full. -/
theorem vendorStatus_of_allowed {u : Block} {set : Bool} (hready : u.ep.bit (ob 0x8000 0) 0 = true) (htenant : u.ep.assignedTenant = leAt payload 2 1)
    (hbroker : x.pubDigest.toNat = u.ep.brokerDigest (leAt payload 2 1)) :
    u.vendorStatus x payload set = if set && u.ep.bit (wkKey (leAt payload 1 1)) 0 then 1 else 0 :=
  (if_neg (by simp [hready])).trans (if_neg (by simp [htenant, hbroker]))

include hup hfree hsession

/-- What a vendor request of a finished, mutually authenticated session comes to. -/
theorem vendor_eq {opcode : Nat} (hop : leAt payload 0 1 = opcode) {st : Nat} (hst : (b.mailed .oe36).vendorStatus x payload (opcode == 1) = st) :
    b.vendor id.toNat opcode payload =
      (if st ≠ 0 then b.mailed .oe36
        else if opcode = 1 then
          ((b.mailed .oe36).modOe (fun o => { o with weightKeys := SMap.set [] o.weightKeys (leAt payload 1 1) (slice payload 8 32) })).modEp (fun c =>
            (c.setReg (wkKey (leAt payload 1 1)) (BitVec.ofNat 128 (packArg [(1, 1), (8, leAt payload 2 1), (32, leAt payload 4 4)]))).log 0x8007 .info 0xFF
              (packArg [(8, leAt payload 1 1), (8, leAt payload 2 1), (32, leAt payload 4 4)]))
        else (b.mailed .oe36).eraseKey (leAt payload 1 1) 0).spdmRespond .oe36 (spdmHead 0x7E 0 0 ++ leBytes 1 st) := by
  subst hst
  have hfound : (b.mailed .oe36).ep.sessions.find? (fun x => x.id == id.toNat && x.finished && x.mutualAuth) = some x := hsession
  refine (spdm_of_free (p := .oe36) _ hup hfree).trans ?_
  simp only [hfound]
  exact if_neg (not_not.2 hop)

variable (hready : (b.mailed .oe36).ep.bit (ob 0x8000 0) 0 = true) (htenant : (b.mailed .oe36).ep.assignedTenant = leAt payload 2 1)
  (hbroker : x.pubDigest.toNat = (b.mailed .oe36).ep.brokerDigest (leAt payload 2 1))
include hready htenant hbroker

theorem setWeightKey_acts (hop : leAt payload 0 1 = 1) (hslot : (b.mailed .oe36).ep.bit (wkKey (leAt payload 1 1)) 0 = false) :
    let slot := leAt payload 1 1
    let t := leAt payload 2 1
    Acts (.setWeightKey id payload) b { b with
      ep := { ((b.mailed .oe36).ep.setReg (wkKey slot) (BitVec.ofNat 128 (packArg [(1, 1), (8, t), (32, leAt payload 4 4)]))).log 0x8007 .info 0xFF
          (packArg [(8, slot), (8, t), (32, leAt payload 4 4)]) with spdmBusy := some (spdmHead 0x7E 0 0 ++ leBytes 1 0) }
      oe := { b.oe with weightKeys := SMap.set [] b.oe.weightKeys slot (slice payload 8 32) } } := by
  have hst : (b.mailed .oe36).vendorStatus x payload (1 == 1) = 0 := (vendorStatus_of_allowed hready htenant hbroker).trans (if_neg (by simp [hslot]))
  refine acts (fun _ => rfl) ((vendor_eq hup hfree hsession hop hst).trans ?_)
  rw [if_neg (not_not.2 rfl), if_pos rfl]
  rfl

theorem setWeightKey_acts_of_full (hop : leAt payload 0 1 = 1) (hslot : (b.mailed .oe36).ep.bit (wkKey (leAt payload 1 1)) 0 = true) :
    Acts (.setWeightKey id payload) b { b with ep := { (b.mailed .oe36).ep with spdmBusy := some (spdmHead 0x7E 0 0 ++ leBytes 1 1) } } := by
  have hst : (b.mailed .oe36).vendorStatus x payload (1 == 1) = 1 := (vendorStatus_of_allowed hready htenant hbroker).trans (if_pos (by simp [hslot]))
  exact acts (fun _ => rfl) ((vendor_eq hup hfree hsession hop hst).trans (congrArg (fun u : Block => u.spdmRespond .oe36 _) (if_pos Nat.one_ne_zero)))

theorem eraseWeightKey_acts (hop : leAt payload 0 1 = 2) :
    let slot := leAt payload 1 1
    Acts (.eraseWeightKey id payload) b { b with
      ep := { ((b.mailed .oe36).ep.setReg (wkKey slot) 0).log 0x8008 .info 0xFF (packArg [(8, slot), (2, 0)]) with spdmBusy := some (spdmHead 0x7E 0 0 ++ leBytes 1 0) }
      oe := b.withoutKey slot } := by
  have hst : (b.mailed .oe36).vendorStatus x payload (2 == 1) = 0 := vendorStatus_of_allowed hready htenant hbroker
  refine acts (fun _ => rfl) ((vendor_eq hup hfree hsession hop hst).trans ?_)
  rw [if_neg (not_not.2 rfl), if_neg (by decide), eraseKey_eq]
  rfl

end vendor

/-- A write that names one held slot empties it. -/
theorem keyErase_acts {b : Block} {m : Master} {slots : BitVec 256} {n : Nat} (hup : b.ep.up = true) (hw : b.ep.writable m (ob 0x8041 0) = true) (hn : n < 256)
    (hone : ∀ i, i < 256 → ((bitAt slots.toNat i && b.ep.bit (wkKey i) 0) = true ↔ i = n)) :
    Acts (.keyErase m slots) b { b with
      ep := ((b.ep.renew m).setReg (wkKey n) 0).log 0x8008 .info 0xFF (packArg [(8, n), (2, 1)]), oe := b.withoutKey n } := by
  refine acts (fun _ => rfl) ((if_neg (by simp [hup])).trans ?_)
  rw [mgmtWrite_oe b m _ _ hw, Block.keyErase]
  simp only [renew_bit, filter_one 256 _ n hn hone, List.foldl_cons, List.foldl_nil, eraseKey_eq, Block.withoutKey, renew_stroke]

/-- The one tenant that a retirement names loses its key and waits for the next. -/
theorem keyRetire_acts {b : Block} {tenants : BitVec 256} {t : Nat} (hup : b.sw.up = true) (ht : t < 256) (hone : tenants.toNat = 2 ^ t) :
    Acts (.keyRetire tenants) b { b with
      sw := { b.sw.setBit (ob 0x8051 (t / 64)) (t % 64) false with waiters := b.sw.waiters ++ [⟨2, t, b.sw.stroke⟩] }
      ox := { b.ox with keyGen := SMap.modify 0 b.ox.keyGen t (fun g => (g + 1) % 256), keyless := insertNat b.ox.keyless t } } := by
  refine acts (fun _ => rfl) ((if_pos hup).trans ?_)
  rw [Block.keyRetire, hone, filter_one 256 _ t ht fun j _ => bitAt_pow t j]
  rfl

end Sys2Proof.Machine

namespace Sys2Proof
open Machine

/-- Settles O49: a vendor request by its status, an erasing write and a retirement by the one slot or tenant that they name. -/
theorem keysComeAndGo : Obligations.KeysComeAndGo := by
  unfold Obligations.KeysComeAndGo
  refine fun b => ⟨?vendor, fun m slots n hup hw hn hone => keyErase_acts hup hw hn hone,
    fun tenants t hup ht hone => keyRetire_acts hup ht hone⟩
  case vendor =>
    intro id payload x hup hfree hsession slot t go answer hready htenant hbroker
    exact ⟨setWeightKey_acts hup hfree hsession hready htenant hbroker, setWeightKey_acts_of_full hup hfree hsession hready htenant hbroker,
      eraseWeightKey_acts hup hfree hsession hready htenant hbroker⟩

end Sys2Proof
end

section
/-!
PROOFS. The debug unlock (16, R362): its writes act on the renewed part.
-/
namespace Sys2Proof.Machine

/-- A management write that nothing refuses, of an object that concerns the part alone. -/
theorem mgmtWrite_acts {i : Instr} {b : Block} {p : Part} {m : Master} {key : Nat} {f : Common → Common} {c' : Common}
    (hc : ∀ s, exec i s = s.act fun s => s.mgmtWrite p m key (fun s => s.modCommon p f)) (hw : (b.common p).writable m key = true)
    (h : f ((b.common p).renew m) = c') : Acts i b (b.setCommon p c') := by
  subst h
  refine acts hc ((mgmtWrite_ok b p m key _ hw).trans ?_)
  exact modCommon_setCommon ..

theorem unlockGo_of_up {c : Common} (hup : c.up = true) : c.unlockGo = match c.unlockError with
    | some e => (c.setBit (ob 0x9000 0) 1 false).log 0x900F .uncorrected 0xFF (packArg [(2, e)])
    | none => (c.setFld (ob 0x9000 0) 0 2 1).log 0x900E .info 0xFF (packArg [(32, leAt (sha384 (slice c.unlockData 0 96)) 0 4)]) := by
  rw [Common.unlockGo, hup]
  rfl

end Sys2Proof.Machine

namespace Sys2Proof
open Machine

/-- Settles O50. -/
theorem debugUnlocks : Obligations.DebugUnlocks := by
  unfold Obligations.DebugUnlocks
  intro b p m c hw
  exact ⟨fun hup => mgmtWrite_acts (fun _ => rfl) hw (if_pos hup), fun hup => mgmtWrite_acts (fun _ => rfl) hw (unlockGo_of_up hup),
    mgmtWrite_acts (fun _ => rfl) hw rfl⟩

end Sys2Proof
end

section
/-!
PROOFS. The entropy source (15, R358): its states, what a test brings about, and the consumers of the DRBG.
-/
namespace Sys2Proof.Machine

section entropy
variable {b : Block} {p : Part} (hup : (b.common p).up = true)

/-- Nobody has waited 10 ms. -/
theorem releaseLate_of_early (hearly : ∀ w ∈ (b.common p).waiters, (b.common p).since w.since < 10 * cclkMs) : b.releaseLate p = b := by
  have hnone : (b.common p).waiters.filter (fun w => decide (10 * cclkMs ≤ (b.common p).since w.since)) = [] :=
    List.filter_eq_nil_iff.2 fun w hw => by simpa using hearly w hw
  rw [Block.releaseLate, hnone]
  rfl

/-- The one waiter has waited 10 ms. -/
theorem releaseLate_of_late {w : Waiter} (hone : (b.common p).waiters = [w]) (hlate : 10 * cclkMs ≤ (b.common p).since w.since) :
    b.releaseLate p = b.releaseWaiter p w := by
  rw [Block.releaseLate, hone, List.filter_singleton, decide_eq_true hlate]
  rfl

include hup

section fail
variable (test : BitVec 2)

theorem entropyTestFail_acts (hok : (b.common p).entropy = enOk) {inj : Bool} (hdet : (b.common p).detects 0x80 2 test.toNat inj = true) :
    Acts (.entropyTestFail p test inj) b (b.setCommon p ((if inj then (b.common p).injected 0x80 else b.common p).entropyFail test.toNat)) :=
  acts (fun _ => rfl) ((if_neg (by simp [hup, hok])).trans (if_neg (by simp [hdet])))

theorem entropyTestFail_acts_of_undetected (hok : (b.common p).entropy = enOk) {inj : Bool} (hdet : (b.common p).detects 0x80 2 test.toNat inj = false) :
    Acts (.entropyTestFail p test inj) b (b.setCommon p ((b.common p).undetected 0x80 2 test.toNat inj)) :=
  acts (fun _ => rfl) ((if_neg (by simp [hup, hok])).trans (if_pos (by simp [hdet])))

theorem entropyTestDone_acts_of_failed (hstate : (b.common p).entropy = enStartup ∨ (b.common p).entropy = enRestart) :
    Acts (.entropyTestDone p false test) b (b.setCommon p ((b.common p).entropyFail test.toNat)) := by
  refine acts (fun _ => rfl) ((if_neg ?_).trans (if_pos rfl))
  simp only [hup, Bool.not_true, Bool.false_or, Bool.and_eq_true, bne_iff_ne]
  exact fun ⟨hstartup, hrestart⟩ => hstate.elim hstartup hrestart

end fail

section done
variable (test : BitVec 2) (hearly : ∀ w ∈ (b.common p).waiters, (b.common p).since w.since < 10 * cclkMs)
include hearly

/-- A part whose start-up or restart test has passed, before its first keys. -/
def Common.entropyPassed (c : Common) : Common :=
  let c1 := ({ c with autoRestarted := false } : Common).setEntropy enOk
  if c.entropy == enRestart then c1.log 0x8002 .info 0xFF (packArg [(32, c.since c.failedAt / cclkUs)]) else c1

omit hup hearly in
/-- SECURE_READY is not touched. -/
theorem secureReady_entropyPassed (c : Common) : c.entropyPassed.bit (ob 0x8000 0) 0 = c.bit (ob 0x8000 0) 0 := by
  have hbeside : (({ c with autoRestarted := false } : Common).setEntropy enOk).bit (ob 0x8000 0) 0 = c.bit (ob 0x8000 0) 0 :=
    Common.bit_setFld_beside _ _ _ _ _ _ (.inr Nat.one_pos)
  unfold Common.entropyPassed
  simp only []
  split
  · exact (Common.log_bit _ _ _ _ _ _ _ (by decide) (by decide) (by decide)).trans hbeside
  · exact hbeside

theorem entropyTestDone_acts (hstate : (b.common p).entropy = enStartup ∨ (b.common p).entropy = enRestart) {c' : Common}
    (h : (let c2 := (b.common p).entropyPassed
          if c2.bit (ob 0x8000 0) 0 then c2
          else if p == .oe36 then c2.setBit (ob 0x8000 0) 0 true
          else if c2.waiters.any (fun w => w.consumer == 2 && w.arg == 256) then c2 else c2.wantEntropy 2 256) = c') :
    Acts (.entropyTestDone p true test) b (b.setCommon p c') := by
  subst h
  refine acts (fun _ => rfl) ((if_neg ?_).trans ((if_neg (by decide)).trans ?_))
  · simp only [hup, Bool.not_true, Bool.false_or, Bool.and_eq_true, bne_iff_ne]
    exact fun ⟨hstartup, hrestart⟩ => hstate.elim hstartup hrestart
  · rw [releaseLate_of_early hearly]
    rfl

/-- A source that was ready before is ready again. -/
theorem entropyTestDone_acts_of_ready (hstate : (b.common p).entropy = enStartup ∨ (b.common p).entropy = enRestart) (hready : (b.common p).bit (ob 0x8000 0) 0 = true) :
    Acts (.entropyTestDone p true test) b (b.setCommon p (b.common p).entropyPassed) :=
  entropyTestDone_acts hup test hearly hstate (if_pos ((secureReady_entropyPassed _).trans hready))

end done

theorem entropyAutoRestart_acts (hstate : (b.common p).entropy = enFailed) (honce : (b.common p).autoRestarted = false)
    (hdue : cclkMs ≤ (b.common p).since (b.common p).failedAt) :
    Acts (.entropyAutoRestart p) b (b.setCommon p (({ b.common p with autoRestarted := true } : Common).setFld (ob 0x8000 0) 1 2 3)) :=
  acts (fun _ => rfl) (if_pos (by simp [hup, hstate, honce, hdue]))

section consumers
variable {w : Waiter} {r : List Waiter} (out : List Byte) (hwait : (b.common p).waiters = w :: r)
include hwait

/-- The consumer that has waited longest is served. -/
theorem drbgReseed_acts (hok : (b.common p).entropy = enOk) :
    Acts (.drbgReseed p false out) b ((b.setCommon p { b.common p with waiters := r }).serveEntropy p w out) := by
  refine acts (fun _ => rfl) ?_
  simp only [hwait]
  exact if_neg (by simp [hup, hok])

theorem drbgReseed_acts_of_discarded {testFailed : Bool} (hbad : testFailed = true ∨ (b.common p).entropy ≠ enOk) : Acts (.drbgReseed p testFailed out) b b := by
  refine acts (fun _ => rfl) ?_
  simp only [hwait]
  exact if_pos (by simpa [hup] using hbad)

end consumers

theorem entropyWaitExpiry_acts {w : Waiter} (hstate : (b.common p).entropy ≠ enOk) (hone : (b.common p).waiters = [w])
    (hlate : 10 * cclkMs ≤ (b.common p).since w.since) : Acts (.entropyWaitExpiry p) b (b.releaseWaiter p w) :=
  acts (fun _ => rfl) ((if_neg (by simp [hup, hstate])).trans (releaseLate_of_late hone hlate))

end entropy

theorem detects_of_real (c : Common) (point w v : Nat) : c.detects point w v false = true := rfl

/-- ENTROPY_RESTART of a part that has booted. -/
theorem entropyRestart_of_failed {c : Common} (hbooted : c.booted = true) (hstate : c.entropy = enFailed) : c.entropyRestart = c.setFld (ob 0x8000 0) 1 2 3 :=
  if_pos (by simp [hbooted, hstate])

theorem renew_booted (c : Common) (m : Master) : (c.renew m).booted = c.booted := by unfold Common.renew; split <;> rfl

end Sys2Proof.Machine

namespace Sys2Proof
open Machine

/-- Settles O51: each command by the state of the source and of its consumers. -/
theorem entropyStates : Obligations.EntropyStates := by
  unfold Obligations.EntropyStates
  intro b p c failed hup
  refine ⟨fun test hok => ⟨?real, ?detected, ?undetected⟩, fun test hstate => entropyTestDone_acts_of_failed hup test hstate, fun test hearly => ?done,
    entropyAutoRestart_acts hup, fun m hw hstate hbooted => ?restart, fun w r out hwait => ?consumers⟩
  case real => exact entropyTestFail_acts hup test hok (detects_of_real ..)
  case detected => exact fun hdet => entropyTestFail_acts hup test hok hdet
  case undetected => exact fun hdet => entropyTestFail_acts_of_undetected hup test hok hdet
  case restart => exact mgmtWrite_acts (fun _ => rfl) hw (entropyRestart_of_failed ((renew_booted ..).trans hbooted) hstate)
  case consumers =>
    refine ⟨drbgReseed_acts hup out hwait, drbgReseed_acts_of_discarded hup out hwait (.inl rfl), fun hstate => drbgReseed_acts_of_discarded hup out hwait (.inr hstate),
      fun hstate hr hlate => ?_⟩
    subst hr
    exact entropyWaitExpiry_acts hup hstate hwait hlate
  case done =>
    have hback (hstate : c.entropy = enRestart) : c.entropyPassed =
        (({ c with autoRestarted := false } : Common).setEntropy enOk).log 0x8002 .info 0xFF (packArg [(32, c.since c.failedAt / cclkUs)]) := if_pos (by simp [hstate])
    have hok (hstate : c.entropy = enStartup) : c.entropyPassed = ({ c with autoRestarted := false } : Common).setEntropy enOk := if_neg (by rw [hstate]; decide)
    refine ⟨fun hstate hready => ?back, fun hstate hready => ?again, fun hstate hready => ⟨fun hp => ?endpoint, fun hp hnone => ?switch⟩⟩
    case back => exact hback hstate ▸ entropyTestDone_acts_of_ready hup test hearly (.inr hstate) hready
    case again => exact hok hstate ▸ entropyTestDone_acts_of_ready hup test hearly (.inl hstate) hready
    all_goals
      have hunready : ¬ c.entropyPassed.bit (ob 0x8000 0) 0 = true := by rw [secureReady_entropyPassed, hready]; decide
      refine entropyTestDone_acts hup test hearly (.inl hstate) ((if_neg hunready).trans ?_)
      rw [hok hstate, hp]
    case endpoint => rfl
    case switch => exact (if_neg (by decide)).trans (if_neg (by simpa [Common.setEntropy] using hnone))

end Sys2Proof
end

section
/-!
PROOFS. Claims and announcements of the start line (14, R327, R328): who claims, who becomes start master, what an ANNOUNCE leaves.
-/
namespace Sys2Proof.Machine

/-- The units once a packet that came to the cox core is gone from its port. -/
def Block.startDropped (b : Block) (pk : Packet) : Block := { b with sw := b.sw.rxDrop (unitRx xpCox) pk }

section claims
variable {b : Block} (hup : b.sw.up = true)
include hup

/-! ### CLAIM -/

section claim
variable {pk : Packet} (hopc : pOpc pk = 0x38) (hkind : stKind pk = 0)
include hopc hkind

theorem claim_acts_of_kept (h : (b.claimOf (stHall pk)).active = false ∨ b.lowerClaim pk = false) : Acts (.claim pk) b (b.startDropped pk) :=
  acts (fun _ => rfl) ((if_neg (by simp [hup, hopc, hkind])).trans (if_neg (by obtain h | h := h <;> simp [h])))

theorem claim_acts_of_lower (hactive : (b.claimOf (stHall pk)).active = true) (hlower : b.lowerClaim pk = true) :
    Acts (.claim pk) b ((b.startDropped pk).setClaim (stHall pk) { b.claimOf (stHall pk) with active := false, deferred := true }) :=
  acts (fun _ => rfl) ((if_neg (by simp [hup, hopc, hkind])).trans (if_pos (by simp [hactive, hlower])))

end claim

/-! ### CLAIM_ROUND_END -/

section round
variable {hall : Bool} (hactive : (b.claimOf hall).active = true) (hdue : claimRound ≤ b.sw.since (b.claimOf hall).since)
include hactive hdue

theorem claimRoundEnd_acts_of_next (hround : (b.claimOf hall).round < 3) :
    Acts (.claimRoundEnd hall) b ((b.setClaim hall { b.claimOf hall with round := (b.claimOf hall).round + 1, since := b.sw.stroke }).sendClaim hall ((b.claimOf hall).round + 1)) :=
  acts (fun _ => rfl) ((if_neg (by simp [hup, hactive, hdue])).trans (if_pos hround))

/-- After three rounds the claimant is start master. -/
theorem claimRoundEnd_acts_of_last (hround : 3 ≤ (b.claimOf hall).round) {b' : Block}
    (h : (let s1 := b.setClaim hall { active := false, round := 3, since := (b.claimOf hall).since, deferred := false }
          if hall then ((s1.modOx (fun x => { x with hallMaster := true })).modSw (fun w =>
            (w.setBit (ob 0xC000 2) 2 true).log 0xC002 .info 0xFF (packArg [(10, b.swId), (1, 1)]))).hallSort
          else s1.becomeMaster) = b') : Acts (.claimRoundEnd hall) b b' :=
  acts (fun _ => rfl) ((if_neg (by simp [hup, hactive, hdue])).trans ((if_neg (Nat.not_lt.2 hround)).trans h))

end round

/-! ### SYNC_PULSE_MISSING -/

/-- The units of a switch that misses its start master. -/
def Block.masterLost (b : Block) : Block := { b with sw := ({ b.sw with masterKnown := false } : Common).setBit (ob 0xC000 2) 1 false }

omit hup in
theorem syncPulseMissing_acts_of_early (hearly : b.sw.since b.sw.lastPulse < 3 * checkPeriod) : Acts (.syncPulseMissing .ox720) b b :=
  acts (fun _ => rfl) (if_pos (by simp [hearly]))

section missing
variable (hdue : 3 * checkPeriod ≤ b.sw.since b.sw.lastPulse)
include hdue

theorem syncPulseMissing_acts {b' : Block} (h : (if b.ox.claiming.active then b.masterLost else b.masterLost.startClaim false) = b') :
    Acts (.syncPulseMissing .ox720) b b' :=
  acts (fun _ => rfl) ((if_neg (by simp [hup, Nat.not_lt.2 hdue])).trans h)

theorem syncPulseMissing_acts_of_claimant (hactive : b.ox.claiming.active = true) : Acts (.syncPulseMissing .ox720) b b.masterLost :=
  syncPulseMissing_acts hup hdue (if_pos hactive)

theorem syncPulseMissing_acts_of_ineligible (hidle : b.ox.claiming.active = false) (h : b.masterLost.sw.bit (ob 0xC000 1) 8 = false) :
    Acts (.syncPulseMissing .ox720) b b.masterLost :=
  syncPulseMissing_acts hup hdue ((if_neg (Bool.eq_false_iff.1 hidle)).trans (if_pos (by rw [h]; rfl)))

theorem syncPulseMissing_acts_of_eligible (hidle : b.ox.claiming.active = false) (h : b.masterLost.sw.bit (ob 0xC000 1) 8 = true) :
    Acts (.syncPulseMissing .ox720) b
      (({ b.masterLost with ox := { b.ox with claiming := { active := true, round := 1, since := b.sw.stroke, deferred := false } } } : Block).sendClaim false 1) :=
  syncPulseMissing_acts hup hdue ((if_neg (Bool.eq_false_iff.1 hidle)).trans (if_neg (by rw [h]; decide)))

end missing

/-! ### ANNOUNCE -/

section announce
variable {pk : Packet} (hopc : pOpc pk = 0x38) (hkind : stKind pk = 1) (link : BitVec 7)
include hopc hkind

theorem announce_acts_of_own (hown : b.swId = pSrc pk % 1024) :
    Acts (.announce .ox720 link pk) b { b with sw := (b.sw.rxDrop (unitRx xpCox) pk).heard pk } :=
  acts (fun _ => rfl) ((if_neg (by simp [hup, hopc, hkind])).trans (if_pos hown.symm))

/-- Another's announcement ends a claim. -/
theorem announce_acts_of_other (hother : b.swId ≠ pSrc pk % 1024) :
    Acts (.announce .ox720 link pk) b { b with
      sw := ((b.sw.rxDrop (unitRx xpCox) pk).heard pk).setBit (ob 0xC000 2) 1 false
      ox := { b.ox with claiming := { b.ox.claiming with active := false }, hallMaster := false, hallClaiming := { b.ox.hallClaiming with active := false } } } :=
  acts (fun _ => rfl) ((if_neg (by simp [hup, hopc, hkind])).trans (if_neg (Ne.symm hother)))

end announce
/-! ### HALL_PING -/

section ping
variable {pk : Packet} (hopc : pOpc pk = 0x38) (hkind : stKind pk = 2)
include hopc hkind

/-- The start master answers, and keeps the ping's two stamps. -/
theorem hallPing_acts_of_master (hmaster : b.sw.bit (ob 0xC000 2) 1 = true) :
    Acts (.hallPing pk) b (({ b with sw := b.sw.rxDrop (unitRx xpCox) pk, ox := { b.ox with pinged := some (stValue pk, b.sw.stroke) } } : Block).startRack 3 0 b.sw.stroke
      (pSrc pk / 16 % 64)) :=
  acts (fun _ => rfl) ((if_neg (by simp [hup, hopc, hkind])).trans (if_pos hmaster))

theorem hallPing_acts_of_other (hother : b.sw.bit (ob 0xC000 2) 1 = false) : Acts (.hallPing pk) b (b.startDropped pk) :=
  acts (fun _ => rfl) ((if_neg (by simp [hup, hopc, hkind])).trans (if_neg (Bool.eq_false_iff.1 hother)))

end ping

/-! ### HALL_ECHO -/

section echo
variable {pk : Packet} (hopc : pOpc pk = 0x38) (hkind : stKind pk = 3) (sent : BitVec 48)
include hopc hkind

theorem hallEcho_acts_of_idle (h : b.sw.bit (ob 0xC000 2) 1 = false ∨ b.ox.hallMaster = true ∨ b.ox.pinged = none) : Acts (.hallEcho pk sent) b (b.startDropped pk) := by
  refine acts (fun _ => rfl) ((if_neg (by simp [hup, hopc, hkind])).trans ?_)
  obtain hother | hhall | hnone := h
  · exact if_pos (by simp [hother])
  · exact if_pos (by simp [hhall])
  · rw [hnone]
    exact ite_self _

variable (hmaster : b.sw.bit (ob 0xC000 2) 1 = true) (hrack : b.ox.hallMaster = false) {t1 t2 : Nat} (hpinged : b.ox.pinged = some (t1, t2))
include hmaster hrack hpinged

/-- The offset of the rack's count from the hall's: the mean of the two differences, modulo 2^48. -/
def echoOffset (t1 t2 value sent : Nat) : Int :=
  (toSigned 48 (toUnsigned 48 ((t2 : Int) - (t1 : Int))) + toSigned 48 (toUnsigned 48 ((value : Int) - (sent : Int)))) / 2

omit hup hopc hkind hmaster hrack hpinged in
/-- A switch with a measured offset. -/
def Block.offsetSeen (b : Block) (pk : Packet) (off : Int) : Block :=
  { b with sw := (b.sw.rxDrop (unitRx xpCox) pk).setFld (ob 0xC000 3) 0 32 (toUnsigned 32 off) }

theorem hallEcho_acts {b' : Block}
    (h : (let off := echoOffset t1 t2 (stValue pk) sent.toNat
          let s2 := b.offsetSeen pk off
          let synced := b.sw.bit (ob 0xC000 2) 2
          if synced && decide (off.natAbs ≤ 64) then s2
          else
            let s3 := s2.modOx (fun x => { x with hallAlign := some off })
            if synced then (s3.modSw (fun c => (c.setBit (ob 0xC000 2) 2 false).syncLost c.stroke (toUnsigned 28 off))).hallSort else s3) = b') :
    Acts (.hallEcho pk sent) b b' := by
  refine acts (fun _ => rfl) ((if_neg (by simp [hup, hopc, hkind])).trans ((if_neg (by simp [hmaster, hrack])).trans ?_))
  rw [hpinged]
  exact h

theorem hallEcho_acts_of_new (hsync : b.sw.bit (ob 0xC000 2) 2 = false) :
    let off := echoOffset t1 t2 (stValue pk) sent.toNat
    Acts (.hallEcho pk sent) b ((b.offsetSeen pk off).modOx (fun x => { x with hallAlign := some off })) :=
  hallEcho_acts hup hopc hkind sent hmaster hrack hpinged (by simp only [hsync, Bool.false_and, Bool.false_eq_true, if_false])

theorem hallEcho_acts_of_near (hsync : b.sw.bit (ob 0xC000 2) 2 = true) (hnear : (echoOffset t1 t2 (stValue pk) sent.toNat).natAbs ≤ 64) :
    Acts (.hallEcho pk sent) b (b.offsetSeen pk (echoOffset t1 t2 (stValue pk) sent.toNat)) :=
  hallEcho_acts hup hopc hkind sent hmaster hrack hpinged (if_pos (by simp [hsync, hnear]))

theorem hallEcho_acts_of_far (hsync : b.sw.bit (ob 0xC000 2) 2 = true) (hfar : 64 < (echoOffset t1 t2 (stValue pk) sent.toNat).natAbs) :
    let off := echoOffset t1 t2 (stValue pk) sent.toNat
    Acts (.hallEcho pk sent) b ((((b.offsetSeen pk off).modOx (fun x => { x with hallAlign := some off })).modSw (fun c =>
      (c.setBit (ob 0xC000 2) 2 false).syncLost c.stroke (toUnsigned 28 off))).hallSort) :=
  hallEcho_acts hup hopc hkind sent hmaster hrack hpinged ((if_neg (by simp [Nat.not_le.2 hfar])).trans (if_pos hsync))

end echo

/-! ### CHECK_PERIOD_ANNOUNCE -/

section period
variable (hmaster : b.sw.bit (ob 0xC000 2) 1 = true) (hstarted : b.sw.started = true) (hdue : b.ox.pulseDue = none)
include hmaster hstarted hdue

omit hup hmaster hstarted hdue in
/-- The switch once its next pulse is announced. -/
def Block.pulseAnnounced (b : Block) : Block :=
  let v := ((b.sw.stroke + announceLead + checkPeriod - 1) / checkPeriod) * checkPeriod
  let hs := b.sw.bit (ob 0xC000 2) 2
  let value := toUnsigned 48 ((v : Int) - b.ox.hallAlign.getD 0)
  let u := b.startCrew 1 b.ox.hallAlign.isSome 0 hs value
  { u with sw := { u.sw with announced := some (value, hs, b.ox.hallAlign.isSome, b.swId) }, ox := { u.ox with pulseDue := some (v - 68) } }

theorem checkPeriodAnnounce_acts {b' : Block}
    (h : (if b.ox.hallMaster then b.pulseAnnounced.otherRacks.foldl (fun s n => s.startRack 2 0 s.sw.stroke n) b.pulseAnnounced
          else if b.otherRacks.isEmpty || b.hallLed || b.ox.hallClaiming.active then b.pulseAnnounced else b.pulseAnnounced.startClaim true) = b') :
    Acts .checkPeriodAnnounce b b' :=
  acts (fun _ => rfl) ((if_neg (by simp [hup, hmaster, hstarted, hdue])).trans h)

end period
end claims

theorem ssyncOutDrive_acts {b : Block} (hup : b.sw.up = true) {t : Nat} (hpulse : b.ox.pulseDue = some t) :
    (t ≤ b.sw.stroke → Acts .ssyncOutDrive b { b with sw := b.sw.emit (.pin "SSYNC_OUT" 1), ox := { b.ox with pulseDue := none, ssyncLow := 12 } })
    ∧ (b.sw.stroke < t → Acts .ssyncOutDrive b b) := by
  refine ⟨fun hdue => acts (fun _ => rfl) ?_, fun hearly => acts (fun _ => rfl) ?_⟩ <;> rw [hpulse]
  · exact if_pos (by simp [hup, hdue])
  · exact if_neg (by simp [hearly])

/-! ### The endpoint -/

theorem syncPulseMissing_acts_of_endpoint {b : Block} (hup : b.ep.up = true) (hdue : 3 * checkPeriod ≤ b.ep.since b.ep.lastPulse) :
    Acts (.syncPulseMissing .oe36) b { b with ep := ({ b.ep with masterKnown := false } : Common).setBit (ob 0xC000 2) 1 false } :=
  acts (fun _ => rfl) (if_neg (by simp [hup, Nat.not_lt.2 hdue]))

section announce
variable {b : Block} (hup : b.ep.up = true) {pk : Packet} (hopc : pOpc pk = 0x38) (hkind : stKind pk = 1) (link : BitVec 7)
include hup hopc hkind

/-- Checks 1 and 2 refuse it. -/
theorem announce_acts_of_refused (hbad : classBad pk (linkNets .oe36 link.toNat) = true) :
    Acts (.announce .oe36 link pk) b { b with ep := b.ep.refuseHere link.toNat pk } :=
  acts (fun _ => rfl) ((if_neg (by simp [hup, hopc, hkind])).trans (congrArg (fun c => { b with ep := c }) (if_pos hbad)))

/-- Otherwise it is relayed and heard. -/
theorem announce_acts_of_endpoint (hgood : classBad pk (linkNets .oe36 link.toNat) = false) :
    Acts (.announce .oe36 link pk) b { b with ep := ((b.ep.takeRx link.toNat pk).relay link.toNat pk).heard pk } :=
  acts (fun _ => rfl) ((if_neg (by simp [hup, hopc, hkind])).trans (congrArg (fun c => { b with ep := c }) (if_neg (Bool.eq_false_iff.1 hgood))))

end announce

/-! ### Pulses and the clock (R325, R331) -/

/-- A part whose count is loaded as `v` with a pulse. -/
def Common.pulsed (c : Common) (v : Nat) : Common := { c with stroke := v, lastPulse := v, started := true, announced := none }

section pulse
variable {c : Common} {v : Nat} (hv : v < 2 ^ 48)
include hv

theorem loadStroke_eq : c.loadStroke v = if c.stroke = v then c.pulsed v else (c.pulsed v).loadedPast := by
  simp only [Common.loadStroke, Nat.mod_eq_of_lt hv, eq_comm (a := v)]
  rfl

variable (hsync hall : Bool) (m : Nat)

/-- A pulse that confirms the count. -/
theorem pulse_of_confirmed (hsynced : c.bit (ob 0xC000 2) 0 = true) (hsame : c.stroke = v) (p : Part) :
    c.pulse v hsync hall m p = if p == .ox720 && c.bit (ob 0xC000 2) 1 then c.pulsed v else (c.pulsed v).setBit (ob 0xC000 2) 2 hsync := by
  simp only [Common.pulse, hsynced, loadStroke_eq hv, hsame, Bool.not_true, Bool.false_eq_true, decide_true, Bool.true_or, if_true, if_false]

theorem pulse_of_refused (hsynced : c.bit (ob 0xC000 2) 0 = true) (hother : c.stroke ≠ v) :
    c.pulse v hsync false m .oe36 = (((c.pulsed v).loadedPast.setBit (ob 0xC000 2) 0 false).log
      0xC003 .uncorrected 0xFF (packArg [(48, c.stroke), (48, v)])).setBit (ob 0xC000 2) 2 hsync := by
  simp only [Common.pulse, hsynced, loadStroke_eq hv, hother, Bool.not_true, Bool.false_eq_true, decide_false, Bool.or_false, if_false]
  rfl

theorem pulse_of_aligned (hsynced : c.bit (ob 0xC000 2) 0 = true) (hother : c.stroke ≠ v) :
    c.pulse v hsync true m .oe36 = (c.pulsed v).loadedPast.setBit (ob 0xC000 2) 2 hsync := by
  simp only [Common.pulse, hsynced, loadStroke_eq hv, hother, Bool.not_true, Bool.false_eq_true, Bool.or_true, if_true, if_false]
  rfl

theorem pulse_of_unsynced (hsynced : c.bit (ob 0xC000 2) 0 = false) :
    c.pulse v hsync hall m .oe36 =
      (let d := (if c.stroke = v then c.pulsed v else (c.pulsed v).loadedPast).setBit (ob 0xC000 2) 0 true
       if !c.started && v == 0 then d.log 0xC001 .info 0xFF (packArg [(48, v), (10, m)]) else d).setBit (ob 0xC000 2) 2 hsync := by
  simp only [Common.pulse, hsynced, loadStroke_eq hv, Bool.not_false, if_true]
  rfl

end pulse

section strokeSync
variable {b : Block} {v m : Nat} {hsync hall : Bool}

theorem strokeSync_acts_of_endpoint (hup : b.ep.up = true) (hann : b.ep.announced = some (v, hsync, hall, m)) {c' : Common} (h : b.ep.pulse v hsync hall m .oe36 = c') :
    Acts (.strokeSync .oe36) b { b with ep := c' } := by
  subst h
  refine acts (fun _ => rfl) ((if_neg (by simp [hup])).trans ?_)
  simp only [Block.common_oe36, hann]
  rfl

theorem strokeSync_acts_of_switch (hup : b.sw.up = true) (hann : b.sw.announced = some (v, hsync, hall, m)) {b' : Block}
    (h : (let s1 := b.modSw (fun c => c.pulse v hsync hall m .ox720)
          if b.sw.bit (ob 0xC000 2) 1 && hall then (s1.modSw (fun c => c.setBit (ob 0xC000 2) 2 true)).modOx (fun x => { x with hallAlign := none }) else s1) = b') :
    Acts (.strokeSync .ox720) b b'.hallSort.engineKick := by
  subst h
  refine acts (fun _ => rfl) ((if_neg (by simp [hup])).trans ?_)
  simp only [Block.common_ox720, hann]
  rfl

/-- Without an ANNOUNCE before it a pulse is noted alone. -/
theorem strokeSync_acts_of_unannounced {p : Part} (hup : (b.common p).up = true) (hnone : (b.common p).announced = none) :
    Acts (.strokeSync p) b (b.setCommon p { b.common p with lastPulse := (b.common p).stroke }) := by
  refine acts (fun _ => rfl) ((if_neg (by simp [hup])).trans ?_)
  split
  next => rfl
  next hsome => rw [hnone] at hsome; contradiction

end strokeSync

theorem refclkLoss_acts {b : Block} {p : Part} (hrun : (b.common p).running = true) {inj : Bool} (hinj : inj = true → (b.common p).injects 0xA1 = true) :
    Acts (.refclkLoss p inj) b (b.setCommon p (if inj then (b.common p).injected 0xA1 else b.common p).clockLost) :=
  acts (fun _ => rfl) ((if_neg (by simp [hrun])).trans (if_neg (by simpa using hinj)))

theorem refclkLoss_acts_of_passed {b : Block} {p : Part} (hrun : (b.common p).running = true) (hinj : (b.common p).injects 0xA1 = false) :
    Acts (.refclkLoss p true) b (b.setCommon p ((b.common p).passed 0xA1 true)) :=
  acts (fun _ => rfl) ((if_neg (by simp [hrun])).trans (if_pos (by simp [hinj])))

end Sys2Proof.Machine

namespace Sys2Proof
open Machine

/-- Settles O47: the commands of the start line by the state of the switch or endpoint that takes them. -/
theorem startLine : Obligations.StartLine := by
  unfold Obligations.StartLine
  refine ⟨fun b pk => ?packets, fun b => ⟨fun hup v hsync hall m hann hv => ?pulse, fun hup v hsync hall m hann hv hsynced hsame => ?switch,
    fun p => strokeSync_acts_of_unannounced, fun p hrun => ?clock⟩⟩
  case packets =>
    intro drop hup hopc
    refine ⟨fun hkind => ⟨claim_acts_of_kept hup hopc hkind, claim_acts_of_lower hup hopc hkind⟩, fun hall => ?round, fun hdue => ?missing, syncPulseMissing_acts_of_early,
      syncPulseMissing_acts_of_endpoint, fun hkind link => ⟨announce_acts_of_other hup hopc hkind link, announce_acts_of_own hup hopc hkind link⟩,
      fun hkind hup link => ⟨announce_acts_of_refused hup hopc hkind link, announce_acts_of_endpoint hup hopc hkind link⟩,
      fun hkind => ⟨hallPing_acts_of_master hup hopc hkind, hallPing_acts_of_other hup hopc hkind⟩, fun hkind sent => ?echo,
      fun hmaster hstarted hdue => ?period, fun t => ssyncOutDrive_acts hup⟩
    case round =>
      intro c hactive hdue
      refine ⟨claimRoundEnd_acts_of_next hup hactive hdue, fun hround hhall => ?_, fun hround hhall => ?_⟩ <;> subst hhall
      · exact claimRoundEnd_acts_of_last hup hactive hdue hround rfl
      · exact claimRoundEnd_acts_of_last hup hactive hdue hround rfl
    case missing =>
      exact ⟨syncPulseMissing_acts_of_claimant hup hdue, syncPulseMissing_acts_of_ineligible hup hdue, syncPulseMissing_acts_of_eligible hup hdue⟩
    case echo =>
      exact ⟨hallEcho_acts_of_idle hup hopc hkind sent, fun t1 t2 hmaster hrack hpinged => ⟨hallEcho_acts_of_new hup hopc hkind sent hmaster hrack hpinged,
        hallEcho_acts_of_near hup hopc hkind sent hmaster hrack hpinged, hallEcho_acts_of_far hup hopc hkind sent hmaster hrack hpinged⟩⟩
    case period =>
      have hacts {b' : Block} := checkPeriodAnnounce_acts (b' := b') hup hmaster hstarted hdue
      refine ⟨fun hhall => hacts (if_pos hhall), fun hrack hled => hacts ((if_neg (Bool.eq_false_iff.1 hrack)).trans (if_pos ?_)),
        fun hrack hothers hled hidle => hacts ((if_neg (Bool.eq_false_iff.1 hrack)).trans (if_neg ?_))⟩
      · simpa [or_assoc] using hled
      · simp [hothers, hled, hidle]
  case pulse =>
    have hacts {c' : Common} := strokeSync_acts_of_endpoint (c' := c') hup hann
    refine ⟨fun hsynced hsame => hacts (pulse_of_confirmed hv hsync hall m hsynced hsame .oe36), fun hsynced hother hhall => ?refused,
      fun hsynced hother hhall => ?aligned, fun hsynced => ?unsynced⟩
    case refused =>
      subst hhall
      exact hacts (pulse_of_refused hv hsync m hsynced hother)
    case aligned =>
      subst hhall
      exact hacts (pulse_of_aligned hv hsync m hsynced hother)
    case unsynced =>
      intro c d
      have hpulse := pulse_of_unsynced hv hsync hall m hsynced
      refine ⟨fun hold => hacts (hpulse.trans (congrArg (fun c : Common => c.setBit (ob 0xC000 2) 2 hsync) (if_neg ?_))), fun hnew hzero => ?_⟩
      · obtain hstarted | hcount := hold
        · simp [hstarted]
        · simp [hcount]
      · subst hzero
        exact hacts (hpulse.trans (congrArg (fun c : Common => c.setBit (ob 0xC000 2) 2 hsync) (if_pos (by simp [hnew]))))
  case switch =>
    have hpulse := pulse_of_confirmed hv hsync hall m hsynced hsame .ox720
    refine ⟨fun hother => strokeSync_acts_of_switch hup hann ?_, fun hmaster hhall => strokeSync_acts_of_switch hup hann ?_,
      fun hmaster hhall => strokeSync_acts_of_switch hup hann ?_⟩
    · simp only [Block.modSw, hpulse, hother, Bool.and_false, Bool.false_and, Bool.false_eq_true, if_false]
      rfl
    · subst hhall
      simp only [Block.modSw, hpulse, hmaster, Bool.and_false, Bool.false_eq_true, if_false]
      rfl
    · subst hhall
      simp only [Block.modSw, hpulse, hmaster, Bool.and_self, if_true]
      rfl
  case clock =>
    exact ⟨refclkLoss_acts hrun (fun h => absurd h (by decide)), fun hinj => refclkLoss_acts hrun (fun _ => hinj), refclkLoss_acts_of_passed hrun⟩

end Sys2Proof
end

section
/-!
PROOFS. SRAM errors, configuration parity and the patrol scrubber (16, R361, R363 to R365; 17, R389): what is counted and logged, and what an uncorrectable error strikes.
-/
namespace Sys2Proof.Machine

/-- A part with an occasion of an injection point that lands on it. -/
def Common.seen (c : Common) (point : Nat) (inj : Bool) : Common := if inj then c.injected point else c

section sram
variable {b : Block} {p : Part} (hreset : (b.common p).inReset = false) {unit : BitVec 8} {word : BitVec 32} {inj : Bool}
include hreset

theorem sramCorrected_acts (hdet : (b.common p).detects 0x20 40 (unit.toNat + 256 * word.toNat) inj = true) :
    Acts (.sramCorrected p unit word inj) b (b.setCommon p
      ((((b.common p).seen 0x20 inj).count (ob 0x9021 2) 0 64 1).logLimited 0x9001 .corrected 0xFF 0 (packArg [(8, unit.toNat), (32, word.toNat)]))) :=
  acts (fun _ => rfl) ((if_neg (by simp [hreset])).trans (if_neg (by simp [Common.strikesWord, hdet])))

theorem sramCorrected_acts_of_undetected (hdet : (b.common p).detects 0x20 40 (unit.toNat + 256 * word.toNat) inj = false) :
    Acts (.sramCorrected p unit word inj) b (b.setCommon p ((b.common p).undetected 0x20 40 (unit.toNat + 256 * word.toNat) inj)) :=
  acts (fun _ => rfl) ((if_neg (by simp [hreset])).trans (if_pos (by simp [Common.strikesWord, hdet])))

theorem sramUncorrected_acts_of_undetected (hdet : (b.common p).detects 0x21 40 (unit.toNat + 256 * word.toNat) inj = false) (what : Struck) :
    Acts (.sramUncorrected p unit word what inj) b (b.setCommon p ((b.common p).undetected 0x21 40 (unit.toNat + 256 * word.toNat) inj)) :=
  acts (fun _ => rfl) ((if_neg (by simp [hreset])).trans (if_pos (by simp [Common.strikesWord, hdet])))

omit hreset in
/-- The units once an uncorrectable error is counted and logged with a severity. -/
def Block.sramLost (b : Block) (p : Part) (unit : BitVec 8) (word : BitVec 32) (inj : Bool) (sev : Sev) : Block :=
  b.setCommon p ((((b.common p).seen 0x21 inj).count (ob 0x9021 3) 0 32 1).log 0x9002 sev 0xFF (packArg [(8, unit.toNat), (32, word.toNat)]))

variable (hdet : (b.common p).detects 0x21 40 (unit.toNat + 256 * word.toNat) inj = true)
include hdet

/-- The structure that is struck answers. -/
theorem sramUncorrected_acts {what : Struck} {sev : Sev} (hsev : (if what == .control then .fatal else .uncorrected) = sev) {b' : Block}
    (h : (b.sramLost p unit word inj sev).struck p what = b') : Acts (.sramUncorrected p unit word what inj) b b' := by
  subst hsev
  exact acts (fun _ => rfl) ((if_neg (by simp [hreset])).trans ((if_neg (by simp [Common.strikesWord, hdet])).trans h))

theorem sramUncorrected_acts_of_control :
    let u := b.sramLost p unit word inj .fatal
    Acts (.sramUncorrected p unit word .control inj) b (u.setCommon p { u.common p with failed := true }) :=
  sramUncorrected_acts hreset hdet rfl (by cases p <;> rfl)

theorem sramUncorrected_acts_of_replayWord (pp : BitVec 7) :
    Acts (.sramUncorrected p unit word (.replayWord pp) inj) b ((b.sramLost p unit word inj .uncorrected).leaveActive p pp.toNat 5) :=
  sramUncorrected_acts hreset hdet rfl (by cases p <;> rfl)

end sram

theorem ox_sramLost (b : Block) (unit : BitVec 8) (word : BitVec 32) (inj : Bool) (sev : Sev) : (b.sramLost .ox720 unit word inj sev).ox = b.ox := rfl

/-! ### A switch's cells and tile memory -/

section switch
variable {u : Block}

theorem struck_cellPayload {k : BitVec 19} {x : Cell} (hx : u.ox.cell k.toNat = some x) : u.struck .ox720 (.cellPayload k) = { u with
    ox := { u.ox with cells := SMap.set none u.ox.cells k.toNat (some { x with pkt := setPoison x.pkt true, copies := x.copies.map (fun y => (y.1, setPoison y.2 true)) }) } } := by
  simp only [Block.struck, Block.modOx, hx]

theorem struck_cellPayload_of_free {k : BitVec 19} (hx : u.ox.cell k.toNat = none) : u.struck .ox720 (.cellPayload k) = u := by
  simp only [Block.struck, Block.modOx, hx]

variable {g : BitVec 4} {blk : BitVec 32}

/-- Without a result that waits the bound context's block memory is noted as bad. -/
theorem struck_tileMemory_of_bound {key : Nat} (hnone : u.ox.results = []) (hbound : (u.ox.group g.toNat).bound = some key) :
    u.struck .ox720 (.tileMemory g blk) = u.modGroup g.toNat (fun q => { q with badMem := q.badMem ++ [(key, blk.toNat)] }) := by
  simp only [Block.struck, hnone, List.find?_nil, hbound]

theorem struck_tileMemory_of_result {r : ResBlk} (hr : u.ox.results.find? (fun r => r.g == g.toNat && r.block == blk.toNat && !r.released) = some r)
    (hidle : u.ox.recomps.any (fun x => x.g == g.toNat && x.ctx == r.ctx && x.block == blk.toNat) = false) :
    u.struck .ox720 (.tileMemory g blk) = u.recompute g.toNat r.ctx blk.toNat (6 * g.toNat) (u.sw.physical (6 * g.toNat)) 0 := by
  simp only [Block.struck, hr, hidle, Bool.false_eq_true, if_false]

end switch

/-! ### Configuration parity -/

section parity
variable {b : Block} {p : Part} (hreset : (b.common p).inReset = false) {key : BitVec 24} {word : BitVec 2} {r : ObjRow} (hrow : findRow p key.toNat = some r)
  (hstaged : r.staged p = true) (hword : 32 * word.toNat < r.width) {inj : Bool}
include hreset hrow hstaged hword

theorem paritySweep_acts_of_undetected (hdet : (b.common p).detects 0x22 24 key.toNat inj = false) (mismatch shadow : Bool) :
    Acts (.paritySweep p key word mismatch shadow inj) b (b.setCommon p ((b.common p).undetected 0x22 24 key.toNat inj)) := by
  rintro s rfl
  refine congrArg (fun b : Block => Host.Outcome.next { s with blk := b }) ?_
  exact (if_neg (by simp [hreset, hrow, hstaged, hword])).trans (if_pos (by simp [hdet]))

variable (hdet : (b.common p).detects 0x22 24 key.toNat inj = true)
include hdet

/-- What a sweep finds in a word and in the staged shadow of its object. -/
theorem paritySweep_eq {mismatch shadow : Bool} {s : State} (hs : s.blk = b) {c' : Common}
    (h : (let c1 := (b.common p).seen 0x22 inj
          let c2 := if mismatch && !c1.parityErr.contains (key.toNat, word.toNat) then
              ((({ c1 with parityErr := c1.parityErr ++ [(key.toNat, word.toNat)] } : Common).setBit (ob 0x9023 0) (key.toNat / 2 ^ 20) true).log 0x9003 .uncorrected 0xFF
                (packArg [(24, key.toNat)]))
            else c1
          if shadow && (s.mg p).shadow.any (fun x => x.1 == key.toNat) && !c2.shadowErr.contains key.toNat then { c2 with shadowErr := c2.shadowErr ++ [key.toNat] } else c2) = c') :
    exec (.paritySweep p key word mismatch shadow inj) s = .next { s with blk := b.setCommon p c' } := by
  subst hs h
  refine congrArg (fun b : Block => Host.Outcome.next { s with blk := b }) ?_
  exact (if_neg (by simp [hreset, hrow, hstaged, hword])).trans (if_neg (by simp [hdet]))

theorem paritySweep_acts_of_new (hnew : ((b.common p).seen 0x22 inj).parityErr.contains (key.toNat, word.toNat) = false) :
    let d := (b.common p).seen 0x22 inj
    Acts (.paritySweep p key word true false inj) b (b.setCommon p
      ((({ d with parityErr := d.parityErr ++ [(key.toNat, word.toNat)] } : Common).setBit (ob 0x9023 0) (key.toNat / 2 ^ 20) true).log 0x9003 .uncorrected 0xFF
        (packArg [(24, key.toNat)]))) := by
  intro d s hs
  refine paritySweep_eq hreset hrow hstaged hword hdet hs ((if_neg (by simp)).trans (if_pos ?_))
  rw [hnew]
  rfl

theorem paritySweep_acts_of_known (hknown : ((b.common p).seen 0x22 inj).parityErr.contains (key.toNat, word.toNat) = true) :
    Acts (.paritySweep p key word true false inj) b (b.setCommon p ((b.common p).seen 0x22 inj)) := by
  intro s hs
  refine paritySweep_eq hreset hrow hstaged hword hdet hs ((if_neg (by simp)).trans (if_neg ?_))
  rw [hknown]
  decide

/-- An error in a staged shadow is remembered. -/
theorem paritySweep_of_shadow (hnew : ((b.common p).seen 0x22 inj).shadowErr.contains key.toNat = false) {s : State} (hs : s.blk = b)
    (hshadow : ∃ x, (key.toNat, x) ∈ (s.mg p).shadow) :
    let d := (b.common p).seen 0x22 inj
    exec (.paritySweep p key word false true inj) s = .next { s with blk := b.setCommon p { d with shadowErr := d.shadowErr ++ [key.toNat] } } := by
  intro d
  obtain ⟨x, hx⟩ := hshadow
  have hany : (s.mg p).shadow.any (fun x => x.1 == key.toNat) = true := List.any_eq_true.2 ⟨_, hx, beq_self_eq_true _⟩
  refine paritySweep_eq hreset hrow hstaged hword hdet hs (if_pos ?_)
  simpa [hany] using hnew

end parity

/-! ### The patrol scrubber -/

/-- The scrubber moves on to the next block, and after the last one counts its pass. -/
def Common.scrubOn (c : Common) (pos : Nat) : Common :=
  if pos + 1 < bhBlocks then c.setFld (ob 0x9020 1) 0 30 (pos + 1) else (c.setFld (ob 0x9020 1) 0 30 0).count (ob 0x9020 2) 0 32 1

/-- A part whose occasion at a block has landed or passed. -/
def Common.scrubSeen (c : Common) (point pos : Nat) (inj : Bool) : Common :=
  if inj && c.detects point 32 pos inj then c.injected point else c.undetected point 32 pos inj

section scrub
variable {b : Block} (hreset : b.sw.inReset = false) (hready : b.sw.secureReady = true) {inj : Bool} {pos : Nat} (hpos : b.sw.fld (ob 0x9020 1) 0 30 = pos)
include hreset hready hpos

theorem patrolScrub_acts {correctable uncorrectable : Bool} {point : Nat} (hpoint : (if uncorrectable then 0x32 else 0x30) = point) {b' : Block}
    (h : (let s0 := b.modSw (fun c => c.scrubSeen point pos inj)
          let s1 := if uncorrectable && b.sw.detects point 32 pos inj && !b.ox.bhPoison.contains pos then
              (let t := (SMap.get ((256 : Nat), (0 : Nat)) b.ox.bhOwner pos).1
               (s0.modOx (fun x => { x with bhPoison := insertNat x.bhPoison pos })).modSw (fun c =>
                 ((c.count (ob 0x9021 1) 0 32 1).setReg (ob 0x9022 0) (BitVec.ofNat 128 (packArg [(30, pos), (8, t)]))).log 0x9005 .deferred 0xFF (packArg [(8, t), (30, pos)])))
            else if correctable && !uncorrectable && b.sw.detects point 32 pos inj then
              s0.modSw (fun c => (c.count (ob 0x9021 0) 0 64 1).logLimited 0x9004 .corrected 0xFF 0 (packArg [(30, pos)]))
            else s0
          s1.modSw (fun c => c.scrubOn pos)) = b') : Acts (.patrolScrub correctable uncorrectable inj) b b' := by
  subst hpos hpoint h
  refine acts (fun _ => rfl) ((if_neg (by simp [hreset, hready])).trans ?_)
  simp only [Block.modSw, Common.scrubSeen, apply_ite (fun c : Common => ({ b with sw := c } : Block))]
  rfl

theorem patrolScrub_acts_of_sound : Acts (.patrolScrub false false inj) b { b with sw := (b.sw.scrubSeen 0x30 pos inj).scrubOn pos } :=
  patrolScrub_acts (point := 0x30) hreset hready hpos rfl rfl

theorem patrolScrub_acts_of_corrected (hdet : b.sw.detects 0x30 32 pos inj = true) :
    Acts (.patrolScrub true false inj) b { b with
      sw := (((b.sw.scrubSeen 0x30 pos inj).count (ob 0x9021 0) 0 64 1).logLimited 0x9004 .corrected 0xFF 0 (packArg [(30, pos)])).scrubOn pos } := by
  refine patrolScrub_acts (point := 0x30) hreset hready hpos rfl ?_
  simp only [hdet, Bool.false_and, Bool.not_false, Bool.and_self, Bool.false_eq_true, if_true, if_false]
  rfl

theorem patrolScrub_acts_of_missed (hdet : b.sw.detects 0x30 32 pos inj = false) :
    Acts (.patrolScrub true false inj) b { b with sw := (b.sw.scrubSeen 0x30 pos inj).scrubOn pos } := by
  refine patrolScrub_acts (point := 0x30) hreset hready hpos rfl ?_
  simp only [hdet, Bool.and_false, Bool.false_and, Bool.false_eq_true, if_false]
  rfl

/-- A block that cannot be corrected is poisoned, reported with its tenant. -/
theorem patrolScrub_acts_of_poisoned (hdet : b.sw.detects 0x32 32 pos inj = true) (hnew : b.ox.bhPoison.contains pos = false) (correctable : Bool) :
    let t := (SMap.get ((256 : Nat), (0 : Nat)) b.ox.bhOwner pos).1
    Acts (.patrolScrub correctable true inj) b { b with
      sw := ((((b.sw.scrubSeen 0x32 pos inj).count (ob 0x9021 1) 0 32 1).setReg (ob 0x9022 0) (BitVec.ofNat 128 (packArg [(30, pos), (8, t)]))).log 0x9005 .deferred 0xFF
        (packArg [(8, t), (30, pos)])).scrubOn pos
      ox := { b.ox with bhPoison := insertNat b.ox.bhPoison pos } } := by
  intro t
  refine patrolScrub_acts (point := 0x32) hreset hready hpos rfl ?_
  simp only [hdet, hnew, Bool.not_false, Bool.and_self, if_true]
  rfl

/-- Once only. -/
theorem patrolScrub_acts_of_known (h : b.sw.detects 0x32 32 pos inj = false ∨ b.ox.bhPoison.contains pos = true) (correctable : Bool) :
    Acts (.patrolScrub correctable true inj) b { b with sw := (b.sw.scrubSeen 0x32 pos inj).scrubOn pos } := by
  refine patrolScrub_acts (point := 0x32) hreset hready hpos rfl ?_
  have hquiet : ¬ (true && b.sw.detects 0x32 32 pos inj && !b.ox.bhPoison.contains pos) = true := by
    obtain h | h := h <;> rw [h] <;> simp
  simp only [if_neg hquiet, Bool.not_true, Bool.and_false, Bool.false_and, Bool.false_eq_true, if_false]
  rfl

end scrub

end Sys2Proof.Machine

namespace Sys2Proof
open Machine

/-- Settles O52: each detector's command by what it detects, an uncorrectable error by the structure that it strikes. -/
theorem errorsAreCounted : Obligations.ErrorsAreCounted := by
  unfold Obligations.ErrorsAreCounted
  intro b p c hreset
  refine ⟨fun unit word inj => ⟨sramCorrected_acts hreset, sramCorrected_acts_of_undetected hreset, sramUncorrected_acts_of_undetected hreset, fun hdet => ?struck⟩,
    fun key word r inj hrow hstaged hword => ?parity, fun hp hready inj => ?scrub⟩
  case struck =>
    have hstrikes {what : Struck} (hsev : (if what == .control then Sev.fatal else .uncorrected) = .uncorrected) {b' : Block}
        (h : (b.sramLost p unit word inj .uncorrected).struck p what = b') : Acts (.sramUncorrected p unit word what inj) b b' := sramUncorrected_acts hreset hdet hsev h
    refine ⟨sramUncorrected_acts_of_control hreset hdet, sramUncorrected_acts_of_replayWord hreset hdet,
      fun line ctx g => ⟨fun hp => ?_, fun hp => ?_⟩, fun k g blk => ⟨fun hp => ?_, fun hp => ?_⟩⟩ <;> subst hp
    · exact ⟨hstrikes rfl rfl, hstrikes rfl rfl⟩
    · exact ⟨hstrikes rfl rfl, hstrikes rfl rfl⟩
    · exact ⟨hstrikes rfl rfl, hstrikes rfl rfl, hstrikes rfl rfl⟩
    · exact ⟨hstrikes rfl rfl, fun x hx => hstrikes rfl (struck_cellPayload hx), fun hx => hstrikes rfl (struck_cellPayload_of_free hx),
        fun key hnone hbound => hstrikes rfl (struck_tileMemory_of_bound hnone hbound), fun r hr hidle => hstrikes rfl (struck_tileMemory_of_result hr hidle)⟩
  case parity =>
    exact ⟨paritySweep_acts_of_undetected hreset hrow hstaged hword, fun hdet => ⟨paritySweep_acts_of_new hreset hrow hstaged hword hdet,
      paritySweep_acts_of_known hreset hrow hstaged hword hdet, fun hnew s => paritySweep_of_shadow hreset hrow hstaged hword hdet hnew⟩⟩
  case scrub =>
    subst hp
    exact ⟨patrolScrub_acts_of_sound hreset hready rfl, patrolScrub_acts_of_corrected hreset hready rfl, patrolScrub_acts_of_missed hreset hready rfl,
      patrolScrub_acts_of_poisoned hreset hready rfl, patrolScrub_acts_of_known hreset hready rfl⟩

end Sys2Proof
end

section
/-!
PROOFS. Standing in for a lost twin, the fence and the twin's path (16, R370 to R375).
-/
namespace Sys2Proof.Machine

section standIn
variable {b : Block}

theorem standInBegin_acts {t : Nat} (hup : b.sw.up = true) (hself : b.sw.namesSelf = true) (hlost : b.sw.lstate 0x58 ≠ lsActive) (hdown : b.ox.bridgeDownAt = some t)
    (hlong : b.sw.fld (ob 0x9041 0) 3 16 * cclkUs ≤ b.sw.since t) (htwin : b.ox.twinSeen = true) (hout : b.sw.standIn = false) (hopen : b.sw.isFenced = false) :
    let n := (((List.range 4096).filterMap (fun c => b.twinRecord c)).filter recordOpen).length
    Acts .standInBegin b { b with
      sw := (b.sw.setBit (ob 0x9041 0) 0 true).log 0x900A .corrected 0xFF (packArg [(10, b.twinId), (32, n)])
      ox := { b.ox with hold := { b.ox.hold with standFrom := some b.sw.stroke, standEnd := false }, standAt := some b.sw.stroke, standResumed := [] } } :=
  acts (fun _ => rfl) (if_pos (by simp [Block.linkUp, Block.common, hup, hself, hlost, hdown, hlong, htwin, hout, hopen]))

/-- A view that names the other switch. -/
theorem standInBegin_acts_of_other (hself : b.sw.namesSelf = false) : Acts .standInBegin b b :=
  acts (fun _ => rfl) (if_neg (by simp [hself]))

/-! ### The end of a stand-in -/

/-- The contexts of the launches taken over. -/
def Block.twinKeys (b : Block) : List Nat := (b.ox.launches.filter (fun l => l.twin)).map (fun l => l.key)

/-- A stand-in is over: of what is left without the twin's data, its launches, results and waits are gone. -/
def Block.standOver (b e : Block) : Block :=
  { e with
    sw := (e.sw.setBit (ob 0x9041 0) 0 false).log 0x900B .info 0xFF (packArg [(10, b.twinId)])
    ox := { e.ox with launches := e.ox.launches.filter (fun l => !l.twin), heldResults := e.ox.heldResults.filter (fun r => decide (r.key < 4096)),
                      timedOut := e.ox.timedOut.filter (fun t => decide (t.1 < 4096)), twinLaunch := [], standResumed := [], standAt := none } }

/-- The data of the launches taken over are gone. -/
def Block.twinless (b : Block) : Block := b.twinKeys.foldl (fun s k => s.dropLaunchData k) b

theorem standEnd_of_out (hout : b.sw.standIn = false) : b.standEnd = b := if_pos (by simp [hout])

theorem standEnd_of_in (hin : b.sw.standIn = true) : b.standEnd =
    if (b.ox.eng.running || b.ox.eng.inner == engDispatch) && b.twinKeys.contains b.ox.eng.ctx then (b.standOver b.twinless).standRaise.engineFree else (b.standOver b.twinless).standRaise :=
  if_neg (by simp [hin])

section ends
variable (hup : b.sw.up = true)
include hup

theorem endStandIn_acts {b' : Block} (h : b.standEnd = b') : Acts .endStandIn b b' :=
  acts (fun _ => rfl) ((if_pos hup).trans h)

theorem endStandIn_acts_of_idle (hin : b.sw.standIn = true) (hidle : ((b.ox.eng.running || b.ox.eng.inner == engDispatch) && b.twinKeys.contains b.ox.eng.ctx) = false) :
    Acts .endStandIn b (b.standOver b.twinless).standRaise :=
  endStandIn_acts hup ((standEnd_of_in hin).trans (if_neg (by simp only [hidle, Bool.false_eq_true, not_false_eq_true])))

omit hup in
theorem twinKeys_of_single {l : SLaunch} (hl : b.ox.launches = [l]) (htwin : l.twin = true) : b.twinKeys = [l.key] := by
  simp [Block.twinKeys, hl, htwin]

omit hup in
theorem twinless_of_single {l : SLaunch} (hl : b.ox.launches = [l]) (htwin : l.twin = true) : b.twinless = b.dropLaunchData l.key := by
  rw [Block.twinless, twinKeys_of_single hl htwin, List.foldl_cons, List.foldl_nil]

/-- The one launch taken over runs: the engine is freed. -/
theorem endStandIn_acts_of_running {l : SLaunch} (hin : b.sw.standIn = true) (hl : b.ox.launches = [l]) (htwin : l.twin = true) (hrun : b.ox.eng.running = true)
    (hctx : b.ox.eng.ctx = l.key) : Acts .endStandIn b (b.standOver (b.dropLaunchData l.key)).standRaise.engineFree :=
  twinless_of_single hl htwin ▸ endStandIn_acts hup ((standEnd_of_in hin).trans (if_pos (by simp [hrun, hctx, twinKeys_of_single hl htwin])))

end ends

/-! ### The fence -/

section fence
variable (hup : b.sw.up = true)

theorem fenceColl_of_open (hopen : b.sw.isFenced = false) :
    b.fenceColl = { b with sw := (b.sw.setBit (ob 0x9041 0) 1 true).log 0x900C .uncorrected 0xFF (packArg [(10, b.swId)]) } := if_neg (by simp [hopen])

theorem fenceColl_of_fenced (hfenced : b.sw.isFenced = true) : b.fenceColl = b := if_pos hfenced

theorem unfence_of_active (hfenced : b.sw.isFenced = true) (hactive : b.sw.lstate 0x58 = lsActive) :
    b.unfence = ({ b with sw := b.sw.setBit (ob 0x9041 0) 1 false } : Block).engineKick := if_pos (by simp [hfenced, hactive])

theorem unfence_of_lost (hlost : b.sw.lstate 0x58 ≠ lsActive) : b.unfence = b := if_neg (by simp [hlost])

include hup

theorem fenced_acts {set : Bool} {b' : Block} (h : (if set then b.fenceColl else b.unfence) = b') : Acts (.fenced set) b b' :=
  acts (fun _ => rfl) ((if_neg (by simp [Block.linkUp, Block.common, hup])).trans h)

end fence

/-! ### The stand-in's hold -/

section hold
variable {t : Nat} (hdrive : b.ox.hold.standDrive = some t)
include hdrive

theorem standInHoldExpiry_acts (hat : b.at256 = true) (hlate : 200 * cclkUs < b.sw.since t + 256) : Acts .standInHoldExpiry b b.standRaise :=
  acts (fun _ => rfl) (by simp [hdrive, hat, hlate])

theorem standInHoldExpiry_acts_of_early (h : b.at256 = false ∨ b.sw.since t + 256 ≤ 200 * cclkUs) : Acts .standInHoldExpiry b b := by
  refine acts (fun _ => rfl) ?_
  obtain hat | hearly := h
  · simp [hdrive, hat]
  · simp [hdrive, Nat.not_lt.2 hearly]

end hold

end standIn

theorem collViaTwin_acts {b : Block} (hup : b.ep.up = true) (mask : BitVec 16) :
    Acts (.collViaTwin mask) b { b with ep := b.ep.setFld (ob 0x9040 0) 0 16 (Nat.land (b.ep.fld (ob 0x9040 0) 0 16) (65535 - mask.toNat)) } := by
  refine acts (fun _ => rfl) ((if_pos hup).trans ?_)
  simp only [Block.modEp, Common.collViaTwin, Nat.mod_eq_of_lt mask.isLt]

end Sys2Proof.Machine

namespace Sys2Proof
open Machine

/-- Settles O53: the beginning, the end with and without a launch that runs, the fence both ways, the hold's expiry and the mask of the twin's path. -/
theorem twinsStandIn : Obligations.TwinsStandIn := by
  unfold Obligations.TwinsStandIn
  intro b
  refine ⟨fun hup => ⟨?began, standInBegin_acts_of_other, fun hout => endStandIn_acts hup (standEnd_of_out hout), ?idle, ?running,
      fun hopen => fenced_acts hup (fenceColl_of_open hopen), fun hfenced => fenced_acts hup (fenceColl_of_fenced hfenced),
      fun hfenced hactive => fenced_acts hup (unfence_of_active hfenced hactive), fun hlost => fenced_acts hup (unfence_of_lost hlost)⟩,
    fun t hdrive => standInHoldExpiry_acts hdrive, fun t hdrive => standInHoldExpiry_acts_of_early hdrive, fun mask hup => collViaTwin_acts hup mask⟩
  case began => exact fun t hself hlost hdown hlong htwin hout hopen => standInBegin_acts hup hself hlost hdown hlong htwin hout hopen
  case idle => exact fun hin => endStandIn_acts_of_idle hup hin
  case running => exact fun l hin hl htwin hrun hctx => endStandIn_acts_of_running hup hin hl htwin hrun hctx

end Sys2Proof
end

section
/-!
PROOFS. The commit (17, R395, R396, R398): its commands over a window, the end of the check, the guard and the moment of the catch.
-/
namespace Sys2Proof.Machine

theorem modCommon_congr {s : State} {p : Part} {f g : Common → Common} (h : f (s.common p) = g (s.common p)) : s.modCommon p f = s.modCommon p g := by
  rw [modCommon_const s p f, modCommon_const s p g, h]

/-- A management write that nothing refuses takes effect on the renewed part. -/
theorem stateMgmtWrite_of_writable {s : State} {p : Part} {m : Master} {key : Nat} (hw : (s.common p).writable m key = true) (f : State → State) :
    s.mgmtWrite p m key f = f (s.modCommon p (fun _ => (s.common p).renew m)) := by
  have hserves : (s.common p).serves key = true := (Bool.and_eq_true_iff.1 hw).1
  exact (if_neg (by simp [serves_up hserves])).trans ((if_pos hw).trans (congrArg f (modCommon_const ..)))

/-! ### The commands -/

/-- A part that a master's commit command takes. -/
def Common.commanded (c : Common) (sch : Bool) (m : Master) : Common := { c with armedAt := none, scheduled := sch, commitMaster := masterCode m - 1 }

/-- A part whose commit is called off. -/
def Common.uncommitted (c : Common) : Common := ({ c with shadowErr := [], armedAt := none, scheduled := false } : Common).setFld (ob 0x2000 2) 0 3 0

section commands
variable {s : State} {p : Part} {m : Master}

theorem commitNow_of_closed (h : (s.common p).commitOpen = false) : s.commitNow p m = s.modCommon p (fun c => (c.commanded false m).setFld (ob 0x2000 2) 0 3 1) :=
  modCommon_congr (if_neg (by simp [h]))

theorem commitNow_of_open (h : (s.common p).commitOpen = true) : s.commitNow p m = s.modCommon p id :=
  modCommon_congr (if_pos h)

section scheduled
variable (hclosed : (s.common p).commitOpen = false)
include hclosed

theorem commitAt_of_announced (hann : (s.mg p).annSeen.contains ((s.common p).commitGroup, (s.common p).catchAt) = true) :
    s.commitAt p m = s.modCommon p (fun c => (c.commanded true m).abandon 0) :=
  (if_neg (by simp [hclosed])).trans ((if_pos hann).trans (modCommon_twice ..))

variable (hann : (s.mg p).annSeen.contains ((s.common p).commitGroup, (s.common p).catchAt) = false)
include hann

theorem commitAt_of_late (hlate : (s.common p).catchAt ≤ (s.common p).stroke + (s.common p).catchGuard) :
    s.commitAt p m = (s.modCommon p (fun c => c.commanded true m)).failCommit p (ob 0x2000 1) :=
  (if_neg (by simp [hclosed])).trans ((if_neg (by simp only [hann, Bool.false_eq_true, not_false_eq_true])).trans (if_pos hlate))

theorem commitAt_of_early (hearly : (s.common p).stroke + (s.common p).catchGuard < (s.common p).catchAt) :
    s.commitAt p m = s.modCommon p (fun c => (c.commanded true m).setFld (ob 0x2000 2) 0 3 1) :=
  (if_neg (by simp [hclosed])).trans ((if_neg (by simp only [hann, Bool.false_eq_true, not_false_eq_true])).trans
    ((if_neg (Nat.not_le.2 hearly)).trans (modCommon_twice ..)))

end scheduled

theorem commitAbort_of_checking (h : (s.common p).commitState = csChecking) : s.commitAbort p = s := if_pos (by simp [h])

/-- What ABORT discards. -/
def State.discarded (s : State) (p : Part) : State := (s.modCommon p (fun c => c.uncommitted)).modMg p (fun g => { g with shadow := [] })

theorem commitAbort_of_quiet (h : (s.common p).commitState ≠ csChecking) (hquiet : (s.common p).commitState = csArmed → (s.common p).scheduled = false) :
    s.commitAbort p = s.discarded p :=
  (if_neg (by simpa using h)).trans (if_neg (by simpa using hquiet))

theorem commitAbort_of_armed (h : (s.common p).commitState = csArmed) (hsch : (s.common p).scheduled = true) : s.commitAbort p = (s.discarded p).announceOff p :=
  (if_neg (by simp [h])).trans (if_pos (by simp [h, hsch]))

end commands

/-! ### The end of the check -/

theorem minOf_pair (a : Nat) (o : Option Nat) : minOf ([a] ++ o.toList) = some (match o with | some x => min x a | none => a) := by
  cases o with
  | none => rfl
  | some x => simp [minOf, Nat.min_comm]

section check
variable {s : State} {p : Part}

/-- A part whose commit is armed for a stroke count. -/
def Common.arm (c : Common) (t : Nat) : Common := ({ c with armedAt := some t } : Common).setFld (ob 0x2000 2) 0 3 2

/-- How the check ends by the objects that fail it. -/
def State.checked (s : State) (p : Part) (lowest : Option Nat) : State :=
  match lowest with
  | some obj => s.failCommit p obj
  | none => s.modCommon p (fun c => c.arm (if c.scheduled then c.catchAt else next64 (c.stroke + 16)))

variable (hreset : (s.common p).inReset = false) (hstate : (s.common p).commitState = csChecking)
include hreset hstate

theorem commitCheckDone_of_late (hsch : (s.common p).scheduled = true) (hlate : (s.common p).catchAt < (s.common p).stroke + (s.common p).catchGuard) :
    exec (.commitCheckDone p) s = .next (s.failCommit p (ob 0x2000 1)) :=
  congrArg Host.Outcome.next ((if_neg (by simp [hreset, hstate])).trans (if_pos (by simp [hsch, hlate])))

theorem commitCheckDone_eq (hearly : (s.common p).scheduled = true → (s.common p).stroke + (s.common p).catchGuard ≤ (s.common p).catchAt) :
    exec (.commitCheckDone p) s = .next (s.checked p (minOf
      ((if (s.common p).scheduled && !(s.common p).bit (ob 0xC000 2) 0 then [ob 0x2000 1] else []) ++ (s.checkFail p).toList))) :=
  congrArg Host.Outcome.next ((if_neg (by simp [hreset, hstate])).trans ((if_neg (by simpa using hearly)).trans (by rfl)))

/-- Where the schedule stands the check of the objects decides. -/
theorem commitCheckDone_of_synced (hearly : (s.common p).scheduled = true → (s.common p).stroke + (s.common p).catchGuard ≤ (s.common p).catchAt)
    (hsync : (s.common p).scheduled = true → (s.common p).bit (ob 0xC000 2) 0 = true) :
    exec (.commitCheckDone p) s = .next (s.checked p (s.checkFail p)) := by
  rw [commitCheckDone_eq hreset hstate hearly, if_neg (by simpa using hsync)]
  cases s.checkFail p <;> rfl

theorem commitCheckDone_of_unsynced (hearly : (s.common p).stroke + (s.common p).catchGuard ≤ (s.common p).catchAt)
    (hsch : (s.common p).scheduled = true) (hsync : (s.common p).bit (ob 0xC000 2) 0 = false) :
    exec (.commitCheckDone p) s = .next (s.failCommit p (match s.checkFail p with | some obj => min obj (ob 0x2000 1) | none => ob 0x2000 1)) := by
  rw [commitCheckDone_eq hreset hstate (fun _ => hearly), if_pos (by simp [hsch, hsync]), minOf_pair]
  rfl

end check

section guard
variable {s : State} {p : Part}

theorem catchGuard_of_checking (hreset : (s.common p).inReset = false) (hstate : (s.common p).commitState = csChecking) (hsch : (s.common p).scheduled = true)
    (hlate : (s.common p).catchAt ≤ (s.common p).stroke + (s.common p).catchGuard) : exec (.catchGuard p) s = .next (s.failCommit p (ob 0x2000 1)) :=
  congrArg Host.Outcome.next (if_pos (by simp [hreset, hstate, hsch, hlate]))

theorem catchGuard_of_early (h : (s.common p).commitState ≠ csChecking ∨ (s.common p).scheduled = false ∨ (s.common p).stroke + (s.common p).catchGuard < (s.common p).catchAt) :
    exec (.catchGuard p) s = .next s := by
  refine congrArg Host.Outcome.next (if_neg fun hdue => ?_)
  simp only [Bool.and_eq_true, beq_iff_eq, decide_eq_true_eq] at hdue
  obtain ⟨⟨⟨-, hstate⟩, hsch⟩, hlate⟩ := hdue
  obtain h | h | h := h
  · exact h hstate
  · simp [hsch] at h
  · omega

theorem catch_of_due (hreset : (s.common p).inReset = false) (hstate : (s.common p).commitState = csArmed) (hdue : (s.common p).armedAt = some (s.common p).stroke) :
    exec (.catch_ p) s = .next ((s.on (fun b => b.doCatch p (s.mg p).shadow)).modMg p (fun g => { g with shadow := [] })) :=
  congrArg Host.Outcome.next (if_pos (by simp [hreset, hstate, hdue]))

theorem catch_of_early (hearly : (s.common p).armedAt ≠ some (s.common p).stroke) : exec (.catch_ p) s = .next s :=
  congrArg Host.Outcome.next (if_neg (by simp [hearly]))

end guard

end Sys2Proof.Machine

namespace Sys2Proof
open Machine

/-- Settles O54: the commands on the renewed part by the state of its commit, the check's end by the lowest failing object, the guard and the catch by the stroke count. -/
theorem commitRuns : Obligations.CommitRuns := by
  unfold Obligations.CommitRuns
  intro s p c armed hreset
  refine ⟨?commands, fun hstate hsch => ?now, fun hstate hsch => ?scheduled, catchGuard_of_early, fun obj => ?failed,
    catchGuard_of_checking hreset, catch_of_due hreset, fun _ => catch_of_early⟩
  case commands =>
    intro m hw d
    have hd : (s.modCommon p (fun _ => d)).common p = d := common_modCommon ..
    have hg : (s.modCommon p (fun _ => d)).mg p = s.mg p := mg_modCommon ..
    have hrun {i : Instr} {t : State} (f : State → State) (hi : exec i s = .next (s.mgmtWrite p m (ob 0x2000 0) f)) (hf : f (s.modCommon p (fun _ => d)) = t) :
        exec i s = .next t := hi.trans (congrArg Host.Outcome.next ((stateMgmtWrite_of_writable hw f).trans hf))
    let now := fun s : State => s.commitNow p m
    let scheduled := fun s : State => s.commitAt p m
    let abort := fun s : State => s.commitAbort p
    refine ⟨fun h => hrun now rfl ?_, fun h => hrun now rfl ?_, fun h hann hearly => hrun scheduled rfl ?_, fun h hann => hrun scheduled rfl ?_,
      fun h hquiet => hrun abort rfl ?_, fun h hsch => hrun abort rfl ?_, fun h hann hlate => hrun scheduled rfl ?_, fun h => hrun abort rfl ?_⟩
    · exact (commitNow_of_closed (by rwa [hd])).trans (modCommon_twice ..)
    · exact (commitNow_of_open (by rwa [hd])).trans (modCommon_twice ..)
    · exact (commitAt_of_early (by rwa [hd]) (by rwa [hd, hg]) (by rwa [hd])).trans (modCommon_twice ..)
    · exact (commitAt_of_announced (by rwa [hd]) (by rwa [hd, hg])).trans (modCommon_twice ..)
    · refine (commitAbort_of_quiet (by rwa [hd]) (by rwa [hd])).trans ?_
      rw [State.discarded, modCommon_twice]
      rfl
    · refine (commitAbort_of_armed (by rwa [hd]) (by rwa [hd])).trans ?_
      rw [State.discarded, modCommon_twice]
      rfl
    · refine (commitAt_of_late (by rwa [hd]) (by rwa [hd, hg]) (by rwa [hd])).trans ?_
      rw [modCommon_twice]
      rfl
    · exact commitAbort_of_checking (by rwa [hd])
  case now =>
    have hnone : c.scheduled ≠ true := by simp [hsch]
    have hdone := commitCheckDone_of_synced hreset hstate (fun h => absurd h hnone) (fun h => absurd h hnone)
    refine ⟨fun hpass => ?_, fun obj hfail => ?_⟩
    · rw [hdone, hpass]
      exact congrArg Host.Outcome.next (modCommon_congr (congrArg c.arm (if_neg hnone)))
    · rw [hdone, hfail]
      exact congrArg Host.Outcome.next (if_neg hnone)
  case scheduled =>
    refine ⟨commitCheckDone_of_late hreset hstate hsch, fun hearly hsync => ?_, fun hearly hsync => commitCheckDone_of_unsynced hreset hstate hearly hsch hsync⟩
    have hdone := commitCheckDone_of_synced hreset hstate (fun _ => hearly) (fun _ => hsync)
    refine ⟨fun hpass => ?_, fun obj hfail => by rw [hdone, hfail]; rfl⟩
    rw [hdone, hpass]
    exact congrArg Host.Outcome.next (modCommon_congr (congrArg c.arm (if_pos hsch)))
  case failed => cases p <;> rfl

end Sys2Proof
end

section
/-!
PROOFS. The catch and the announcements of scheduled commits (17, R397, R398): a catch of objects without an effect of their own, CATCH_ANN heard and relayed.
-/
namespace Sys2Proof.Machine

theorem foldl_eq_of_fixed {α β : Type} {f : α → β → α} {a : α} {l : List β} (h : ∀ x ∈ l, f a x = a) : l.foldl f a = a :=
  List.foldlRecOn (motive := fun y => y = a) l f rfl fun y hy x hx => by rw [hy, h x hx]

/-! ### A catch of objects without an effect of their own -/

/-- Staged at an endpoint, an object that does nothing but change. -/
def Quiet (key : Nat) : Prop :=
  (key / 256 < 0x7100 ∨ 0x713F < key / 256) ∧ key / 256 ∉ [0x3000, 0x5200, 0x5201, 0x5202, 0x8001, 0x8020, 0x9010, 0x9040, 0x2102, 0xA004, 0xB000, 0xB001, 0xB002, 0xB003, 0xB100, 0xB101]
    ∧ key ≠ ob 0x9030 1

theorem Quiet.contextOf {key : Nat} (h : Quiet key) : contextOf key = none := if_neg (by have := h.1; omega)

/-- It is none of the objects with an effect. -/
theorem Quiet.index_ne {key i : Nat} (h : Quiet key) (hi : i ∈ [0x3000, 0x5200, 0x5201, 0x5202, 0x8001, 0x8020, 0x9010, 0x9040, 0x2102, 0xA004, 0xB000, 0xB001, 0xB002, 0xB003, 0xB100, 0xB101]) :
    key / 256 ≠ i := fun he => h.2.1 (he ▸ hi)

theorem Quiet.caughtOe {key : Nat} (h : Quiet key) (u : Block) (old : Common) (x : Obj) : u.caughtOe old key x = u := by
  have hqueue : ¬ (0xB000 ≤ key / 256 ∧ key / 256 ≤ 0xB003) := by
    have h0 := h.index_ne (i := 0xB000) (by decide)
    have h1 := h.index_ne (i := 0xB001) (by decide)
    have h2 := h.index_ne (i := 0xB002) (by decide)
    have h3 := h.index_ne (i := 0xB003) (by decide)
    omega
  exact (if_neg (h.index_ne (by decide))).trans <| (if_neg h.2.2).trans <| (if_neg (h.index_ne (by decide))).trans <|
    (if_neg (not_or.2 ⟨h.index_ne (by decide), h.index_ne (by decide)⟩)).trans <| (if_neg hqueue).trans <| if_neg (h.index_ne (by decide))

theorem Quiet.caught {e : Nat × Obj} (h : Quiet e.1) (u : Block) (old : Common) : u.caught .oe36 old e = u := by
  refine (if_neg (h.index_ne (by decide))).trans ((if_neg (h.index_ne (by decide))).trans ?_)
  simp only [h.contextOf, h.caughtOe]

/-! ### What a catch leaves as it is -/

theorem applyShadow_links (c : Common) (e : Nat × Obj) : (c.applyShadow e).links = c.links := by
  unfold Common.applyShadow
  split <;> rfl

theorem applyShadows_links (c : Common) (l : List (Nat × Obj)) : (c.applyShadows l).links = c.links :=
  List.foldlRecOn (motive := fun d => d.links = c.links) l _ rfl fun d hd e _ => (applyShadow_links d e).trans hd

theorem applyShadow_reg_ne {c : Common} {e : Nat × Obj} {k : Nat} (h : e.1 ≠ k) : (c.applyShadow e).reg k = c.reg k := by
  unfold Common.applyShadow
  split
  · rfl
  · exact Common.reg_setReg_ne _ _ _ _ h

theorem applyShadows_reg_ne {c : Common} {l : List (Nat × Obj)} {k : Nat} (h : ∀ e ∈ l, e.1 ≠ k) : (c.applyShadows l).reg k = c.reg k :=
  List.foldlRecOn (motive := fun d : Common => d.reg k = c.reg k) l _ rfl fun _ hd e he => (applyShadow_reg_ne (h e he)).trans hd

theorem applyShadows_single {c : Common} {p : Part} {key : Nat} {x : Obj} {r : ObjRow} (hkind : c.kind = p) (hrow : findRow p key = some r) :
    c.applyShadows [(key, x)] = c.setReg key ((c.reg key &&& ~~~ r.storeMask p key) ||| (x &&& r.storeMask p key)) := by
  subst hkind
  simp only [Common.applyShadows, List.foldl_cons, List.foldl_nil, Common.applyShadow, hrow]

/-- What the parity register does not hold stands. -/
theorem parityRestore_of_unmarked {α : Type} {f : Common → α} (hset : ∀ c k, f (c.setBit (ob 0x9023 0) k false) = f c)
    (herr : ∀ c l, f { c with parityErr := l } = f c) (c : Common) (keys : List Nat) : f (c.parityRestore keys) = f c := by
  refine List.foldlRecOn (motive := fun d => f d = f c) _ _ (herr c _) fun d hd k _ => ?_
  split
  · exact (hset d k).trans hd
  · exact hd

theorem parityRestore_links (c : Common) (keys : List Nat) : (c.parityRestore keys).links = c.links :=
  parityRestore_of_unmarked (fun _ _ => rfl) (fun _ _ => rfl) c keys

theorem parityRestore_reg_ne (c : Common) (keys : List Nat) {k : Nat} (h : ob 0x9023 0 ≠ k) : (c.parityRestore keys).reg k = c.reg k :=
  parityRestore_of_unmarked (f := fun c => c.reg k) (fun c _ => Common.reg_setBit_ne c _ _ _ _ h) (fun _ _ => rfl) c keys

theorem judgeDue_of_none {b : Block} {p : Part} (h : ∀ k ∈ linksOf p, ((b.common p).link k).judgeDue = false) : b.judgeDue p = b := by
  refine foldl_eq_of_fixed fun k hk => ?_
  simp only [h k hk, Bool.false_and, Bool.false_eq_true, if_false]
  split <;> rfl

/-! ### The catch -/

section caught
variable (c : Common) (l : List (Nat × Obj))

/-- A part whose shadows are applied and whose commit is over. -/
def Common.applied : Common := ({ c.applyShadows l with shadowErr := [], armedAt := none, scheduled := false } : Common).setFld (ob 0x2000 2) 0 3 0

/-- … counted and dated. -/
def Common.counted : Common := ((c.applied l).count (ob 0x2000 3) 0 32 1).setFld (ob 0x2000 4) 0 48 c.stroke

/-- … and logged. -/
def Common.caughtUp : Common :=
  ((c.counted l).parityRestore (l.map (fun e => e.1))).log 0xB004 .info 0xFF (packArg [(32, (c.counted l).fld (ob 0x2000 3) 0 32), (14, l.length)])

theorem caughtUp_links : (c.caughtUp l).links = c.links :=
  (Common.log_links ..).trans ((parityRestore_links ..).trans (applyShadows_links c l))

variable {c l}

theorem caughtUp_reg_place (h : ∀ e ∈ l, Quiet e.1) : (c.caughtUp l).reg (ob 0x5200 0) = c.reg (ob 0x5200 0) := by
  have hother : ∀ e ∈ l, e.1 ≠ ob 0x5200 0 := fun e he hk => (h e he).index_ne (i := 0x5200) (by decide) (by rw [hk]; rfl)
  calc (c.caughtUp l).reg (ob 0x5200 0)
    _ = (c.counted l).reg (ob 0x5200 0) := (Common.log_reg _ _ _ _ _ _ (by decide) (by decide) (by decide)).trans (parityRestore_reg_ne _ _ (by decide))
    _ = (c.applied l).reg (ob 0x5200 0) := (Common.reg_setFld_ne _ _ _ _ _ _ (by decide)).trans (Common.reg_count_ne _ _ _ _ _ _ (by decide))
    _ = (c.applyShadows l).reg (ob 0x5200 0) := Common.reg_setFld_ne _ _ _ _ _ _ (by decide)
    _ = c.reg (ob 0x5200 0) := applyShadows_reg_ne hother

end caught

section doCatch
variable {b : Block} {l : List (Nat × Obj)} (hquiet : ∀ e ∈ l, Quiet e.1)
include hquiet

/-- No staged object is one of an index with an effect. -/
theorem any_index_of_quiet {i : Nat} {P : Nat → Bool}
    (hi : i ∈ [0x3000, 0x5200, 0x5201, 0x5202, 0x8001, 0x8020, 0x9010, 0x9040, 0x2102, 0xA004, 0xB000, 0xB001, 0xB002, 0xB003, 0xB100, 0xB101]) :
    (l.map (fun e => e.1)).any (fun k => k / 256 == i && P k) = false := by
  refine List.any_eq_false.2 fun k hk => ?_
  obtain ⟨e, he, rfl⟩ := List.mem_map.1 hk
  simp [(hquiet e he).index_ne hi]

theorem caughtTogether_of_quiet {old : Common} (hplace : b.ep.reg (ob 0x5200 0) = old.reg (ob 0x5200 0)) (hdue : ∀ k ∈ linksOf .oe36, (b.ep.link k).judgeDue = false) :
    b.caughtTogether .oe36 old (l.map (fun e => e.1)) = b := by
  have hrack : ((b.common .oe36).fld (ob 0x5200 0) 4 6 != old.fld (ob 0x5200 0) 4 6) = false := by
    rw [Common.fld, Common.fld, show (b.common .oe36).reg _ = _ from hplace, bne_self_eq_false]
  unfold Block.caughtTogether
  simp only [any_index_of_quiet hquiet (i := 0x5201) (by decide), any_index_of_quiet hquiet (i := 0x5202) (by decide), any_index_of_quiet hquiet (i := 0x8020) (by decide),
    hrack, Bool.or_self, Bool.false_eq_true, if_false, judgeDue_of_none (p := .oe36) hdue]
  exact if_neg (by simp [show (Part.oe36 == Part.ox720) = false from rfl])

theorem resetAsked_of_quiet : (l.find? (fun e => e.1 == ob 0xA004 0)).bind (fun e => resetAsked e.2) = none := by
  rw [List.find?_eq_none.2 fun e he => ?_, Option.bind_none]
  intro hk
  refine (hquiet e he).index_ne (i := 0xA004) (by decide) ?_
  rw [beq_iff_eq.1 hk]
  rfl

theorem foldl_caught_of_quiet (u : Block) (old : Common) : l.foldl (fun s e => Block.caught s .oe36 old e) u = u :=
  foldl_eq_of_fixed fun e he => (hquiet e he).caught u old

theorem doCatch_of_quiet (hdue : ∀ k ∈ linksOf .oe36, (b.ep.link k).judgeDue = false) : b.doCatch .oe36 l = { b with ep := b.ep.caughtUp l } := by
  have hdoes : b.doCatch .oe36 l =
      (l.foldl (fun s e => Block.caught s .oe36 b.ep e) { b with ep := b.ep.caughtUp l }).caughtTogether .oe36 b.ep (l.map (fun e => e.1)) := by
    unfold Block.doCatch
    simp only [resetAsked_of_quiet hquiet]
    rfl
  rw [hdoes, foldl_caught_of_quiet hquiet]
  refine caughtTogether_of_quiet hquiet (caughtUp_reg_place hquiet) fun k hk => ?_
  rw [Common.link, caughtUp_links]
  exact hdue k hk

end doCatch

/-! ### Announcements -/

section announced
variable {s : State} {link : BitVec 7} {pk : Packet}

/-- An endpoint that hears an announcement. -/
def Common.annHeard (c : Common) (pk : Packet) : Common := c.hearAnn (bitsOf pk.w1 48 16) (bitsOf pk.w1 0 48)

section endpoint
variable (hup : (s.common .oe36).up = true) (hopc : pOpc pk = 0x39)
include hup hopc

theorem catchAnn_oe36_of_bad (hbad : classBad pk (linkNets .oe36 link.toNat) = true) :
    exec (.catchAnn .oe36 link pk) s = .next (s.modCommon .oe36 (fun c => c.refuseHere link.toNat pk)) :=
  congrArg Host.Outcome.next ((if_neg (by simp [hup, hopc])).trans (if_pos (by simp [hbad])))

variable (hgood : classBad pk (linkNets .oe36 link.toNat) = false)
include hgood

/-- The pair is remembered; the announcement is relayed unless it has been. -/
theorem catchAnn_oe36_eq : exec (.catchAnn .oe36 link pk) s = .next
    (let s2 := (s.modCommon .oe36 (fun c => (c.takeRx link.toNat pk).annHeard pk)).modMg .oe36 (fun m => m.hearAnn (bitsOf pk.w1 48 16) (bitsOf pk.w1 0 48))
     if s.mgEp.annRelayed.contains (bitsOf pk.w1 48 16, bitsOf pk.w1 0 48) then s2
     else (s2.modMg .oe36 (fun m => { m with annRelayed := m.annRelayed ++ [(bitsOf pk.w1 48 16, bitsOf pk.w1 0 48)] })).on (fun b =>
        (b.activeLinks .oe36).foldl (fun b k => b.sendMgmt .oe36 k pk) b)) :=
  congrArg Host.Outcome.next ((if_neg (by simp [hup, hopc])).trans (if_neg (by simp [hgood])))

end endpoint

/-- What an endpoint sends over several links goes into their queues. -/
theorem foldl_sendMgmt_oe36 (pk : Packet) (ks : List Nat) (b : Block) :
    ks.foldl (fun b k => b.sendMgmt .oe36 k pk) b = { b with ep := ks.foldl (fun c k => c.queueTx k pk) b.ep } := by
  induction ks generalizing b with
  | nil => rfl
  | cons k ks ih => exact ih _

section switch
variable (hup : (s.common .ox720).up = true) (hopc : pOpc pk = 0x39)
include hup hopc

theorem catchAnn_ox720_eq : exec (.catchAnn .ox720 link pk) s = .next
    (let s2 := (s.modCommon .ox720 (fun c => (c.rxDrop (unitRx xpCox) pk).annHeard pk)).modMg .ox720 (fun m => m.hearAnn (bitsOf pk.w1 48 16) (bitsOf pk.w1 0 48))
     if s.mgSw.annRelayed.contains (bitsOf pk.w1 48 16, bitsOf pk.w1 0 48) then s2
     else (s2.modMg .ox720 (fun m => { m with annRelayed := m.annRelayed ++ [(bitsOf pk.w1 48 16, bitsOf pk.w1 0 48)] })).on (fun b =>
        (b.activeLinks .ox720).foldl (fun b k => b.unitSend xpCox [k] { pk with w0 := (b.annHdr .ox720 k).word }) b)) :=
  congrArg Host.Outcome.next ((if_neg (by simp [hup, hopc])).trans (if_neg (by simp [show (Part.ox720 == Part.oe36) = false from rfl])))

end switch

theorem hearAnn_eq (c : Common) (group at_ : Nat) :
    c.hearAnn group at_ = if c.scheduled = true ∧ c.commitOpen = true ∧ c.catchAt = at_ ∧ c.commitGroup = group ∧ c.stroke < at_ then c.abandon 0 else c := by
  unfold Common.hearAnn
  simp only [Bool.and_eq_true, beq_iff_eq, decide_eq_true_eq, and_assoc]

end announced

end Sys2Proof.Machine

namespace Sys2Proof
open Machine

/-- Settles O55: the effects of a catch pass over quiet objects; an announcement is heard, and relayed where its pair has not been. -/
theorem catchesAndAnnouncements : Obligations.CatchesAndAnnouncements := by
  unfold Obligations.CatchesAndAnnouncements
  refine ⟨?caught, ?announced⟩
  case caught =>
    intro s l c quiet hreset hstate hdue hshadow hquiet hlinks c1 c2
    refine ⟨?_, fun key x r hkind hl hrow => hl ▸ applyShadows_single hkind hrow⟩
    subst hshadow
    have hcatch : s.blk.doCatch .oe36 s.mgEp.shadow = { s.blk with ep := s.blk.ep.caughtUp s.mgEp.shadow } := doCatch_of_quiet hquiet hlinks
    rw [catch_of_due hreset hstate hdue, State.on, show (s.mg .oe36).shadow = s.mgEp.shadow from rfl, hcatch]
    rfl
  case announced =>
    intro s link pk at_ group heard
    refine ⟨?endpoint, ?switch, fun c => hearAnn_eq c group at_⟩
    case endpoint =>
      intro c d hup hopc
      refine ⟨catchAnn_oe36_of_bad hup hopc, fun hgood hagain => ?_, fun hgood hnew => ?_⟩
      · rw [catchAnn_oe36_eq hup hopc hgood]
        exact congrArg Host.Outcome.next (if_pos hagain)
      · rw [catchAnn_oe36_eq hup hopc hgood]
        refine congrArg Host.Outcome.next ((if_neg (Bool.eq_false_iff.1 hnew)).trans ?_)
        exact congrArg (fun b : Block => ({ s with blk := b, mgEp := { s.mgEp with annSeen := heard s.mgEp.annSeen, annRelayed := s.mgEp.annRelayed ++ [(group, at_)] } } : State))
          (foldl_sendMgmt_oe36 pk _ { s.blk with ep := d })
    case switch =>
      intro c d b hup hopc
      refine ⟨fun hagain => ?_, fun hnew => ?_⟩
      · rw [catchAnn_ox720_eq hup hopc]
        exact congrArg Host.Outcome.next (if_pos hagain)
      · rw [catchAnn_ox720_eq hup hopc]
        exact congrArg Host.Outcome.next (if_neg (Bool.eq_false_iff.1 hnew))

end Sys2Proof
end

section
/-!
PROOFS. Writes through the windows (17, R384 to R388, R400, R403): a write of an object by each master, the bits of BAR2, EVT_NEXT.
-/
namespace Sys2Proof.Machine

section write
variable {s : State} {p : Part} {m : Master} {key : Nat} {mask v : Obj}

theorem writeObj_of_refused (h : s.writeStatus p m key mask v ≠ hsOk) : s.writeObj p m key mask v = (s.writeStatus p m key mask v, s) := if_pos h

/-- A write that nothing refuses, in a cycle without one of the other master. -/
theorem writeObj_of_alone (h : s.writeStatus p m key mask v = hsOk) (halone : (s.mg p).lastWrite = none) :
    s.writeObj p m key mask v = (hsOk, s.writeApply p m key mask v) := by
  unfold State.writeObj
  simp only [h, ne_eq, not_true_eq_false, if_false, Mgmt.rival, halone]

/-- A PCIe write that meets one of the field bus is dropped; a difference is a conflict. -/
theorem writeObj_of_met {both x : Obj} (h : s.writeStatus p .pcie key mask v = hsOk)
    (hmet : (s.mg p).rival (s.common p).stroke .pcie key mask = some (both, x)) :
    s.writeObj p .pcie key mask v = (hsOk, s.modCommon p (fun c => c.conflict key both x v)) := by
  unfold State.writeObj
  simp only [h, ne_eq, not_true_eq_false, if_false, hmet]

theorem rival_of_met {both : Obj} {x t : Nat} (hlast : (s.mg p).lastWrite = some (t, 1, key, both.toNat, x)) :
    (s.mg p).rival t .pcie key mask = some (mask &&& both, BitVec.ofNat 128 x) := by
  simp [Mgmt.rival, hlast, masterCode]

end write

/-! ### The register window -/

/-- The object of an offset in BAR0. -/
abbrev regKey (offset : BitVec 28) : Nat := offset.toNat / 2 ^ 12 * 256 + offset.toNat / 16 % 256

section registers
variable {s : State} {p : Part} (hreset : (s.common p).inReset = false) {offset : BitVec 28} {width : BitVec 2} {data : BitVec 64}
include hreset

theorem registerWrite_of_fieldBus {w : Nat × State} (h : s.writeObj p .fieldBus (regKey offset) (BitVec.allOnes 128) (BitVec.ofNat 128 data.toNat) = w) :
    exec (.registerWrite p .fieldBus offset width data) s =
      .next (if w.1 = hsOk then w.2 else s.modCommon p (fun c => c.recordError .fieldBus (slotOffset (regKey offset)) 4)) := by
  subst h
  exact congrArg Host.Outcome.next (if_neg (by simp [hreset]))

/-- A PCIe write of a width, or of bytes, that the object does not take. -/
theorem registerWrite_of_unfit (h : 2 ^ width.toNat < 4 ∨ offset.toNat % 16 % 2 ^ width.toNat ≠ 0
      ∨ (match findRow p (regKey offset) with | some r => decide (8 * (offset.toNat % 16 + 2 ^ width.toNat) ≤ r.width) | none => false) = false) :
    exec (.registerWrite p .pcie offset width data) s = .next (s.modCommon p (fun c => (c.recordError .pcie offset.toNat width.toNat).emit (.completerAbort offset.toNat))) :=
  congrArg Host.Outcome.next ((if_neg (by simp [hreset])).trans (if_pos h))

theorem registerWrite_of_missing (hrow : findRow p (regKey offset) = none) :
    exec (.registerWrite p .pcie offset width data) s = .next (s.modCommon p (fun c => (c.recordError .pcie offset.toNat width.toNat).emit (.completerAbort offset.toNat))) :=
  registerWrite_of_unfit hreset (.inr (.inr (by rw [hrow])))

theorem registerWrite_of_beyond {r : ObjRow} (hrow : findRow p (regKey offset) = some r) (hlong : r.width < 8 * (offset.toNat % 16 + 2 ^ width.toNat)) :
    exec (.registerWrite p .pcie offset width data) s = .next (s.modCommon p (fun c => (c.recordError .pcie offset.toNat width.toNat).emit (.completerAbort offset.toNat))) :=
  registerWrite_of_unfit hreset (.inr (.inr (by simp only [hrow, decide_eq_false_iff_not, Nat.not_le, hlong])))

variable (hwide : 4 ≤ 2 ^ width.toNat) (haligned : offset.toNat % 16 % 2 ^ width.toNat = 0) {r : ObjRow} (hrow : findRow p (regKey offset) = some r)
include hwide haligned hrow

theorem registerWrite_of_fit (hfits : 8 * (offset.toNat % 16 + 2 ^ width.toNat) ≤ r.width) {w : Nat × State}
    (h : s.writeObj p .pcie (regKey offset) (bytesMask (offset.toNat % 16) (2 ^ width.toNat)) (BitVec.ofNat 128 (data.toNat * 2 ^ (8 * (offset.toNat % 16)))) = w) :
    exec (.registerWrite p .pcie offset width data) s = .next
      (if w.1 = hsOk then w.2 else s.modCommon p (fun c => (c.recordError .pcie offset.toNat width.toNat).emit (.completerAbort offset.toNat))) := by
  subst h
  refine congrArg Host.Outcome.next ((if_neg (by simp [hreset])).trans (if_neg ?_))
  simp only [hrow, not_or, Nat.not_lt, hwide, haligned, hfits, ne_eq, not_true_eq_false, not_false_eq_true, decide_true, Bool.true_eq_false, and_self]

end registers

/-! ### The window of BAR2 -/

/-- The object and the bit of an offset in BAR2. -/
abbrev aliasKey (offset : BitVec 18) : Nat := ob (if offset.toNat < 2 ^ 17 then 0x2000 else 0x9000) (offset.toNat % 2 ^ 17 / 512)
abbrev aliasBit (offset : BitVec 18) : Nat := offset.toNat / 4 % 128

section aliases
variable {s : State} {p : Part} (hreset : (s.common p).inReset = false) {offset : BitVec 18} {width : BitVec 2} {data : BitVec 64}
include hreset

/-- A write through BAR2 that is no bit's. -/
theorem aliasWrite_of_unfit (h : ∀ r, findRow p (aliasKey offset) = some r → width.toNat ≠ 2 ∨ offset.toNat % 4 ≠ 0 ∨ bitsOf (r.catchMask p ||| r.immMask p) (aliasBit offset) 1 = 0) :
    exec (.aliasWrite p .pcie offset width data) s = .next (s.modCommon p (fun c => (c.recordError .pcie offset.toNat width.toNat).emit (.completerAbort offset.toNat))) := by
  refine congrArg Host.Outcome.next ((if_neg (by simp [hreset])).trans ?_)
  split
  · rfl
  · next r hrow => exact if_pos (h r hrow)

theorem aliasWrite_of_fit {r : ObjRow} (hrow : findRow p (aliasKey offset) = some r) (haligned : offset.toNat % 4 = 0)
    (hbit : bitsOf (r.catchMask p ||| r.immMask p) (aliasBit offset) 1 ≠ 0) {w : Nat × State}
    (h : s.writeObj p .pcie (aliasKey offset) (BitVec.allOnes 128) (setBits (s.baseOf p .pcie (aliasKey offset)) (aliasBit offset) 1 (bitsOf data 0 1)) = w) :
    exec (.aliasWrite p .pcie offset 2 data) s = .next
      (if w.1 = hsOk then w.2 else s.modCommon p (fun c => (c.recordError .pcie offset.toNat 2).emit (.completerAbort offset.toNat))) := by
  subst h
  refine congrArg Host.Outcome.next ((if_neg (by simp [hreset])).trans ?_)
  split
  · next hnone => exact absurd (hrow.symm.trans hnone) (by simp)
  · next r' hrow' =>
    obtain rfl : r = r' := Option.some.inj (hrow.symm.trans hrow')
    exact if_neg (not_or.2 ⟨by decide, not_or.2 ⟨not_not_intro haligned, hbit⟩⟩)

end aliases

/-! ### EVT_NEXT -/

section events
variable {s : State} {p : Part} {m : Master} (hw : (s.common p).writable m (ob 0x2101 1) = true)
include hw

theorem evtNext_of_writable {c' : Common} (h : ((s.common p).renew m).evtNext m = c') : exec (.evtNext p m) s = .next (s.modCommon p (fun _ => c')) :=
  mgmtWrite_acts (b := s.blk) (fun _ => rfl) hw h s rfl

end events

/-- A take begins where none of its master's is under way. -/
theorem evtNext_of_free {c : Common} {m : Master} (h : ∀ t ∈ c.takers, ¬ (t.m = m ∧ t.read = none)) :
    c.evtNext m = ({ c with takers := c.takers ++ [⟨m, c.stroke + c.evtLimit, none⟩] } : Common).pumpLog :=
  if_neg (by simpa using h)

theorem evtNext_of_taking {c : Common} {m : Master} (h : ∃ t ∈ c.takers, t.m = m ∧ t.read = none) : c.evtNext m = c :=
  if_pos (by simpa using h)

end Sys2Proof.Machine

namespace Sys2Proof
open Machine

/-- Settles O56: each way a write comes in by what the object makes of it; EVT_NEXT by whether a take of its master stands. -/
theorem windowsWrite : Obligations.WindowsWrite := by
  unfold Obligations.WindowsWrite
  intro s p hreset
  refine ⟨?fieldBus, ?narrow, ?applied, ?refused, ?met, ?aliasRefused, ?aliasApplied, ?aliasUnfit, ?free, ?taking⟩
  case fieldBus =>
    intro offset width data key v all
    refine ⟨fun h => ?_, fun h halone => ?_⟩
    · exact (registerWrite_of_fieldBus hreset (writeObj_of_refused h)).trans (congrArg Host.Outcome.next (if_neg h))
    · exact registerWrite_of_fieldBus hreset (writeObj_of_alone h halone)
  case narrow =>
    intro offset width data n h
    exact registerWrite_of_unfit hreset (h.imp_right .inl)
  case applied =>
    intro offset width data r key lo n mask v hwide haligned hrow hfits h halone
    exact registerWrite_of_fit hreset hwide haligned hrow hfits (writeObj_of_alone h halone)
  case refused =>
    intro offset width data key lo n hwide haligned h
    cases hrow : findRow p key with
    | none => exact registerWrite_of_missing hreset hrow
    | some r =>
      by_cases hlong : r.width < 8 * (lo + n)
      · exact registerWrite_of_beyond hreset hrow hlong
      · have hbad := (h.resolve_left (by simp [hrow])).resolve_left (by simpa [hrow] using hlong)
        exact (registerWrite_of_fit hreset hwide haligned hrow (Nat.not_lt.1 hlong) (writeObj_of_refused hbad)).trans (congrArg Host.Outcome.next (if_neg hbad))
  case met =>
    intro offset width data r both x key lo n mask v fb hwide haligned hrow hfits h hlast
    exact registerWrite_of_fit hreset hwide haligned hrow hfits (writeObj_of_met h (rival_of_met hlast))
  case aliasRefused =>
    intro offset data key bit h
    by_cases hfit : ∀ r, findRow p key = some r → (2 : BitVec 2).toNat ≠ 2 ∨ offset.toNat % 4 ≠ 0 ∨ bitsOf (r.catchMask p ||| r.immMask p) bit 1 = 0
    · exact aliasWrite_of_unfit hreset hfit
    · push Not at hfit
      obtain ⟨r, hrow, -, haligned, hbit⟩ := hfit
      have hbad := (h.resolve_left (by simp [hrow])).resolve_left (by simpa [hrow] using hbit)
      exact (aliasWrite_of_fit hreset hrow haligned hbit (writeObj_of_refused hbad)).trans (congrArg Host.Outcome.next (if_neg hbad))
  case aliasApplied =>
    intro offset data r key bit v haligned hrow hbit h halone
    exact aliasWrite_of_fit hreset hrow haligned (fun hzero => Nat.one_ne_zero (hbit.symm.trans hzero)) (writeObj_of_alone h halone)
  case aliasUnfit =>
    intro offset width data h
    exact aliasWrite_of_unfit hreset fun r _ => h.imp_right .inl
  case free => exact fun m hw hfree => evtNext_of_writable hw (evtNext_of_free hfree)
  case taking => exact fun m hw htaking => evtNext_of_writable hw (evtNext_of_taking htaking)

end Sys2Proof
end

section
/-!
PROOFS. Haoth (17, R390 to R393, R395, R403): what becomes of a request by the part it names, each operation's answer, the relay's pieces and its time limit.
-/
namespace Sys2Proof.Machine

/-! ### What becomes of a request -/

section request
variable {s : State} {p : Part} (hreset : (s.common p).inReset = false) {via : Option Nat} {op : Nat} {r : HaothReq} {ok : Bool} {body : List Byte} {f : State → State}
include hreset

theorem haoth_of_bad (h : ok = false ∨ 2 ^ 14 ≤ r.target.toNat) : s.haoth p via op r ok body f = s.modCommon p (fun c => c.badFrame r.src.toNat) :=
  (if_neg (by simp [hreset])).trans (if_pos (by simpa using h))

section good
variable (hok : ok = true) (htarget : r.target.toNat < 2 ^ 14)
include hok htarget

/-- A TID that has been answered is answered again. -/
theorem haoth_of_kept {e : Nat × Nat × Out} (hkept : (s.common p).kept.find? (fun e => e.1 == r.src.toNat && e.2.1 == r.tid.toNat) = some e) :
    s.haoth p none op r ok body f = s.modCommon p (fun c => c.emit e.2.2) := by
  refine (if_neg (by simp [hreset])).trans ((if_neg (by simpa [hok] using htarget)).trans ?_)
  rw [hkept]
  rfl

variable (hnew : (s.common p).kept.find? (fun e => e.1 == r.src.toNat && e.2.1 == r.tid.toNat) = none)
include hnew

omit htarget in
/-- The part that the frame names does what it asks. -/
theorem haoth_of_named (hnamed : (p = .oe36 ∧ r.target.toNat < 2 ^ 14) ∨ (p = .ox720 ∧ r.target.toNat < 2 ^ 13 ∧ r.target.toNat = s.blk.swId)) :
    s.haoth p via op r ok body f = f s := by
  have hlow : r.target.toNat < 2 ^ 14 := hnamed.elim (fun h => h.2) (fun h => by omega)
  refine (if_neg (by simp [hreset])).trans ((if_neg (by simpa [hok] using hlow)).trans ?_)
  rw [hnew]
  obtain ⟨rfl, -⟩ | ⟨rfl, hown, hid⟩ := hnamed
  · rfl
  · exact (if_neg (Nat.not_le.2 hown)).trans (if_pos ((Nat.mod_eq_of_lt hown).trans hid))

end good

end request

section rack
variable {s : State} (hreset : (s.common .ox720).inReset = false) {op : Nat} {r : HaothReq} {ok : Bool} {body : List Byte} {f : State → State}
  (hok : ok = true) (htarget : r.target.toNat < 2 ^ 14) (hendpoint : 2 ^ 13 ≤ r.target.toNat)
  (hnew : (s.common .ox720).kept.find? (fun e => e.1 == r.src.toNat && e.2.1 == r.tid.toNat) = none)
include hreset hok htarget hendpoint hnew

/-- An endpoint of the rack is reached over its crew port; another is not. -/
theorem haoth_of_endpoint : s.haoth .ox720 none op r ok body f =
    let id := r.target.toNat % 2 ^ 13
    if id / 128 = s.blk.swRack ∧ id % 128 < 72 ∧ (s.common .ox720).lstate (id % 128) = lsActive then s.relayRequest op (id % 128) r body
    else s.modCommon .ox720 (fun c => c.reply { src := r.src.toNat, tid := r.tid.toNat, via := none } op hsUnreachable 0 0 []) := by
  refine (if_neg (by simp [hreset])).trans ((if_neg (by simpa [hok] using htarget)).trans ?_)
  rw [hnew]
  exact if_pos hendpoint

end rack

/-! ### Bad and repeated requests -/

section refused
variable {s : State} {p : Part} (hreset : (s.common p).inReset = false) {r : HaothReq} {l : List Obj}
include hreset

theorem haothRead_of_bad (h : 2 ^ 14 ≤ r.target.toNat ∨ r.count.toNat = 0 ∨ 64 < r.count.toNat) : s.haothRead p none r = s.modCommon p (fun c => c.badFrame r.src.toNat) := by
  unfold State.haothRead
  refine haoth_of_bad hreset ?_
  simp only [Bool.and_eq_false_iff, decide_eq_false_iff_not]
  omega

theorem haothWrite_of_bad (h : 2 ^ 14 ≤ r.target.toNat ∨ r.count.toNat = 0 ∨ 64 < r.count.toNat ∨ l.length ≠ r.count.toNat) :
    s.haothWrite p none r l = s.modCommon p (fun c => c.badFrame r.src.toNat) := by
  unfold State.haothWrite
  refine haoth_of_bad hreset ?_
  simp only [Bool.and_eq_false_iff, decide_eq_false_iff_not, beq_eq_false_iff_ne]
  omega

theorem eventRead_of_bad (h : 2 ^ 14 ≤ r.target.toNat ∨ r.count.toNat = 0 ∨ 23 < r.count.toNat) : s.eventRead p none r = s.modCommon p (fun c => c.badFrame r.src.toNat) := by
  unfold State.eventRead
  refine haoth_of_bad hreset ?_
  simp only [Bool.and_eq_false_iff, decide_eq_false_iff_not]
  omega

variable (htarget : r.target.toNat < 2 ^ 14) (hleast : 1 ≤ r.count.toNat) {e : Nat × Nat × Out}
include htarget hleast

theorem haothRead_of_kept (hmost : r.count.toNat ≤ 64) (hkept : (s.common p).kept.find? (fun e => e.1 == r.src.toNat && e.2.1 == r.tid.toNat) = some e) :
    s.haothRead p none r = s.modCommon p (fun c => c.emit e.2.2) := by
  unfold State.haothRead
  exact haoth_of_kept hreset (by simp [hleast, hmost]) htarget hkept

theorem eventRead_of_kept (hmost : r.count.toNat ≤ 23) (hkept : (s.common p).kept.find? (fun e => e.1 == r.src.toNat && e.2.1 == r.tid.toNat) = some e) :
    s.eventRead p none r = s.modCommon p (fun c => c.emit e.2.2) := by
  unfold State.eventRead
  exact haoth_of_kept hreset (by simp [hleast, hmost]) htarget hkept

theorem haothWrite_of_kept (hmost : r.count.toNat ≤ 64) (hlength : l.length = r.count.toNat)
    (hkept : (s.common p).kept.find? (fun e => e.1 == r.src.toNat && e.2.1 == r.tid.toNat) = some e) :
    s.haothWrite p none r l = s.modCommon p (fun c => c.emit e.2.2) := by
  unfold State.haothWrite
  exact haoth_of_kept hreset (by simp [hleast, hmost, hlength]) htarget hkept

end refused

/-! ### READ -/

theorem readSlots_of_present {s : State} {p : Part} (n : Nat) : ∀ {key sub : Nat},
    (∀ i < n, (s.common p).serves (key + i) = true ∧ (findRow p (key + i)).isSome = true ∧ sub + i < 256) →
    s.readSlots p key sub n = ((List.range n).map (fun i => s.readObj p .fieldBus (key + i)), hsOk) := by
  induction n with
  | zero => exact fun _ => rfl
  | succ n ih =>
    intro key sub h
    obtain ⟨hserves, hrow, hsub⟩ := h 0 n.succ_pos
    have hrest := ih (key := key + 1) (sub := sub + 1) fun i hi => by
      simpa only [Nat.add_assoc, Nat.add_comm 1] using h (i + 1) (Nat.succ_lt_succ hi)
    refine (if_neg ?_).trans ?_
    · simp only [Nat.add_zero] at hserves hrow hsub
      simp only [hserves, Bool.true_eq_false, false_or, not_or, Nat.not_lt]
      exact ⟨by omega, by simpa [Option.isNone_iff_eq_none, Option.isSome_iff_ne_none] using hrow⟩
    · rw [hrest, List.range_succ_eq_map, List.map_cons, List.map_map]
      simp only [Function.comp_def, Nat.add_zero, Nat.succ_eq_add_one, Nat.add_assoc, Nat.add_comm 1]

theorem readSlots_of_missing {s : State} {p : Part} {key sub : Nat} (h : (s.common p).serves key = false ∨ (findRow p key).isNone = true) :
    s.readSlots p key sub 1 = ([], hsNoObject) :=
  if_pos (.inr h)

/-! ### The operations at the part that a frame names -/

section named
variable {s : State} {p : Part} {r : HaothReq}

/-- The part is not in reset, has not answered the request, and is the one it names. -/
structure Named (s : State) (p : Part) (r : HaothReq) : Prop where
  running : (s.common p).inReset = false
  new : (s.common p).kept.find? (fun e => e.1 == r.src.toNat && e.2.1 == r.tid.toNat) = none
  named : (p = .oe36 ∧ r.target.toNat < 2 ^ 14) ∨ (p = .ox720 ∧ r.target.toNat < 2 ^ 13 ∧ r.target.toNat = s.blk.swId)

/-- The first object of a request. -/
abbrev reqKey (r : HaothReq) : Nat := ob r.index.toNat r.sub.toNat

variable (h : Named s p r)
include h

theorem Named.haoth {op : Nat} {ok : Bool} (hok : ok = true) {body : List Byte} {f : State → State} {t : State} (hf : f s = t) : s.haoth p none op r ok body f = t :=
  (haoth_of_named h.running hok h.new h.named).trans hf

theorem Named.haothRead (hleast : 1 ≤ r.count.toNat) (hmost : r.count.toNat ≤ 64) (htakers : (s.common p).takers = [])
    (hpresent : ∀ i < r.count.toNat, (s.common p).serves (reqKey r + i) = true ∧ (findRow p (reqKey r + i)).isSome = true ∧ r.sub.toNat + i < 256) :
    s.haothRead p none r = s.modCommon p (fun c => c.reply (reqRoute r none) 1 hsOk r.count.toNat 0
      ((List.range r.count.toNat).map (fun i => leBytes 16 (s.readObj p .fieldBus (reqKey r + i)).toNat)).flatten) := by
  unfold State.haothRead
  refine h.haoth (by simp [hleast, hmost]) ?_
  simp only [readSlots_of_present _ hpresent, htakers, List.any_nil, Bool.and_false, Bool.false_and, Bool.false_eq_true, if_false, if_true, List.map_map, List.length_map,
    List.length_range]
  rfl

theorem Named.haothRead_of_missing (hone : r.count.toNat = 1) (htakers : (s.common p).takers = [])
    (hmissing : (s.common p).serves (reqKey r) = false ∨ (findRow p (reqKey r)).isNone = true) :
    s.haothRead p none r = s.modCommon p (fun c => (c.recordError .fieldBus (slotOffset (reqKey r) % 2 ^ 28) 4).reply (reqRoute r none) 1 hsNoObject 0 0 []) := by
  unfold State.haothRead
  refine h.haoth (by simp [hone]) ?_
  rw [hone]
  simp only [readSlots_of_missing hmissing, htakers, List.any_nil, Bool.and_false, Bool.false_and, Bool.false_eq_true, if_false, List.length_nil, Nat.add_zero]
  exact modCommon_twice ..

section write
variable {l : List Obj} (hleast : 1 ≤ r.count.toNat) (hmost : r.count.toNat ≤ 64) (hlength : l.length = r.count.toNat)
include hleast hmost hlength

/-- A WRITE answers how many objects it has written. -/
theorem Named.haothWrite_of_done {n : Nat} {t : State} (hslots : s.writeSlots p (reqKey r) r.sub.toNat l = (n, hsOk, t)) :
    s.haothWrite p none r l = t.modCommon p (fun c => c.reply (reqRoute r none) 2 hsOk n 0 []) := by
  unfold State.haothWrite
  refine h.haoth (by simp [hleast, hmost, hlength]) ?_
  simp only [hslots, if_true]

/-- It ends with the status of the object that is refused. -/
theorem Named.haothWrite_of_failed {n st k : Nat} {t : State} (hslots : s.writeSlots p (reqKey r) r.sub.toNat l = (n, st, t)) (hbad : st ≠ hsOk) (hk : reqKey r + n = k) :
    s.haothWrite p none r l = t.modCommon p (fun c => (c.recordError .fieldBus (slotOffset k % 2 ^ 28) 4).reply (reqRoute r none) 2 st n 0 []) := by
  unfold State.haothWrite
  refine h.haoth (by simp [hleast, hmost, hlength]) ?_
  simp only [hslots, if_neg hbad, hk]
  exact modCommon_twice ..

end write

theorem Named.eventRead (hleast : 1 ≤ r.count.toNat) (hmost : r.count.toNat ≤ 23) : s.eventRead p none r = s.modCommon p (fun c =>
    ({ c with takers := c.takers ++ [⟨.fieldBus, c.stroke + c.evtLimit, some ((reqRoute r none), r.count.toNat, [])⟩] } : Common).pumpLog) := by
  unfold State.eventRead
  exact h.haoth (by simp [hleast, hmost]) rfl

end named

/-! ### WRITE, object by object -/

section slots
variable {s : State} {p : Part} {key sub : Nat} {v : Obj} {rest : List Obj} (hsub : sub ≤ 255)
include hsub

theorem writeSlots_of_refused (h : s.writeStatus p .fieldBus key (BitVec.allOnes 128) v ≠ hsOk) :
    s.writeSlots p key sub (v :: rest) = (0, s.writeStatus p .fieldBus key (BitVec.allOnes 128) v, s) := by
  refine (if_neg (Nat.not_lt.2 hsub)).trans ?_
  rw [writeObj_of_refused h]
  exact if_pos h

theorem writeSlots_of_alone (h : s.writeStatus p .fieldBus key (BitVec.allOnes 128) v = hsOk) (halone : (s.mg p).lastWrite = none) {n st : Nat} {t : State}
    (hrest : (s.writeApply p .fieldBus key (BitVec.allOnes 128) v).writeSlots p (key + 1) (sub + 1) rest = (n, st, t)) :
    s.writeSlots p key sub (v :: rest) = (n + 1, st, t) := by
  refine (if_neg (Nat.not_lt.2 hsub)).trans ?_
  rw [writeObj_of_alone h halone]
  refine (if_neg (not_not_intro rfl)).trans ?_
  rw [hrest]

end slots

/-! ### COMMIT -/

/-- A COMMIT frame that the part takes, answered with COMMIT_STATUS. -/
def State.committed (s : State) (p : Part) (r : HaothReq) (st : Nat) : State :=
  s.modCommon p (fun c => c.reply (reqRoute r none) 3 st 0 0 (leBytes 8 (s.view p (ob 0x2000 2)).toNat))

/-- What a commit command of a frame does. -/
def State.commitFrame (s : State) (p : Part) (cmd group at_ : Nat) : State :=
  if cmd = 1 then s.commitNow p .fieldBus
  else if cmd = 2 then (s.modCommon p (fun c => (c.setFld (ob 0x2000 1) 0 48 at_).setFld (ob 0x2000 1) 48 16 group)).commitAt p .fieldBus
  else s.commitAbort p

theorem commitFrame_at (s : State) (p : Part) (group at_ : Nat) : s.commitFrame p 2 group at_ =
    (s.modCommon p (fun c => (c.setFld (ob 0x2000 1) 0 48 at_).setFld (ob 0x2000 1) 48 16 group)).commitAt p .fieldBus := rfl

section commit
variable {s : State} {p : Part} {r : HaothReq} (h : Named s p r) (hcount : r.count.toNat = 0) (hw : (s.common p).writable .fieldBus (ob 0x2000 0) = true)
include h hcount hw

theorem Named.haothCommit_eq {cmd group at_ : Nat} (hcmd : 1 ≤ cmd ∧ cmd ≤ 3) : s.haothCommit p none r cmd group at_ =
    if cmd = 2 ∧ (s.common p).commitOpen = true then s.committed p r hsBusy
    else ((s.modCommon p (fun _ => (s.common p).renew .fieldBus)).commitFrame p cmd group at_).committed p r hsOk := by
  unfold State.haothCommit
  refine h.haoth (by simp [hcount]) ?_
  obtain ⟨hserves, hlocked⟩ := Bool.and_eq_true_iff.1 hw
  rw [Bool.not_eq_true'] at hlocked
  simp only [hserves, hlocked, Bool.not_true, Bool.false_eq_true, if_false]
  rw [if_neg (show ¬ (cmd = 0 ∨ 3 < cmd) by omega)]
  split
  · exact congrArg (fun t : State => t.committed p r hsBusy) (if_pos (by decide))
  · refine congrArg (fun t : State => t.committed p r hsOk) ((if_neg (by decide)).trans ?_)
    rw [modCommon_const]
    rfl

end commit

/-! ### The relay -/

theorem gather_of_first {g : Mgmt} {k : Nat} {p : Packet} (hfirst : mgPiece p = 0) (hmore : mgLast p = false) :
    g.gather k p = (none, { g with relayRx := g.relayRx.filter (fun e => !(e.1 == k && e.2.1 == mgMac p)) ++ [(k, mgMac p, slice p.payload 0 256)] }) := by
  have hfull : (slice p.payload 0 256).isEmpty = false := by
    rw [List.isEmpty_eq_false_iff, ← List.length_pos_iff_ne_nil, slice_length]
    decide
  simp only [Mgmt.gather, if_pos hfirst, hfull, hmore, Bool.false_eq_true, if_false]

section relay
variable {s : State} {link : BitVec 7} {pk : Packet}

theorem mgmtData_oe36_of_bad (hup : (s.common .oe36).up = true) (hopc : pOpc pk = 0x3B) (hbad : classBad pk (linkNets .oe36 link.toNat) = true) :
    exec (.mgmtData .oe36 link pk) s = .next (s.modCommon .oe36 (fun c => c.refuseHere link.toNat pk)) :=
  congrArg Host.Outcome.next ((if_neg (by simp [hup, hopc])).trans (if_pos hbad))

/-- The first piece of a frame of more waits for the others. -/
theorem mgmtData_of_first {p : Part} (hup : (s.common p).up = true) (hopc : pOpc pk = 0x3B) (hfirst : mgPiece pk = 0) (hmore : mgLast pk = false)
    (hgood : p = .oe36 → classBad pk (linkNets .oe36 link.toNat) = false) :
    exec (.mgmtData p link pk) s = .next ((s.modCommon p (fun c => match p with | .oe36 => c.takeRx link.toNat pk | .ox720 => c.rxDrop (unitRx xpCox) pk)).modMg p (fun g =>
      { g with relayRx := g.relayRx.filter (fun e => !(e.1 == link.toNat && e.2.1 == mgMac pk)) ++ [(link.toNat, mgMac pk, slice pk.payload 0 256)] })) := by
  refine congrArg Host.Outcome.next ((if_neg (by simp [hup, hopc])).trans ?_)
  cases p with
  | oe36 =>
    refine (if_neg (Bool.eq_false_iff.1 (hgood rfl))).trans ?_
    simp only [gather_of_first hfirst hmore]
    rfl
  | ox720 =>
    simp only [gather_of_first hfirst hmore]
    rfl

variable {tid : BitVec 16} {src : BitVec 48} {op at_ : Nat} {r : List (Nat × Nat × Nat × Nat)} (hrelays : s.mgSw.relays = (tid.toNat, src.toNat, op, at_) :: r)
include hrelays

theorem relayTimeout_of_late (hlate : cclkMs ≤ (s.common .ox720).since at_) : exec (.relayTimeout tid src) s = .next { s with
    blk := { s.blk with sw := s.blk.sw.reply ⟨src.toNat, tid.toNat, none⟩ op hsUnreachable 0 0 [] }, mgSw := { s.mgSw with relays := r } } := by
  refine congrArg Host.Outcome.next ?_
  rw [hrelays, List.find?_cons_of_pos (by simp)]
  refine (if_pos hlate).trans ?_
  simp only [State.modMg, State.mg, State.setMg, hrelays, List.erase_cons_head]
  rfl

theorem relayTimeout_of_early (hearly : (s.common .ox720).since at_ < cclkMs) : exec (.relayTimeout tid src) s = .next s := by
  refine congrArg Host.Outcome.next ?_
  rw [hrelays, List.find?_cons_of_pos (by simp)]
  exact if_neg (Nat.not_le.2 hearly)

end relay

end Sys2Proof.Machine

namespace Sys2Proof
open Machine

/-- Settles O57: a request by its frame and the part it names, each operation's answer, the relay. -/
theorem haothAnswers : Obligations.HaothAnswers := by
  unfold Obligations.HaothAnswers
  intro s p c
  refine ⟨fun mac hreset => congrArg Host.Outcome.next (if_neg (by simp [show (s.common p).inReset = false from hreset])), ?bad, ?again, ?named, ?relayed, ?pieces,
    fun tid src op at_ r hrelays => ⟨relayTimeout_of_late hrelays, relayTimeout_of_early hrelays⟩⟩
  case bad =>
    intro r hreset badFrame
    refine ⟨fun h => congrArg Host.Outcome.next ?_, fun l h => congrArg Host.Outcome.next ?_, fun h => congrArg Host.Outcome.next ?_⟩
    · exact haothRead_of_bad hreset h
    · exact haothWrite_of_bad hreset h
    · exact eventRead_of_bad hreset h
  case again =>
    intro r e hreset htarget hleast hmost hkept again
    refine ⟨congrArg Host.Outcome.next ?_, congrArg Host.Outcome.next ?_, fun l hl => congrArg Host.Outcome.next ?_⟩
    · exact haothRead_of_kept hreset htarget hleast (by omega) hkept
    · exact eventRead_of_kept hreset htarget hleast hmost hkept
    · exact haothWrite_of_kept hreset htarget hleast (by omega) hl hkept
  case named =>
    intro r hreset hnew hnamed key route asField armed status
    have h : Named s p r := ⟨hreset, hnew, hnamed⟩
    have hsub : r.sub.toNat ≤ 255 := by have := r.sub.isLt; omega
    refine ⟨fun hleast hmost htakers hpresent => congrArg Host.Outcome.next (h.haothRead hleast hmost htakers hpresent),
      fun hone htakers hmissing => congrArg Host.Outcome.next (h.haothRead_of_missing hone htakers hmissing), ?write, ?writes,
      fun hleast hmost => congrArg Host.Outcome.next (h.eventRead hleast hmost), ?commit⟩
    case write =>
      intro v hone
      refine ⟨fun hst halone => congrArg Host.Outcome.next ?_, fun st hst hbad => congrArg Host.Outcome.next ?_⟩
      · exact h.haothWrite_of_done (by omega) (by omega) (l := [v]) hone.symm (writeSlots_of_alone hsub hst halone rfl)
      · subst hst
        exact h.haothWrite_of_failed (by omega) (by omega) (l := [v]) hone.symm (writeSlots_of_refused hsub hbad) hbad (Nat.add_zero _)
    case writes =>
      intro v w htwo hlow hst halone t st hst' hbad
      subst hst'
      refine congrArg Host.Outcome.next ?_
      exact h.haothWrite_of_failed (by omega) (by omega) (l := [v, w]) htwo.symm (writeSlots_of_alone hsub hst halone (writeSlots_of_refused (by omega) hbad)) hbad rfl
    case commit =>
      intro hcount hw group at_ d
      have hopen : asField.commitOpen = c.commitOpen := by simp only [Common.commitOpen, Common.commitState, asField, renew_fld]
      have hcommon : (s.modCommon p (fun _ => asField)).common p = asField := common_modCommon ..
      refine ⟨fun hclosed => congrArg Host.Outcome.next ?_, fun hbusy => congrArg Host.Outcome.next ?_, fun hd hclosed hann hearly => congrArg Host.Outcome.next ?_,
        fun hstate hquiet => congrArg Host.Outcome.next ?_⟩
      · refine (h.haothCommit_eq hcount hw ⟨Nat.le_refl 1, by decide⟩).trans ((if_neg (fun hb => absurd hb.1 (by decide))).trans ?_)
        refine congrArg (fun t : State => t.committed p r hsOk) ?_
        exact (commitNow_of_closed (by rw [hcommon, hopen]; exact hclosed)).trans (modCommon_twice ..)
      · exact (h.haothCommit_eq hcount hw ⟨by decide, by decide⟩).trans (if_pos ⟨rfl, hbusy⟩)
      · refine (h.haothCommit_eq hcount hw ⟨by decide, by decide⟩).trans ((if_neg (fun hb => absurd hb.2 (Bool.eq_false_iff.1 hclosed))).trans ?_)
        refine congrArg (fun t : State => t.committed p r hsOk) ?_
        have hd' : (s.modCommon p (fun _ => d)).common p = d := common_modCommon ..
        have hfields : (s.modCommon p (fun _ => asField)).modCommon p (fun c => (c.setFld (ob 0x2000 1) 0 48 at_.toNat).setFld (ob 0x2000 1) 48 16 group.toNat) =
            s.modCommon p (fun _ => d) := modCommon_twice ..
        exact (commitFrame_at ..).trans ((congrArg (fun u : State => u.commitAt p .fieldBus) hfields).trans
          ((commitAt_of_early (by rw [hd']; exact hd) (by rw [hd', mg_modCommon]; exact hann) (by rw [hd']; exact hearly)).trans (modCommon_twice ..)))
      · refine (h.haothCommit_eq hcount hw ⟨by decide, by decide⟩).trans ((if_neg (fun hb => absurd hb.1 (by decide))).trans ?_)
        refine congrArg (fun t : State => t.committed p r hsOk) ?_
        refine (commitAbort_of_quiet (by rwa [hcommon]) (by rwa [hcommon])).trans ?_
        rw [State.discarded, modCommon_twice]
        rfl
  case relayed =>
    intro r hp hreset hnew hleast hmost hendpoint htarget id n own
    subst hp
    have hok : (decide (1 ≤ r.count.toNat) && decide (r.count.toNat ≤ 64)) = true := by simp [hleast, hmost]
    refine ⟨fun hown => congrArg Host.Outcome.next ?_, fun hlost => congrArg Host.Outcome.next ?_⟩
    · unfold State.haothRead
      exact (haoth_of_endpoint hreset hok htarget hendpoint hnew).trans (if_pos hown)
    · unfold State.haothRead
      exact (haoth_of_endpoint hreset hok htarget hendpoint hnew).trans (if_neg hlost)
  case pieces =>
    intro link pk hup hopc
    refine ⟨fun hp hbad => ?_, fun hfirst hmore hgood => ?_⟩
    · subst hp
      exact mgmtData_oe36_of_bad hup hopc hbad
    · cases p <;> exact mgmtData_of_first hup hopc hfirst hmore hgood

end Sys2Proof
end

section
/-!
PROOFS. The frame of a part: its stroke count, whether it runs, is in reset or waits for one, and the state of its commit (14, R325; 17, R395; 18, R417). What leaves it alone.
-/
namespace Sys2Proof.Machine

/-- Reset, REFCLK, stroke count, the reset that waits, the state of the commit. -/
abbrev Frame := Bool × Bool × Nat × Option PendingReset × Nat

/-- What moves a part's time: its reset, REFCLK, its stroke count, the reset that waits, the state of its commit. -/
def Common.frame (c : Common) : Frame := (c.inReset, c.running, c.stroke, c.resetPending, c.commitState)

section common
variable (c : Common)

theorem frame_of_fields {d : Common} (h : d.inReset = c.inReset ∧ d.running = c.running ∧ d.stroke = c.stroke ∧ d.resetPending = c.resetPending)
    (hstate : d.commitState = c.commitState) : d.frame = c.frame := by
  obtain ⟨hreset, hrunning, hstroke, hpending⟩ := h
  simp only [Common.frame, hreset, hrunning, hstroke, hpending, hstate]

theorem frame_setReg {k : Nat} (h : k ≠ ob 0x2000 2) (v : Obj) : (c.setReg k v).frame = c.frame :=
  frame_of_fields c ⟨rfl, rfl, rfl, rfl⟩ (congrArg (fun x => bitsOf x 0 3) (Common.reg_setReg_ne c k _ v h))

theorem frame_setFld {k : Nat} (h : k ≠ ob 0x2000 2) (lo w x : Nat) : (c.setFld k lo w x).frame = c.frame := frame_setReg c h _
theorem frame_setBit {k : Nat} (h : k ≠ ob 0x2000 2) (lo : Nat) (v : Bool) : (c.setBit k lo v).frame = c.frame := frame_setReg c h _
theorem frame_count {k : Nat} (h : k ≠ ob 0x2000 2) (lo w n : Nat) : (c.count k lo w n).frame = c.frame := frame_setReg c h _

/-- What nothing but the log's own differs from keeps the frame. -/
theorem frame_sameButLog {c d : Common} (h : c.SameButLog d) : d.frame = c.frame :=
  frame_of_fields c ⟨h.inReset, h.running, h.stroke, h.resetPending⟩ (congrArg (fun x => bitsOf x 0 3) (h.reg (ob 0x2000 2) (by decide) (by decide) (by decide)))

@[simp] theorem frame_log (code : Nat) (sev : Sev) (unit arg : Nat) : (c.log code sev unit arg).frame = c.frame := frame_sameButLog (Common.log_same ..)
@[simp] theorem frame_logLimited (code : Nat) (sev : Sev) (unit key arg : Nat) : (c.logLimited code sev unit key arg).frame = c.frame :=
  frame_sameButLog (Common.logLimited_same ..)
@[simp] theorem frame_emit (o : Out) : (c.emit o).frame = c.frame := frame_of_fields c ⟨rfl, rfl, rfl, rfl⟩ rfl
@[simp] theorem frame_modLink (k : Nat) (f : Link → Link) : (c.modLink k f).frame = c.frame := frame_of_fields c ⟨rfl, rfl, rfl, rfl⟩ rfl

/-! ### Links and the token -/

@[simp] theorem frame_wake (k : Nat) : (c.wake k).frame = c.frame := by
  unfold Common.wake
  split
  · rw [frame_emit, frame_count _ (by unfold ob; omega), frame_setBit _ (by unfold ob; omega)]
  · rfl

@[simp] theorem frame_ctrl (k : Nat) (flit : List Byte) : (c.ctrl k flit).frame = c.frame := by
  rw [Common.ctrl, frame_emit, frame_modLink, frame_wake]

@[simp] theorem frame_setToken (v cause : Nat) : (c.setToken v cause).frame = c.frame := by
  unfold Common.setToken
  split
  · rfl
  · rw [frame_log, frame_setFld _ (by decide)]

@[simp] theorem frame_yieldToken : c.yieldToken.frame = c.frame := by
  unfold Common.yieldToken
  split
  · rfl
  · rw [frame_setToken]
    split
    · exact frame_ctrl ..
    · rfl

end common

end Sys2Proof.Machine
end

section
/-!
PROOFS. Resets (18, R417 to R419): what a request leaves waiting, what acts at the ballast's end, and what the end of a reset brings.
-/
namespace Sys2Proof.Machine

section request
variable {b : Block} {p : Part} {r : PendingReset}

/-- A part that a request finds: a bow has given up the token before any reset but a block's. -/
def Common.asked (c : Common) (r : PendingReset) : Common := if r.kind ≤ 2 then c.yieldToken else c

theorem frame_resetPending {c d : Common} (h : d.frame = c.frame) : d.resetPending = c.resetPending := congrArg (fun f => f.2.2.2.1) h

theorem yieldToken_of_stern {c : Common} (h : c.isBow = false) : c.yieldToken = c := if_pos (by simp [h])

theorem asked_resetPending (c : Common) (r : PendingReset) : (c.asked r).resetPending = c.resetPending := by
  unfold Common.asked
  split
  · exact frame_resetPending (frame_yieldToken c)
  · rfl

variable (hreset : (b.common p).inReset = false)
include hreset

theorem requestReset_eq : b.requestReset p r = b.setCommon p (match ((b.common p).asked r).resetPending with
    | none => { (b.common p).asked r with resetPending := some r }
    | some o => if r.kind < min 2 o.kind then { (b.common p).asked r with resetPending := some r } else (b.common p).asked r) :=
  congrArg (b.setCommon p) (if_neg (by simp [hreset]))

theorem requestReset_of_none (hnone : (b.common p).resetPending = none) : b.requestReset p r = b.setCommon p { (b.common p).asked r with resetPending := some r } := by
  rw [requestReset_eq hreset, asked_resetPending, hnone]

/-- A reset that is no wider than the one that waits is dropped. -/
theorem requestReset_of_wider {o : PendingReset} (hwaits : (b.common p).resetPending = some o) (hwide : min 2 o.kind ≤ r.kind) :
    b.requestReset p r = b.setCommon p ((b.common p).asked r) := by
  rw [requestReset_eq hreset, asked_resetPending, hwaits]
  exact congrArg (b.setCommon p) (if_neg (Nat.not_lt.2 hwide))

end request

/-! ### The ballast's end -/

section ballast
variable {b : Block} {p : Part} {q : PendingReset} (hwaits : (b.common p).resetPending = some q)
include hwaits

/-- A part whose reset, other than a warm one, acts. -/
def Common.resetBegun (c : Common) (q : PendingReset) : Common := ({ c with resetPending := none, resetRunning := some q } : Common).noteReset q.cause

theorem resetBallastDone_acts (hnarrow : q.kind ≠ 0) {b' : Block}
    (h : (let u := b.setCommon p ((b.common p).resetBegun q)
          if q.kind = 1 then u.planeReset else if q.kind = 2 then u.strokeReset else u.blockReset p q.unitKind q.unit) = b') : Acts (.resetBallastDone p) b b' := by
  rintro s rfl
  subst h
  have hbegin : ((s.blk.modCommon p (fun c => { c with resetPending := none })).modCommon p (fun c => ({ c with resetRunning := some q } : Common).noteReset q.cause)) =
      s.blk.setCommon p ((s.common p).resetBegun q) := modCommon_setCommon ..
  refine congrArg Host.Outcome.next ((if_neg ?_).trans (congrArg (fun u : Block => ({ s with blk := u } : State)) ?_))
  · rw [show (s.common p).resetPending = some q from hwaits]
    simpa using hnarrow
  · simp only [hwaits]
    refine (if_neg hnarrow).trans ?_
    rw [hbegin]
    rfl

end ballast

/-! ### The end -/

section done
variable {b : Block} {p : Part} {q : PendingReset} (hruns : (b.common p).resetRunning = some q)
include hruns

/-- A reset that a trip or a fault holds does not end. -/
theorem resetDone_acts_of_held (hheld : 4 ≤ q.kind) : Acts (.resetDone p) b b := by
  refine acts (fun _ => rfl) ?_
  simp only [hruns]
  exact if_pos hheld

/-- Another ends with what its kind brings, and the event. -/
theorem resetDone_acts (hends : ¬ 4 ≤ q.kind) {b' : Block}
    (h : (let s0 := b.modCommon p (fun c => { c with resetRunning := none })
          let s1 :=
            if q.kind = 0 then (s0.modCommon p (fun c => { c with inReset := false, booted := c.fwState == 2 })).linksReady p
            else if q.kind = 1 then (List.range 16).foldl (fun s k => s.hallRelaunch k) s0
            else if q.kind = 2 then (s0.modEng (fun e => e.to s0.idleState)).engineKick
            else if q.unitKind = 1 && s0.sw.hstate q.unit != psDisabled && !s0.sw.isDark then s0.surveyStart q.unit
            else s0
          s1.modCommon p (fun c => c.log 0xA004 .info 0xFF (packArg [(3, q.cause)]))) = b') : Acts (.resetDone p) b b' := by
  subst h
  refine acts (fun _ => rfl) ?_
  simp only [hruns]
  exact if_neg hends

end done

theorem resetDone_acts_of_warm {b : Block} {q : PendingReset} (hruns : b.ep.resetRunning = some q) (hkind : q.kind = 0) :
    Acts (.resetDone .oe36) b { b with ep := ({ b.ep with resetRunning := none, inReset := false, booted := b.ep.fwState == 2 } : Common).log 0xA004 .info 0xFF (packArg [(3, q.cause)]) } :=
  resetDone_acts (p := .oe36) hruns (by omega) (congrArg (fun u : Block => u.modCommon .oe36 (fun c => c.log 0xA004 .info 0xFF (packArg [(3, q.cause)]))) (if_pos hkind))

theorem resetDone_acts_of_stroke {b : Block} {q : PendingReset} (hruns : b.sw.resetRunning = some q) (hkind : q.kind = 2) :
    let u : Block := { b with sw := { b.sw with resetRunning := none }, ox := { b.ox with eng := b.ox.eng.to b.idleState } }
    Acts (.resetDone .ox720) b { u.engineKick with sw := u.engineKick.sw.log 0xA004 .info 0xFF (packArg [(3, q.cause)]) } :=
  resetDone_acts (p := .ox720) hruns (by omega) (congrArg (fun u : Block => u.modCommon .ox720 (fun c => c.log 0xA004 .info 0xFF (packArg [(3, q.cause)])))
    ((if_neg (by omega)).trans ((if_neg (by omega)).trans (if_pos hkind))))

end Sys2Proof.Machine

namespace Sys2Proof
open Machine

/-- Settles O58: a request by what waits, the ballast's end by the kind that waits, RESET_DONE by the kind that runs. -/
theorem resetsTakeEffect : Obligations.ResetsTakeEffect := by
  unfold Obligations.ResetsTakeEffect
  intro b p c y
  refine ⟨fun hreset hnone => ⟨acts (fun _ => rfl) (requestReset_of_none hreset hnone), acts (fun _ => rfl) (requestReset_of_none hreset hnone), fun hp => ?wide,
      fun uk u hunit => acts (fun _ => rfl) ((if_pos hunit).trans (requestReset_of_none hreset hnone))⟩,
    fun uk u hunit => acts (fun _ => rfl) (if_neg (Bool.eq_false_iff.1 hunit)), fun o hreset hbow hwaits hwide hp => ?narrow, fun q hwaits hkind hp => ?plane,
    fun q hwaits hkind hp => ?stroke, fun q hwaits hkind => ?block, fun q hruns hkind hp => ?idles, fun q hruns hkind hp => ?runs, fun q hruns hheld => resetDone_acts_of_held hruns hheld⟩
  case wide =>
    subst hp
    exact ⟨acts (fun _ => rfl) (requestReset_of_none hreset hnone), acts (fun _ => rfl) (requestReset_of_none hreset hnone)⟩
  case narrow =>
    subst hp
    refine acts (fun _ => rfl) ((requestReset_of_wider hreset hwaits ?_).trans ?_)
    · exact Nat.le_trans (Nat.min_le_right _ _) hwide
    · exact congrArg (fun c : Common => ({ b with sw := c } : Block)) (yieldToken_of_stern hbow)
  case plane =>
    subst hp
    exact resetBallastDone_acts hwaits (by omega) (if_pos hkind)
  case stroke =>
    subst hp
    exact resetBallastDone_acts hwaits (by omega) ((if_neg (by omega)).trans (if_pos hkind))
  case block => exact resetBallastDone_acts hwaits (by omega) ((if_neg (by omega)).trans (if_neg (by omega)))
  case idles =>
    subst hp
    exact resetDone_acts_of_stroke hruns hkind
  case runs =>
    subst hp
    exact resetDone_acts_of_warm hruns hkind

end Sys2Proof
end

section
/-!
PROOFS. Whole-part resets (18, R414, R417, R419, R420): what a warm reset, power-on and a temperature trip leave of the part, and that they leave the other.
-/
namespace Sys2Proof.Machine

theorem foldl_preserves {α β γ : Type} {f : α → γ} {g : α → β → α} {l : List β} (h : ∀ a x, f (g a x) = f a) (a : α) : f (l.foldl g a) = f a :=
  List.foldlRecOn (motive := fun d => f d = f a) l g rfl fun d hd x _ => (h d x).trans hd

/-! ### The tiles that a reset places again -/

@[simp] theorem frame_setTile (c : Common) (p st l : Nat) : (c.setTile p st l).frame = c.frame := by
  unfold Common.setTile Common.spareCount
  rw [frame_setFld _ (by decide), frame_setFld _ (by unfold ob; omega), frame_setFld _ (by unfold ob; omega)]

theorem withdraw_frame (b : Block) (g : Nat) : (b.withdraw g).sw.frame = b.sw.frame := by
  have htiles (l : List Nat) : (l.foldl (fun c p => if c.tileState p == 0 && c.tileLogical p / 6 == g then c.setTile p 1 0x7F else c) (b.sw.setBit (ob 0x6003 0) g false)).frame = b.sw.frame := by
    rw [foldl_preserves (f := Common.frame) fun c p => ?_, frame_setBit _ (by decide)]
    split
    · exact frame_setTile ..
    · rfl
  simp only [Block.withdraw, Block.modSw]
  refine Eq.trans (foldl_preserves (f := fun b : Block => b.sw.frame) (fun s w => ?partner) _) ?tiles
  case partner =>
    split
    · exact frame_log ..
    · split
      · rfl
      · exact (frame_yieldToken _).trans (frame_log ..)
  case tiles =>
    dsimp only
    exact htiles _

theorem rebuildTiles_frame (b : Block) (fenced : List Nat) : (b.rebuildTiles fenced).sw.frame = b.sw.frame := by
  refine (foldl_preserves (f := fun b : Block => b.sw.frame) (fun s g => withdraw_frame s g) _).trans ?_
  refine (foldl_preserves (f := Common.frame) (fun c i => ?_) _).trans (foldl_preserves (f := Common.frame) (fun c p => frame_setTile ..) _)
  simp only []
  split
  · exact (frame_setFld _ (by unfold ob; omega) ..).trans (frame_setTile ..)
  · exact frame_setTile ..

/-! ### A warm reset -/

section warm
variable {α : Type} {f : Common → α}

/-- FABRIC_ID aside, the straps change nothing. -/
theorem strapId_preserves {c : Common} (h : ∀ d x, f (d.setFld (ob 0x1000 5) 0 13 x) = f d) : f c.strapId = f c := by
  unfold Common.strapId
  split
  · exact h ..
  · rfl

/-- What no object shows of a part after a warm reset is what power-on gives, but for the inputs and what the firmware measured. -/
theorem warm_preserves (h : ∀ d k lo w x, f (d.setFld k lo w x) = f d) (c : Common) (cause : Nat) :
    f (c.warm cause) = f { Common.atReset c.kind with straps := c.straps, out := c.out, fci := c.fci, fwDigest := c.fwDigest, voptBad := c.voptBad, inReset := true } := by
  unfold Common.warm
  simp only []
  split
  · rw [strapId_preserves (fun d => h d _ _ _), Common.noteReset, Common.count]
    simp only [h]
  · simp only [h]
    rw [strapId_preserves (fun d => h d _ _ _), Common.noteReset, Common.count]
    simp only [h]

end warm

theorem warm_fields (c : Common) (cause : Nat) :
    (c.warm cause).inReset = true ∧ (c.warm cause).resetPending = none ∧ (c.warm cause).stroke = 0 ∧ (c.warm cause).evtLog = [] ∧ (c.warm cause).links = [] :=
  ⟨warm_preserves (f := Common.inReset) (fun _ _ _ _ _ => rfl) c cause, warm_preserves (f := Common.resetPending) (fun _ _ _ _ _ => rfl) c cause,
    warm_preserves (f := Common.stroke) (fun _ _ _ _ _ => rfl) c cause, warm_preserves (f := Common.evtLog) (fun _ _ _ _ _ => rfl) c cause,
    warm_preserves (f := Common.links) (fun _ _ _ _ _ => rfl) c cause⟩

/-- A part that a warm reset holds. -/
def Common.Held (c : Common) : Prop := c.inReset = true ∧ c.resetPending = none ∧ c.stroke = 0

theorem held_of_frame {c d : Common} (hframe : d.frame = c.frame) (h : c.Held) : d.Held := by
  simp only [Common.frame, Prod.mk.injEq] at hframe
  obtain ⟨hreset, -, hstroke, hpending, -⟩ := hframe
  obtain ⟨hreset', hpending', hstroke'⟩ := h
  exact ⟨hreset.trans hreset', hpending.trans hpending', hstroke.trans hstroke'⟩

theorem warmReset_held (b : Block) (p : Part) (cause : Nat) : ((b.warmReset p cause).common p).Held := by
  have hwarm (c : Common) : (c.warm cause).Held := by
    obtain ⟨hreset, hpending, hstroke, -, -⟩ := warm_fields c cause
    exact ⟨hreset, hpending, hstroke⟩
  cases p with
  | oe36 =>
    simp only [Block.warmReset, Block.common]
    exact hwarm _
  | ox720 =>
    simp only [Block.warmReset, Block.common]
    refine held_of_frame (rebuildTiles_frame ..) ?_
    dsimp only
    exact hwarm _

/-- A part whose warm reset has acted, with what holds it. -/
def Block.warmed (b : Block) (p : Part) (cause : Nat) (q : PendingReset) : Block := (b.warmReset p cause).modCommon p (fun c => { c with resetRunning := some q })

theorem common_warmed (b : Block) (p : Part) (cause : Nat) (q : PendingReset) :
    (b.warmed p cause q).common p = { (b.warmReset p cause).common p with resetRunning := some q } := by
  cases p <;> rfl

theorem warmed_held (b : Block) (p : Part) (cause : Nat) (q : PendingReset) : ((b.warmed p cause q).common p).Held := by
  obtain ⟨hreset, hpending, hstroke⟩ := warmReset_held b p cause
  rw [common_warmed]
  exact ⟨hreset, hpending, hstroke⟩

theorem warmed_resetRunning (b : Block) (p : Part) (cause : Nat) (q : PendingReset) : ((b.warmed p cause q).common p).resetRunning = some q := by
  rw [common_warmed]

/-- An endpoint's engines are empty after a warm reset, as are its log and its links. -/
theorem warmed_oe36 (b : Block) (cause : Nat) (q : PendingReset) :
    (b.warmed .oe36 cause q).oe = {} ∧ (b.warmed .oe36 cause q).ep.evtLog = [] ∧ (b.warmed .oe36 cause q).ep.links = [] := by
  obtain ⟨-, -, -, hlog, hlinks⟩ := warm_fields (b.dropLinks .oe36).ep cause
  simp only [Block.warmed, Block.modCommon, Block.setCommon, Block.common, Block.warmReset]
  exact ⟨trivial, hlog, hlinks⟩

section held
variable {s : State} {p : Part} {q : PendingReset} (hruns : (s.common p).resetRunning = some q)
include hruns

theorem exec_resetDone_of_held (hheld : 4 ≤ q.kind) : exec (.resetDone p) s = .next s := resetDone_acts_of_held hruns hheld s rfl

end held

theorem resetBallastDone_of_warm {s : State} {p : Part} {q : PendingReset} (hwaits : (s.common p).resetPending = some q) (hkind : q.kind = 0) :
    exec (.resetBallastDone p) s = .next ((s.on (fun b => (b.modCommon p (fun c => { c with resetPending := none })).warmed p q.cause q)).setMg p {}) := by
  have htakes : s.blk.takeReset p q = (s.blk.modCommon p (fun c => { c with resetPending := none })).warmed p q.cause q := by
    unfold Block.takeReset
    rw [if_pos hkind]
    rfl
  refine congrArg Host.Outcome.next ((if_pos ?_).trans ?_)
  · rw [hwaits]
    simp [hkind]
  · refine congrArg (fun b : Block => (({ s with blk := b } : State).setMg p {})) (Eq.trans ?_ htakes)
    simp only []
    split
    · next hnone => exact absurd (hwaits.symm.trans hnone) (by simp)
    · next r hr => rw [Option.some.inj (hr.symm.trans hwaits)]

/-! ### Power-on -/

theorem releasePins_keeps {α : Type} {f : Block → α} (hann : ∀ b, f (b.driveAnn 0) = f b) (hpin : ∀ b g, f (b.modSw g) = f b) (b : Block) : f b.releasePins = f b := by
  refine (foldl_preserves (fun s k => ?_) _).trans ?_
  · split
    · exact hpin ..
    · rfl
  · split
    · exact (hpin ..).trans (hann b)
    · exact hann b

/-- What of the units the switch's pins do not concern. -/
def Block.pinless (b : Block) : Common × Oe × Bool × Nat × Nat × Nat := (b.ep, b.oe, b.ox.combSuitable, b.ox.combFlags, b.ox.combRst, b.ox.ssyncLow)

theorem driveAnn_pinless (b : Block) : (b.driveAnn 0).pinless = b.pinless := by
  by_cases h : b.ox.ann = 0
  · rw [driveAnn_same h.symm]
  · rw [driveAnn_ends h]
    rfl

theorem releasePins_pinless (b : Block) : b.releasePins.pinless = b.pinless := releasePins_keeps driveAnn_pinless (fun _ _ => rfl) b

/-- A part after power-on: defaults, the straps, its rails good and its PLLs locked. -/
def Common.powered (c : Common) (p : Part) (straps : Nat) : Common :=
  (({ Common.atReset p with straps := straps, out := c.out, fci := c.fci }.setFld (ob 0xA001 0) 0 10 (railsUsed p)).setFld (ob 0xA003 0) 0 7 (locksUsed p)).strapId

theorem powered_preserves {α : Type} {f : Common → α} (h : ∀ d k lo w x, f (d.setFld k lo w x) = f d) (c : Common) (p : Part) (straps : Nat) :
    f (c.powered p straps) = f { Common.atReset p with straps := straps, out := c.out, fci := c.fci } :=
  (strapId_preserves fun d => h d _ _ _).trans ((h ..).trans (h ..))

theorem powered_fwState (c : Common) (p : Part) (straps : Nat) : (c.powered p straps).fwState = 0 := by
  have hfresh : ({ Common.atReset p with straps := straps, out := c.out, fci := c.fci } : Common).fld (ob 0xA005 0) 0 2 = 0 := by cases p <;> rfl
  refine (strapId_preserves (f := Common.fwState) fun d x => Common.fld_setFld_ne _ _ _ _ _ _ _ _ (by decide)).trans ?_
  exact (Common.fld_setFld_ne _ _ _ _ _ _ _ _ (by decide)).trans ((Common.fld_setFld_ne _ _ _ _ _ _ _ _ (by decide)).trans hfresh)

/-- What of a part power-on settles. -/
structure Common.Fresh (c : Common) (straps : Nat) : Prop where
  booted : c.booted = false
  running : c.inReset = false
  stroke : c.stroke = 0
  log : c.evtLog = []
  firmware : c.fwState = 0
  waits : c.resetPending = none
  runs : c.resetRunning = none
  straps : c.straps = straps

theorem powered_fresh (c : Common) (p : Part) (straps : Nat) : (c.powered p straps).Fresh straps where
  booted := powered_preserves (f := Common.booted) (fun _ _ _ _ _ => rfl) c p straps
  running := powered_preserves (f := Common.inReset) (fun _ _ _ _ _ => rfl) c p straps
  stroke := powered_preserves (f := Common.stroke) (fun _ _ _ _ _ => rfl) c p straps
  log := powered_preserves (f := Common.evtLog) (fun _ _ _ _ _ => rfl) c p straps
  firmware := powered_fwState c p straps
  waits := powered_preserves (f := Common.resetPending) (fun _ _ _ _ _ => rfl) c p straps
  runs := powered_preserves (f := Common.resetRunning) (fun _ _ _ _ _ => rfl) c p straps
  straps := powered_preserves (f := Common.straps) (fun _ _ _ _ _ => rfl) c p straps

/-- The comb module's presence is kept beside it. -/
theorem Common.Fresh.setFld {c : Common} {straps : Nat} (h : c.Fresh straps) {k : Nat} (hk : k ≠ ob 0xA005 0) (lo w x : Nat) : (c.setFld k lo w x).Fresh straps :=
  { h with firmware := (Common.fld_setFld_ne _ _ _ _ _ _ _ _ hk).trans h.firmware }

/-- The units of a switch after power-on, from those `r` whose pins it has released. -/
def Block.poweredOx (r : Block) (straps : Nat) : Block := { r with
  sw := (r.sw.powered .ox720 straps).setFld (ob 0x4000 0) 1 2 (r.sw.fld (ob 0x4000 0) 1 2)
  ox := { combSuitable := r.ox.combSuitable, combFlags := r.ox.combFlags, combRst := r.ox.combRst, ssyncLow := r.ox.ssyncLow } }

theorem porstN_oe36 (s : State) (straps : BitVec 8) :
    exec (.porstN .oe36 straps) s = .next ((s.on (fun b => { b with ep := b.ep.powered .oe36 (straps.toNat % 128), oe := {} })).setMg .oe36 {}) := rfl

theorem porstN_ox720 (s : State) (straps : BitVec 8) :
    exec (.porstN .ox720 straps) s = .next ((s.on (fun b => b.releasePins.poweredOx (straps.toNat % 32))).setMg .ox720 {}) := rfl

/-! ### A temperature trip -/

section trip
variable {s : State} {p : Part} {i : BitVec 4} {t : BitVec 16} {inj : Bool}

/-- A switch's HBM stacks act at limits 10 °C lower. -/
theorem sub_cooler (c : Common) (limit : Int) (sensor : Nat) :
    limit - c.cooler sensor = if c.kind = .ox720 ∧ 12 ≤ sensor then limit - 100 else limit := by
  unfold Common.cooler
  by_cases h : c.kind = .ox720 ∧ 12 ≤ sensor
  · rw [if_pos (by simp [h]), if_pos h]
  · rw [if_neg (by simpa using h), if_neg h, sub_zero]

variable (hreset : (s.blk.common p).inReset = false) (hsensor : i.toNat < (s.blk.common p).sensors) (hheats : (s.blk.common p).heats i.toNat inj = true)
  (hhot : (s.blk.common p).tripC - (s.blk.common p).cooler i.toNat ≤ tempOf t.toNat)
include hreset hsensor hheats hhot

omit hreset hsensor hheats hhot in
/-- The units as a trip finds them: the reading taken and logged, a bow's token given up. -/
def Block.tripped (b : Block) (p : Part) (sensor temp : Nat) (inj : Bool) : Block :=
  (b.modCommon p (fun c => (if inj then c.injected 0xA0 else c).setFld (ob 0xA002 sensor) 0 16 temp)).modCommon p (fun c =>
    (c.log 0xA003 .fatal 0xFF (packArg [(4, sensor), (16, temp)])).yieldToken)

theorem tempTrip_of_hot : exec (.tempTrip p i t inj) s = .next
    ((s.on (fun b => (((b.tripped p i.toNat t.toNat inj).modCommon p (fun c => { c with resetPending := none })).warmed p 3 ⟨0, 3, 0, 0⟩).modCommon p
      (fun c => { c with resetRunning := some ⟨4, 3, 0, 0⟩ }))).setMg p {}) := by
  have htrips : (s.blk.common p).trips i.toNat t.toNat inj = true := by simp [Common.trips, hreset, hsensor, hheats, Common.reaches, hhot]
  refine congrArg Host.Outcome.next ((if_pos htrips).trans (congrArg (fun b : Block => (({ s with blk := b } : State).setMg p {})) ?_))
  refine (if_neg (by simp [hreset, hsensor])).trans ((if_neg (by simp [hheats])).trans (if_pos htrips))

end trip

end Sys2Proof.Machine

namespace Sys2Proof
open Machine

/-- Settles O59: a warm reset, power-on and a trip each by the part's units that they leave. -/
theorem wholePartResets : Obligations.WholePartResets := by
  unfold Obligations.WholePartResets
  refine ⟨fun s p => ⟨fun q hwaits hkind => ?warm, fun straps => ?power⟩, fun s p i t inj => ?trip⟩
  case warm =>
    let b := s.blk.modCommon p (fun c => { c with resetPending := none })
    obtain ⟨hreset, hpending, hstroke⟩ := warmed_held b p q.cause q
    refine ⟨_, resetBallastDone_of_warm hwaits hkind, State.setMg_mg .., fun o ho => (State.setMg_mg_ne _ _ _ _ ho).trans (State.on_mg ..), (State.setMg_pending ..).trans (State.on_pending ..), ?_⟩
    rw [State.setMg_common, State.setMg_blk]
    refine ⟨hreset, warmed_resetRunning b p q.cause q, hpending, hstroke, fun hp => ?_⟩
    subst hp
    exact warmed_oe36 b q.cause q
  case power =>
    cases p with
    | oe36 =>
      refine ⟨_, porstN_oe36 s straps, State.setMg_mg .., fun o ho => (State.setMg_mg_ne _ _ _ _ ho).trans (State.on_mg ..), (State.setMg_pending ..).trans (State.on_pending ..), ?_⟩
      rw [State.setMg_common, State.setMg_blk]
      obtain ⟨hbooted, hrunning, hstroke, hlog, hfirmware, hwaits, hruns, hstraps⟩ := powered_fresh s.blk.ep .oe36 (straps.toNat % 128)
      exact ⟨hbooted, hrunning, hstroke, hlog, hfirmware, hwaits, hruns, fun _ => ⟨hstraps, rfl, rfl, rfl⟩, nofun⟩
    | ox720 =>
      refine ⟨_, porstN_ox720 s straps, State.setMg_mg .., fun o ho => (State.setMg_mg_ne _ _ _ _ ho).trans (State.on_mg ..), (State.setMg_pending ..).trans (State.on_pending ..), ?_⟩
      rw [State.setMg_common, State.setMg_blk, State.on_common, State.on_blk]
      have hfresh := (powered_fresh s.blk.releasePins.sw .ox720 (straps.toNat % 32)).setFld (k := ob 0x4000 0) (by decide) 1 2 (s.blk.releasePins.sw.fld (ob 0x4000 0) 1 2)
      obtain ⟨hbooted, hrunning, hstroke, hlog, hfirmware, hwaits, hruns, hstraps⟩ := hfresh
      have hkept := releasePins_pinless s.blk
      simp only [Block.pinless, Prod.mk.injEq] at hkept
      obtain ⟨hep, hoe, hsuitable, hflags, hrst, hlow⟩ := hkept
      refine ⟨hbooted, hrunning, hstroke, hlog, hfirmware, hwaits, hruns, nofun, fun _ => ⟨hstraps, ?_, ?_, ?_⟩⟩
      · rw [← hsuitable, ← hflags, ← hrst, ← hlow, Block.poweredOx]
      · rw [← hoe, Block.poweredOx]
      · rw [← hep, Block.poweredOx]
  case trip =>
    intro c hreset hsensor hheats hhot
    rw [← sub_cooler] at hhot
    let b := (s.blk.tripped p i.toNat t.toNat inj).modCommon p (fun c => { c with resetPending := none })
    have hcommon : ((b.warmed p 3 ⟨0, 3, 0, 0⟩).modCommon p (fun c => { c with resetRunning := some ⟨4, 3, 0, 0⟩ })).common p =
        { (b.warmed p 3 ⟨0, 3, 0, 0⟩).common p with resetRunning := some ⟨4, 3, 0, 0⟩ } := common_setCommon ..
    obtain ⟨hheld, -, -⟩ := warmed_held b p 3 ⟨0, 3, 0, 0⟩
    refine ⟨_, tempTrip_of_hot hreset hsensor hheats hhot, State.setMg_mg .., fun o ho => (State.setMg_mg_ne _ _ _ _ ho).trans (State.on_mg ..), (State.setMg_pending ..).trans (State.on_pending ..), ?_, ?_, ?_, ?_⟩
    · rw [State.setMg_common]
      exact (congrArg Common.inReset hcommon).trans hheld
    · rw [State.setMg_common]
      exact congrArg Common.resetRunning hcommon
    · rw [State.setMg_common]
      refine (congrArg Common.up hcommon).trans ?_
      simp [Common.up, hheld]
    · refine exec_resetDone_of_held (q := ⟨4, 3, 0, 0⟩) ?_ (Nat.le_refl 4)
      rw [State.setMg_common]
      exact congrArg Common.resetRunning hcommon

end Sys2Proof
end

section
/-!
PROOFS. Rails, temperatures, PLLs, LOAD_ANN and the bring-up (18, R409, R411, R414, R420, R421).
-/
namespace Sys2Proof.Machine

/-! ### Rails -/

section rails
variable {b : Block} {p : Part} {rail : BitVec 4}

theorem railGood_acts_of_unused (hunused : bitAt (railsUsed p) rail.toNat = false) : Acts (.railGood p rail) b b :=
  acts (fun _ => rfl) (if_pos (by simp [hunused]))

theorem railFault_acts_of_unused (hunused : bitAt (railsUsed p) rail.toNat = false) : Acts (.railFault p rail) b b :=
  acts (fun _ => rfl) (if_pos (by simp [hunused]))

variable (hused : bitAt (railsUsed p) rail.toNat = true)
include hused

theorem railGood_acts (hrail : rail.toNat ≠ 7) : Acts (.railGood p rail) b (b.setCommon p ((b.common p).setBit (ob 0xA001 0) rail.toNat true)) :=
  acts (fun _ => rfl) ((if_neg (by simp [hused])).trans (congrArg (b.setCommon p) (if_neg hrail)))

theorem railFault_acts (hrail : rail.toNat ≠ 7) :
    let u := b.dropLinks p
    let d := ((u.common p).setBit (ob 0xA001 0) rail.toNat false).log 0xA001 .fatal 0xFF (packArg [(4, rail.toNat)])
    Acts (.railFault p rail) b (u.setCommon p { d with inReset := true, booted := false, resetRunning := some ⟨4, 0, 0, 0⟩ }) :=
  acts (fun _ => rfl) ((if_neg (by simp [hused])).trans ((if_neg hrail).trans (modCommon_setCommon ..)))

end rails

theorem railFault_acts_of_vopt (b : Block) :
    let d : Common := { (b.sw.setBit (ob 0xA001 0) 7 false).log 0xA001 .uncorrected 0xFF (packArg [(4, 7)]) with voptBad := true }
    Acts (.railFault .ox720 7) b (({ b with sw := d } : Block).lightChanged b.sw.isDark) := acts (fun _ => rfl) rfl

theorem railGood_acts_of_vopt (b : Block) : Acts (.railGood .ox720 7) b { b with sw := { b.sw.setBit (ob 0xA001 0) 7 true with voptBad := false } } := acts (fun _ => rfl) rfl

/-! ### Temperatures -/

theorem reaches_of_lt {c : Common} {limit : Int} {sensor temp : Nat} (h : tempOf temp < limit - c.cooler sensor) : c.reaches limit sensor temp = false :=
  decide_eq_false (Int.not_le.2 h)

section temperature
variable {b : Block} {p : Part} (hreset : (b.common p).inReset = false) {i : BitVec 4} (hsensor : i.toNat < (b.common p).sensors) {t : BitVec 16} {inj : Bool}
include hreset hsensor

/-- A part that has taken a sensor's reading. -/
def Common.sensed (c : Common) (sensor temp : Nat) (inj : Bool) : Common := (if inj then c.injected 0xA0 else c).setFld (ob 0xA002 sensor) 0 16 temp

section cold
variable (hcold : (b.common p).heats i.toNat inj = false)
include hcold

theorem tempThrottle_acts_of_undetected : Acts (.tempThrottle p i t inj) b (b.setCommon p ((b.common p).undetected 0xA0 4 i.toNat inj)) :=
  acts (fun _ => rfl) ((if_neg (by simp [hreset, hsensor])).trans (if_pos (by simp [hcold])))

theorem tempTrip_acts_of_undetected : Acts (.tempTrip p i t inj) b (b.setCommon p ((b.common p).undetected 0xA0 4 i.toNat inj)) := by
  rintro s rfl
  have htrips : (s.blk.common p).trips i.toNat t.toNat inj = false := by simp [Common.trips, hcold]
  refine congrArg Host.Outcome.next ((if_neg (Bool.eq_false_iff.1 htrips)).trans (congrArg (fun b : Block => ({ s with blk := b } : State)) ?_))
  exact (if_neg (by simp [hreset, hsensor])).trans (if_pos (by simp [hcold]))

end cold

variable (hheats : (b.common p).heats i.toNat inj = true)
include hheats

theorem tempThrottle_acts {c' : Common}
    (h : (if (b.common p).reaches (b.common p).throttleC i.toNat t.toNat ∧ !(b.common p).bit (ob 0xA001 0) 10 then
        (((b.common p).sensed i.toNat t.toNat inj).setBit (ob 0xA001 0) 10 true).log 0xA002 .corrected 0xFF (packArg [(4, i.toNat), (16, t.toNat)])
      else (b.common p).sensed i.toNat t.toNat inj) = c') : Acts (.tempThrottle p i t inj) b (b.setCommon p c') :=
  acts (fun _ => rfl) ((if_neg (by simp [hreset, hsensor])).trans ((if_neg (by simp [hheats])).trans (congrArg (b.setCommon p) h)))

theorem tempThrottle_acts_of_hot (hhot : (b.common p).throttleC - (b.common p).cooler i.toNat ≤ tempOf t.toNat) (hfree : (b.common p).bit (ob 0xA001 0) 10 = false) :
    Acts (.tempThrottle p i t inj) b (b.setCommon p
      ((((b.common p).sensed i.toNat t.toNat inj).setBit (ob 0xA001 0) 10 true).log 0xA002 .corrected 0xFF (packArg [(4, i.toNat), (16, t.toNat)]))) :=
  tempThrottle_acts hreset hsensor hheats (if_pos (by simp [Common.reaches, hhot, hfree]))

theorem tempThrottle_acts_of_cool (h : tempOf t.toNat < (b.common p).throttleC - (b.common p).cooler i.toNat ∨ (b.common p).bit (ob 0xA001 0) 10 = true) :
    Acts (.tempThrottle p i t inj) b (b.setCommon p ((b.common p).sensed i.toNat t.toNat inj)) := by
  refine tempThrottle_acts hreset hsensor hheats (if_neg ?_)
  obtain hcool | hcapped := h
  · simp [reaches_of_lt hcool]
  · simp [hcapped]

theorem tempTrip_acts_of_cool (hcool : tempOf t.toNat < (b.common p).tripC - (b.common p).cooler i.toNat) :
    Acts (.tempTrip p i t inj) b (b.setCommon p ((b.common p).sensed i.toNat t.toNat inj)) := by
  rintro s rfl
  have htrips : (s.blk.common p).trips i.toNat t.toNat inj = false := by simp [Common.trips, reaches_of_lt hcool]
  refine congrArg Host.Outcome.next ((if_neg (Bool.eq_false_iff.1 htrips)).trans (congrArg (fun b : Block => ({ s with blk := b } : State)) ?_))
  exact (if_neg (by simp [hreset, hsensor])).trans ((if_neg (by simp [hheats])).trans (if_neg (Bool.eq_false_iff.1 htrips)))

end temperature

section release
variable {b : Block} {p : Part} (hreset : (b.common p).inReset = false) {temps : List (BitVec 16)}
include hreset

/-- A part that has taken every sensor's reading. -/
def Common.sensedAll (c : Common) (temps : List (BitVec 16)) : Common :=
  (List.range (min c.sensors temps.length)).foldl (fun c i => c.setFld (ob 0xA002 i) 0 16 (temps.getD i 0).toNat) c

theorem throttleRelease_acts {c' : Common}
    (h : (if (List.range (b.common p).sensors).all (fun i => decide (tempOf (((b.common p).sensedAll temps).fld (ob 0xA002 i) 0 16) + 50 ≤ (b.common p).throttleC - (b.common p).cooler i)) then
        ((b.common p).sensedAll temps).setBit (ob 0xA001 0) 10 false else (b.common p).sensedAll temps) = c') : Acts (.throttleRelease p temps) b (b.setCommon p c') :=
  acts (fun _ => rfl) ((if_neg (by simp [hreset])).trans (congrArg (b.setCommon p) h))

theorem throttleRelease_acts_of_cool
    (hcool : ∀ i, i < (b.common p).sensors → tempOf (((b.common p).sensedAll temps).fld (ob 0xA002 i) 0 16) + 50 ≤ (b.common p).throttleC - (b.common p).cooler i) :
    Acts (.throttleRelease p temps) b (b.setCommon p (((b.common p).sensedAll temps).setBit (ob 0xA001 0) 10 false)) :=
  throttleRelease_acts hreset (if_pos (by simpa using hcool))

theorem throttleRelease_acts_of_hot
    (hhot : ∃ i, i < (b.common p).sensors ∧ (b.common p).throttleC - (b.common p).cooler i < tempOf (((b.common p).sensedAll temps).fld (ob 0xA002 i) 0 16) + 50) :
    Acts (.throttleRelease p temps) b (b.setCommon p ((b.common p).sensedAll temps)) :=
  throttleRelease_acts hreset (if_neg (by simpa using hhot))

end release

/-! ### PLLs and LOAD_ANN -/

theorem pllUnlock_acts {b : Block} {p : Part} {which : BitVec 3} (hused : bitAt (locksUsed p) (which.toNat + 1) = true) :
    Acts (.pllUnlock p which) b (b.setCommon p (((b.common p).setBit (ob 0xA003 0) (which.toNat + 1) false).log 0xA005 .fatal 0xFF (packArg [(3, which.toNat)]))) :=
  acts (fun _ => rfl) (if_neg (by simp [hused]))

section ann
variable {b : Block} {e : Nat × Nat × Nat} {r : List (Nat × Nat × Nat)} (hwaits : b.ox.annPend = e :: r)
include hwaits

theorem announceEffect_acts (hreset : b.sw.inReset = false) (hlate : 3500 ≤ b.sw.since e.2.1) :
    Acts .announceEffect b { b with ox := { b.ox with annEffect := e.1, annBase := e.2.2, annPend := r } } := by
  refine acts (fun _ => rfl) ?_
  simp only [hwaits]
  exact if_neg (by simp [hreset, hlate])

theorem announceEffect_acts_of_early (hearly : b.sw.since e.2.1 < 3500) : Acts .announceEffect b b := by
  refine acts (fun _ => rfl) ?_
  simp only [hwaits]
  exact if_pos (by simp [hearly])

end ann

/-! ### Firmware and bring-up -/

section firmware
variable {b : Block} {p : Part}

theorem fwGo_acts {m : Master} (hw : (b.common p).writable m (ob 0xA005 0) = true) {c' : Common}
    (h : (let d := (b.common p).renew m; if d.fwState = 0 ∧ d.fld (ob 0xA005 0) 32 24 ≠ 0 then d.setFld (ob 0xA005 0) 0 2 1 else d) = c') :
    Acts (.fwGo p m) b (b.setCommon p c') := mgmtWrite_acts (fun _ => rfl) hw h

theorem fwCheckDone_acts (hreset : (b.common p).inReset = false) (hchecks : (b.common p).fwState = 1) (pass : Bool) (digest : BitVec 384) :
    Acts (.fwCheckDone p pass digest) b (b.setCommon p (if pass then ({ b.common p with fwDigest := digest } : Common).setFld (ob 0xA005 0) 0 2 2
      else ((b.common p).setFld (ob 0xA005 0) 0 2 0).log 0xA006 .uncorrected 0xFF (packArg [(24, (b.common p).fld (ob 0xA005 0) 32 24)]))) :=
  acts (fun _ => rfl) (if_neg (by simp [hreset, hchecks]))

end firmware

section bringup
variable {b : Block} {f : BitVec 104}

theorem bringupDone_acts_oe36 (hreset : b.ep.inReset = false) (hnew : b.ep.booted = false) (hfirmware : b.ep.fwState = 2) :
    Acts (.bringupDone .oe36 f) b (b.setCommon .oe36 (({ b.ep with booted := true } : Common).log 0xA007 .info 0xFF (packArg [(7, 0)]))) :=
  acts (fun _ => rfl) (if_neg (by simp [Block.common, hreset, hnew, hfirmware]))

/-- A switch fences the tiles that failed their test, and will claim. -/
theorem bringupDone_acts_ox720 (hreset : b.sw.inReset = false) (hnew : b.sw.booted = false) (hfirmware : b.sw.fwState = 2) :
    let bad := (List.range 104).filter (fun q => bitAt f.toNat q)
    let u := bad.foldl (fun s q => s.fenceTile q) b
    Acts (.bringupDone .ox720 f) b { u with
      sw := ({ u.sw with booted := true } : Common).log 0xA007 .info 0xFF (packArg [(7, bad.length)])
      ox := { u.ox with bridgeDownAt := some u.sw.stroke, claimDue := true } } := by
  intro bad u
  refine acts (fun _ => rfl) ((if_neg (by simp [Block.common, hreset, hnew, hfirmware])).trans ?_)
  have hstroke : (({ u.sw with booted := true } : Common).log 0xA007 .info 0xFF (packArg [(7, bad.length)])).stroke = u.sw.stroke := Common.log_stroke ..
  rw [← hstroke]
  rfl

end bringup

end Sys2Proof.Machine

namespace Sys2Proof
open Machine

/-- Settles O60: rails, readings by their limits, PLLs, LOAD_ANN, and the steps of the bring-up. -/
theorem powerAndBringUp : Obligations.PowerAndBringUp := by
  unfold Obligations.PowerAndBringUp
  intro b p c
  refine ⟨fun rail => ⟨fun hused hrail => ⟨railGood_acts hused hrail, railFault_acts hused hrail⟩, fun hunused => ⟨railGood_acts_of_unused hunused, railFault_acts_of_unused hunused⟩⟩,
    fun _ => ⟨railFault_acts_of_vopt b, railGood_acts_of_vopt b⟩, fun hreset i t inj hsensor => ?reading, fun hreset temps => ?release, fun which hused => pllUnlock_acts hused,
    fun e r hreset hwaits => ⟨announceEffect_acts hwaits hreset, announceEffect_acts_of_early hwaits⟩, fun m hw => ?go, fun hreset hchecks digest => ?check,
    fun hreset hnew hfirmware f => ⟨fun hp => ?endpoint, fun hp => ?switch⟩⟩
  case reading =>
    intro d limit
    have hlimit (x : Int) : limit x = x - c.cooler i.toNat := (sub_cooler c x i.toNat).symm
    refine ⟨fun hheats => ⟨fun hhot hfree => ?_, fun hcool => ?_, fun hcool => ?_⟩,
      fun hcold => ⟨tempThrottle_acts_of_undetected hreset hsensor hcold, tempTrip_acts_of_undetected hreset hsensor hcold⟩⟩
    · rw [hlimit] at hhot
      exact tempThrottle_acts_of_hot hreset hsensor hheats hhot hfree
    · rw [hlimit] at hcool
      exact tempThrottle_acts_of_cool hreset hsensor hheats hcool
    · rw [hlimit] at hcool
      exact tempTrip_acts_of_cool hreset hsensor hheats hcool
  case release =>
    intro d limit
    have hlimit (i : Nat) : limit i = c.throttleC - c.cooler i := (sub_cooler c c.throttleC i).symm
    simp only [hlimit]
    exact ⟨throttleRelease_acts_of_cool hreset, throttleRelease_acts_of_hot hreset⟩
  case go =>
    intro d
    refine ⟨fun hstate hlen => fwGo_acts hw (if_pos ⟨hstate, hlen⟩), fun h => fwGo_acts hw (if_neg fun hready => ?_)⟩
    exact h.elim (fun hstate => hstate hready.1) hready.2
  case check => exact ⟨fwCheckDone_acts hreset hchecks true digest, fwCheckDone_acts hreset hchecks false digest⟩
  case endpoint =>
    subst hp
    exact bringupDone_acts_oe36 hreset hnew hfirmware
  case switch =>
    subst hp
    exact bringupDone_acts_ox720 hreset hnew hfirmware

end Sys2Proof
end

section
/-!
PROOFS. Staging and CTRL_LOCK (17, R394, R401): what a write stages and leaves alone, when it is refused, and who owns the lock.
-/
namespace Sys2Proof.Machine

/-! ### The sorted map of shadows -/

theorem mem_insert_same (m : SMap Obj) (k : Nat) (v : Obj) : (k, v) ∈ SMap.insert m k v := by
  induction m with
  | nil => simp [SMap.insert]
  | cons e r ih =>
    unfold SMap.insert
    split
    · exact List.mem_cons_self
    · split
      · exact List.mem_cons_self
      · exact List.mem_cons_of_mem _ ih

theorem mem_insert_ne {m : SMap Obj} {j k : Nat} {x v : Obj} (h : j ≠ k) : (j, x) ∈ SMap.insert m k v ↔ (j, x) ∈ m := by
  induction m with
  | nil => simp [SMap.insert, h]
  | cons e r ih =>
    obtain ⟨a, w⟩ := e
    unfold SMap.insert
    split
    · simp [h]
    · split
      · next heq => simp [h, heq]
      · simp [ih]

theorem insert_length_of_new {m : SMap Obj} {k : Nat} {v : Obj} (h : ∀ x, (k, x) ∉ m) : (SMap.insert m k v).length = m.length + 1 := by
  induction m with
  | nil => rfl
  | cons e r ih =>
    obtain ⟨a, w⟩ := e
    have hne : a ≠ k := fun hk => h w (by simp [hk])
    unfold SMap.insert
    split
    · rfl
    · exact congrArg (· + 1) (ih fun x hx => h x (List.mem_cons_of_mem _ hx))

/-! ### What the immediate fields of a write do to staging -/

/-- COMMIT_CMD is no staged object. -/
theorem staged_ne_commit {p : Part} {key : Nat} {r : ObjRow} (hrow : findRow p key = some r) (hstaged : r.staged p = true) : key ≠ ob 0x2000 0 := by
  rintro rfl
  have hcommit : (findRow p (ob 0x2000 0)).any (fun r => r.staged p) = false := by cases p <;> decide
  rw [hrow, Option.any_some, hstaged] at hcommit
  exact absurd hcommit (by decide)

section immediate
variable (s : State) (p q : Part) (m : Master)

/-- The objects that a part's cox core has staged. -/
def State.shadowOf (s : State) (q : Part) : List (Nat × Obj) := (s.mg q).shadow

theorem shadowOf_modCommon (f : Common → Common) : (s.modCommon p f).shadowOf q = s.shadowOf q := by cases p <;> rfl
theorem shadowOf_on (f : Block → Block) : (s.on f).shadowOf q = s.shadowOf q := by cases q <;> rfl

theorem shadowOf_modMg {f : Mgmt → Mgmt} (h : ∀ g, (f g).shadow = g.shadow) : (s.modMg p f).shadowOf q = s.shadowOf q := by
  by_cases hq : q = p
  · subst hq
    rw [State.shadowOf, State.modMg_mg, h]
    rfl
  · rw [State.shadowOf, State.modMg_mg_ne _ _ _ _ hq]
    rfl

/-- No immediate field of a staged object stages anything, or discards what is. -/
theorem immediate_shadow {r : ObjRow} {key : Nat} (hkey : key ≠ ob 0x2000 0) (mask v : Obj) : (s.immediate p m r key mask v).shadowOf q = s.shadowOf q := by
  unfold State.immediate
  cases m <;> simp only [if_neg hkey, apply_ite (fun t : State => t.shadowOf q), shadowOf_on, shadowOf_modCommon, shadowOf_modMg, implies_true, ite_self]
  all_goals
    simp only [ite_eq_left_iff, ite_eq_right_iff]
    intros
    split <;> simp only [shadowOf_on]

end immediate

/-! ### What a write stages -/

section stage
variable (s : State) (p : Part) (r : ObjRow) (key : Nat) (mask v : Obj)

/-- What a write's bits start from: the shadow's, or the applied value's that are applied at catch; a clear mask starts from 0. -/
def State.stageBase : Obj := match (s.mg p).shadow.find? (fun e => e.1 == key) with
  | some e => e.2
  | none => (s.common p).reg key &&& r.catchMask p &&& ~~~ (if key = ob 0x9040 0 then BitVec.ofNat 128 65535 else 0 : Obj)

/-- The bits that a write leaves in the shadow. -/
def State.stageValue : Obj :=
  (s.stageBase p r key &&& ~~~ ((mask &&& r.stageMask p) &&& ~~~ (if key = ob 0x9040 0 then BitVec.ofNat 128 65535 else 0 : Obj))) ||| (v &&& (mask &&& r.stageMask p))

theorem shadowOf_stage : (s.stage p r key mask v).shadowOf p = SMap.insert (s.shadowOf p) key (s.stageValue p r key mask v) := by
  cases p <;> rfl

/-- The written bits are those of the write. -/
theorem stageValue_written (hkey : key ≠ ob 0x9040 0) : s.stageValue p r key mask v &&& (mask &&& r.stageMask p) = v &&& (mask &&& r.stageMask p) := by
  rw [State.stageValue, if_neg hkey]
  generalize mask &&& r.stageMask p = w
  ext i hi
  simp only [BitVec.getElem_and, BitVec.getElem_or, BitVec.getElem_not]
  cases (w[i]) <;> simp

end stage

section staging
variable {s : State} {p : Part} {key : Nat} {mask v : Obj} {r : ObjRow} (hrow : findRow p key = some r) (hstaged : r.staged p = true) (hmask : mask &&& r.catchMask p ≠ 0)

section mask
include hmask

theorem and_or_ne_zero (x : Obj) : mask &&& (r.catchMask p ||| x) ≠ 0 := by
  intro hzero
  refine hmask (BitVec.eq_of_getElem_eq fun i hi => ?_)
  have hbit := congrArg (fun y : Obj => y[i]) hzero
  simp only [BitVec.getElem_and, BitVec.getElem_or] at hbit ⊢
  cases hm : mask[i] <;> simp_all

include hstaged in
/-- A write of fields applied at catch is staged. -/
theorem staging_of_catch :
    (mask &&& r.stageMask p != 0 && !(mask &&& (r.catchMask p ||| r.immMask p) == 0 && r.flds.any (fun f => f.accIn p == .ro))) = true := by
  have hstage : mask &&& r.stageMask p ≠ 0 := by
    rw [ObjRow.stageMask, if_pos hstaged]
    exact and_or_ne_zero hmask _
  simp only [Bool.and_eq_true, bne_iff_ne, ne_eq, hstage, not_false_eq_true, true_and, Bool.not_eq_true', Bool.and_eq_false_iff, beq_eq_false_iff_ne]
  exact .inl (and_or_ne_zero hmask _)

end mask

/-- A write that the lease and the arbiter have noted. -/
def State.noted (s : State) (p : Part) (m : Master) (key : Nat) (mask v : Obj) : State :=
  (s.modCommon p (fun c => c.renew m)).modMg p (fun g => { g with lastWrite := some ((s.common p).stroke, masterCode m, key, mask.toNat, v.toNat) })

theorem noted_shadow (m : Master) (q : Part) : (s.noted p m key mask v).shadowOf q = s.shadowOf q := by
  unfold State.noted
  refine Eq.trans (shadowOf_modMg _ _ _ ?_) (shadowOf_modCommon ..)
  exact fun _ => rfl

theorem noted_stageValue (m : Master) : (s.noted p m key mask v).stageValue p r key mask v = s.stageValue p r key mask v := by
  have hreg : ((s.noted p m key mask v).common p).reg key = (s.common p).reg key := by
    cases p <;> exact renew_reg ..
  have hshadow : ((s.noted p m key mask v).mg p).shadow = (s.mg p).shadow := noted_shadow m p
  simp only [State.stageValue, State.stageBase, hreg, hshadow]

include hrow hstaged hmask

theorem writeApply_eq (m : Master) : s.writeApply p m key mask v = ((s.noted p m key mask v).stage p r key mask v).immediate p m r key mask v := by
  unfold State.writeApply
  simp only [hrow]
  rw [if_pos (staging_of_catch hstaged hmask)]
  rfl

/-- What is staged after the write, whichever master wrote. -/
theorem writeApply_shadow (m : Master) : (s.writeApply p m key mask v).shadowOf p = SMap.insert (s.shadowOf p) key (s.stageValue p r key mask v) := by
  rw [writeApply_eq hrow hstaged hmask, immediate_shadow _ _ _ _ (staged_ne_commit hrow hstaged), shadowOf_stage, noted_shadow, noted_stageValue]

/-! ### A full shadow set -/

omit hrow hstaged hmask in
theorem ite_ne_ok {c : Prop} [Decidable c] {a b : Nat} (ha : a ≠ hsOk) (hb : b ≠ hsOk) : (if c then a else b) ≠ hsOk := by split <;> assumption

section full
variable (m : Master) (hnew : ∀ x, (key, x) ∉ s.shadowOf p) (hfull : (s.shadowOf p).length = 8192)
include hnew hfull

omit hrow in
theorem stageFull : (mask &&& r.stageMask p != 0 && !(mask &&& (r.catchMask p ||| r.immMask p) == 0 && r.flds.any (fun f => f.accIn p == .ro))
    && !(s.mg p).shadow.any (fun e => e.1 == key) && decide (8192 ≤ (s.mg p).shadow.length)) = true := by
  have hany : (s.mg p).shadow.any (fun e => e.1 == key) = false :=
    List.any_eq_false.2 fun e he hk => hnew e.2 (by rw [← beq_iff_eq.1 hk]; exact he)
  have hlength : (s.mg p).shadow.length = 8192 := hfull
  simp only [staging_of_catch hstaged hmask, hany, hlength, Bool.not_false, Bool.and_self, Nat.le_refl, decide_true]

theorem writeStatus_of_full : s.writeStatus p m key mask v ≠ hsOk := by
  unfold State.writeStatus
  by_cases hserves : (s.common p).serves key = true
  · simp only [hserves, if_true, hrow]
    refine ite_ne_ok (by decide) (ite_ne_ok (by decide) (ite_ne_ok (by decide) ?_))
    rw [if_pos (stageFull hstaged hmask hnew hfull)]
    decide
  · simp only [hserves, Bool.false_eq_true, if_false]
    decide

theorem writeStatus_stageFull (hwritable : (s.common p).writable m key = true) (hclosed : (s.common p).commitOpen = false) (hwhole : r.splits p mask = false)
    (hfree : s.blk.imageHolds p key = false) : s.writeStatus p m key mask v = hsStageFull := by
  obtain ⟨hserves, hlocked⟩ := Bool.and_eq_true_iff.1 hwritable
  rw [Bool.not_eq_true'] at hlocked
  have hsome : ¬ (r.catchMask p ||| r.immMask p = 0 ∨ r.splits p mask = true ∨ s.blk.imageHolds p key = true) := by
    have hcatch : r.catchMask p ||| r.immMask p ≠ 0 := fun hzero => and_or_ne_zero hmask (r.immMask p) (by simp [hzero])
    simp only [hcatch, hwhole, hfree, Bool.false_eq_true, or_self, not_false_eq_true]
  unfold State.writeStatus
  simp only [hserves, if_true, hrow, hlocked, hclosed, Bool.false_and, Bool.false_eq_true, if_false, if_neg hsome]
  exact if_pos (stageFull hstaged hmask hnew hfull)

end full

/-! ### What a write of staged fields alone leaves -/

/-- Where the object has no immediate field only staging and the lease change. -/
theorem writeApply_of_no_immediate (himm : r.immMask p = 0) (m : Master) : s.writeApply p m key mask v = (s.noted p m key mask v).stage p r key mask v := by
  rw [writeApply_eq hrow hstaged hmask]
  unfold State.immediate
  exact if_pos (by simp [himm])

end staging

section stageFrame
variable (s : State) (p : Part) (m : Master) (r : ObjRow) (key : Nat) (mask v : Obj)

theorem stage_noted_reg (k : Nat) : (((s.noted p m key mask v).stage p r key mask v).common p).reg k = (s.common p).reg k := by
  cases p <;> exact renew_reg ..

theorem stage_noted_other {q : Part} (h : q ≠ p) :
    ((s.noted p m key mask v).stage p r key mask v).common q = s.common q ∧ ((s.noted p m key mask v).stage p r key mask v).mg q = s.mg q := by
  simp only [State.stage, State.noted, State.modCommon_common_ne _ _ _ _ h, State.modMg_common, State.modCommon_mg, State.modMg_mg_ne _ _ _ _ h, and_self]

theorem stage_noted_units : ((s.noted p m key mask v).stage p r key mask v).blk.oe = s.blk.oe ∧ ((s.noted p m key mask v).stage p r key mask v).blk.ox = s.blk.ox
    ∧ ((s.noted p m key mask v).stage p r key mask v).pending = s.pending := by
  cases p <;> exact ⟨rfl, rfl, rfl⟩

end stageFrame

/-! ### CTRL_LOCK -/

section lock
variable {s : State} {p : Part} {m : Master} (hserves : (s.common p).serves (ob 0x2000 0x10) = true)

theorem ownerAllows_iff (c : Common) (m : Master) (v : Nat) : c.ownerAllows m v = true ↔ (c.owner = 0 ∧ v = masterCode m) ∨ (c.owner = masterCode m ∧ v = 0) := by
  simp only [Common.ownerAllows, Bool.or_eq_true, Bool.and_eq_true, beq_iff_eq]
  exact or_congr and_comm and_comm

theorem renew_ownerWrite (c : Common) (m : Master) : (c.renew m).ownerWrite = if c.owner = masterCode m then c.stroke else c.ownerWrite := by
  simp only [Common.renew, beq_iff_eq]
  split <;> rfl

section owner
include hserves

/-- CTRL_LOCK is never locked itself. -/
theorem owner_writable : (s.common p).writable m (ob 0x2000 0x10) = true := by
  have hfree : (s.common p).locked m (ob 0x2000 0x10) = false := by simp [Common.locked, neverLocked]
  simp only [Common.writable, hserves, hfree, Bool.not_false, Bool.and_self]

theorem exec_owner_of_allowed {v : BitVec 2} (h : (s.common p).ownerAllows m v.toNat = true) :
    exec (.owner p m v) s = .next (s.modCommon p (fun _ => ((s.common p).renew m).takeOwner v.toNat 0)) := by
  refine congrArg Host.Outcome.next ((if_neg (by simp [h])).trans ((stateMgmtWrite_of_writable (owner_writable hserves) _).trans ?_))
  exact modCommon_twice ..

theorem exec_owner_of_refused {v : BitVec 2} (h : (s.common p).ownerAllows m v.toNat = false) :
    exec (.owner p m v) s = .next (s.modCommon p (fun _ => (s.common p).busError m (slotOffset (ob 0x2000 0x10)) 2)) :=
  congrArg Host.Outcome.next ((if_pos (by simp [h, hserves])).trans (modCommon_const ..))

/-- LOCK_LEASE by the time since the owner's last write. -/
theorem exec_lockLease : exec (.lockLease p) s = .next
    (if (s.common p).owner ≠ 0 ∧ (s.common p).fld (ob 0x2000 0x10) 2 16 * cclkMs ≤ (s.common p).since (s.common p).ownerWrite then s.modCommon p (fun c => c.takeOwner 0 1) else s) := by
  refine congrArg Host.Outcome.next ?_
  simp only [serves_up hserves, Bool.not_false, Bool.true_and, Bool.and_eq_true, bne_iff_ne, decide_eq_true_eq]

end owner

/-- The other master's writes of an object that the lock covers are refused. -/
theorem writeStatus_of_locked {key : Nat} {mask v : Obj} (hserves : (s.common p).serves key = true) (hrow : (findRow p key).isSome = true)
    (hlocked : (s.common p).locked m key = true) : s.writeStatus p m key mask v = hsLocked := by
  obtain ⟨r, hr⟩ := Option.isSome_iff_exists.1 hrow
  unfold State.writeStatus
  simp only [hserves, if_true, hr, hlocked]

include hserves in
/-- A write of OWNER that the rule does not allow is refused. -/
theorem writeStatus_of_owner {mask v : Obj} (hmask : bitsOf mask 0 1 = 1) (h : (s.common p).ownerAllows m (bitsOf v 0 2) = false) :
    s.writeStatus p m (ob 0x2000 0x10) mask v ≠ hsOk := by
  unfold State.writeStatus
  cases hrow : findRow p (ob 0x2000 0x10) with
  | none => simp only [hserves, if_true, ne_eq, hsNoObject, hsOk, one_ne_zero, not_false_eq_true]
  | some r =>
    simp only [hserves, if_true]
    refine ite_ne_ok (by decide) (ite_ne_ok (by decide) (ite_ne_ok (by decide) (ite_ne_ok (by decide) (ite_ne_ok (by decide) ?_))))
    rw [if_pos ⟨trivial, hmask, h⟩]
    decide

end lock

end Sys2Proof.Machine

namespace Sys2Proof
open Machine

/-- Settles O5: the bound by soundness; a write of catch fields inserts one entry, which a full set refuses; without an immediate field nothing applied changes. -/
theorem stagingIsBounded : Obligations.StagingIsBounded := by
  unfold Obligations.StagingIsBounded
  intro s hsound p
  have hpart {t : State} (ht : t.Sound) : (t.mg p).Sound p := by
    cases p
    · exact ht.1
    · exact ht.2
  obtain ⟨-, hsorted, -, -⟩ := hpart hsound
  refine ⟨fun t hstep => ?bound, fun m key mask v r hrow hstaged hmask => ?stage, fun m key mask v r hrow hstaged himm hmask _ => ?frame⟩
  case bound =>
    obtain ⟨hbound, -, -, -⟩ := hpart (step_keeps_sound hsound hstep)
    exact hbound
  case stage =>
    intro t w
    have hshadow (m : Master) : ((s.writeApply p m key mask v).mg p).shadow = SMap.insert (s.shadowOf p) key (s.stageValue p r key mask v) :=
      writeApply_shadow hrow hstaged hmask m
    simp only [t, hshadow]
    refine ⟨⟨⟨_, mem_insert_same .., stageValue_written s p r key mask v⟩, fun k x hk => mem_insert_ne hk⟩, fun hold => ?_, insert_length_of_new, fun _ => trivial,
      fun hnew hfull => ⟨?_, ?_, ?_⟩⟩
    · obtain ⟨x, hx⟩ := hold
      exact (insert_length _ key _).2 (List.any_eq_true.2 ⟨_, hx, beq_self_eq_true _⟩) hsorted
    · exact writeStatus_of_full hrow hstaged hmask m hnew hfull
    · exact writeObj_of_refused (writeStatus_of_full hrow hstaged hmask m hnew hfull)
    · exact writeStatus_stageFull hrow hstaged hmask m hnew hfull
  case frame =>
    intro t
    simp only [t, writeApply_of_no_immediate hrow hstaged hmask himm]
    exact ⟨stage_noted_reg s p m r key mask v, fun q hq => stage_noted_other s p m r key mask v hq, stage_noted_units s p m r key mask v⟩

/-- Settles O6: a write of OWNER by the rule of its owner, other writes by the lock, the lease by its time; a READ passes the lock. -/
theorem lockHasOneOwner : Obligations.LockHasOneOwner := by
  unfold Obligations.LockHasOneOwner
  intro s p m c k hserves take may
  have hmay (v : Nat) : may v ↔ c.ownerAllows m v = true := (ownerAllows_iff c m v).symm
  have hmay' (v : Nat) : ¬ may v ↔ c.ownerAllows m v = false := (not_congr (hmay v)).trans (Iff.of_eq (Bool.not_eq_true _))
  refine ⟨fun v => ⟨fun h => exec_owner_of_allowed hserves ((hmay _).1 h), fun h => exec_owner_of_refused hserves ((hmay' _).1 h)⟩,
    fun mask v hmask h => writeStatus_of_owner hserves hmask ((hmay' _).1 h), fun howned hother key mask v hkey hrow hk hmailbox hnext => ?locked,
    fun howned hlate => ?expired, fun howned hearly => ?held, renew_ownerWrite c m, fun hp howner htakers r htarget hcount hnew hobject hrow => ?read⟩
  case locked =>
    have hlocked : c.locked m key = true := by
      have hlockable : neverLocked key = false := by
        simp only [neverLocked, Bool.or_eq_false_iff, beq_eq_false_iff_ne, Bool.and_eq_false_iff, decide_eq_false_iff_not]
        exact ⟨⟨hk, not_and_or.1 hmailbox⟩, hnext⟩
      simp [Common.locked, howned, hother, hlockable]
    have hstatus := writeStatus_of_locked (mask := mask) (v := v) hkey hrow hlocked
    refine ⟨hstatus, (writeObj_of_refused ?_).trans (by rw [hstatus])⟩
    rw [hstatus]
    decide
  case expired => exact (exec_lockLease hserves).trans (congrArg Host.Outcome.next (if_pos ⟨howned, hlate⟩))
  case held => exact (exec_lockLease hserves).trans (congrArg Host.Outcome.next (if_neg fun h => absurd h.2 (Nat.not_le.2 hearly)))
  case read =>
    subst hp
    have hnamed : Named s .oe36 r := ⟨serves_up hserves, hnew, .inl ⟨rfl, htarget⟩⟩
    refine congrArg Host.Outcome.next ((hnamed.haothRead (by omega) (by omega) htakers fun i hi => ?_).trans ?_)
    · obtain rfl : i = 0 := by omega
      simp only [Nat.add_zero]
      exact ⟨hobject, hrow, r.sub.isLt⟩
    · rw [hcount]
      simp only [List.range_one, List.map_cons, List.map_nil, List.flatten_cons, List.flatten_nil, List.append_nil, Nat.add_zero]
      rfl

end Sys2Proof
end

section
/-!
PROOFS. The issuer keeps going (05, R90; 06, R123 to R125, R132, R133; 16, R366, R367): snoops, lost attempts, refused responses, NACK and REACH, channels that move.
-/
namespace Sys2Proof.Machine

section attempts
variable {b : Block} {x : Txn}

theorem resendLater_of_descriptor (h : x.owner ≠ .ls) (u : Block) : u.resendLater x = u := by
  unfold Block.resendLater
  split
  · rfl
  · exact if_pos (by simp [h])

theorem attemptLost_of_tries (h : x.tries < b.ep.retryMax) : b.attemptLost x = (b.resend x).resendLater x := if_pos h

theorem attemptLost_of_spent (h : b.ep.retryMax ≤ x.tries) : b.attemptLost x =
    ({ b with ep := (b.ep.count (ob 0x9031 1) 0 32 1).log 0x9007 .uncorrected 0xFF (packArg [(7, x.dst), (14, x.tag)]) } : Block).endTxn x stTimeout [] false 0 0 :=
  if_neg (Nat.not_lt.2 h)

variable (hreset : b.ep.inReset = false)
include hreset

theorem e2eTimeout_acts {tag : BitVec 14} (hx : b.oe.txns.find? (fun x => x.tag == tag.toNat) = some x) (hlate : b.ep.e2eTimeout ≤ b.ep.since x.sentAt) {b' : Block}
    (h : b.attemptLost x = b') : Acts (.e2eTimeout tag false) b b' := by
  refine acts (fun _ => rfl) ?_
  simp only [hx]
  exact (if_neg (by simp [hreset, hlate])).trans ((if_neg (by simp [detects_of_real])).trans h)

theorem quietTagRelease_acts (tag : BitVec 14) : Acts (.quietTagRelease tag) b
    { b with oe := { b.oe with quiet := b.oe.quiet.filter (fun q => !(q.1 == tag.toNat && decide (2 * b.ep.dedupLife ≤ b.ep.since q.2))) } } :=
  acts (fun _ => rfl) (if_neg (by simp [hreset]))

/-- A response, a snoop, NACK or REACH that checks 1 and 2 refuse is dropped with its credits. -/
theorem refused_acts {k : BitVec 4} {p : Packet} (hbad : classBad p (linkNets .oe36 k.toNat) = true) {i : Instr} {opc : Nat} (hopc : pOpc p = opc) {f : Block → Block}
    (hi : ∀ s, exec i s = s.act (fun b => b.atEp opc (.plane k) p f)) : Acts i b { b with ep := b.ep.refuseHere k.toNat p } :=
  acts hi (atEp_bad b k p hreset hbad opc f hopc)

end attempts

/-! ### Packets that the endpoint hears -/

section heard
variable {b : Block} {p : Packet}

theorem snoop_acts {via : Via} (hh : b.homeHears via p) {i : Instr} {opc : Nat} (hopc : pOpc p = opc) {share : Bool} (hi : ∀ s, exec i s = s.act (fun b => b.snoopIn opc share via p)) :
    Acts i b ((b.takeIn via p).modEp (fun c => c.emit (.ucieSnoop share (pSlot p) (pTag p) (pFpa p)))) :=
  acts hi (atEp_hears b opc via p _ hh hopc)

variable {k : BitVec 4} (hh : b.homeHears (.plane k) p)
include hh

theorem nack_acts (hopc : pOpc p = 0x18) {x : Txn} (hx : (b.takeIn (.plane k) p).oe.txns.find? (fun x => x.tag == pTag p) = some x) :
    let t := b.takeIn (.plane k) p
    let c := ((t.ep.count (ob 0xB203 0) 0 32 1).setBit (ob 0xB202 x.dst) k.toNat true).log 0x3042 .corrected 0xFF (packArg [(7, x.dst), (4, k.toNat)])
    Acts (.nack k p) b (({ t with ep := c, oe := { t.oe with nacks := t.oe.nacks.filter (fun x => x.1 == b.ep.stroke) ++ [(b.ep.stroke, x.dst, k.toNat)] } } : Block).planesChanged.attemptLost x) := by
  intro t c
  refine acts (fun _ => rfl) ((atEp_hears b 0x18 (.plane k) p _ hh hopc).trans ?_)
  simp only [show ((b.takeIn (.plane k) p).modEp (fun c => c.count (ob 0xB203 0) 0 32 1)).oe.txns.find? (fun x => x.tag == pTag p) = some x from hx]
  rfl

theorem reach_acts (hopc : pOpc p = 0x3A) :
    let t := b.takeIn (.plane k) p
    Acts (.reach k p) b ({ t with ep := t.ep.setBit (ob 0xB202 (bitsOf p.w1 0 7)) (bitsOf p.w1 8 4) (bitsOf p.w1 7 1 == 0 || b.oe.nacks.contains (b.ep.stroke, bitsOf p.w1 0 7, bitsOf p.w1 8 4)) } : Block).planesChanged :=
  acts (fun _ => rfl) (atEp_hears b 0x3A (.plane k) p _ hh hopc)

end heard

/-! ### Channels -/

section channels
variable {b : Block} {dst : BitVec 7} {ch : BitVec 4} {tenant : BitVec 8} {c : Chan} {old new : Nat}

theorem channelRepin_acts (hreset : b.ep.inReset = false) (hc : b.oe.chans.find? (fun c => c.dst == dst.toNat && c.ch == ch.toNat && c.tenant == tenant.toNat) = some c)
    (hstopped : c.stopped = true) (hidle : b.chanBusy c = false) (hpin : b.pinnedPlane c.dst c.ch c.tenant = some new) (hold : c.plane = some old) (hls : b.oe.ls = []) :
    let u := b.setChan { c with plane := some new, stopped := false, epoch := (c.epoch + 1) % 16, seq := 0 }
    Acts (.channelRepin dst ch tenant) b { u with ep := u.ep.count (ob 0xB203 1) 0 32 1 } := by
  intro u
  refine acts (fun _ => rfl) ?_
  simp only [hc, hpin]
  refine (if_neg (by simp [hreset, hstopped, hidle])).trans ((if_neg (by simp [hold])).trans (lsPump_nil _ ?_))
  exact (setChan_ls b _).trans hls

end channels

end Sys2Proof.Machine

namespace Sys2Proof
open Machine

/-- Settles O27: each packet or time limit by what the issuer does with the attempt, the plane or the channel. -/
theorem issuerKeepsGoing : Obligations.IssuerKeepsGoing := by
  unfold Obligations.IssuerKeepsGoing
  intro b hreset
  refine ⟨?snoops, fun tag x hx hlate => ⟨fun htries => e2eTimeout_acts hreset hx hlate (attemptLost_of_tries htries), fun hdesc => resendLater_of_descriptor hdesc _,
      fun hspent => e2eTimeout_acts hreset hx hlate (attemptLost_of_spent hspent)⟩,
    quietTagRelease_acts hreset, fun k p hbad => ?refused, fun k p hh => ⟨fun hopc x hx => nack_acts hh hopc hx, fun hopc => reach_acts hh hopc⟩,
    fun dst ch tenant c old new hc hstopped hidle hpin hold hls => channelRepin_acts hreset hc hstopped hidle hpin hold hls⟩
  case snoops => exact fun via p hh => ⟨fun hopc => snoop_acts hh hopc fun _ => rfl, fun hopc => snoop_acts hh hopc fun _ => rfl⟩
  case refused =>
    simp only [List.forall_mem_cons, List.not_mem_nil, false_imp_iff, implies_true, and_true]
    exact ⟨fun h => refused_acts hreset hbad h fun _ => rfl, fun h => refused_acts hreset hbad h fun _ => rfl, fun h => refused_acts hreset hbad h fun _ => rfl,
      fun h => refused_acts hreset hbad h fun _ => rfl, fun h => refused_acts hreset hbad h fun _ => rfl, fun h => refused_acts hreset hbad h fun _ => rfl,
      fun h => refused_acts hreset hbad h fun _ => rfl, fun h => refused_acts hreset hbad h fun _ => rfl⟩

end Sys2Proof
end

section
/-!
PROOFS. What leaves the frames of both parts alone: the writes of objects beyond COMMIT_STATUS, the fields that the frame does not read, and the state operations (17, R395; 14, R325).
-/
namespace Sys2Proof.Machine

/-! `2097154` is `ob 0x2000 2`, the object of COMMIT_STATUS, the one object that the frame reads. -/

theorem lt_ob {i : Nat} (s : Nat) (h : 0x2000 < i) : 2097154 < ob i s := by unfold ob; omega
theorem lt_qk {i : Nat} (q : Nat) (h : 0x2000 < i) : 2097154 < qk i q := lt_ob _ (by omega)
@[simp] theorem lt_ctrKey (q : Nat) : 2097154 < ctrKey q := lt_ob _ (by omega)
@[simp] theorem lt_regionKey (q : Nat) : 2097154 < regionKey q := lt_ob _ (by omega)

section common
variable (c : Common) {k i s q : Nat}

@[simp] theorem Common.frame_setReg_of_lt (h : 2097154 < k) (v : Obj) : (c.setReg k v).frame = c.frame := frame_setReg c (Nat.ne_of_gt h) v
@[simp] theorem Common.frame_setFld_of_lt (h : 2097154 < k) (lo w x : Nat) : (c.setFld k lo w x).frame = c.frame := frame_setReg_of_lt c h _
@[simp] theorem Common.frame_setBit_of_lt (h : 2097154 < k) (lo : Nat) (v : Bool) : (c.setBit k lo v).frame = c.frame := frame_setReg_of_lt c h _
@[simp] theorem Common.frame_count_of_lt (h : 2097154 < k) (lo w n : Nat) : (c.count k lo w n).frame = c.frame := frame_setReg_of_lt c h _
@[simp] theorem Common.frame_setReg_ob (h : 0x2000 < i) (v : Obj) : (c.setReg (ob i s) v).frame = c.frame := frame_setReg_of_lt c (lt_ob s h) v
@[simp] theorem Common.frame_setFld_ob (h : 0x2000 < i) (lo w x : Nat) : (c.setFld (ob i s) lo w x).frame = c.frame := frame_setReg_ob c h _
@[simp] theorem Common.frame_setBit_ob (h : 0x2000 < i) (lo : Nat) (v : Bool) : (c.setBit (ob i s) lo v).frame = c.frame := frame_setReg_ob c h _
@[simp] theorem Common.frame_count_ob (h : 0x2000 < i) (lo w n : Nat) : (c.count (ob i s) lo w n).frame = c.frame := frame_setReg_ob c h _
@[simp] theorem Common.frame_setReg_qk (h : 0x2000 < i) (v : Obj) : (c.setReg (qk i q) v).frame = c.frame := frame_setReg_of_lt c (lt_qk q h) v
@[simp] theorem Common.frame_setFld_qk (h : 0x2000 < i) (lo w x : Nat) : (c.setFld (qk i q) lo w x).frame = c.frame := frame_setReg_qk c h _

end common

@[simp] theorem Common.frame_setBusy (c : Common) (ctx : Nat) (b : Bool) : (c.setBusy ctx b).frame = c.frame :=
  Common.frame_setBit_of_lt c (lt_ob _ (by omega)) ..
@[simp] theorem Common.frame_setLaunchNo (c : Common) (ctx v : Nat) : (c.setLaunchNo ctx v).frame = c.frame :=
  Common.frame_setFld_of_lt c (lt_ob _ (by omega)) ..
@[simp] theorem Common.frame_ite {P : Prop} [Decidable P] (c d : Common) : (if P then c else d).frame = if P then c.frame else d.frame := apply_ite ..
@[simp] theorem Common.frame_foldl {α : Type} {g : Common → α → Common} {l : List α} (h : ∀ c x, (g c x).frame = c.frame) (c : Common) : (l.foldl g c).frame = c.frame := foldl_preserves h c

/-- The frames of both parts. -/
def Block.frame (b : Block) : Frame × Frame := (b.ep.frame, b.sw.frame)

section block
variable (b : Block)
@[simp] theorem Block.frame_ite {P : Prop} [Decidable P] (c d : Block) : (if P then c else d).frame = if P then c.frame else d.frame := apply_ite ..
theorem Block.ite_frame {P : Prop} [Decidable P] {c d : Block} (hc : c.frame = b.frame) (hd : d.frame = b.frame) : (if P then c else d).frame = b.frame := by
  rw [Block.frame_ite, hc, hd, ite_self]
@[simp] theorem Block.frame_foldl {α : Type} {g : Block → α → Block} {l : List α} (h : ∀ c x, (g c x).frame = c.frame) : (l.foldl g b).frame = b.frame := foldl_preserves h b
@[simp] theorem Block.frame_tick : b.tick.frame = b.frame := by simp only [Block.frame, Block.tick]
@[simp] theorem Block.frame_modOe (f : Oe → Oe) : (b.modOe f).frame = b.frame := by simp only [Block.frame, Block.modOe]
@[simp] theorem Block.frame_modOx (f : Ox → Ox) : (b.modOx f).frame = b.frame := by simp only [Block.frame, Block.modOx]
@[simp] theorem Block.frame_withOx (x : Ox) : Block.frame { b with ox := x } = b.frame := rfl
@[simp] theorem Block.frame_modEp {f : Common → Common} (h : ∀ c, (f c).frame = c.frame) : (b.modEp f).frame = b.frame := by
  simp only [Block.frame, Block.modEp, h]
@[simp] theorem Block.frame_modSw {f : Common → Common} (h : ∀ c, (f c).frame = c.frame) : (b.modSw f).frame = b.frame := by
  simp only [Block.frame, Block.modSw, h]
@[simp] theorem Block.frame_modCommon {p : Part} {f : Common → Common} (h : ∀ c, (f c).frame = c.frame) : (b.modCommon p f).frame = b.frame := by
  cases p
  · exact Block.frame_modEp b h
  · exact Block.frame_modSw b h
@[simp] theorem Block.frame_modLink (p : Part) (k : Nat) (f : Link → Link) : (b.modLink p k f).frame = b.frame := by simp [Block.modLink]
@[simp] theorem Block.frame_holdBack (p : Part) (k : Nat) : (b.holdBack p k).frame = b.frame := frame_modLink ..
end block

section fields
variable (c : Common)

@[simp] theorem Common.frame_withEvtMid (n : Nat) : Common.frame { c with evtMid := n } = c.frame := frame_of_fields c ⟨rfl, rfl, rfl, rfl⟩ rfl
@[simp] theorem Common.frame_withTxq (q : List (Nat × Packet)) : Common.frame { c with txq := q } = c.frame := frame_of_fields c ⟨rfl, rfl, rfl, rfl⟩ rfl
@[simp] theorem Common.frame_withRx (q : List (Nat × Packet)) : Common.frame { c with rx := q } = c.frame := frame_of_fields c ⟨rfl, rfl, rfl, rfl⟩ rfl
@[simp] theorem Common.frame_withRates (q : List Rate) : Common.frame { c with rates := q } = c.frame := frame_of_fields c ⟨rfl, rfl, rfl, rfl⟩ rfl
@[simp] theorem Common.frame_withCtlDue (q : List (Nat × Nat × Nat)) : Common.frame { c with ctlDue := q } = c.frame := frame_of_fields c ⟨rfl, rfl, rfl, rfl⟩ rfl
@[simp] theorem Common.frame_withDraw (sched dyn peak : Nat) : Common.frame { c with schedCur := sched, dynCur := dyn, vcorePeak := peak } = c.frame :=
  frame_of_fields c ⟨rfl, rfl, rfl, rfl⟩ rfl

end fields

end Sys2Proof.Machine
end

section
/-!
PROOFS. The switch's units leave the frames of both parts alone: its buffers, instances, engine and tiles (06; 09; 10).
-/
namespace Sys2Proof.Machine

variable (c : Common) (s : Block)

/-! ### Events, credits and pins -/

@[simp] theorem Common.frame_fcoDrive (old : Common) : (c.fcoDrive old).frame = c.frame := by simp [Common.fcoDrive]

@[simp] theorem Common.frame_evalAbove (ii occ : Nat) : (c.evalAbove ii occ).frame = c.frame := by simp [Common.evalAbove]

@[simp] theorem Block.frame_evalInst (ii : Nat) : (s.evalInst ii).frame = s.frame := by simp [Block.evalInst]

@[simp] theorem Common.frame_sendCredit (pp : Nat) : (c.sendCredit pp).frame = c.frame := by simp [Common.sendCredit]

@[simp] theorem Common.frame_freeCredits (pp net n : Nat) : (c.freeCredits pp net n).frame = c.frame := by simp [Common.freeCredits]

@[simp] theorem Block.frame_evalAll : s.evalAll.frame = s.frame := by simp [Block.evalAll]

@[simp] theorem Block.frame_evtSpill : s.evtSpill.frame = s.frame := by simp [Block.evtSpill]

@[simp] theorem Block.frame_hallScan : s.hallScan.frame = s.frame := by simp [Block.hallScan]

@[simp] theorem Block.frame_buffersEnd : s.buffersEnd.frame = s.frame := by simp [Block.buffersEnd]

@[simp] theorem Block.frame_combEnd : s.combEnd.frame = s.frame := by simp [Block.combEnd]

@[simp] theorem Block.frame_ssyncEnd : s.ssyncEnd.frame = s.frame := by simp [Block.ssyncEnd]

@[simp] theorem Block.frame_limit : s.limit.frame = s.frame := by
  simp only [Block.limit, Block.frame_ite]
  simp

/-! ### Cells, flights and what the switch's units send -/

@[simp] theorem Common.frame_queueTx (pp : Nat) (p : Packet) : (c.queueTx pp p).frame = c.frame := by simp [Common.queueTx]

@[simp] theorem Block.frame_inputCredits (i : Nat) (p : Packet) : (s.inputCredits i p).frame = s.frame := by
  unfold Block.inputCredits
  split <;> simp

@[simp] theorem Block.frame_crossCredits (i o : Nat) (p : Packet) : (s.crossCredits i o p).frame = s.frame := by
  unfold Block.crossCredits
  split <;> simp

@[simp] theorem Block.frame_settle (ii : Nat) : (s.settle ii).frame = s.frame := by simp [Block.settle]

@[simp] theorem Block.frame_instWrite (ii : Nat) (p : Packet) (arrived input : Nat) : (s.instWrite ii p arrived input).frame = s.frame := by simp [Block.instWrite]

@[simp] theorem Block.frame_handOn (i o k : Nat) (p : Packet) (c : Cell) : (s.handOn i o k p c).frame = s.frame := by simp [Block.handOn]

@[simp] theorem Block.frame_landFlights (sel : Flight → Bool) : (s.landFlights sel).frame = s.frame := by
  refine (Block.frame_foldl _ fun s f => ?_).trans (Block.frame_modOx ..)
  split
  · exact Block.frame_handOn ..
  · rfl

@[simp] theorem Block.frame_slotBegin : s.slotBegin.frame = s.frame := by simp [Block.slotBegin]

@[simp] theorem Block.frame_modSL (key : Nat) (f : SLaunch → SLaunch) : (s.modSL key f).frame = s.frame := by simp [Block.modSL]

theorem Block.frame_of_enqueueAll {t : Block} {i arrived entry : Nat} {outs : List (Nat × Packet)} {link : Bool} (h : s.enqueueAll i outs arrived link entry = some t) :
    t.frame = s.frame := by
  unfold Block.enqueueAll at h
  split at h
  · exact absurd h nofun
  · split at h
    · exact absurd h nofun
    · injection h with h
      rw [← h, Block.frame_modSw _ (by simp)]
      rfl

@[simp] theorem Block.frame_unitSendAll (i : Nat) (outs : List (Nat × Packet)) : (s.unitSendAll i outs).frame = s.frame := by
  unfold Block.unitSendAll
  split
  · rfl
  · split
    · simp
    · split
      next h => exact frame_of_enqueueAll s h
      next => simp

@[simp] theorem Block.frame_unitSend (i : Nat) (outs : List Nat) (p : Packet) : (s.unitSend i outs p).frame = s.frame := by simp [Block.unitSend]

@[simp] theorem Block.frame_sendHallPacket (g : Nat) (p : Packet) : (s.sendHallPacket g p).frame = s.frame := by
  unfold Block.sendHallPacket
  split <;> simp

@[simp] theorem Block.frame_sendHallBlock (g key : Nat) (r : ResBlk) (d : List Nat × Nat × Nat) : (s.sendHallBlock g key r d).frame = s.frame := by
  simp [Block.sendHallBlock]

@[simp] theorem Block.frame_sendSlots (port : Nat) (l : List (Nat × Packet)) : (s.sendSlots port l).frame = s.frame := by simp [Block.sendSlots]

@[simp] theorem Block.frame_sendResult (g key chunk : Nat) (bs : List ResBlk) : (s.sendResult g key chunk bs).frame = s.frame := by
  unfold Block.sendResult
  split
  · split
    · rfl
    · simp
  · rfl

@[simp] theorem Block.frame_pumpResults (g key fuel : Nat) : (s.pumpResults g key fuel).frame = s.frame := by
  induction fuel generalizing s with
  | zero => rfl
  | succ f ih =>
    simp only [Block.pumpResults]
    split <;> simp [ih]

@[simp] theorem Block.frame_mirrorLost : s.mirrorLost.frame = s.frame := by simp [Block.mirrorLost]

@[simp] theorem Block.frame_sendNack (p : Packet) : (s.sendNack p).frame = s.frame := by simp [Block.sendNack]

@[simp] theorem Block.frame_unlink (i o net k : Nat) : (s.unlink i o net k).frame = s.frame := by simp [Block.unlink]

@[simp] theorem Block.frame_portLost (slot : Nat) (unsent : List Packet) : (s.portLost slot unsent).frame = s.frame := by
  simp only [Block.portLost]
  refine (Block.frame_foldl _ fun s v => Block.frame_foldl _ fun s e => ?_).trans (by simp)
  split <;> simp

@[simp] theorem Block.frame_resendLost (slot : Nat) : (s.resendLost slot).frame = s.frame := by
  refine Block.frame_foldl _ fun s l => ?_
  split <;> simp

@[simp] theorem Block.frame_sendReach (slot : Nat) (up : Bool) : (s.sendReach slot up).frame = s.frame := by simp [Block.sendReach]

/-! ### The engine and the tiles -/

@[simp] theorem Block.frame_modEng (f : Engine → Engine) : (s.modEng f).frame = s.frame := by simp [Block.modEng]

@[simp] theorem Block.frame_engineKick : s.engineKick.frame = s.frame := by
  unfold Block.engineKick
  split <;> simp

@[simp] theorem Block.frame_hallLeave : s.hallLeave.frame = s.frame := by simp [Block.hallLeave]

@[simp] theorem Block.frame_hallReady : s.hallReady.frame = s.frame := by simp [Block.hallReady]

@[simp] theorem Block.frame_hallSort : s.hallSort.frame = s.frame := by simp [Block.hallSort]

@[simp] theorem Block.frame_withdraw (g : Nat) : (s.withdraw g).frame = s.frame := by
  refine (Block.frame_foldl _ fun s w => ?_).trans (by simp)
  split <;> simp

@[simp] theorem Block.frame_moveTile (l : Nat) : (s.moveTile l).frame = s.frame := by
  unfold Block.moveTile
  split <;> simp

@[simp] theorem Block.frame_moveTiles : s.moveTiles.frame = s.frame := by simp [Block.moveTiles]

@[simp] theorem Block.frame_signalsEnd : s.signalsEnd.frame = s.frame := by simp [Block.signalsEnd]

end Sys2Proof.Machine
end

section
/-!
PROOFS. The endpoint's units leave the frames of both parts alone: its requests, queues, descriptors and its home (05).
-/
namespace Sys2Proof.Machine

variable (c : Common) (s : Block)

/-! ### Requests and their ends -/

@[simp] theorem Block.frame_transmit (dst : Nat) (plane : Option Nat) (pkts : List Packet) : (s.transmit dst plane pkts).frame = s.frame := by
  unfold Block.transmit
  split
  · rfl
  · split <;> simp

@[simp] theorem Block.frame_resend (t : Txn) : (s.resend t).frame = s.frame := by simp [Block.resend]

@[simp] theorem Block.frame_resendLater (t : Txn) : (s.resendLater t).frame = s.frame := by
  simp only [Block.resendLater]
  split
  · rfl
  · refine ite_frame _ rfl (Block.frame_foldl _ fun s x => ?_)
    split
    · simp
    · split <;> simp

@[simp] theorem Block.frame_dropTxn (t : Txn) (timeout : Bool) : (s.dropTxn t timeout).frame = s.frame := by simp [Block.dropTxn]

@[simp] theorem Block.frame_setChan (c : Chan) : (s.setChan c).frame = s.frame := by simp [Block.setChan]

@[simp] theorem Block.frame_issueReq (rs : List ReqSpec) (plane : Option Nat) (owner : Owner) (ctx fva : Nat) : (s.issueReq rs plane owner ctx fva).frame = s.frame := by
  unfold Block.issueReq
  split <;> simp

@[simp] theorem Block.frame_memWrite (apa : Nat) (mask : BitVec 256) (data : List Byte) (poison : Bool) : (s.memWrite apa mask data poison).1.frame = s.frame := by
  simp [Block.memWrite]

@[simp] theorem Block.frame_memRead (apa len : Nat) : (s.memRead apa len).1.frame = s.frame := by simp [Block.memRead]

@[simp] theorem Block.frame_memPost (apa : Nat) (data : List Byte) : (s.memPost apa data).frame = s.frame := by simp [Block.memPost]

@[simp] theorem Block.frame_faultRecord (f : FaultRec) : (s.faultRecord f).frame = s.frame := by simp [Block.faultRecord]

/-! ### The accelerator's requests -/

@[simp] theorem Common.frame_answer (tag status : Nat) (data : List Byte) : (c.answer tag status data).frame = c.frame := by simp [Common.answer]

@[simp] theorem Block.frame_dropLs (tag : Nat) : (s.dropLs tag).frame = s.frame := by simp [Block.dropLs]

@[simp] theorem Block.frame_lsFail (r : LsReq) (cause level : Nat) (pte : BitVec 64) : (s.lsFail r cause level pte).frame = s.frame := by simp [Block.lsFail]

@[simp] theorem Block.frame_lsReject (kind tag : Nat) : (s.lsReject kind tag).frame = s.frame := by simp [Block.lsReject]

@[simp] theorem Block.frame_lsSent (tag : Nat) : (s.lsSent tag).frame = s.frame := by simp [Block.lsSent]

@[simp] theorem Block.frame_lsSend (tag : Nat) : (s.lsSend tag).frame = s.frame := by
  simp only [Block.lsSend]
  split
  · rfl
  · split
    · rfl
    · simp
    · refine ite_frame _ rfl (ite_frame _ (by simp) (ite_frame _ rfl (ite_frame _ ?_ (by simp))))
      rw [frame_dropLs]
      split <;> simp

@[simp] theorem Block.frame_microInstall (unit : Nat) (e : TlbEnt) : (s.microInstall unit e).frame = s.frame := by simp [Block.microInstall]

@[simp] theorem Block.frame_translate (unit ctx fva rights : Nat) (cl : Client) : (s.translate unit ctx fva rights cl).1.frame = s.frame := by
  simp only [Block.translate]
  split
  · rfl
  · split
    · simp
    · split
      · simp
      · simp only [apply_ite Prod.fst]
        simp

@[simp] theorem Block.frame_lsTranslate (tag : Nat) : (s.lsTranslate tag).frame = s.frame := by
  simp only [Block.lsTranslate]
  split
  · rfl
  · split
    · rfl
    · split <;> simp

@[simp] theorem Block.frame_lsPump : s.lsPump.frame = s.frame := by simp [Block.lsPump]

@[simp] theorem Block.frame_lsReturn : s.lsReturn.frame = s.frame := by
  refine Block.frame_foldl _ fun s r => ite_frame _ rfl ?_
  split <;> simp

@[simp] theorem Block.frame_lsRespond (t : Txn) (st : List Nat) (data : List Byte) : (s.lsRespond t st data).frame = s.frame := by
  unfold Block.lsRespond
  split <;> simp

/-! ### Queues and descriptors -/

@[simp] theorem Common.frame_violation (tenant cause access source region where_ whereBits : Nat) : (c.violation tenant cause access source region where_ whereBits).frame = c.frame := by
  simp only [Common.violation, Common.frame_ite, frame_log, Common.frame_withRates]
  simp

@[simp] theorem Common.frame_setQState (q v : Nat) : (c.setQState q v).frame = c.frame := by simp [Common.setQState]

@[simp] theorem Common.frame_setHead (q v : Nat) : (c.setHead q v).frame = c.frame := by simp [Common.setHead]

@[simp] theorem Common.frame_poisonConsumed (addr tenant : Nat) : (c.poisonConsumed addr tenant).frame = c.frame := by simp [Common.poisonConsumed]

@[simp] theorem Block.frame_ctrSignal (ctr tenant source n st : Nat) : (s.ctrSignal ctr tenant source n st).frame = s.frame := by simp [Block.ctrSignal]

@[simp] theorem Block.frame_modQueue (q : Nat) (f : Queue → Queue) : (s.modQueue q f).frame = s.frame := by simp [Block.modQueue]

@[simp] theorem Block.frame_modRun (q n : Nat) (f : Run → Run) : (s.modRun q n f).frame = s.frame := by simp [Block.modRun]

@[simp] theorem Block.frame_drainEnd (q : Nat) : (s.drainEnd q).frame = s.frame := by simp [Block.drainEnd]

@[simp] theorem Block.frame_forgetFetches (q : Nat) : (s.forgetFetches q).frame = s.frame := by simp [Block.forgetFetches]

@[simp] theorem Block.frame_haltAt (q n status detail : Nat) : (s.haltAt q n status detail).frame = s.frame := by simp [Block.haltAt]

@[simp] theorem Block.frame_launchOver (q n : Nat) : (s.launchOver q n).frame = s.frame := by
  unfold Block.launchOver
  split <;> simp

@[simp] theorem Block.frame_writeRecords (q : Nat) : (s.writeRecords q).frame = s.frame :=
  Block.frame_foldl _ fun s r => by simp

@[simp] theorem Block.frame_postRecord (q : Nat) (r : BitVec 128) : (s.postRecord q r).frame = s.frame := by simp [Block.postRecord]

@[simp] theorem Block.frame_completeDesc (q n : Nat) (ws : List (BitVec 64)) (status detail retries : Nat) : (s.completeDesc q n ws status detail retries).frame = s.frame := by
  simp [Block.completeDesc]

@[simp] theorem Block.frame_abortPump (q : Nat) : (s.abortPump q).frame = s.frame := by
  simp only [Block.abortPump]
  split
  · rfl
  · refine (ite_frame _ (frame_modQueue ..) rfl).trans (Block.frame_foldl _ fun s d => ?_)
    split <;> simp

@[simp] theorem Block.frame_descError (q n : Nat) (ws : List (BitVec 64)) (detail : Nat) : (s.descError q n ws detail).frame = s.frame := by simp [Block.descError]

@[simp] theorem Block.frame_headPump (q fuel : Nat) : (s.headPump q fuel).frame = s.frame := by
  induction fuel generalizing s with
  | zero => rfl
  | succ k ih =>
    refine ite_frame _ rfl ?_
    split
    · split
      · rfl
      · refine ite_frame _ (by simp [ih]) (ite_frame _ rfl ?_)
        split <;> simp [ih]
    · rfl

@[simp] theorem Block.frame_startLaunch (r : Run) : (s.startLaunch r).frame = s.frame := by simp [Block.startLaunch]

@[simp] theorem Block.frame_startRun (r : Run) : (s.startRun r).frame = s.frame := by
  unfold Block.startRun
  split
  · simp
  · split <;> simp

@[simp] theorem Block.frame_runTranslate (q n fuel : Nat) : (s.runTranslate q n fuel).frame = s.frame := by
  induction fuel generalizing s with
  | zero => rfl
  | succ k ih =>
    simp only [Block.runTranslate]
    split
    · rfl
    · split
      · rfl
      · split
        · rfl
        · split <;> simp
        · split
          · simp
          · split <;> simp [ih]

@[simp] theorem Block.frame_recordPassed (r : Run) (gs : List (Bool × Nat × Nat × Nat)) (f : Run → Run) : (s.recordPassed r gs f).frame = s.frame := by
  simp [Block.recordPassed]

@[simp] theorem Block.frame_runError (r : Run) (detail : Nat) : (s.runError r detail).frame = s.frame := by simp [Block.runError]

@[simp] theorem Block.frame_batchRead (r : Run) (list : List Byte) : (s.batchRead r list).frame = s.frame := by simp [Block.batchRead]

@[simp] theorem Block.frame_extRead (r : Run) (ext : List Byte) : (s.extRead r ext).frame = s.frame := by
  simp only [Block.extRead]
  split <;> simp

@[simp] theorem Block.frame_headerRead (r : Run) (h : List Byte) : (s.headerRead r h).frame = s.frame := by simp [Block.headerRead]

@[simp] theorem Block.frame_recordDone (q n : Nat) : (s.recordDone q n).frame = s.frame := by
  simp only [Block.recordDone]
  split
  · rfl
  · refine ite_frame _ (ite_frame _ (by simp) ?_) rfl
    split <;> simp

@[simp] theorem Block.frame_bytesMoved (t : Txn) (st : Nat) : (s.bytesMoved t st).frame = s.frame := by
  unfold Block.bytesMoved
  split
  · split <;> simp
  · rfl

/-! ### The end of a transaction and the loss of a plane -/

@[simp] theorem Block.frame_endTxn (t : Txn) (st : Nat) (data : List Byte) (poison : Bool) (old : BitVec 64) (grant : Nat) : (s.endTxn t st data poison old grant).frame = s.frame := by
  simp only [Block.endTxn]
  split
  · simp
  · split <;> simp

@[simp] theorem Block.frame_timeoutTxn (t : Txn) : (s.timeoutTxn t).frame = s.frame := by simp [Block.timeoutTxn]

@[simp] theorem Block.frame_attemptLost (t : Txn) : (s.attemptLost t).frame = s.frame := by simp [Block.attemptLost]

@[simp] theorem Block.frame_forgetChans : s.forgetChans.frame = s.frame := by simp [Block.forgetChans]

@[simp] theorem Block.frame_repinScan : s.repinScan.frame = s.frame :=
  Block.frame_foldl _ fun s c => by simp

@[simp] theorem Block.frame_planesChanged : s.planesChanged.frame = s.frame := by simp [Block.planesChanged]

@[simp] theorem Block.frame_planeLost (k ownCause farCause : Nat) : (s.planeLost k ownCause farCause).frame = s.frame := by simp [Block.planeLost]

@[simp] theorem Block.frame_injScan : s.injScan.frame = s.frame := by simp [Block.injScan]

/-! ### The home -/

@[simp] theorem Block.frame_setDir (line st vec : Nat) : (s.setDir line st vec).frame = s.frame := by simp [Block.setDir]

@[simp] theorem Block.frame_dirAfter (p : Packet) : (s.dirAfter p).1.frame = s.frame := by
  simp only [Block.dirAfter]
  split
  case h_1 =>
    split
    · simp
    · split <;> simp
  case h_4 => split <;> simp
  case h_5 => split <;> simp
  all_goals simp

@[simp] theorem Block.frame_respond (dst : Nat) (p : Packet) : (s.respond dst p).frame = s.frame := by simp [Block.respond]

@[simp] theorem Block.frame_respond15 (dst tenant : Nat) (p : Packet) : (s.respond15 dst tenant p).frame = s.frame := by simp [Block.respond15]

@[simp] theorem Block.frame_answerReq (p : Packet) (status : Nat) (data : List Byte) (poison : Bool) (old grant : Nat) : (s.answerReq p status data poison old grant).frame = s.frame := by
  unfold Block.answerReq
  split <;> simp

@[simp] theorem Block.frame_dedupWrite (p : Packet) (poison : Bool) (old : Nat) : (s.dedupWrite p poison old).frame = s.frame := by simp [Block.dedupWrite]

@[simp] theorem Block.frame_dropOp (seq : Nat) : (s.dropOp seq).frame = s.frame := by simp [Block.dropOp]

@[simp] theorem Block.frame_modOp (seq : Nat) (f : HomeOp → HomeOp) : (s.modOp seq f).frame = s.frame := by simp [Block.modOp]

@[simp] theorem Block.frame_finishOp (h : HomeOp) (status : Nat) (data : List Byte) (poison : Bool) (old grant : Nat) : (s.finishOp h status data poison old grant).frame = s.frame := by
  simp [Block.finishOp]

@[simp] theorem Block.frame_access (h : HomeOp) : (s.access h).frame = s.frame := by
  simp only [Block.access]
  split
  case h_11 => split <;> simp
  all_goals simp

@[simp] theorem Block.frame_snoop (op : Option Nat) (inv : Bool) (line member : Nat) : (s.snoop op inv line member).frame = s.frame := by simp [Block.snoop]

@[simp] theorem Block.frame_snoopAll (op : Option Nat) (inv : Bool) (line : Nat) (ms : List Nat) : (s.snoopAll op inv line ms).frame = s.frame := by
  simp [Block.snoopAll]

@[simp] theorem Block.frame_recall (h : HomeOp) : (s.recall h).frame = s.frame := by
  simp only [Block.recall]
  split <;> simp

@[simp] theorem Block.frame_applyComplete (p : Packet) : (s.applyComplete p).frame = s.frame := by
  unfold Block.applyComplete
  split <;> simp

@[simp] theorem Block.frame_ctrAdd (ctr tenant source n : Nat) : (s.ctrAdd ctr tenant source n).frame = s.frame := by simp [Block.ctrAdd]

@[simp] theorem Block.frame_refuseOp (h : HomeOp) (cause : Nat) : (s.refuseOp h cause).frame = s.frame := by simp [Block.refuseOp]

@[simp] theorem Block.frame_startOp (h : HomeOp) : (s.startOp h).frame = s.frame := by
  simp only [Block.startOp]
  split
  · simp
  · refine ite_frame _ (by simp) (ite_frame _ (by simp) ?_)
    split <;> simp

@[simp] theorem Block.frame_homePump : s.homePump.frame = s.frame := by
  refine Block.frame_foldl _ fun s q => ?_
  split <;> simp

@[simp] theorem Block.frame_accept (h : HomeOp) : (s.accept h).frame = s.frame := by simp [Block.accept]

@[simp] theorem Block.frame_setHChan (p : Packet) (epoch expect : Nat) : (s.setHChan p epoch expect).frame = s.frame := by simp [Block.setHChan]

@[simp] theorem Block.frame_release (p : Packet) (fuel : Nat) : (s.release p fuel).frame = s.frame := by
  induction fuel generalizing s with
  | zero => rfl
  | succ k ih =>
    simp only [Block.release]
    split
    · rfl
    · split <;> simp [ih]

@[simp] theorem Block.frame_sequence (h : HomeOp) : (s.sequence h).frame = s.frame := by
  simp only [Block.sequence]
  split
  · simp
  · split <;> simp

@[simp] theorem Block.frame_letIn (h : HomeOp) : (s.letIn h).frame = s.frame := by simp [Block.letIn]

@[simp] theorem Block.frame_takeLate : s.takeLate.frame = s.frame := by simp [Block.takeLate]

end Sys2Proof.Machine
end

section
/-!
PROOFS. The links of both parts leave the frames alone (12).
-/
namespace Sys2Proof.Machine

variable (c : Common) (s : Block)

/-! ### The state of a link -/

@[simp] theorem Common.frame_setLstate (pp v : Nat) : (c.setLstate pp v).frame = c.frame := by simp [Common.setLstate]

@[simp] theorem Common.frame_setHstate (k v : Nat) : (c.setHstate k v).frame = c.frame := by simp [Common.setHstate]

@[simp] theorem Common.frame_setSteered (k pos : Nat) (b : Bool) : (c.setSteered k pos b).frame = c.frame := by simp [Common.setSteered]

@[simp] theorem Common.frame_dropLink (pp cause : Nat) : (c.dropLink pp cause).frame = c.frame := by
  simp only [Common.dropLink, frame_log]
  simp

@[simp] theorem Block.frame_dockEnd (p : Part) (pp : Nat) : (s.dockEnd p pp).frame = s.frame := by simp [Block.dockEnd]

@[simp] theorem Block.frame_dockStart (p : Part) (pp : Nat) : (s.dockStart p pp).frame = s.frame := by simp [Block.dockStart]

@[simp] theorem Block.frame_toDetect (p : Part) (pp : Nat) : (s.toDetect p pp).frame = s.frame := by simp [Block.toDetect]

@[simp] theorem Block.frame_ergoEnd (p : Part) (pp mode bits errors : Nat) : (s.ergoEnd p pp mode bits errors).frame = s.frame := by simp [Block.ergoEnd]

@[simp] theorem Block.frame_fenceColl : s.fenceColl.frame = s.frame := by simp [Block.fenceColl]

@[simp] theorem Block.frame_modHport (k : Nat) (f : HPort → HPort) : (s.modHport k f).frame = s.frame := by simp [Block.modHport]

@[simp] theorem Block.frame_keepSession (k : Nat) : (s.keepSession k).frame = s.frame := by simp [Block.keepSession]

@[simp] theorem Block.frame_useProfile (k : Nat) : (s.useProfile k).frame = s.frame := by simp [Block.useProfile]

@[simp] theorem Block.frame_toNoLink (k : Nat) : (s.toNoLink k).frame = s.frame := by simp [Block.toNoLink]

/-! ### A link that leaves ACTIVE, and what a catch does to it -/

@[simp] theorem Block.frame_leaveActive (p : Part) (pp cause : Nat) : (s.leaveActive p pp cause).frame = s.frame := by
  simp only [Block.leaveActive]
  split
  · rfl
  · split <;> simp

@[simp] theorem Block.frame_ergoStart (p : Part) (pp : Nat) : (s.ergoStart p pp).frame = s.frame := by simp [Block.ergoStart]

@[simp] theorem Block.frame_relaunch (p : Part) (pp : Nat) : (s.relaunch p pp).frame = s.frame := by simp [Block.relaunch]

@[simp] theorem Block.frame_linkCaught (p : Part) (pp old x : Nat) : (s.linkCaught p pp old x).frame = s.frame := by simp [Block.linkCaught]

@[simp] theorem Block.frame_ctlEnd (p : Part) : (s.ctlEnd p).frame = s.frame :=
  (Block.frame_foldl _ fun s e => Block.frame_linkCaught ..).trans (by simp)

/-! ### Lane swaps -/

@[simp] theorem Block.frame_beginSwap (p : Part) (pp g : Nat) (lost : Bool) : (s.beginSwap p pp g lost).frame = s.frame := by
  unfold Block.beginSwap
  split <;> simp

@[simp] theorem Block.frame_swapsAsked (p : Part) (pp : Nat) : (s.swapsAsked p pp).frame = s.frame := by simp [Block.swapsAsked]

@[simp] theorem Block.frame_linksEnd (p : Part) : (s.linksEnd p).frame = s.frame := by simp [Block.linksEnd]

end Sys2Proof.Machine
end

section
/-!
PROOFS. The reset state, and what an idle CCLK does to the stroke counts (18, R417; 14, R34).
-/
namespace Sys2Proof.Machine

section part
variable {b : Block} {p : Part}

theorem Block.common_frame {b b' : Block} (h : b'.frame = b.frame) (p : Part) : (b'.common p).frame = (b.common p).frame := by
  obtain ⟨hep, hsw⟩ := Prod.mk.inj h
  cases p
  · exact hep
  · exact hsw

/-- The frame of a part after one CCLK: the next stroke count where the part runs and is not in reset. -/
def Common.nextFrame (c : Common) : Frame :=
  (c.inReset, c.running, if c.inReset || !c.running then c.stroke else (c.stroke + 1) % 2 ^ 48, c.resetPending, c.commitState)

theorem nextFrame_congr {c d : Common} (h : d.frame = c.frame) : d.nextFrame = c.nextFrame := by
  simp only [Common.frame, Prod.mk.injEq] at h
  obtain ⟨hreset, hrunning, hstroke, hpending, hstate⟩ := h
  simp only [Common.nextFrame, hreset, hrunning, hstroke, hpending, hstate]

theorem Common.frame_withStroke (c : Common) (n : Nat) : Common.frame { c with stroke := n } = (c.inReset, c.running, n, c.resetPending, c.commitState) := rfl

/-- The counters of its strokes touch nothing of a part's frame. -/
theorem Block.frame_cclkPart_same (b : Block) (p : Part) : ((b.cclkPart p).common p).frame = (b.common p).nextFrame := by
  unfold Block.cclkPart
  extract_lets hold rec_ plus
  rw [Block.modCommon_common, Common.nextFrame]
  split
  · rfl
  · extract_lets retry c1 c4
    have hplus (c : Common) (q : Bool) (i : Nat) : (plus c q i).frame = c.frame := by simp [plus]
    have hcounted : c4.frame = c1.frame := by simp only [c4, hplus]
    simp [hcounted, c1, Common.frame_withStroke]

theorem Block.cclkPart_common_ne {q : Part} (h : q ≠ p) : (b.cclkPart p).common q = b.common q := Block.modCommon_common_ne _ _ _ _ h

theorem Block.frame_cclkEnd_common (b : Block) (p : Part) : (b.cclkEnd.common p).frame = (b.common p).nextFrame := by
  have hunits : (((((b.linksEnd .oe36).linksEnd .ox720).ctlEnd .oe36).ctlEnd .ox720).combEnd.ssyncEnd.signalsEnd.buffersEnd.injScan).frame = b.frame := by simp
  rw [← nextFrame_congr (Block.common_frame hunits p)]
  dsimp only [Block.cclkEnd]
  cases p
  · rw [Block.cclkPart_common_ne (by decide), Block.frame_cclkPart_same]
  · rw [Block.frame_cclkPart_same, Block.cclkPart_common_ne (by decide)]

theorem nextFrame_commitState (c : Common) : c.nextFrame.2.2.2.2 = c.commitState := rfl

theorem nextFrame_stroke {c : Common} (hrunning : c.running = true) (hreset : c.inReset = false) : c.nextFrame.2.2.1 = (c.stroke + 1) % 2 ^ 48 := by
  simp [Common.nextFrame, hrunning, hreset]

end part

section idle
variable {s : State}

theorem catchNow_of_not_armed {p : Part} (h : (s.common p).commitState ≠ csArmed) : s.catchNow p = s := if_neg (by simp [h])

theorem commitState_cclkEnd (p : Part) : ((s.on Block.cclkEnd).common p).commitState = (s.common p).commitState :=
  (congrArg (fun f => f.2.2.2.2) (Block.frame_cclkEnd_common s.blk p)).trans (nextFrame_commitState _)

variable (hep : (s.common .oe36).commitState ≠ csArmed) (hsw : (s.common .ox720).commitState ≠ csArmed)
include hep hsw

/-- With no commit armed an idle CCLK is its end and its beginning; neither arms one. -/
theorem cclk_of_not_armed : s.cclk = (s.on Block.cclkEnd).on Block.cclkBegin := by
  have hend {p : Part} (h : (s.common p).commitState ≠ csArmed) : (s.on Block.cclkEnd).catchNow p = s.on Block.cclkEnd :=
    catchNow_of_not_armed ((commitState_cclkEnd p).trans_ne h)
  unfold State.cclk
  rw [catchNow_of_not_armed hep, catchNow_of_not_armed hsw]
  exact congrArg (State.on · Block.cclkBegin) ((congrArg (State.catchNow · .ox720) (hend hep)).trans (hend hsw))

theorem cclk_stroke {p : Part} (hrunning : (s.common p).running = true) (hreset : (s.common p).inReset = false) :
    (s.cclk.common p).stroke = ((s.common p).stroke + 1) % 2 ^ 48 := by
  have hbegin : s.blk.cclkEnd.cclkBegin.frame = s.blk.cclkEnd.frame := by simp [Block.cclkBegin]
  rw [cclk_of_not_armed hep hsw]
  exact (congrArg (fun f => f.2.2.1) ((Block.common_frame hbegin p).trans (Block.frame_cclkEnd_common s.blk p))).trans (nextFrame_stroke hrunning hreset)

end idle

end Sys2Proof.Machine

namespace Sys2Proof
open Machine

/-- Settles O3: no unit that the end or the beginning of a CCLK runs touches a part's frame, so that with no commit armed only the stroke counts of the parts that run go on. -/
theorem resetState : Obligations.ResetState := by
  refine ⟨?sound, rfl, rfl, rfl, fun p k => ?reg, fun p => ?part, by decide +kernel, by decide +kernel, fun s h => ?idle, fun s p hep hsw hrunning hreset => cclk_stroke hep hsw hrunning hreset⟩
  case sound =>
    have hempty (p : Part) : Mgmt.Sound p {} := ⟨Nat.zero_le _, .nil, nofun, Nat.zero_le _⟩
    exact ⟨hempty _, hempty _⟩
  case reg => cases p <;> rfl
  case part => cases p <;> exact ⟨rfl, rfl, rfl, rfl⟩
  case idle => rw [step, h]

end Sys2Proof
end
